-- ==== Sys2Proof/Word.lean ====
section
/-! DEFINITION. The plainest data of the FQ16 block: bytes, object slots, byte strings. -/

namespace Sys2Proof

/-- One byte. -/
abbrev Byte := BitVec 8

/-- One 8-byte object slot (R72): the contents of a dictionary object, little-endian in its lowest bytes (R67). -/
abbrev Slot := BitVec 64

/-- A byte string, byte 0 first (the OCTETS type of Table 3-2, and every frame, letter or record body). -/
abbrev Bytes := List (BitVec 8)

/-- A seam flit, 64 bits (chapter 08, The seam link). -/
abbrev Flit := BitVec 64

/-- An access path of the object dictionary (R43, R75): the host's BAR0, or one ring source address. -/
inductive Path where
  | bar0
  | ring (src : Nat)
  deriving DecidableEq, Repr

/-- The key under which a path's latches are held: 0 for BAR0, 1 + source address for a ring peer. -/
def Path.idx : Path → Nat
  | .bar0 => 0
  | .ring src => src + 1

end Sys2Proof
end

