-- ==== Sys2Proof/Syntax.lean ====
section
/-! DEFINITION. The commands of the FQ16 block: one constructor per row of spec/opcode_table.json, with the operands that the
row's rule names.
Conventions of the model: DEDUCED: log 23. -/

namespace Sys2Proof

/-- An object request (Table 3-6) as it arrives: the port, the source address and the fields of its body. -/
structure ObjRequest where
  port : Nat := 0
  src : Nat
  size : Nat
  index : Nat
  sub : Nat
  tag : Nat
  data : Nat := 0
  deriving DecidableEq, Repr

/-- The mode changes of Table 8-9, less the safe release, which is a command of its own. -/
inductive ModeChange where
  | legEnable (leg : Nat) (on : Bool)
  | laneSelect (lane : Nat) (inService : Bool)
  | segmentMap (leg output spare segment : Nat)
  deriving DecidableEq, Repr

/-- Body of a leg-measurement flit (Table 8-9): local leg, edge kind (0 GH on, 1 GH off, 2 GL on, 3 GL off), code used, switching
time and delay in 1/4 ns (a switching time of 0: no transition measured), whether SWL moved up, and once per period the
bootstrap voltage in 10 mV. -/
structure LegMeasure where
  leg : Nat
  kind : Nat
  code : Nat
  tsw : Nat
  delay : Nat
  up : Bool
  vbst : Option Nat
  deriving DecidableEq, Repr

/-- The kinds of a protection report (Table 8-9, R45, R254, R239, R197). -/
inductive ReportKind where
  | trip (leg : Nat) (hs : Bool)
  | incidentClose
  | lateEdge (leg : Nat)
  | incompleteSet (c : Nat)
  | uvlo (leg : Nat)
  | clamp
  deriving DecidableEq, Repr

/-- A cell that a March C− run marked: sub-array, row (256 to 259 the spare rows) and bit line (2,304 to 2,307 the spare bit lines),
R298. -/
structure MarkedCell where
  sub : Nat
  row : Nat
  line : Nat
  deriving DecidableEq, Repr

/-- What resets configuration space and the queue objects (R350). -/
inductive LinkReset where
  | functionLevel
  | hotReset
  | linkDown
  | surpriseRemoval
  deriving DecidableEq, Repr

/-- Data-set comparison fields of an Announce (R391, IEEE 1588-2019). -/
structure AnnounceData where
  priority1 : Nat
  clockClass : Nat
  accuracy : Nat
  variance : Nat
  priority2 : Nat
  identity : Nat
  steps : Nat
  deriving DecidableEq, Repr

/-- The PMBus commands that the master issues (R54). -/
inductive PmbCommand where
  | voutMode
  | voutCommand
  | readVout
  | statusWord
  | clearFaults
  deriving DecidableEq, Repr

/-- What the ring oscillators show for one fray sample (RO_WEAR of Table 15-2): per slice and per quarter die. The other measures follow
from the state. -/
structure FrayMeasures where
  roSlice : List Nat
  roQuarter : List Nat
  deriving DecidableEq, Repr

/-- The failures of Table 16-4 that a start-up step can meet. -/
inductive StartFail where
  | none
  | bank (b : Nat)
  | fuse
  | postmaster
  | seam (q : Nat)
  deriving DecidableEq, Repr

/-- The items of a configuration write that act on the mailbag (R349). -/
inductive ConfigItem where
  | busMaster (on : Bool)
  | d3hot (on : Bool)
  | msixEnable (on : Bool)
  | msixMask (on : Bool)
  | maxPayload (bytes : Nat)
  deriving DecidableEq, Repr

/-- A write of one MSI-X table entry: address, data and the mask bit of its vector control. -/
structure MsixEntry where
  addr : Nat
  data : Nat
  masked : Bool
  deriving DecidableEq, Repr

/-- The commands, in the order of the opcode table. -/
inductive Instr where
  /-- BAR0_READ (R74): byte offset in BAR0 (peek alias from 0x0800_0000) and length, R74. -/
  | bar0Read (ofs : Nat) (len : Nat)
  /-- BAR0_WRITE (R74): byte offset in BAR0 and the TLP bytes, R74. -/
  | bar0Write (ofs : Nat) (data : Bytes)
  /-- OBJECT_WRITE (R84): whole-object write: key = index*256 + subindex, value, R84. -/
  | objectWrite (path : Path) (key : Nat) (value : Nat)
  /-- NT_READ (R43): read of 0x1200:01, R43. -/
  | ntRead (path : Path)
  /-- CMD_POS_READ (R105): read of CMD_POS of axis n, R105. -/
  | cmdPosRead (path : Path) (n : Nat)
  /-- ENC_CNT_READ (R267): read of ENC_CNT of axis n, R267. -/
  | encCntRead (path : Path) (n : Nat)
  /-- LATCH_NT_READ (R291): read of LATCH_NT of input 0 LIMP, 1 LIMN, 2 HOME of axis n, R291. -/
  | latchNtRead (path : Path) (n : Nat) (input : Nat)
  /-- RING_READ (R79): object request OP 0x01, R79. -/
  | ringRead (req : ObjRequest)
  /-- RING_PEEK_READ (R79): OP 0x02. -/
  | ringPeekRead (req : ObjRequest)
  /-- RING_WRITE (R79): OP 0x03. -/
  | ringWrite (req : ObjRequest)
  /-- BLOCK_READ (R79): OP 0x04. -/
  | blockRead (req : ObjRequest)
  /-- BLOCK_PEEK_READ (R79): OP 0x05. -/
  | blockPeekRead (req : ObjRequest)
  /-- PARITY_SCRUB_CHECK (R89): flip: the bit of the slot now checked that has flipped since its write: 0 none, 1 to 64 stored bit flip - 1,
  65 to 72 the parity bit of byte flip - 65, R89. -/
  | parityScrubCheck (flip : Nat)
  /-- LOCK (R90): write of 1 to 0x1110:01, R90. -/
  | lock (path : Path)
  /-- LOCK_COMPLETE (R90): R90. -/
  | lockComplete
  /-- LOCKSTEP_MISMATCH (R30): R30. -/
  | lockstepMismatch
  /-- POSTMASTER_RESTART (R30): R30. -/
  | postmasterRestart
  /-- POSTMASTER_RESUME (R30): R30. -/
  | postmasterResume
  /-- PROFILE_CADENCE (R98): the cadence of axis n at the present NT, R98. -/
  | profileCadence (n : Nat)
  /-- REV_DWELL_END (R114): R114. -/
  | revDwellEnd (n : Nat)
  /-- REST_ENTER (R222): R222. -/
  | restEnter (n : Nat)
  /-- AXIS_WAKE (R224): R224. -/
  | axisWake (n : Nat)
  /-- ENGINE_JOB (R34): the job of coil c for its next period, R34. -/
  | engineJob (c : Nat)
  /-- JOB_COMPLETE (R48): agree: a shadowing slice's letters match those of the serving slice (R404), R48. -/
  | jobComplete (c : Nat) (agree : Bool)
  /-- PERIOD_START (R181): R181. -/
  | periodStart (c : Nat)
  /-- COMMIT_CHECK (R254): R254. -/
  | commitCheck (c : Nat)
  /-- EDGE_APPLY (R44): the edge or gate action of the leg that is due; whether the other gate's voltage is below 2.0 V there, and the delay of the
  gate output behind its device, 1/4 ns, R44. -/
  | edgeApply (leg : Nat) (gateLow : Bool) (delay : Nat)
  /-- INTERLOCK_TIMEOUT (R228): R228. -/
  | interlockTimeout (leg : Nat)
  /-- SOFT_OFF_HOLD (R229): R229. -/
  | softOffHold (leg : Nat)
  /-- SWITCHING_EVENT (R232): direction of SWL, sign of the leg current (true: > 0), measured time in 1/4 ns, R230 to R232. -/
  | switchingEvent (leg : Nat) (up : Bool) (iPos : Bool) (tm : Nat)
  /-- BOOTSTRAP_REFRESH (R241): R241. -/
  | bootstrapRefresh (leg : Nat)
  /-- SAMPLE_INSTANT (R185): quarter, ADC channel and the 14-bit code that the channel takes, R185. -/
  | sampleInstant (q : Nat) (ch : Nat) (code : Int)
  /-- CONVERSION_COMPLETE (R185): R185. -/
  | conversionComplete (q : Nat) (ch : Nat)
  /-- VBUS_SAMPLE (R196): one 1 MS/s sample of VBSq, 10 mV, R196. -/
  | vbusSample (q : Nat) (v : Nat)
  /-- OV_CLAMP_RELEASE (R197): at a period boundary of coil c, R197. -/
  | ovClampRelease (c : Nat)
  /-- ID_PHASE (R198): the next timed row of Table 6-8, R198. -/
  | idPhase (n : Nat)
  /-- IDENTIFICATION_COMPLETE (R198): R198. -/
  | identificationComplete (n : Nat)
  /-- TEST_STEP_END (R206): R206. -/
  | testStepEnd (n : Nat)
  /-- ENABLE (R130): write of CONTROL with ENABLE = on and its other fields as stored, R130. -/
  | enable (path : Path) (n : Nat) (on : Bool)
  /-- HALT (R116): the same for HALT, R116. -/
  | halt (path : Path) (n : Nat) (on : Bool)
  /-- FOLLOW_EN (R118): the same for FOLLOW_EN, R118. -/
  | followEn (path : Path) (n : Nat) (on : Bool)
  /-- QSTOP (R117): the same with QSTOP = 1, R117. -/
  | qstop (path : Path) (n : Nat)
  /-- POS_SET (R106): R106. -/
  | posSet (path : Path) (n : Nat) (value : Int)
  /-- STEP_EDGE (R123): a STEP edge with its timestamp, seen on run consecutive samples (R261), R123. -/
  | stepEdge (n : Nat) (rising : Bool) (ts : Nat) (run : Nat)
  /-- LETTER_ENVELOPE (R139): R139. -/
  | letterEnvelope (port : Nat) (src : Nat) (tArr : Nat) (body : Bytes)
  /-- LETTER_SUBMISSION (R140): offset in the submission window and the TLP bytes, R140. -/
  | letterSubmission (ofs : Nat) (body : Bytes)
  /-- POSTMASTER_LETTER (R141): R141. -/
  | postmasterLetter (letter : Bytes)
  /-- LETTER_RELEASE (R146): the first held letter that may be released, R146. -/
  | letterRelease
  /-- ALL_OR_NONE_DECISION (R150): the first undecided ALL_OR_NONE letter of the inboxes whose decision instant is here, R150. -/
  | allOrNoneDecision
  /-- LATE_LETTER (R151): the first held letter whose due time has come, R151. -/
  | lateLetter
  /-- NEW_TARGET (R109): the letter at the head of the inbox of axis n acts, R109. -/
  | newTarget (n : Nat)
  /-- NEW_VELOCITY (R112): R112. -/
  | newVelocity (n : Nat)
  /-- NEW_LIMITS (R132): R132. -/
  | newLimits (n : Nat)
  /-- START_PATTERN (R160): R160. -/
  | startPattern (n : Nat)
  /-- SWITCH_OUTPUT (R176): the first due switch-output letter of the table acts, R176. -/
  | switchOutput
  /-- ARM (R169): R169. -/
  | arm (n : Nat)
  /-- DISARM (R131): R131. -/
  | disarm (n : Nat)
  /-- FOLLOW_STREAM_POINT (R124): R124. -/
  | followStreamPoint (n : Nat)
  /-- SYNC_PULSE_END (R176): R176. -/
  | syncPulseEnd
  /-- CANCEL (R152): R152. -/
  | cancel (path : Path)
  /-- VALIDATE (R158): R158. -/
  | validate (path : Path) (p : Nat)
  /-- VALIDATION_COMPLETE (R158): R158. -/
  | validationComplete (p : Nat)
  /-- GO (R171): a go flit reaches quarter q on a lane: for its axes, bit i axis 4q + i, at NT g in 1/4 ns where it is timed, R171. -/
  | go (q : Nat) (lane : Nat) (axes : Nat) (timed : Bool) (g : Nat) (crcOk err : Bool)
  /-- HEARTBEAT (R39): a received heartbeat flit, R39. -/
  | heartbeat (q : Nat) (toQuarter : Bool) (lane : Nat) (flit : Flit)
  /-- HEARTBEAT_SEND (R253): the end of the seam that sends (toQuarter: the controller die), R253. -/
  | heartbeatSend (q : Nat) (toQuarter : Bool)
  /-- EDGE_LETTER (R45): R45. -/
  | edgeLetter (q : Nat) (lane : Nat) (flit : Flit)
  /-- SETTING (R253): R253. -/
  | setting (q : Nat) (lane : Nat) (addr : Nat) (value : Nat) (crcOk err : Bool)
  /-- MODE_CHANGE (R253): R253. -/
  | modeChange (q : Nat) (lane : Nat) (change : ModeChange) (crcOk err : Bool)
  /-- SAFE_RELEASE (R240): R240. -/
  | safeRelease (q : Nat)
  /-- ADC_SAMPLE (R26): a received sample flit: channel, code, sample instant in 1/4 ns of NT, R26. -/
  | adcSample (q : Nat) (lane : Nat) (ch : Nat) (code : Int) (ts : Nat) (crcOk err : Bool)
  /-- LEG_MEASUREMENTS (R236): R236. -/
  | legMeasurements (q : Nat) (lane : Nat) (m : LegMeasure) (crcOk err : Bool)
  /-- PROTECTION_REPORT (R253): R253. -/
  | protectionReport (q : Nat) (lane : Nat) (kind : ReportKind) (nt : Nat) (crcOk err : Bool)
  /-- REFRESH_REPORT (R243): R243. -/
  | refreshReport (q : Nat) (lane : Nat) (leg : Nat) (nt : Nat) (crcOk err : Bool)
  /-- SETTING_ACKNOWLEDGE (R253): R253. -/
  | settingAcknowledge (q : Nat) (lane : Nat) (addr : Nat) (crcOk err : Bool)
  /-- QUARTER_STATUS (R253): die temperature in 1/16 degC, VGL_q in 10 mV, R253. -/
  | quarterStatus (q : Nat) (lane : Nat) (temp : Int) (vgl : Nat) (crcOk err : Bool)
  /-- LANE_LOST (R255): R255. -/
  | laneLost (q : Nat) (lane : Nat)
  /-- SEAM_TIMEOUT (R256): at the quarter die, R256. -/
  | seamTimeout (q : Nat)
  /-- SEAM_RECOVERED (R257): R257. -/
  | seamRecovered (q : Nat)
  /-- VGL_UNDERVOLTAGE (R238): VGL_q in 10 mV, R238. -/
  | vglUndervoltage (q : Nat) (v : Nat)
  /-- VGL_RESTORED (R238): VGL_q in 10 mV, above 9.0 V for held ns, R238. -/
  | vglRestored (q : Nat) (v : Nat) (held : Nat)
  /-- BOOTSTRAP_UVLO (R239): BSTL - SWL in 10 mV, R239. -/
  | bootstrapUvlo (leg : Nat) (v : Nat)
  /-- LS_ONLY_CLEARED (R239): BSTL - SWL in 10 mV, above 8.4 V for held whole periods, R239. -/
  | lsOnlyCleared (leg : Nat) (v : Nat) (held : Nat)
  /-- VDS_TRIP (R247): tripping device, raw outputs (bit j: local leg j) and the bus comparator, R247, R250. -/
  | vdsTrip (leg : Nat) (hs : Bool) (rawHs : Nat) (rawLs : Nat) (boc : Bool)
  /-- BUS_CURRENT_TRIP (R247): R247. -/
  | busCurrentTrip (q : Nat) (rawHs : Nat) (rawLs : Nat)
  /-- INCIDENT_CLOSE (R251): R251. -/
  | incidentClose (q : Nat)
  /-- ENCODER_TRANSITION (R263): a transition of A (lineB false) or B to a level, the timestamp in ns of the first of the run consecutive samples that
  show it (R261), R263. -/
  | encoderTransition (n : Nat) (lineB : Bool) (level : Bool) (ts : Nat) (run : Nat)
  /-- INDEX (R269): a transition of Z to a level, with its timestamp and run of samples as above, R269. -/
  | index (n : Nat) (level : Bool) (ts : Nat) (run : Nat)
  /-- LINE_FAULT (R272): line 0 A, 1 B, 2 Z; how long its condition has been present, ns, R272. -/
  | lineFault (n : Nat) (line : Nat) (held : Nat)
  /-- LINE_RESTORED (R272): how long the line has been healthy, ns, R272. -/
  | lineRestored (n : Nat) (line : Nat) (held : Nat)
  /-- ENCODER_TIMEOUT (R273): R273. -/
  | encoderTimeout (n : Nat)
  /-- ENC_PRESET (R266): R266. -/
  | encPreset (path : Path) (n : Nat) (value : Int)
  /-- EMU_EN (R278): R278. -/
  | emuEn (path : Path) (m : Nat) (on : Bool)
  /-- SWITCH_TRANSITION (R284): an accepted transition of input 0 LIMP, 1 LIMN, 2 HOME; timestamps of the first contact and of the stable run, R284. -/
  | switchTransition (n : Nat) (input : Nat) (level : Bool) (tsFirst : Nat) (tsLast : Nat)
  /-- LATCH_TIMEOUT (R290): R290. -/
  | latchTimeout (n : Nat) (input : Nat)
  /-- HOME_START (R292): R292. -/
  | homeStart (path : Path) (n : Nat)
  /-- BANK_READ (R301): owner code of the reader, logical bank, word, and the bit errors met: 0 none, 1 to 72 the one of that
  number of the 72 bits, 73 more than one, R301. -/
  | bankRead (unit : Nat) (bank : Nat) (word : Nat) (ecc : Nat)
  /-- BANK_WRITE (R304): clash: the owner port writes the same word in the same arbitration (R305), R304. -/
  | bankWrite (unit : Nat) (bank : Nat) (ofs : Nat) (data : Bytes) (clash : Bool)
  /-- PATROL_SCRUB (R302): bit errors met in the next word, R302. -/
  | patrolScrub (ecc : Nat)
  /-- HAND (R306): R306. -/
  | hand (path : Path) (b : Nat)
  /-- TRANSIT_COMPLETE (R306): R306. -/
  | transitComplete (b : Nat)
  /-- ACCEPT (R306): R306. -/
  | accept (path : Path) (b : Nat)
  /-- UNIT_ACCEPT (R306): R306. -/
  | unitAccept (b : Nat)
  /-- HAND_TIMEOUT (R310): R310. -/
  | handTimeout (b : Nat)
  /-- TEST (R314): R314. -/
  | test (path : Path) (b : Nat)
  /-- TEST_END (R316): the marked cells of the runs, R316. -/
  | testEnd (b : Nat) (marks : List MarkedCell)
  /-- BAR2_READ (R320): R320. -/
  | bar2Read (ofs : Nat) (len : Nat)
  /-- BAR2_WRITE (R320): R320. -/
  | bar2Write (ofs : Nat) (data : Bytes)
  /-- WIN_DATA_READ (R321): R321. -/
  | winDataRead (path : Path)
  /-- WIN_DATA_WRITE (R321): R321. -/
  | winDataWrite (path : Path) (value : Nat)
  /-- FAULT_RAISE (R329): the first raise waiting at the arbiter of the fault unit, R328. -/
  | faultRaise
  /-- ESCALATION_STEP (R335): R335. -/
  | escalationStep
  /-- SAFE_STOP_TO (R337): R337. -/
  | safeStopTo (n : Nat)
  /-- ACK (R338): R338. -/
  | ack (path : Path) (value : Nat)
  /-- ERR_SW (R341): R341. -/
  | errSw (path : Path) (on : Bool)
  /-- ERR_PULSE_END (R341): R341. -/
  | errPulseEnd
  /-- LOG_CLEAR (R342): R342. -/
  | logClear (path : Path)
  /-- INJ_GO (R345): R345. -/
  | injGo (path : Path)
  /-- INJ_STOP (R345): R345. -/
  | injStop (path : Path)
  /-- INJECTION_ENDED (R345): R345. -/
  | injectionEnded
  /-- MAILBAG_BURST (R359): R359. -/
  | mailbagBurst (j : Nat)
  /-- MOD_TIME_EXPIRY (R362): R362. -/
  | modTimeExpiry (j : Nat)
  /-- Q_EN (R355): R355. -/
  | qEn (path : Path) (j : Nat) (on : Bool)
  /-- CONS (R356): R356. -/
  | cons (path : Path) (j : Nat) (value : Nat)
  /-- HOST_LINK_RESET (R350): R350. -/
  | hostLinkReset (kind : LinkReset)
  /-- HOST_LINK_UP (R347): R347. -/
  | hostLinkUp (speed : Nat) (width : Nat) (mps : Nat)
  /-- FORWARD_ENVELOPE_SEND (R363): R363. -/
  | forwardEnvelopeSend
  /-- EVENT_FORWARD (R364): 1 to 8 records of 32 bytes, R364. -/
  | eventForward (body : Bytes)
  /-- PORT_UP (R367): R367. -/
  | portUp (p : Nat)
  /-- PORT_DOWN (R367): cause 1 synchronisation, 2 auto-negotiation, 3 silence, R367. -/
  | portDown (p : Nat) (cause : Nat)
  /-- ENVELOPE_HEADER (R374): the EtherType (R368) and the 16 header bytes that arrive on port p, R374. -/
  | envelopeHeader (p : Nat) (etype : Nat) (header : Bytes)
  /-- ENVELOPE_END (R376): R376. -/
  | envelopeEnd (p : Nat) (fcsOk : Bool) (body : Bytes)
  /-- HELLO (R380): R380. -/
  | hello (p : Nat) (body : Bytes)
  /-- HELLO_SEND (R380): R380. -/
  | helloSend
  /-- REPORT (R386): R386. -/
  | report (body : Bytes)
  /-- REPORT_SEND (R386): R386. -/
  | reportSend
  /-- MAP_PUBLISH (R387): R387. -/
  | mapPublish
  /-- SEGMENT_MAP (R386): R386. -/
  | segmentMap (body : Bytes)
  /-- SYSTEM_MAP (R388): R388. -/
  | systemMap (body : Bytes)
  /-- ADDR_HOLD_EXPIRY (R387): R387. -/
  | addrHoldExpiry (station : Nat)
  /-- ECHO_REQUEST (R383): R383. -/
  | echoRequest (p : Nat) (src : Nat) (data : Bytes) (tIn : Nat)
  /-- SYNC (R392): origin time and arrival timestamp, ps of NT, R392. -/
  | sync (p : Nat) (t1 : Int) (t2 : Int)
  /-- SYNC_SEND (R391): R391. -/
  | syncSend
  /-- PDELAY_REQ (R391): R391. -/
  | pdelayReq (p : Nat) (tIn : Nat)
  /-- PDELAY_REQ_SEND (R391): R391. -/
  | pdelayReqSend (p : Nat)
  /-- PDELAY_RESP (R391): the four timestamps of the exchange, ps, R391. -/
  | pdelayResp (p : Nat) (t1 : Int) (t2 : Int) (t3 : Int) (t4 : Int)
  /-- ANNOUNCE (R391): R391. -/
  | announce (master : Nat) (data : AnnounceData)
  /-- ANNOUNCE_SEND (R391): R391. -/
  | announceSend
  /-- SYNC_TIMEOUT (R393): R393. -/
  | syncTimeout
  /-- TIME_SOURCE_FOUND (R40): R40. -/
  | timeSourceFound
  /-- TIME_SOURCE_LOST (R40): R40. -/
  | timeSourceLost
  /-- TREF_COMPARISON (R393): offset of the tick against TREF, ps, R393. -/
  | trefComparison (offset : Int)
  /-- STEP (R41): R41. -/
  | step (path : Path)
  /-- NT_STEP (R42): R42. -/
  | ntStep
  /-- PPS_IN (R394): timestamp of the rising edge, ns of NT, R394. -/
  | ppsIn (ts : Nat)
  /-- TOD_SEC (R394): R394. -/
  | todSec (path : Path) (value : Nat)
  /-- PPS_OUT_RISE (R459): R459. -/
  | ppsOutRise
  /-- PPS_OUT_FALL (R459): R459. -/
  | ppsOutFall
  /-- SYNC_IN (R460): timestamp and pulse width, ns, R460. -/
  | syncIn (ts : Nat) (width : Nat)
  /-- VCORE_LOOP (R53): the fabric speed index that the ring oscillators show, R53. -/
  | vcoreLoop (fsi : Nat)
  /-- SETTLED (R53): R53. -/
  | settled
  /-- PMBUS_TRANSACTION (R56): the command, whether it was acknowledged with a good PEC, and the word read, R56. -/
  | pmbusTransaction (cmd : PmbCommand) (ok : Bool) (data : Nat)
  /-- PMB_ALERT (R54): R54. -/
  | pmbAlert (asserted : Bool)
  /-- PMB_RETRY (R56): R56. -/
  | pmbRetry (path : Path)
  /-- FRAY_SAMPLE (R397): what the sensors show at this sample, R397. -/
  | fraySample (m : FrayMeasures)
  /-- REQ_GO (R401): R401. -/
  | reqGo (path : Path)
  /-- PATCH_START (R403): R403. -/
  | patchStart
  /-- LOADING_COMPLETE (R403): R403. -/
  | loadingComplete
  /-- TAKEOVER (R405): R405. -/
  | takeover
  /-- ADC_PATCH_SWITCH (R409): quarter, R409. -/
  | adcPatchSwitch (q : Nat)
  /-- SEGMENT_PATCH (R410): for each segment that the code switches, the shortening of the mean switching time, 1/4 ns, R410. -/
  | segmentPatch (leg : Nat) (output : Nat) (gains : List Int)
  /-- LANE_PATCH (R411): R411. -/
  | lanePatch (q : Nat)
  /-- PATCH_RECORD_WRITTEN (R414): R414. -/
  | patchRecordWritten
  /-- POWER_ON_RESET_RELEASE (R420): R420. -/
  | powerOnResetRelease
  /-- SUPPLY_LOSS (R422): R422. -/
  | supplyLoss
  /-- RESET_N (R430): asserted for 10 us, R430. -/
  | resetN
  /-- START_UP_STEP (R427): the step of Table 16-3 that completes, with its failure if any, R427. -/
  | startUpStep (fail : StartFail)
  /-- TIME_SEARCH_END (R428): whether TREF has been valid for 1 ms, R428. -/
  | timeSearchEnd (tref : Bool)
  /-- RUN (R423): R423. -/
  | run (path : Path)
  /-- STOP (R423): R423. -/
  | stop (path : Path)
  /-- STOW (R432): R432. -/
  | stow (path : Path)
  /-- WAKE (R433): R433. -/
  | wake (path : Path)
  /-- SAFE_EXIT (R435): R435. -/
  | safeExit (path : Path)
  /-- FW_GO (R436): R436. -/
  | fwGo (path : Path)
  /-- FW_UPDATE_ENDED (R436): what the check of the image finds (1 loaded, 2 signature, 3 below the floor, 4 format, 5 poisoned word) and the image version, R436. -/
  | fwUpdateEnded (result : Nat) (version : Nat)
  /-- HOST_LOST (R441): the link leaves up, R441. -/
  | hostLost
  /-- HOST_WD (R441): R441. -/
  | hostWd
  /-- WD_KICK (R441): R441. -/
  | wdKick (path : Path) (value : Nat)
  /-- RING_LOST (R441): R441. -/
  | ringLost
  /-- RING_RESTORED (R441): R441. -/
  | ringRestored
  /-- OVER_TEMPERATURE (R463): die 0 controller, 1 + q quarter; 1/16 degC, R463. -/
  | overTemperature (die : Nat) (temp : Int)
  /-- OVER_TEMPERATURE_END (R463): the five die temperatures, R463. -/
  | overTemperatureEnd (temps : List Int)
  /-- BUILD (R465): R465. -/
  | build (path : Path)
  /-- BUILD_COMPLETE (R466): R466. -/
  | buildComplete
  /-- EMULATION_EDGE (R279): R279. -/
  | emulationEdge (m : Nat)
  /-- CONTROLLER_SEAM_SILENCE (R256): R256. -/
  | controllerSeamSilence (q : Nat)
  /-- PCS_SYNCHRONISATION (R367): true at 2.5GBASE-X, R367. -/
  | pcsSynchronisation (p : Nat) (fast : Bool)
  /-- AUTO_NEGOTIATION_COMPLETE (R366): R366. -/
  | autoNegotiationComplete (p : Nat)
  /-- LINE_RATE_FALLBACK (R366): R366. -/
  | lineRateFallback (p : Nat)
  /-- OUTPUT_FRAME_BOUNDARY (R378): R378. -/
  | outputFrameBoundary (p : Nat)
  /-- PE_PERST_N (R438): R438. -/
  | pePerstN (level : Bool)
  /-- CONFIGURATION_WRITE (R349): R349. -/
  | configurationWrite (item : ConfigItem)
  /-- BAR4_WRITE (R362): R362. -/
  | bar4Write (vector : Nat) (entry : MsixEntry)
  /-- TCK_EDGE (R12): an edge on TCK with the levels of TMS, TDI and TRST_N, R12. -/
  | tckEdge (rising : Bool) (tms : Bool) (tdi : Bool) (trstN : Bool)
  deriving DecidableEq, Repr

end Sys2Proof
end

