-- ==== Sys2Proof/Decode.lean ====
section
/-! DEFINITION. The command that a word spells by the opcode table's bits. No row of the table gives bits to its command, so no word
spells one (log 1).
Conventions of the model: DEDUCED: log 1. -/

namespace Sys2Proof

/-- The command that a word of nbits bits spells. -/
def decodeTableWord (_nbits _w : Nat) : Option Instr := none

end Sys2Proof
end

