-- ==== Sys2Proof/Machine/Planner.lean ====
section
/-! DEFINITION. The re-planner's arithmetic (chapter 04, R98 to R101, R107 to R112, R471), on exact numbers. Units, per cadence of 1 us:
velocity in 10^-12 x 1/16 ust/s; change of velocity per cadence in the same unit (256 for each 16 x 10^-6 ust/s^2 of acceleration);
distance in the travel of one velocity unit over one cadence.
Conventions of the model: DEDUCED: log 15, 18, 49. -/

namespace Sys2Proof.Machine

/-! ## Numbers -/

/-- Integer square root, rounded down, of a number below 4^n. -/
def isqrt (n v : Nat) : Nat :=
  (List.range n).foldl (fun r i => let c := r + 2 ^ (n - 1 - i); if c * c ≤ v then c else r) 0

/-- Floor and ceiling of a rational. -/
def rfloor (x : Rat) : Int := x.num / x.den
def rceil (x : Rat) : Int := -((-x.num) / x.den)
/-- Rounding to nearest, halves away from zero (R177). -/
def rround (x : Rat) : Int := if 0 ≤ x then rfloor (x + 1 / 2) else rceil (x - 1 / 2)
/-- Truncation toward zero. -/
def rtrunc (x : Rat) : Int := if 0 ≤ x then rfloor x else rceil x
def rabs (x : Rat) : Rat := if 0 ≤ x then x else -x
def rmin (x y : Rat) : Rat := if x ≤ y then x else y
def rmax (x y : Rat) : Rat := if x ≤ y then y else x
/-- Sign of a rational: -1, 0 or 1. -/
def rsign (x : Rat) : Rat := if 0 < x then 1 else if x < 0 then -1 else 0

/-- Square root of a rational in the planner's units, rounded down to a whole unit. -/
def rsqrt (x : Rat) : Rat := (isqrt 120 (rfloor x).toNat : Nat)

/-- Change of velocity per cadence of one raw acceleration count (R99). -/
def rawAcc (a : Nat) : Rat := 256000000 * a
/-- Change of that change per cadence of one raw jerk count. -/
def rawJerk (j : Nat) : Rat := 65536 * j
/-- Velocity of one raw velocity count. -/
def rawVel (v : Int) : Rat := 1000000000000 * v
/-- Distance units per 2^-32 ust. -/
def distUnit : Rat := 3814697265625 / 1024

/-- The commanded state of a motion: position in 2^-32 ust, velocity and change of velocity per cadence. -/
structure Cmd where
  p : Rat
  v : Rat
  b : Rat
  deriving DecidableEq, Repr

/-- The limits in force at a cadence, in the planner's units. -/
structure Limits where
  v : Rat
  a : Rat
  d : Rat
  j : Rat
  deriving DecidableEq, Repr

/-! ## Stopping distances in the per-cadence form (R107, R109) -/

/-- Trapezoidal: v^2 / 2d - v / 2 (R109). -/
def trapStop (vs d : Rat) : Rat := if vs ≤ 0 then 0 else vs * vs / (2 * d) - vs / 2

/-- Velocity and travel after n cadences from v0, with the change b removed per cadence, growing by k each cadence. -/
def segVel (n v0 b k : Rat) : Rat := v0 - n * b - k * n * (n + 1) / 2
def segDist (n v0 b k : Rat) : Rat := n * v0 - b * n * (n + 1) / 2 - k * n * (n + 1) * (n + 2) / 6

/-- Velocity that the cadences after one with the change x remove while they release it at k per cadence. -/
def released (x k : Rat) : Rat :=
  if x ≤ k then 0
  else
    let n : Rat := rfloor (x / k)
    n * x - k * n * (n + 1) / 2

/-- Travel of a release that follows a cadence with the change x and ends at velocity 0. -/
def releaseTravel (x k : Rat) : Rat :=
  let n : Rat := if 0 < x then rfloor (x / k) else 0
  x * n * (n + 1) / 2 - k * n * (n + 1) * (2 * n + 1) / 6

/-- The largest change of a cadence (of length f) whose own effect and release together do not pass a velocity u. -/
def largestChange (u k f : Rat) : Rat :=
  let h := k * (f - 1 / 2)
  let n0 := rfloor ((rsqrt (h * h + 2 * k * u) - h) / k)
  let line (n : Int) : Rat := (u + k * n * (n + 1) / 2) / (f + n)
  let n1 := max 0 n0
  rmin (line (max 0 (n1 - 1))) (rmin (line n1) (line (n1 + 1)))

/-- The largest of some counts at which a condition holds, 0 where none does. -/
def lastOf (l : List Int) (ok : Rat → Bool) : Rat := l.foldl (fun r i => if 0 ≤ i && r < i && ok i then (i : Rat) else r) 0

/-- The counts near a number. -/
def around (x : Rat) : List Int := let i := rfloor x; [i - 2, i - 1, i, i + 1, i + 2, i + 3]

/-- Travel and length, in cadences, of the braking sequence of R107 with peak x from velocity vs and braking b, integrated per cadence:
the braking moves to x at k per cadence, holds, and is released so that velocity and braking end together. -/
def sTravel (vs b x k : Rat) : Rat × Rat :=
  if vs ≤ 0 then (0, 0)
  else if k < b ∧ vs < released b k then
    let c := b - k / 2
    let n := lastOf (around ((c - rsqrt (rmax 0 (c * c - 2 * k * vs))) / k)) fun i => i * k ≤ c && 0 < segVel i vs b (-k)
    (segDist n vs b (-k), n)
  else
    let up : Bool := decide (b ≤ x)
    let g := if up then k else -k
    let whole : Rat := rfloor (rabs (x - b) / k)
    let room (i : Rat) : Bool := i ≤ whole && (b + i * k ≤ 0 || released (b + i * k) k ≤ segVel i vs b k)
    let n := if up then lastOf (whole.num :: around ((rsqrt (rmax 0 (b * b / 2 + k * b / 2 + k * vs)) - b) / k)) room else whole
    let v1 := segVel n vs b g
    let b1 := b + n * g
    let hold : Rat := if n = whole ∧ 0 < x then rmax 0 (rfloor ((v1 - released x k) / x)) else 0
    let v2 := v1 - hold * x
    let peak := rmin (largestChange v2 k 1) (if n = whole then x else b1 + k)
    let v3 := v2 - peak
    let head := segDist n vs b g + segDist hold v1 x 0
    if v3 ≤ 0 then (head, n + hold)
    else
      let tail : Rat := (if 0 < peak then rfloor (peak / k) else 0) + 1
      (head + releaseTravel peak k + (v3 - released peak k) * tail, n + hold + tail)

/-- The braking sequence's travel in direction s as the rate multiplier will give it: the velocity handed to it is rounded toward minus
infinity (R99), by half a count a cadence in the mean (log 18). -/
def sStop (s vs b d k : Rat) : Rat :=
  let (t, n) := sTravel vs b d k
  rmax (t - s * n * 500000000000) (t / 2)

/-- Stopping distance with the shape. -/
def stopDist (scurve : Bool) (s vs b d k : Rat) : Rat := if scurve then sStop s vs b d k else trapStop vs d

/-- The largest velocity, at least one cadence's deceleration, that travels one cadence and brakes at d within dist (log 18). -/
def firstStep (dist d : Rat) : Rat := rmax d (rsqrt (rmax 0 (d * d / 4 + 2 * d * (dist - d / 8))) - d / 2)

/-- The raw deceleration, 1 to cap, whose trapezoidal braking ends at dist: v^2 / (2 dist + v), rounded up; none above the cap (R109). -/
def trapNeed (dist vs : Rat) (cap : Nat) : Option Nat :=
  if vs ≤ 0 then none
  else
    let need := max 1 (rceil (vs * vs / (2 * dist + vs) / 256000000)).toNat
    if need ≤ cap then some need else none

/-- The smallest raw peak in 1 to cap whose S-curve braking sequence ends within dist. -/
def sNeed (s dist vs b k : Rat) (cap : Nat) : Option Nat :=
  if dist < sStop s vs b (rawAcc cap) k then none
  else
    some ((List.range 32).foldl (fun (r : Nat) i =>
      let c := r - 2 ^ (31 - i)
      if 2 ^ (31 - i) < r ∧ sStop s vs b (rawAcc c) k ≤ dist then c else r) cap)

/-! ## One cadence, or a fraction f of one (R101) -/

/-- A change of velocity toward w at most up while |v| grows or down while it falls, trapezoidal. -/
def towardTrap (c : Cmd) (w up down f : Rat) : Cmd :=
  if c.v = w then { c with b := 0 }
  else
    let rising : Bool := if 0 < c.v then c.v < w else if c.v < 0 then w < c.v else true
    let lim := (if rising then up else down) * f
    let goal := if ¬ rising ∧ c.v * w < 0 then 0 else w
    let dv := rmax (-lim) (rmin lim (goal - c.v))
    { c with v := c.v + dv, b := dv / f }

/-- The same with the change per cadence ramped at k, in whole jerk counts, and released to reach w with none left (R107, R471): the
change moves toward the largest that leaves room for its release; the last cadence sets w exactly. -/
def towardScurve (c : Cmd) (w up down k f : Rat) : Cmd :=
  let g := rsign (w - c.v)
  let u := rabs (w - c.v)
  let b := c.b * g
  if u = 0 ∧ rabs c.b ≤ k then { c with b := 0 }
  else if u = 0 then { c with v := c.v + (c.b - rsign c.b * k * f) * f, b := c.b - rsign c.b * k * f }
  else if 0 < b ∧ b ≤ k ∧ u ≤ b * f then { c with v := w, b := 0 }
  else
    let cap := if c.v * g < 0 then down else up
    let goal := rmin (largestChange (rmax 0 (u - 65536)) k f) cap
    let dj := rmax (-(k * f)) (rmin (k * f) (goal - b))
    let x := b + 65536 * rfloor (dj / 65536)
    let x := if x = b ∧ b = 0 then rmin (u / f) (65536 * f) else x
    { c with v := c.v + g * x * f, b := g * x }

/-- A change of velocity toward w with the shape. -/
def toward (scurve : Bool) (c : Cmd) (w : Rat) (up down k f : Rat) : Cmd :=
  if scurve then towardScurve c w up down k f else towardTrap c w up down f

/-- Braking to zero: the cadence at which it would cross 0 ends with velocity exactly 0 (R114), an S-curve's with change 0 (R108). -/
def brakeZero (scurve : Bool) (c : Cmd) (d k f : Rat) : Cmd :=
  let r := toward scurve c 0 d d k f
  if r.v = 0 ∨ r.v * c.v < 0 then { c with v := 0, b := 0 } else r

/-- One cadence of an S-curve braking sequence with peak x: more braking while it leaves room for its release, else less. -/
def sBrake (c : Cmd) (s x k f : Rat) : Cmd :=
  let r := towardScurve { c with v := c.v * s, b := c.b * s } 0 x x k f
  if r.v ≤ 0 then { c with v := 0, b := 0 } else { c with v := r.v * s, b := r.b * s }

/-- What the re-planner keeps of a position move (R109, R111). -/
structure MoveRt where
  final : Bool
  deferring : Bool
  dkPrev : Nat
  deriving DecidableEq, Repr

/-- The outcome of a cadence of a position move: the commanded velocity and its change, what the re-planner keeps, whether the
deceleration cap bound (OVERSHOOT, with the predicted overshoot in 2^-32 ust), whether a deceleration was deferred, the landing, and
a standstill for a reversal. -/
structure Replan where
  cmd : Cmd
  keep : MoveRt
  over_ : Option Rat := none
  deferred : Bool := false
  landed : Bool := false
  standstill : Bool := false
  deriving DecidableEq, Repr

/-- The deceleration in force (R111): the present one, unless it was lowered in final braking under NO_OVERSHOOT. -/
def decelInForce (scurve noOver : Bool) (m : MoveRt) (dLim : Nat) (s vs as_ dist k : Rat) : Nat × Bool × Bool :=
  let deferring := m.deferring && vs ≠ 0
  if deferring then (m.dkPrev, true, false)
  else if m.final ∧ noOver ∧ dLim < m.dkPrev ∧ dist < stopDist scurve s vs (-as_) (rawAcc dLim) k then (m.dkPrev, true, true)
  else (dLim, false, false)

/-- 1/65,536 ust: what a landing may remove (R102). -/
def landing : Rat := 65536 * distUnit

/-- An S-curve braking aims half of what a landing removes short of its target (log 18). -/
def brakeRoom (scurve : Bool) (dist : Rat) : Rat := if scurve then dist - landing / 2 else dist

/-- The velocity with which a cadence moves the position: the one handed to the rate multiplier (R99). A whole trapezoidal cadence is
predicted with it; an S-curve's travel has its rounding already (log 18). -/
def handedOver (scurve : Bool) (v f : Rat) : Rat := if scurve || f ≠ 1 then v else 1000000000000 * rfloor (v / 1000000000000)

/-- The least predicted overshoot that is one, 2^-32 ust: 1/16 ust, the unit of event 0x0111 (log 18). -/
def overshootUnit : Rat := 268435456

/-- The state from which a cadence lands (R102, R471): nearer than 1/65,536 ust, with velocity and acceleration that this cadence may
remove: a trapezoid within one cadence's deceleration, an S-curve within J_LIM. -/
def mayLand (scurve : Bool) (dist vr vf b dk j : Rat) : Bool :=
  decide (dist < landing) &&
    (if scurve && decide (vf = 0) then rabs b ≤ j && decide (rabs vr ≤ rabs b)
     else if scurve then rabs vr ≤ j && decide (rabs (vr + b) ≤ j)
     else decide (rabs vr ≤ dk))

/-- The re-planner of R109 over a fraction f of a cadence, on positions relative to a target x (2^-32 ust) and, in follow, velocities
relative to vf; `lim.v` bounds the absolute velocity. -/
def replan (scurve noOver : Bool) (c : Cmd) (x vf : Rat) (lim : Limits) (dLim : Nat) (m : MoveRt) (f : Rat) : Replan :=
  let e := (x - c.p) * distUnit
  let vr := c.v - vf
  let s := if e = 0 then -(rsign vr) else rsign e
  let vs := vr * s
  let as_ := c.b * s
  let dist := rabs e
  let (dkRaw, deferring, deferred) := decelInForce scurve noOver m dLim s vs as_ dist lim.j
  let dk := rawAcc dkRaw
  let keep : MoveRt := { m with deferring := deferring, dkPrev := dkRaw }
  if mayLand scurve dist vr vf c.b dk lim.j then
    { cmd := { p := x, v := vf, b := 0 }, keep := { keep with final := false, deferring := false }, landed := true }
  else
    let rel : Cmd := { c with v := vr }
    let out (r : Cmd) (final : Bool) (over_ : Option Rat) : Replan :=
      if scurve && final && decide (vf = 0 ∧ r.v = 0 ∧ r.b = 0 ∧ dist < landing) then
        { cmd := { p := x, v := vf, b := 0 }, keep := { keep with final := false, deferring := false }, landed := true }
      else
      { cmd := { r with v := r.v + vf }
        keep := { keep with final := final && r.v ≠ 0, deferring := deferring && r.v ≠ 0 }
        over_ := over_, deferred := deferred, standstill := vr ≠ 0 && r.v = 0 }
    let landBrake : Replan :=
      if scurve && decide (dist < landing) then out (sBrake rel s dk lim.j f) true none
      else
        match (if scurve then sNeed s (brakeRoom true dist) vs (-as_) lim.j dkRaw else trapNeed dist vs dkRaw) with
        | some need =>
          let r := if scurve then sBrake rel s (rawAcc need) lim.j f else brakeZero false rel (rawAcc need) lim.j f
          out r true none
        | none =>
          let over_ := (stopDist scurve s vs (-as_) dk lim.j - dist) / distUnit
          out (brakeZero scurve rel dk lim.j f) true (if overshootUnit ≤ over_ then some over_ else none)
    if vs < 0 then out (brakeZero scurve rel dk lim.j f) false none
    else if m.final then landBrake
    else
      let top := rmax 0 (lim.v - vf * s)
      let cand := toward scurve rel (top * s) lim.a dk lim.j f
      let next := (x - c.p) * distUnit - (handedOver scurve (cand.v + vf) f - vf) * f
      if next * s < 0 ∨ brakeRoom scurve (rabs next) ≤ stopDist scurve s (cand.v * s) (-(cand.b * s)) dk lim.j then
        if vs = 0 then
          let step := rmin (rmin (dist / f) (lim.a * f)) (if scurve then rmin dk (lim.j * f) else firstStep dist dk)
          out { rel with v := s * step, b := s * step / f } false none
        else landBrake
      else out cand false none

end Sys2Proof.Machine
end

