-- ==== Sys2Proof/Config.lean ====
section
/-! DEFINITION. What an implementation fixes and the free values: opaque constants, so that no proof can lean on a value
the manual leaves open. Each is named in the assumption log.
Conventions of the model: PRESUMED: log 6, 11; DEDUCED: log 7, 10, 12; DESIGN CHOICE: log 8, 9. -/

namespace Sys2Proof.Config

/-- VENDOR_ID of 0x1000:01 (R469: fixed at manufacture, no number given). Log 6. -/
opaque vendorId : Nat
/-- REVISION of 0x1000:03 (R469). Log 6. -/
opaque revision : Nat
/-- SERIAL of 0x1300:07 (R470: unique to the part). Log 6. -/
opaque serial : Nat
/-- FW_ROM of 0x1140:01 (R470). Log 6. -/
opaque fwRom : Nat
/-- FW_FLOOR of 0x1140:06 (R470). Log 6. -/
opaque fwFloor : Nat
/-- The temperature grade, bits [15:8] of 0x1010:02 (R3: 0x45 grade E, 0x43 grade C): true for grade E. Log 6. -/
opaque gradeE : Bool
/-- The fuse image of the return envelope (Table 18-2: content named, bytes not given), byte i of 256. Log 6. -/
opaque fuseByte : Nat → BitVec 8

/-- The factory offset of ADC channel j of quarter q, codes, at 8q + j, and its factory difference from the spare channel (Table 15-2: fused;
no number given). Log 6. -/
opaque adcOffset : Nat → Rat
opaque adcDifference : Nat → Rat

/-- The engine's working precision is not stated (R188 to R192, R211): what the engine keeps of an exact value. Log 7. -/
opaque engineRound : Rat → Rat
/-- Cosine and sine of an angle in radians as the engine forms them (R191, R211: no precision stated). Log 7. -/
opaque engineCos : Rat → Rat
opaque engineSin : Rat → Rat
/-- Square root and two-argument arctangent (radians) as the engine forms them (R211). Log 7. -/
opaque engineSqrt : Rat → Rat
opaque engineAtan2 : Rat → Rat → Rat
/-- The integral of a function between two limits as the engine forms it (R203). -/
opaque engineIntegral : (Rat → Rat) → Rat → Rat → Rat

/-- A free value drawn for the n-th time (a counter of the state is the argument). Log 8. -/
opaque freeValue : Nat → BitVec 64
/-- A free byte string's byte: the k-th byte of the n-th drawing. Log 8. -/
opaque freeByte : Nat → Nat → BitVec 8

/-- The bytes of the banks whose layout the manual does not give (banks 20 to 28 as the units keep them, R318,
chapter 11), by physical byte address. Log 9. -/
opaque workByte : Nat → BitVec 8

/-- Execution time of the n-th ring request, ns, before the bound of R81 is put on it. Log 10. -/
opaque ringExecNs : Nat → Nat

/-- The instruction-register length of die d in the boundary-scan chain (R12 names the chain, no length is given). Log 11. -/
opaque irLength : Nat → Nat

/-- The servo's steering for an offset in ps and the last steering (R392: the servo's law is not given), in units of
1/65,536 ppm before the limits of chapter 02 are put on it. Log 12. -/
opaque servoSteer : Int → Int → Int
/-- The servo's filter of the offset (R392), from the last filtered offset and the measured one, ps. Log 12. -/
opaque servoFilter : Int → Int → Int

end Sys2Proof.Config
end

