-- ==== Sys2Proof/Machine/Keys.lean ====
section
/-! DEFINITION. The keys of the object dictionary's slots (chapter 03, R64 to R72; every field map of the manual): key = index * 256
+ subindex, so that the BAR0 slot of a key lies at byte 8 * key (R72). Per-instance objects take their instance first. -/

namespace Sys2Proof.Machine

/-- VENDOR_ID, 0x1000 (Table 0-7). -/
abbrev K.VENDOR_ID : Nat := 0x1000 * 256 + 0x01
/-- DEVICE_ID, 0x1000 (Table 0-7). -/
abbrev K.DEVICE_ID : Nat := 0x1000 * 256 + 0x02
/-- REVISION, 0x1000 (Table 0-7). -/
abbrev K.REVISION : Nat := 0x1000 * 256 + 0x03
/-- FEATURES, 0x1010 (Table 0-3). -/
abbrev K.FEATURES : Nat := 0x1010 * 256 + 0x01
/-- VARIANT, 0x1010 (R3). -/
abbrev K.VARIANT : Nat := 0x1010 * 256 + 0x02
/-- DEV_STATE, 0x1100 (Table 16-5). -/
abbrev K.DEV_STATE : Nat := 0x1100 * 256 + 0x01
/-- RUN, 0x1100 (Table 16-5). -/
abbrev K.RUN : Nat := 0x1100 * 256 + 0x02
/-- STOP, 0x1100 (Table 16-5). -/
abbrev K.STOP : Nat := 0x1100 * 256 + 0x03
/-- STOW, 0x1100 (Table 16-5). -/
abbrev K.STOW : Nat := 0x1100 * 256 + 0x04
/-- WAKE, 0x1100 (Table 16-5). -/
abbrev K.WAKE : Nat := 0x1100 * 256 + 0x05
/-- SAFE_EXIT, 0x1100 (Table 16-5). -/
abbrev K.SAFE_EXIT : Nat := 0x1100 * 256 + 0x06
/-- SAFE_CAUSE, 0x1100 (Table 16-5). -/
abbrev K.SAFE_CAUSE : Nat := 0x1100 * 256 + 0x07
/-- START_RESULT, 0x1100 (Table 16-5). -/
abbrev K.START_RESULT : Nat := 0x1100 * 256 + 0x08
/-- START_TIME, 0x1100 (Table 16-5). -/
abbrev K.START_TIME : Nat := 0x1100 * 256 + 0x09
/-- STATE_NT, 0x1100 (Table 16-5). -/
abbrev K.STATE_NT : Nat := 0x1100 * 256 + 0x0A
/-- WAKES, 0x1100 (Table 16-5). -/
abbrev K.WAKES : Nat := 0x1100 * 256 + 0x0B
/-- LOCK, 0x1110 (Table 3-11). -/
abbrev K.LOCK : Nat := 0x1110 * 256 + 0x01
/-- LOCKED, 0x1110 (Table 3-11). -/
abbrev K.LOCKED : Nat := 0x1110 * 256 + 0x02
/-- LOCK_NT, 0x1110 (Table 3-11). -/
abbrev K.LOCK_NT : Nat := 0x1110 * 256 + 0x03
/-- LOCK_CRC, 0x1110 (Table 3-11). -/
abbrev K.LOCK_CRC : Nat := 0x1110 * 256 + 0x04
/-- SLICE_MAP, 0x1120 (Table 1-4). -/
abbrev K.SLICE_MAP (i : Nat) : Nat := 0x1120 * 256 + (0x01 + i)
/-- SLICE_STATUS, 0x1121 (Table 1-5). -/
abbrev K.SLICE_STATUS (i : Nat) : Nat := 0x1121 * 256 + (0x01 + i)
/-- LAST_ABORT, 0x1130 (Table 3-5). -/
abbrev K.LAST_ABORT : Nat := 0x1130 * 256 + 0x01
/-- LAST_OBJ, 0x1130 (Table 3-5). -/
abbrev K.LAST_OBJ : Nat := 0x1130 * 256 + 0x02
/-- ABORTS, 0x1130 (Table 3-5). -/
abbrev K.ABORTS : Nat := 0x1130 * 256 + 0x03
/-- IGNORED, 0x1130 (Table 3-5). -/
abbrev K.IGNORED : Nat := 0x1130 * 256 + 0x04
/-- REPLAYED, 0x1130 (Table 3-5). -/
abbrev K.REPLAYED : Nat := 0x1130 * 256 + 0x05
/-- PAR_OBJ, 0x1132 (Table 3-10). -/
abbrev K.PAR_OBJ : Nat := 0x1132 * 256 + 0x01
/-- PAR_COUNT, 0x1132 (Table 3-10). -/
abbrev K.PAR_COUNT : Nat := 0x1132 * 256 + 0x02
/-- PASS_NT, 0x1132 (Table 3-10). -/
abbrev K.PASS_NT : Nat := 0x1132 * 256 + 0x03
/-- FW_ROM, 0x1140 (Table 16-6). -/
abbrev K.FW_ROM : Nat := 0x1140 * 256 + 0x01
/-- FW_ACTIVE, 0x1140 (Table 16-6). -/
abbrev K.FW_ACTIVE : Nat := 0x1140 * 256 + 0x02
/-- FW_BANK, 0x1140 (Table 16-6). -/
abbrev K.FW_BANK : Nat := 0x1140 * 256 + 0x03
/-- FW_GO, 0x1140 (Table 16-6). -/
abbrev K.FW_GO : Nat := 0x1140 * 256 + 0x04
/-- FW_RESULT, 0x1140 (Table 16-6). -/
abbrev K.FW_RESULT : Nat := 0x1140 * 256 + 0x05
/-- FW_FLOOR, 0x1140 (Table 16-6). -/
abbrev K.FW_FLOOR : Nat := 0x1140 * 256 + 0x06
/-- HOST_REACT, 0x1150 (Table 16-7). -/
abbrev K.HOST_REACT : Nat := 0x1150 * 256 + 0x01
/-- RING_REACT, 0x1150 (Table 16-7). -/
abbrev K.RING_REACT : Nat := 0x1150 * 256 + 0x02
/-- LOSS_AXES, 0x1150 (Table 16-7). -/
abbrev K.LOSS_AXES : Nat := 0x1150 * 256 + 0x03
/-- HOST_WD, 0x1150 (Table 16-7). -/
abbrev K.HOST_WD : Nat := 0x1150 * 256 + 0x04
/-- WD_KICK, 0x1150 (Table 16-7). -/
abbrev K.WD_KICK : Nat := 0x1150 * 256 + 0x05
/-- RING_TO, 0x1150 (Table 16-7). -/
abbrev K.RING_TO : Nat := 0x1150 * 256 + 0x06
/-- LOSS_FLAGS, 0x1150 (Table 16-7). -/
abbrev K.LOSS_FLAGS : Nat := 0x1150 * 256 + 0x07
/-- LOSSES, 0x1150 (Table 16-7). -/
abbrev K.LOSSES : Nat := 0x1150 * 256 + 0x08
/-- T_CTRL, 0x1160 (Table 17-20). -/
abbrev K.T_CTRL : Nat := 0x1160 * 256 + 0x01
/-- T_HOT, 0x1160 (Table 17-20). -/
abbrev K.T_HOT : Nat := 0x1160 * 256 + 0x02
/-- OT_FLAGS, 0x1160 (Table 17-20). -/
abbrev K.OT_FLAGS : Nat := 0x1160 * 256 + 0x03
/-- NT, 0x1200 (Table 2-2). -/
abbrev K.NT : Nat := 0x1200 * 256 + 0x01
/-- NT_FRAC, 0x1200 (Table 2-2). -/
abbrev K.NT_FRAC : Nat := 0x1200 * 256 + 0x02
/-- TSTATE, 0x1200 (Table 2-2). -/
abbrev K.TSTATE : Nat := 0x1200 * 256 + 0x03
/-- TSOURCE, 0x1200 (Table 2-2). -/
abbrev K.TSOURCE : Nat := 0x1200 * 256 + 0x04
/-- RATE, 0x1200 (Table 2-2). -/
abbrev K.RATE : Nat := 0x1200 * 256 + 0x05
/-- STEP, 0x1200 (Table 2-2). -/
abbrev K.STEP_1200 : Nat := 0x1200 * 256 + 0x06
/-- STEP_LIM, 0x1200 (Table 2-2). -/
abbrev K.STEP_LIM : Nat := 0x1200 * 256 + 0x07
/-- TFLAGS, 0x1200 (Table 2-2). -/
abbrev K.TFLAGS : Nat := 0x1200 * 256 + 0x08
/-- PENDING_OFS, 0x1200 (Table 2-2). -/
abbrev K.PENDING_OFS : Nat := 0x1200 * 256 + 0x09
/-- FLOOR_PCT, 0x1201 (Table 2-4). -/
abbrev K.FLOOR_PCT : Nat := 0x1201 * 256 + 0x01
/-- GUARD, 0x1201 (Table 2-4). -/
abbrev K.GUARD : Nat := 0x1201 * 256 + 0x02
/-- SYNC_NT, 0x1202 (Table 17-16). -/
abbrev K.SYNC_NT : Nat := 0x1202 * 256 + 0x01
/-- SYNC_CNT, 0x1202 (Table 17-16). -/
abbrev K.SYNC_CNT : Nat := 0x1202 * 256 + 0x02
/-- MIN_SLACK, 0x1210 (Table 2-5). -/
abbrev K.MIN_SLACK (i : Nat) : Nat := 0x1210 * 256 + (0x01 + i)
/-- BELOW_FLOOR, 0x1211 (Table 2-5). -/
abbrev K.BELOW_FLOOR (i : Nat) : Nat := 0x1211 * 256 + (0x01 + i)
/-- HELD, 0x1212 (Table 2-5). -/
abbrev K.HELD (i : Nat) : Nat := 0x1212 * 256 + (0x01 + i)
/-- V_SET, 0x1220 (Table 2-6). -/
abbrev K.V_SET : Nat := 0x1220 * 256 + 0x01
/-- V_MODE, 0x1220 (Table 2-6). -/
abbrev K.V_MODE : Nat := 0x1220 * 256 + 0x02
/-- V_FIXED, 0x1220 (Table 2-6). -/
abbrev K.V_FIXED : Nat := 0x1220 * 256 + 0x03
/-- V_MIN, 0x1220 (Table 2-6). -/
abbrev K.V_MIN : Nat := 0x1220 * 256 + 0x04
/-- V_MAX, 0x1220 (Table 2-6). -/
abbrev K.V_MAX : Nat := 0x1220 * 256 + 0x05
/-- PMB_ADDR, 0x1220 (Table 2-6). -/
abbrev K.PMB_ADDR : Nat := 0x1220 * 256 + 0x06
/-- V_STATUS, 0x1220 (Table 2-6). -/
abbrev K.V_STATUS : Nat := 0x1220 * 256 + 0x07
/-- FSI, 0x1220 (Table 2-6). -/
abbrev K.FSI : Nat := 0x1220 * 256 + 0x08
/-- PMB_RETRY, 0x1220 (Table 2-6). -/
abbrev K.PMB_RETRY : Nat := 0x1220 * 256 + 0x09
/-- V_READ, 0x1220 (Table 2-6). -/
abbrev K.V_READ : Nat := 0x1220 * 256 + 0x0A
/-- ROLE_CFG, 0x1300 (Table 14-8). -/
abbrev K.ROLE_CFG : Nat := 0x1300 * 256 + 0x01
/-- ROLE, 0x1300 (Table 14-8). -/
abbrev K.ROLE : Nat := 0x1300 * 256 + 0x02
/-- MEMBER, 0x1300 (Table 14-8). -/
abbrev K.MEMBER : Nat := 0x1300 * 256 + 0x03
/-- ADDR, 0x1300 (Table 14-8). -/
abbrev K.ADDR : Nat := 0x1300 * 256 + 0x04
/-- REQ_STATION, 0x1300 (Table 14-8). -/
abbrev K.REQ_STATION : Nat := 0x1300 * 256 + 0x05
/-- REQ_SEGMENT, 0x1300 (Table 14-8). -/
abbrev K.REQ_SEGMENT : Nat := 0x1300 * 256 + 0x06
/-- SERIAL, 0x1300 (Table 14-8). -/
abbrev K.SERIAL : Nat := 0x1300 * 256 + 0x07
/-- EPOCH, 0x1300 (Table 14-8). -/
abbrev K.EPOCH : Nat := 0x1300 * 256 + 0x08
/-- SEG_COUNT, 0x1300 (Table 14-8). -/
abbrev K.SEG_COUNT : Nat := 0x1300 * 256 + 0x09
/-- BREAK, 0x1300 (Table 14-8). -/
abbrev K.BREAK : Nat := 0x1300 * 256 + 0x0A
/-- ADDR_HOLD, 0x1300 (Table 14-8). -/
abbrev K.ADDR_HOLD : Nat := 0x1300 * 256 + 0x0B
/-- PMODE, 0x1310 (Table 14-9). -/
abbrev K.PMODE (p : Nat) : Nat := (0x1310 + p) * 256 + 0x01
/-- AN_EN, 0x1310 (Table 14-9). -/
abbrev K.AN_EN (p : Nat) : Nat := (0x1310 + p) * 256 + 0x02
/-- PLINK, 0x1310 (Table 14-9). -/
abbrev K.PLINK (p : Nat) : Nat := (0x1310 + p) * 256 + 0x03
/-- ASYM, 0x1310 (Table 14-9). -/
abbrev K.ASYM (p : Nat) : Nat := (0x1310 + p) * 256 + 0x04
/-- MEAN_DELAY, 0x1310 (Table 14-9). -/
abbrev K.MEAN_DELAY (p : Nat) : Nat := (0x1310 + p) * 256 + 0x05
/-- NBR, 0x1310 (Table 14-9). -/
abbrev K.NBR (p : Nat) : Nat := (0x1310 + p) * 256 + 0x06
/-- FCS_ERR, 0x1310 (Table 14-9). -/
abbrev K.FCS_ERR (p : Nat) : Nat := (0x1310 + p) * 256 + 0x07
/-- HCRC_ERR, 0x1310 (Table 14-9). -/
abbrev K.HCRC_ERR (p : Nat) : Nat := (0x1310 + p) * 256 + 0x08
/-- DROPPED, 0x1310 (Table 14-9). -/
abbrev K.DROPPED_1310 (p : Nat) : Nat := (0x1310 + p) * 256 + 0x09
/-- DUPS, 0x1310 (Table 14-9). -/
abbrev K.DUPS (p : Nat) : Nat := (0x1310 + p) * 256 + 0x0A
/-- LINK_DOWNS, 0x1310 (Table 14-9). -/
abbrev K.LINK_DOWNS_1310 (p : Nat) : Nat := (0x1310 + p) * 256 + 0x0B
/-- WRAPPING, 0x1310 (Table 14-9). -/
abbrev K.WRAPPING (p : Nat) : Nat := (0x1310 + p) * 256 + 0x0C
/-- PORTC_MODE, 0x1313 (Table 14-10). -/
abbrev K.PORTC_MODE : Nat := 0x1313 * 256 + 0x01
/-- PLANT_DELAY, 0x1313 (Table 14-10). -/
abbrev K.PLANT_DELAY : Nat := 0x1313 * 256 + 0x02
/-- ETYPE, 0x1320 (Table 14-11). -/
abbrev K.ETYPE : Nat := 0x1320 * 256 + 0x01
/-- LINK_TO, 0x1320 (Table 14-11). -/
abbrev K.LINK_TO : Nat := 0x1320 * 256 + 0x02
/-- LINK_HOLD, 0x1320 (Table 14-11). -/
abbrev K.LINK_HOLD : Nat := 0x1320 * 256 + 0x03
/-- MCAST, 0x1320 (Table 14-11). -/
abbrev K.MCAST (i : Nat) : Nat := 0x1320 * 256 + (0x04 + i)
/-- DUP_EVICT, 0x1320 (Table 14-11). -/
abbrev K.DUP_EVICT : Nat := 0x1320 * 256 + 0x08
/-- DOMAIN, 0x1330 (Table 14-12). -/
abbrev K.DOMAIN : Nat := 0x1330 * 256 + 0x01
/-- LOG_SYNC, 0x1330 (Table 14-12). -/
abbrev K.LOG_SYNC : Nat := 0x1330 * 256 + 0x02
/-- LOG_PDELAY, 0x1330 (Table 14-12). -/
abbrev K.LOG_PDELAY : Nat := 0x1330 * 256 + 0x03
/-- LOCK_TH, 0x1330 (Table 14-12). -/
abbrev K.LOCK_TH : Nat := 0x1330 * 256 + 0x04
/-- LOCK_N, 0x1330 (Table 14-12). -/
abbrev K.LOCK_N : Nat := 0x1330 * 256 + 0x05
/-- UNLOCK_TH, 0x1330 (Table 14-12). -/
abbrev K.UNLOCK_TH : Nat := 0x1330 * 256 + 0x06
/-- HOLD_N, 0x1330 (Table 14-12). -/
abbrev K.HOLD_N : Nat := 0x1330 * 256 + 0x07
/-- FREE_ROOT, 0x1330 (Table 14-12). -/
abbrev K.FREE_ROOT : Nat := 0x1330 * 256 + 0x08
/-- PPS_EN, 0x1330 (Table 14-12). -/
abbrev K.PPS_EN : Nat := 0x1330 * 256 + 0x09
/-- TOD_SEC, 0x1330 (Table 14-12). -/
abbrev K.TOD_SEC : Nat := 0x1330 * 256 + 0x0A
/-- TIME_PORT, 0x1330 (Table 14-12). -/
abbrev K.TIME_PORT : Nat := 0x1330 * 256 + 0x0B
/-- OFFSET, 0x1330 (Table 14-12). -/
abbrev K.OFFSET : Nat := 0x1330 * 256 + 0x0C
/-- LINK_STATE, 0x1400 (Table 13-2). -/
abbrev K.LINK_STATE : Nat := 0x1400 * 256 + 0x01
/-- SPEED, 0x1400 (Table 13-2). -/
abbrev K.SPEED : Nat := 0x1400 * 256 + 0x02
/-- WIDTH, 0x1400 (Table 13-2). -/
abbrev K.WIDTH : Nat := 0x1400 * 256 + 0x03
/-- LINK_FLAGS, 0x1400 (Table 13-2). -/
abbrev K.LINK_FLAGS : Nat := 0x1400 * 256 + 0x04
/-- MPS, 0x1400 (Table 13-2). -/
abbrev K.MPS : Nat := 0x1400 * 256 + 0x05
/-- LINK_DOWNS, 0x1400 (Table 13-2). -/
abbrev K.LINK_DOWNS_1400 : Nat := 0x1400 * 256 + 0x06
/-- Q_EN, 0x1410 (Table 13-5). -/
abbrev K.Q_EN (j : Nat) : Nat := (0x1410 + j) * 256 + 0x01
/-- BASE, 0x1410 (Table 13-5). -/
abbrev K.BASE (j : Nat) : Nat := (0x1410 + j) * 256 + 0x02
/-- LOG2SIZE, 0x1410 (Table 13-5). -/
abbrev K.LOG2SIZE (j : Nat) : Nat := (0x1410 + j) * 256 + 0x03
/-- SHADOW, 0x1410 (Table 13-5). -/
abbrev K.SHADOW (j : Nat) : Nat := (0x1410 + j) * 256 + 0x04
/-- CONS, 0x1410 (Table 13-5). -/
abbrev K.CONS (j : Nat) : Nat := (0x1410 + j) * 256 + 0x05
/-- PROD, 0x1410 (Table 13-5). -/
abbrev K.PROD (j : Nat) : Nat := (0x1410 + j) * 256 + 0x06
/-- VECTOR, 0x1410 (Table 13-5). -/
abbrev K.VECTOR (j : Nat) : Nat := (0x1410 + j) * 256 + 0x07
/-- MOD_COUNT, 0x1410 (Table 13-5). -/
abbrev K.MOD_COUNT (j : Nat) : Nat := (0x1410 + j) * 256 + 0x08
/-- MOD_TIME, 0x1410 (Table 13-5). -/
abbrev K.MOD_TIME (j : Nat) : Nat := (0x1410 + j) * 256 + 0x09
/-- Q_STATUS, 0x1410 (Table 13-5). -/
abbrev K.Q_STATUS (j : Nat) : Nat := (0x1410 + j) * 256 + 0x0A
/-- STAGED, 0x1410 (Table 13-5). -/
abbrev K.STAGED (j : Nat) : Nat := (0x1410 + j) * 256 + 0x0B
/-- DELIVERED, 0x1410 (Table 13-5). -/
abbrev K.DELIVERED (j : Nat) : Nat := (0x1410 + j) * 256 + 0x0C
/-- QUEUE, 0x1420 (Table 13-6). -/
abbrev K.QUEUE (i : Nat) : Nat := 0x1420 * 256 + (0x01 + i)
/-- LOST_TOTAL, 0x1430 (Table 13-6). -/
abbrev K.LOST_TOTAL (i : Nat) : Nat := 0x1430 * 256 + (0x01 + i)
/-- NEXT_SEQ, 0x1431 (Table 13-6). -/
abbrev K.NEXT_SEQ (i : Nat) : Nat := 0x1431 * 256 + (0x01 + i)
/-- STAGE_FILL, 0x1440 (Table 13-6). -/
abbrev K.STAGE_FILL : Nat := 0x1440 * 256 + 0x01
/-- STAGE_HIGH, 0x1440 (Table 13-6). -/
abbrev K.STAGE_HIGH : Nat := 0x1440 * 256 + 0x02
/-- DROPPED, 0x1440 (Table 13-6). -/
abbrev K.DROPPED_1440 : Nat := 0x1440 * 256 + 0x03
/-- STAGE_FLAGS, 0x1440 (Table 13-6). -/
abbrev K.STAGE_FLAGS : Nat := 0x1440 * 256 + 0x04
/-- FWD_MODE, 0x1450 (Table 13-7). -/
abbrev K.FWD_MODE : Nat := 0x1450 * 256 + 0x01
/-- FWD_HEAD, 0x1450 (Table 13-7). -/
abbrev K.FWD_HEAD : Nat := 0x1450 * 256 + 0x02
/-- FWD_STATE, 0x1450 (Table 13-7). -/
abbrev K.FWD_STATE : Nat := 0x1450 * 256 + 0x03
/-- FWD_SENT, 0x1450 (Table 13-7). -/
abbrev K.FWD_SENT : Nat := 0x1450 * 256 + 0x04
/-- FWD_QUEUE, 0x1450 (Table 13-7). -/
abbrev K.FWD_QUEUE : Nat := 0x1450 * 256 + 0x05
/-- FWD_RCVD, 0x1450 (Table 13-7). -/
abbrev K.FWD_RCVD : Nat := 0x1450 * 256 + 0x06
/-- FWD_GAPS, 0x1450 (Table 13-7). -/
abbrev K.FWD_GAPS : Nat := 0x1450 * 256 + 0x07
/-- FWD_PAIRS, 0x1450 (Table 13-7). -/
abbrev K.FWD_PAIRS : Nat := 0x1450 * 256 + 0x08
/-- T_GRACE, 0x2000 (Table 12-8). -/
abbrev K.T_GRACE : Nat := 0x2000 * 256 + 0x01
/-- T_STEP, 0x2000 (Table 12-8). -/
abbrev K.T_STEP : Nat := 0x2000 * 256 + 0x02
/-- T_PULSE, 0x2000 (Table 12-8). -/
abbrev K.T_PULSE : Nat := 0x2000 * 256 + 0x03
/-- ERR_SW, 0x2000 (Table 12-8). -/
abbrev K.ERR_SW : Nat := 0x2000 * 256 + 0x04
/-- ERR_STATE, 0x2000 (Table 12-8). -/
abbrev K.ERR_STATE : Nat := 0x2000 * 256 + 0x05
/-- SAFE_STOP_TO, 0x2000 (Table 12-8). -/
abbrev K.SAFE_STOP_TO : Nat := 0x2000 * 256 + 0x06
/-- INCIDENTS, 0x2000 (Table 12-8). -/
abbrev K.INCIDENTS_2000 : Nat := 0x2000 * 256 + 0x07
/-- INC_NO, 0x2010 (Table 12-9). -/
abbrev K.INC_NO : Nat := 0x2010 * 256 + 0x01
/-- INC_OPEN, 0x2010 (Table 12-9). -/
abbrev K.INC_OPEN : Nat := 0x2010 * 256 + 0x02
/-- INC_NT, 0x2010 (Table 12-9). -/
abbrev K.INC_NT_2010 : Nat := 0x2010 * 256 + 0x03
/-- FIRST_SRC, 0x2010 (Table 12-9). -/
abbrev K.FIRST_SRC : Nat := 0x2010 * 256 + 0x04
/-- MERGES, 0x2010 (Table 12-9). -/
abbrev K.MERGES : Nat := 0x2010 * 256 + 0x05
/-- STEP, 0x2010 (Table 12-9). -/
abbrev K.STEP_2010 : Nat := 0x2010 * 256 + 0x06
/-- CEIL, 0x2010 (Table 12-9). -/
abbrev K.CEIL : Nat := 0x2010 * 256 + 0x07
/-- NEXT_STEP_NT, 0x2010 (Table 12-9). -/
abbrev K.NEXT_STEP_NT : Nat := 0x2010 * 256 + 0x08
/-- ACK, 0x2010 (Table 12-9). -/
abbrev K.ACK : Nat := 0x2010 * 256 + 0x09
/-- SRC_MAP, 0x2010 (Table 12-9). -/
abbrev K.SRC_MAP (i : Nat) : Nat := 0x2010 * 256 + (0x0A + i)
/-- LOG_HEAD, 0x2020 (Table 12-11). -/
abbrev K.LOG_HEAD : Nat := 0x2020 * 256 + 0x01
/-- LOG_TOTAL, 0x2020 (Table 12-11). -/
abbrev K.LOG_TOTAL : Nat := 0x2020 * 256 + 0x02
/-- LOG_CLEAR, 0x2020 (Table 12-11). -/
abbrev K.LOG_CLEAR : Nat := 0x2020 * 256 + 0x03
/-- ENTRY, 0x2020 (Table 12-11). -/
abbrev K.ENTRY (i : Nat) : Nat := 0x2020 * 256 + (0x10 + i)
/-- INJ_TARGET, 0x2030 (Table 12-14). -/
abbrev K.INJ_TARGET : Nat := 0x2030 * 256 + 0x01
/-- INJ_INST, 0x2030 (Table 12-14). -/
abbrev K.INJ_INST : Nat := 0x2030 * 256 + 0x02
/-- INJ_N, 0x2030 (Table 12-14). -/
abbrev K.INJ_N : Nat := 0x2030 * 256 + 0x03
/-- INJ_GO, 0x2030 (Table 12-14). -/
abbrev K.INJ_GO : Nat := 0x2030 * 256 + 0x04
/-- INJ_LEFT, 0x2030 (Table 12-14). -/
abbrev K.INJ_LEFT : Nat := 0x2030 * 256 + 0x05
/-- INJ_STOP, 0x2030 (Table 12-14). -/
abbrev K.INJ_STOP : Nat := 0x2030 * 256 + 0x06
/-- INJ_TOTAL, 0x2030 (Table 12-14). -/
abbrev K.INJ_TOTAL : Nat := 0x2030 * 256 + 0x07
/-- CFG, 0x2400 (Table 12-4). -/
abbrev K.CFG (id : Nat) : Nat := (0x2400 + id) * 256 + 0x01
/-- N, 0x2400 (Table 12-4). -/
abbrev K.N (id : Nat) : Nat := (0x2400 + id) * 256 + 0x02
/-- W, 0x2400 (Table 12-4). -/
abbrev K.W (id : Nat) : Nat := (0x2400 + id) * 256 + 0x03
/-- COUNT, 0x2400 (Table 12-4). -/
abbrev K.COUNT_2400 (id : Nat) : Nat := (0x2400 + id) * 256 + 0x04
/-- SEVERE, 0x2400 (Table 12-4). -/
abbrev K.SEVERE (id : Nat) : Nat := (0x2400 + id) * 256 + 0x05
/-- LAST_NT, 0x2400 (Table 12-4). -/
abbrev K.LAST_NT (id : Nat) : Nat := (0x2400 + id) * 256 + 0x06
/-- SRC_STATUS, 0x2400 (Table 12-4). -/
abbrev K.SRC_STATUS (id : Nat) : Nat := (0x2400 + id) * 256 + 0x07
/-- MAINT_MAP, 0x2800 (Table 11-9). -/
abbrev K.MAINT_MAP : Nat := 0x2800 * 256 + 0x01
/-- CE_TOTAL, 0x2800 (Table 11-9). -/
abbrev K.CE_TOTAL : Nat := 0x2800 * 256 + 0x02
/-- UE_TOTAL, 0x2800 (Table 11-9). -/
abbrev K.UE_TOTAL : Nat := 0x2800 * 256 + 0x03
/-- LAST_UE, 0x2800 (Table 11-9). -/
abbrev K.LAST_UE : Nat := 0x2800 * 256 + 0x04
/-- LAST_UE_NT, 0x2800 (Table 11-9). -/
abbrev K.LAST_UE_NT : Nat := 0x2800 * 256 + 0x05
/-- BAR2_DROP, 0x2800 (Table 11-9). -/
abbrev K.BAR2_DROP : Nat := 0x2800 * 256 + 0x06
/-- WRITE_LOST, 0x2800 (Table 11-9). -/
abbrev K.WRITE_LOST : Nat := 0x2800 * 256 + 0x07
/-- SCRUB_MS, 0x2800 (Table 11-9). -/
abbrev K.SCRUB_MS : Nat := 0x2800 * 256 + 0x08
/-- SCRUB_NT, 0x2800 (Table 11-9). -/
abbrev K.SCRUB_NT : Nat := 0x2800 * 256 + 0x09
/-- START_PASS, 0x2800 (Table 11-9). -/
abbrev K.START_PASS : Nat := 0x2800 * 256 + 0x0A
/-- OWNER, 0x2810 (Table 11-10). -/
abbrev K.OWNER (b : Nat) : Nat := (0x2810 + b) * 256 + 0x01
/-- STATE, 0x2810 (Table 11-10). -/
abbrev K.STATE_2810 (b : Nat) : Nat := (0x2810 + b) * 256 + 0x02
/-- NEXT_OWNER, 0x2810 (Table 11-10). -/
abbrev K.NEXT_OWNER (b : Nat) : Nat := (0x2810 + b) * 256 + 0x03
/-- HAND, 0x2810 (Table 11-10). -/
abbrev K.HAND (b : Nat) : Nat := (0x2810 + b) * 256 + 0x04
/-- ACCEPT, 0x2810 (Table 11-10). -/
abbrev K.ACCEPT (b : Nat) : Nat := (0x2810 + b) * 256 + 0x05
/-- HAND_RESULT, 0x2810 (Table 11-10). -/
abbrev K.HAND_RESULT (b : Nat) : Nat := (0x2810 + b) * 256 + 0x06
/-- HAND_TO, 0x2810 (Table 11-10). -/
abbrev K.HAND_TO (b : Nat) : Nat := (0x2810 + b) * 256 + 0x07
/-- CE, 0x2810 (Table 11-10). -/
abbrev K.CE (b : Nat) : Nat := (0x2810 + b) * 256 + 0x08
/-- UE, 0x2810 (Table 11-10). -/
abbrev K.UE (b : Nat) : Nat := (0x2810 + b) * 256 + 0x09
/-- REFUSED, 0x2810 (Table 11-10). -/
abbrev K.REFUSED_2810 (b : Nat) : Nat := (0x2810 + b) * 256 + 0x0A
/-- TEST_MODE, 0x2810 (Table 11-10). -/
abbrev K.TEST_MODE (b : Nat) : Nat := (0x2810 + b) * 256 + 0x0B
/-- TEST, 0x2810 (Table 11-10). -/
abbrev K.TEST (b : Nat) : Nat := (0x2810 + b) * 256 + 0x0C
/-- TEST_RESULT, 0x2810 (Table 11-10). -/
abbrev K.TEST_RESULT (b : Nat) : Nat := (0x2810 + b) * 256 + 0x0D
/-- SPARES, 0x2810 (Table 11-10). -/
abbrev K.SPARES_2810 (b : Nat) : Nat := (0x2810 + b) * 256 + 0x0E
/-- PHYS, 0x2810 (Table 11-10). -/
abbrev K.PHYS (b : Nat) : Nat := (0x2810 + b) * 256 + 0x0F
/-- WIN_BANK, 0x2880 (Table 11-11). -/
abbrev K.WIN_BANK : Nat := 0x2880 * 256 + 0x01
/-- WIN_OFS, 0x2880 (Table 11-11). -/
abbrev K.WIN_OFS : Nat := 0x2880 * 256 + 0x02
/-- WIN_DATA, 0x2880 (Table 11-11). -/
abbrev K.WIN_DATA : Nat := 0x2880 * 256 + 0x03
/-- WIN_BLOCK, 0x2880 (Table 11-11). -/
abbrev K.WIN_BLOCK (i : Nat) : Nat := 0x2880 * 256 + (0x10 + i)
/-- FRAY_EN, 0x2900 (Table 15-6). -/
abbrev K.FRAY_EN : Nat := 0x2900 * 256 + 0x01
/-- FRAY_INT, 0x2900 (Table 15-6). -/
abbrev K.FRAY_INT : Nat := 0x2900 * 256 + 0x02
/-- POLICY, 0x2900 (Table 15-6). -/
abbrev K.POLICY_2900 : Nat := 0x2900 * 256 + 0x03
/-- SAMPLES, 0x2900 (Table 15-6). -/
abbrev K.SAMPLES : Nat := 0x2900 * 256 + 0x04
/-- SPARES, 0x2900 (Table 15-6). -/
abbrev K.SPARES_2900 : Nat := 0x2900 * 256 + 0x05
/-- NOSPARE, 0x2900 (Table 15-6). -/
abbrev K.NOSPARE : Nat := 0x2900 * 256 + 0x06
/-- PATCH_TOL, 0x2900 (Table 15-6). -/
abbrev K.PATCH_TOL : Nat := 0x2900 * 256 + 0x07
/-- REQ_KIND, 0x2902 (Table 15-7). -/
abbrev K.REQ_KIND : Nat := 0x2902 * 256 + 0x01
/-- REQ_INST, 0x2902 (Table 15-7). -/
abbrev K.REQ_INST : Nat := 0x2902 * 256 + 0x02
/-- REQ_SUB, 0x2902 (Table 15-7). -/
abbrev K.REQ_SUB : Nat := 0x2902 * 256 + 0x03
/-- REQ_GO, 0x2902 (Table 15-7). -/
abbrev K.REQ_GO : Nat := 0x2902 * 256 + 0x04
/-- REQ_RESULT, 0x2902 (Table 15-7). -/
abbrev K.REQ_RESULT : Nat := 0x2902 * 256 + 0x05
/-- P_STATE, 0x2902 (Table 15-7). -/
abbrev K.P_STATE : Nat := 0x2902 * 256 + 0x06
/-- P_AXIS, 0x2902 (Table 15-7). -/
abbrev K.P_AXIS : Nat := 0x2902 * 256 + 0x07
/-- P_SPARE, 0x2902 (Table 15-7). -/
abbrev K.P_SPARE : Nat := 0x2902 * 256 + 0x08
/-- MATCHED, 0x2902 (Table 15-7). -/
abbrev K.MATCHED : Nat := 0x2902 * 256 + 0x09
/-- P_CAUSE, 0x2902 (Table 15-7). -/
abbrev K.P_CAUSE : Nat := 0x2902 * 256 + 0x0A
/-- P_START_NT, 0x2902 (Table 15-7). -/
abbrev K.P_START_NT : Nat := 0x2902 * 256 + 0x0B
/-- P_END_NT, 0x2902 (Table 15-7). -/
abbrev K.P_END_NT : Nat := 0x2902 * 256 + 0x0C
/-- PATCHES, 0x2902 (Table 15-7). -/
abbrev K.PATCHES : Nat := 0x2902 * 256 + 0x0D
/-- SLK_WARN, 0x2908 (Table 15-3). -/
abbrev K.SLK_WARN : Nat := 0x2908 * 256 + 0x01
/-- SLK_PATCH, 0x2908 (Table 15-3). -/
abbrev K.SLK_PATCH : Nat := 0x2908 * 256 + 0x02
/-- RO_WARN, 0x2908 (Table 15-3). -/
abbrev K.RO_WARN : Nat := 0x2908 * 256 + 0x03
/-- RO_PATCH, 0x2908 (Table 15-3). -/
abbrev K.RO_PATCH : Nat := 0x2908 * 256 + 0x04
/-- ADC_WARN, 0x2908 (Table 15-3). -/
abbrev K.ADC_WARN : Nat := 0x2908 * 256 + 0x05
/-- ADC_PATCH, 0x2908 (Table 15-3). -/
abbrev K.ADC_PATCH : Nat := 0x2908 * 256 + 0x06
/-- SEG_WARN, 0x2908 (Table 15-3). -/
abbrev K.SEG_WARN : Nat := 0x2908 * 256 + 0x07
/-- SEG_PATCH, 0x2908 (Table 15-3). -/
abbrev K.SEG_PATCH : Nat := 0x2908 * 256 + 0x08
/-- LANE_WARN, 0x2908 (Table 15-3). -/
abbrev K.LANE_WARN : Nat := 0x2908 * 256 + 0x09
/-- LANE_PATCH, 0x2908 (Table 15-3). -/
abbrev K.LANE_PATCH : Nat := 0x2908 * 256 + 0x0A
/-- COL_WARN, 0x2908 (Table 15-3). -/
abbrev K.COL_WARN : Nat := 0x2908 * 256 + 0x0B
/-- COL_PATCH, 0x2908 (Table 15-3). -/
abbrev K.COL_PATCH : Nat := 0x2908 * 256 + 0x0C
/-- SLACK_M, 0x2910 (Table 15-8). -/
abbrev K.SLACK_M (s : Nat) : Nat := (0x2910 + s) * 256 + 0x01
/-- RO_WEAR, 0x2910 (Table 15-8). -/
abbrev K.RO_WEAR_2910 (s : Nat) : Nat := (0x2910 + s) * 256 + 0x02
/-- HOURS, 0x2910 (Table 15-8). -/
abbrev K.HOURS (s : Nat) : Nat := (0x2910 + s) * 256 + 0x03
/-- MISMATCH, 0x2910 (Table 15-8). -/
abbrev K.MISMATCH (s : Nat) : Nat := (0x2910 + s) * 256 + 0x04
/-- ADC_MAP, 0x2930 (Table 15-8). -/
abbrev K.ADC_MAP (q : Nat) : Nat := (0x2930 + q) * 256 + 0x01
/-- ADC_DRIFT, 0x2930 (Table 15-8). -/
abbrev K.ADC_DRIFT (q : Nat) : Nat := (0x2930 + q) * 256 + 0x02
/-- LANE_CRC, 0x2930 (Table 15-8). -/
abbrev K.LANE_CRC (q : Nat) : Nat := (0x2930 + q) * 256 + 0x03
/-- RO_WEAR, 0x2930 (Table 15-8). -/
abbrev K.RO_WEAR_2930 (q : Nat) : Nat := (0x2930 + q) * 256 + 0x04
/-- SEGMAP, 0x2940 (Table 15-8). -/
abbrev K.SEGMAP (l i : Nat) : Nat := (0x2940 + l) * 256 + (0x01 + i)
/-- SEG_DRIFT, 0x2940 (Table 15-8). -/
abbrev K.SEG_DRIFT (l : Nat) : Nat := (0x2940 + l) * 256 + 0x05
/-- COL_CE, 0x2980 (Table 15-8). -/
abbrev K.COL_CE (b : Nat) : Nat := (0x2980 + b) * 256 + 0x01
/-- COL_ID, 0x2980 (Table 15-8). -/
abbrev K.COL_ID (b : Nat) : Nat := (0x2980 + b) * 256 + 0x02
/-- STORE_USED, 0x29A0 (Table 15-9). -/
abbrev K.STORE_USED : Nat := 0x29A0 * 256 + 0x01
/-- STORE_BAD, 0x29A0 (Table 15-9). -/
abbrev K.STORE_BAD : Nat := 0x29A0 * 256 + 0x02
/-- RECORD, 0x29A0 (Table 15-9). -/
abbrev K.RECORD (i : Nat) : Nat := 0x29A0 * 256 + (0x10 + i)
/-- BUILD, 0x2F00 (Table 18-1). -/
abbrev K.BUILD : Nat := 0x2F00 * 256 + 0x01
/-- ENV_STATE, 0x2F00 (Table 18-1). -/
abbrev K.ENV_STATE : Nat := 0x2F00 * 256 + 0x02
/-- ENV_SIZE, 0x2F00 (Table 18-1). -/
abbrev K.ENV_SIZE : Nat := 0x2F00 * 256 + 0x03
/-- BUILD_NT, 0x2F00 (Table 18-1). -/
abbrev K.BUILD_NT : Nat := 0x2F00 * 256 + 0x04
/-- ENV_CRC, 0x2F00 (Table 18-1). -/
abbrev K.ENV_CRC : Nat := 0x2F00 * 256 + 0x05
/-- BUILDS, 0x2F00 (Table 18-1). -/
abbrev K.BUILDS : Nat := 0x2F00 * 256 + 0x06
/-- FILL, 0x3000 (Table 5-5). -/
abbrev K.FILL : Nat := 0x3000 * 256 + 0x01
/-- HIGH_WATER, 0x3000 (Table 5-5). -/
abbrev K.HIGH_WATER : Nat := 0x3000 * 256 + 0x02
/-- LATE_POLICY, 0x3000 (Table 5-5). -/
abbrev K.LATE_POLICY : Nat := 0x3000 * 256 + 0x03
/-- HORIZON, 0x3000 (Table 5-5). -/
abbrev K.HORIZON : Nat := 0x3000 * 256 + 0x04
/-- ACCEPTED, 0x3000 (Table 5-5). -/
abbrev K.ACCEPTED : Nat := 0x3000 * 256 + 0x05
/-- REFUSED, 0x3000 (Table 5-5). -/
abbrev K.REFUSED_3000 : Nat := 0x3000 * 256 + 0x06
/-- LATE, 0x3000 (Table 5-5). -/
abbrev K.LATE : Nat := 0x3000 * 256 + 0x07
/-- CANCEL_TAG, 0x3000 (Table 5-5). -/
abbrev K.CANCEL_TAG : Nat := 0x3000 * 256 + 0x08
/-- CANCEL, 0x3000 (Table 5-5). -/
abbrev K.CANCEL : Nat := 0x3000 * 256 + 0x09
/-- CANCELLED, 0x3000 (Table 5-5). -/
abbrev K.CANCELLED : Nat := 0x3000 * 256 + 0x0A
/-- NEXT_DUE, 0x3000 (Table 5-5). -/
abbrev K.NEXT_DUE : Nat := 0x3000 * 256 + 0x0B
/-- SYNC_LEVEL, 0x3000 (Table 5-5). -/
abbrev K.SYNC_LEVEL : Nat := 0x3000 * 256 + 0x0C
/-- POLICY, 0x3001 (Table 5-10). -/
abbrev K.POLICY_3001 (i : Nat) : Nat := 0x3001 * 256 + (0x01 + i)
/-- PRIME, 0x3002 (Table 5-11). -/
abbrev K.PRIME (i : Nat) : Nat := 0x3002 * 256 + (0x01 + i)
/-- STATE, 0x3100 (Table 5-8). -/
abbrev K.STATE_3100 (p : Nat) : Nat := (0x3100 + p) * 256 + 0x01
/-- FIRST, 0x3100 (Table 5-8). -/
abbrev K.FIRST (p : Nat) : Nat := (0x3100 + p) * 256 + 0x02
/-- COUNT, 0x3100 (Table 5-8). -/
abbrev K.COUNT_3100 (p : Nat) : Nat := (0x3100 + p) * 256 + 0x03
/-- VALIDATE, 0x3100 (Table 5-8). -/
abbrev K.VALIDATE (p : Nat) : Nat := (0x3100 + p) * 256 + 0x04
/-- VAL_RESULT, 0x3100 (Table 5-8). -/
abbrev K.VAL_RESULT (p : Nat) : Nat := (0x3100 + p) * 256 + 0x05
/-- DURATION, 0x3100 (Table 5-8). -/
abbrev K.DURATION (p : Nat) : Nat := (0x3100 + p) * 256 + 0x06
/-- MAX_VEL, 0x3100 (Table 5-8). -/
abbrev K.MAX_VEL (p : Nat) : Nat := (0x3100 + p) * 256 + 0x07
/-- PCRC, 0x3100 (Table 5-8). -/
abbrev K.PCRC (p : Nat) : Nat := (0x3100 + p) * 256 + 0x08
/-- USE, 0x3100 (Table 5-8). -/
abbrev K.USE (p : Nat) : Nat := (0x3100 + p) * 256 + 0x09
/-- CONTROL, 0x4000 (Table 4-2). -/
abbrev K.CONTROL (n : Nat) : Nat := (0x4000 + 0x40 * n) * 256 + 0x01
/-- STATE, 0x4000 (Table 4-2). -/
abbrev K.STATE_4000 (n : Nat) : Nat := (0x4000 + 0x40 * n) * 256 + 0x02
/-- STATUS, 0x4000 (Table 4-2). -/
abbrev K.STATUS (n : Nat) : Nat := (0x4000 + 0x40 * n) * 256 + 0x03
/-- EVENTS, 0x4000 (Table 4-2). -/
abbrev K.EVENTS (n : Nat) : Nat := (0x4000 + 0x40 * n) * 256 + 0x04
/-- EVT_EN, 0x4000 (Table 4-2). -/
abbrev K.EVT_EN (n : Nat) : Nat := (0x4000 + 0x40 * n) * 256 + 0x05
/-- SHAPE, 0x4001 (Table 4-6). -/
abbrev K.SHAPE (n : Nat) : Nat := (0x4001 + 0x40 * n) * 256 + 0x01
/-- OPTIONS, 0x4001 (Table 4-6). -/
abbrev K.OPTIONS (n : Nat) : Nat := (0x4001 + 0x40 * n) * 256 + 0x02
/-- T_REV, 0x4001 (Table 4-6). -/
abbrev K.T_REV (n : Nat) : Nat := (0x4001 + 0x40 * n) * 256 + 0x03
/-- V_LIM, 0x4010 (Table 4-7). -/
abbrev K.V_LIM (n : Nat) : Nat := (0x4010 + 0x40 * n) * 256 + 0x01
/-- A_LIM, 0x4010 (Table 4-7). -/
abbrev K.A_LIM (n : Nat) : Nat := (0x4010 + 0x40 * n) * 256 + 0x02
/-- D_LIM, 0x4010 (Table 4-7). -/
abbrev K.D_LIM (n : Nat) : Nat := (0x4010 + 0x40 * n) * 256 + 0x03
/-- J_LIM, 0x4010 (Table 4-7). -/
abbrev K.J_LIM (n : Nat) : Nat := (0x4010 + 0x40 * n) * 256 + 0x04
/-- D_STOP, 0x4010 (Table 4-7). -/
abbrev K.D_STOP (n : Nat) : Nat := (0x4010 + 0x40 * n) * 256 + 0x05
/-- TARGET, 0x4020 (Table 4-8). -/
abbrev K.TARGET (n : Nat) : Nat := (0x4020 + 0x40 * n) * 256 + 0x01
/-- TARGET_VEL, 0x4020 (Table 4-8). -/
abbrev K.TARGET_VEL (n : Nat) : Nat := (0x4020 + 0x40 * n) * 256 + 0x02
/-- CMD_POS, 0x4020 (Table 4-8). -/
abbrev K.CMD_POS (n : Nat) : Nat := (0x4020 + 0x40 * n) * 256 + 0x03
/-- CMD_VEL, 0x4020 (Table 4-8). -/
abbrev K.CMD_VEL (n : Nat) : Nat := (0x4020 + 0x40 * n) * 256 + 0x04
/-- CMD_ACC, 0x4020 (Table 4-8). -/
abbrev K.CMD_ACC (n : Nat) : Nat := (0x4020 + 0x40 * n) * 256 + 0x05
/-- CMD_NT, 0x4020 (Table 4-8). -/
abbrev K.CMD_NT (n : Nat) : Nat := (0x4020 + 0x40 * n) * 256 + 0x06
/-- POS_SET, 0x4020 (Table 4-8). -/
abbrev K.POS_SET (n : Nat) : Nat := (0x4020 + 0x40 * n) * 256 + 0x07
/-- LAND_NT, 0x4020 (Table 4-8). -/
abbrev K.LAND_NT (n : Nat) : Nat := (0x4020 + 0x40 * n) * 256 + 0x08
/-- SRC, 0x4030 (Table 4-9). -/
abbrev K.SRC (n : Nat) : Nat := (0x4030 + 0x40 * n) * 256 + 0x01
/-- MASTER, 0x4030 (Table 4-9). -/
abbrev K.MASTER (n : Nat) : Nat := (0x4030 + 0x40 * n) * 256 + 0x02
/-- GEAR_NUM, 0x4030 (Table 4-9). -/
abbrev K.GEAR_NUM (n : Nat) : Nat := (0x4030 + 0x40 * n) * 256 + 0x03
/-- GEAR_DEN, 0x4030 (Table 4-9). -/
abbrev K.GEAR_DEN (n : Nat) : Nat := (0x4030 + 0x40 * n) * 256 + 0x04
/-- STEP_UST, 0x4030 (Table 4-9). -/
abbrev K.STEP_UST (n : Nat) : Nat := (0x4030 + 0x40 * n) * 256 + 0x05
/-- STEP_CFG, 0x4030 (Table 4-9). -/
abbrev K.STEP_CFG (n : Nat) : Nat := (0x4030 + 0x40 * n) * 256 + 0x06
/-- INTERP, 0x4030 (Table 4-9). -/
abbrev K.INTERP (n : Nat) : Nat := (0x4030 + 0x40 * n) * 256 + 0x07
/-- CHASE, 0x4030 (Table 4-9). -/
abbrev K.CHASE (n : Nat) : Nat := (0x4030 + 0x40 * n) * 256 + 0x08
/-- STREAM_FILL, 0x4030 (Table 4-9). -/
abbrev K.STREAM_FILL (n : Nat) : Nat := (0x4030 + 0x40 * n) * 256 + 0x09
/-- FOLLOW_ERR, 0x4030 (Table 4-9). -/
abbrev K.FOLLOW_ERR (n : Nat) : Nat := (0x4030 + 0x40 * n) * 256 + 0x0A
/-- LIMIT_MODE, 0x4400 (Table 6-6). -/
abbrev K.LIMIT_MODE (n : Nat) : Nat := (0x4400 + 0x40 * n) * 256 + 0x01
/-- PHASE_TRIM, 0x4400 (Table 6-6). -/
abbrev K.PHASE_TRIM (n : Nat) : Nat := (0x4400 + 0x40 * n) * 256 + 0x02
/-- BAL_TRIM, 0x4400 (Table 6-6). -/
abbrev K.BAL_TRIM (n : Nat) : Nat := (0x4400 + 0x40 * n) * 256 + 0x03
/-- EMF_GAIN, 0x4400 (Table 6-6). -/
abbrev K.EMF_GAIN (n : Nat) : Nat := (0x4400 + 0x40 * n) * 256 + 0x04
/-- CC_STATUS, 0x4400 (Table 6-6). -/
abbrev K.CC_STATUS (n : Nat) : Nat := (0x4400 + 0x40 * n) * 256 + 0x05
/-- I_TGT, 0x4400 (Table 6-6). -/
abbrev K.I_TGT (n : Nat) : Nat := (0x4400 + 0x40 * n) * 256 + 0x06
/-- I_EST, 0x4400 (Table 6-6). -/
abbrev K.I_EST (n : Nat) : Nat := (0x4400 + 0x40 * n) * 256 + 0x07
/-- EMF, 0x4400 (Table 6-6). -/
abbrev K.EMF (n : Nat) : Nat := (0x4400 + 0x40 * n) * 256 + 0x08
/-- VLIM_CNT, 0x4400 (Table 6-6). -/
abbrev K.VLIM_CNT (n : Nat) : Nat := (0x4400 + 0x40 * n) * 256 + 0x09
/-- SENSE_CNT, 0x4400 (Table 6-6). -/
abbrev K.SENSE_CNT (n : Nat) : Nat := (0x4400 + 0x40 * n) * 256 + 0x0A
/-- AMP_FACTOR, 0x4400 (Table 6-6). -/
abbrev K.AMP_FACTOR (n : Nat) : Nat := (0x4400 + 0x40 * n) * 256 + 0x0B
/-- R_DEF, 0x4401 (Table 6-9). -/
abbrev K.R_DEF (n : Nat) : Nat := (0x4401 + 0x40 * n) * 256 + 0x01
/-- L_DEF, 0x4401 (Table 6-9). -/
abbrev K.L_DEF (n : Nat) : Nat := (0x4401 + 0x40 * n) * 256 + 0x02
/-- V_DIODE, 0x4401 (Table 6-9). -/
abbrev K.V_DIODE (n : Nat) : Nat := (0x4401 + 0x40 * n) * 256 + 0x03
/-- ID_RANGE, 0x4401 (Table 6-9). -/
abbrev K.ID_RANGE (n : Nat) : Nat := (0x4401 + 0x40 * n) * 256 + 0x04
/-- R_A, 0x4402 (Table 6-10). -/
abbrev K.R_A (n : Nat) : Nat := (0x4402 + 0x40 * n) * 256 + 0x01
/-- R_B, 0x4402 (Table 6-10). -/
abbrev K.R_B (n : Nat) : Nat := (0x4402 + 0x40 * n) * 256 + 0x02
/-- R_LIVE_A, 0x4402 (Table 6-10). -/
abbrev K.R_LIVE_A (n : Nat) : Nat := (0x4402 + 0x40 * n) * 256 + 0x03
/-- R_LIVE_B, 0x4402 (Table 6-10). -/
abbrev K.R_LIVE_B (n : Nat) : Nat := (0x4402 + 0x40 * n) * 256 + 0x04
/-- ID_RESULT, 0x4402 (Table 6-10). -/
abbrev K.ID_RESULT (n : Nat) : Nat := (0x4402 + 0x40 * n) * 256 + 0x05
/-- ID_NT, 0x4402 (Table 6-10). -/
abbrev K.ID_NT (n : Nat) : Nat := (0x4402 + 0x40 * n) * 256 + 0x06
/-- ID_TIME, 0x4402 (Table 6-10). -/
abbrev K.ID_TIME (n : Nat) : Nat := (0x4402 + 0x40 * n) * 256 + 0x07
/-- ISTEP, 0x4402 (Table 6-10). -/
abbrev K.ISTEP (n : Nat) : Nat := (0x4402 + 0x40 * n) * 256 + 0x08
/-- L_A(k), 0x4403 (Table 6-11). -/
abbrev K.L_A (n i : Nat) : Nat := (0x4403 + 0x40 * n) * 256 + (0x01 + i)
/-- L_B(k), 0x4403 (Table 6-11). -/
abbrev K.L_B (n i : Nat) : Nat := (0x4403 + 0x40 * n) * 256 + (0x11 + i)
/-- TEST_EN, 0x4404 (Table 6-12). -/
abbrev K.TEST_EN (n : Nat) : Nat := (0x4404 + 0x40 * n) * 256 + 0x01
/-- TEST_STEPS, 0x4404 (Table 6-12). -/
abbrev K.TEST_STEPS (n : Nat) : Nat := (0x4404 + 0x40 * n) * 256 + 0x02
/-- TEST_HOLD, 0x4404 (Table 6-12). -/
abbrev K.TEST_HOLD (n : Nat) : Nat := (0x4404 + 0x40 * n) * 256 + 0x03
/-- TEST_TGT_m, 0x4404 (Table 6-12). -/
abbrev K.TEST_TGT_m (n i : Nat) : Nat := (0x4404 + 0x40 * n) * 256 + (0x04 + i)
/-- STEP_RATIO_m, 0x4404 (Table 6-12). -/
abbrev K.STEP_RATIO_m (n i : Nat) : Nat := (0x4404 + 0x40 * n) * 256 + (0x0C + i)
/-- CAP_EN, 0x4405 (Table 6-13). -/
abbrev K.CAP_EN (n : Nat) : Nat := (0x4405 + 0x40 * n) * 256 + 0x01
/-- CAP_STOP, 0x4405 (Table 6-13). -/
abbrev K.CAP_STOP (n : Nat) : Nat := (0x4405 + 0x40 * n) * 256 + 0x02
/-- CAP_NEXT, 0x4405 (Table 6-13). -/
abbrev K.CAP_NEXT (n : Nat) : Nat := (0x4405 + 0x40 * n) * 256 + 0x03
/-- CAP_WRAPS, 0x4405 (Table 6-13). -/
abbrev K.CAP_WRAPS (n : Nat) : Nat := (0x4405 + 0x40 * n) * 256 + 0x04
/-- I_RUN, 0x4410 (Table 7-1). -/
abbrev K.I_RUN (n : Nat) : Nat := (0x4410 + 0x40 * n) * 256 + 0x01
/-- I_RUN_MIN, 0x4410 (Table 7-1). -/
abbrev K.I_RUN_MIN (n : Nat) : Nat := (0x4410 + 0x40 * n) * 256 + 0x02
/-- I_MAX, 0x4410 (Table 7-1). -/
abbrev K.I_MAX (n : Nat) : Nat := (0x4410 + 0x40 * n) * 256 + 0x03
/-- I_REST, 0x4410 (Table 7-1). -/
abbrev K.I_REST (n : Nat) : Nat := (0x4410 + 0x40 * n) * 256 + 0x04
/-- I_AMP, 0x4410 (Table 7-1). -/
abbrev K.I_AMP (n : Nat) : Nat := (0x4410 + 0x40 * n) * 256 + 0x05
/-- AMP_SRC, 0x4410 (Table 7-1). -/
abbrev K.AMP_SRC (n : Nat) : Nat := (0x4410 + 0x40 * n) * 256 + 0x06
/-- V_OBS, 0x4411 (Table 7-3). -/
abbrev K.V_OBS (n : Nat) : Nat := (0x4411 + 0x40 * n) * 256 + 0x01
/-- OBS_FILT, 0x4411 (Table 7-3). -/
abbrev K.OBS_FILT (n : Nat) : Nat := (0x4411 + 0x40 * n) * 256 + 0x02
/-- OBS_STATUS, 0x4411 (Table 7-3). -/
abbrev K.OBS_STATUS (n : Nat) : Nat := (0x4411 + 0x40 * n) * 256 + 0x03
/-- LOAD_ANGLE, 0x4411 (Table 7-3). -/
abbrev K.LOAD_ANGLE (n : Nat) : Nat := (0x4411 + 0x40 * n) * 256 + 0x04
/-- LOAD_FILT, 0x4411 (Table 7-3). -/
abbrev K.LOAD_FILT (n : Nat) : Nat := (0x4411 + 0x40 * n) * 256 + 0x05
/-- EMF_MAG, 0x4411 (Table 7-3). -/
abbrev K.EMF_MAG (n : Nat) : Nat := (0x4411 + 0x40 * n) * 256 + 0x06
/-- KE, 0x4411 (Table 7-3). -/
abbrev K.KE (n : Nat) : Nat := (0x4411 + 0x40 * n) * 256 + 0x07
/-- LA_MAX, 0x4411 (Table 7-3). -/
abbrev K.LA_MAX (n : Nat) : Nat := (0x4411 + 0x40 * n) * 256 + 0x08
/-- STALL_EN, 0x4412 (Table 7-4). -/
abbrev K.STALL_EN (n : Nat) : Nat := (0x4412 + 0x40 * n) * 256 + 0x01
/-- THETA_STALL, 0x4412 (Table 7-4). -/
abbrev K.THETA_STALL (n : Nat) : Nat := (0x4412 + 0x40 * n) * 256 + 0x02
/-- N_STALL, 0x4412 (Table 7-4). -/
abbrev K.N_STALL (n : Nat) : Nat := (0x4412 + 0x40 * n) * 256 + 0x03
/-- KE_LOW, 0x4412 (Table 7-4). -/
abbrev K.KE_LOW (n : Nat) : Nat := (0x4412 + 0x40 * n) * 256 + 0x04
/-- STALL_REACT, 0x4412 (Table 7-4). -/
abbrev K.STALL_REACT (n : Nat) : Nat := (0x4412 + 0x40 * n) * 256 + 0x05
/-- PLAY_STALL, 0x4412 (Table 7-4). -/
abbrev K.PLAY_STALL (n : Nat) : Nat := (0x4412 + 0x40 * n) * 256 + 0x06
/-- STALL_RUN, 0x4412 (Table 7-4). -/
abbrev K.STALL_RUN (n : Nat) : Nat := (0x4412 + 0x40 * n) * 256 + 0x07
/-- STALLS, 0x4412 (Table 7-4). -/
abbrev K.STALLS (n : Nat) : Nat := (0x4412 + 0x40 * n) * 256 + 0x08
/-- STALL_NT, 0x4412 (Table 7-4). -/
abbrev K.STALL_NT (n : Nat) : Nat := (0x4412 + 0x40 * n) * 256 + 0x09
/-- STALL_POS, 0x4412 (Table 7-4). -/
abbrev K.STALL_POS (n : Nat) : Nat := (0x4412 + 0x40 * n) * 256 + 0x0A
/-- POS_DOUBT, 0x4412 (Table 7-4). -/
abbrev K.POS_DOUBT (n : Nat) : Nat := (0x4412 + 0x40 * n) * 256 + 0x0B
/-- STR_EN, 0x4413 (Table 7-5). -/
abbrev K.STR_EN (n : Nat) : Nat := (0x4413 + 0x40 * n) * 256 + 0x01
/-- STR_T0, 0x4413 (Table 7-5). -/
abbrev K.STR_T0 (n : Nat) : Nat := (0x4413 + 0x40 * n) * 256 + 0x02
/-- STR_T1, 0x4413 (Table 7-5). -/
abbrev K.STR_T1 (n : Nat) : Nat := (0x4413 + 0x40 * n) * 256 + 0x03
/-- STR_UP, 0x4413 (Table 7-5). -/
abbrev K.STR_UP (n : Nat) : Nat := (0x4413 + 0x40 * n) * 256 + 0x04
/-- STR_DOWN, 0x4413 (Table 7-5). -/
abbrev K.STR_DOWN (n : Nat) : Nat := (0x4413 + 0x40 * n) * 256 + 0x05
/-- I_STR, 0x4413 (Table 7-5). -/
abbrev K.I_STR (n : Nat) : Nat := (0x4413 + 0x40 * n) * 256 + 0x06
/-- STR_MAXED, 0x4413 (Table 7-5). -/
abbrev K.STR_MAXED (n : Nat) : Nat := (0x4413 + 0x40 * n) * 256 + 0x07
/-- T_REST, 0x4414 (Table 7-6). -/
abbrev K.T_REST (n : Nat) : Nat := (0x4414 + 0x40 * n) * 256 + 0x01
/-- T_REST_RAMP, 0x4414 (Table 7-6). -/
abbrev K.T_REST_RAMP (n : Nat) : Nat := (0x4414 + 0x40 * n) * 256 + 0x02
/-- REST_WAKE, 0x4414 (Table 7-6). -/
abbrev K.REST_WAKE (n : Nat) : Nat := (0x4414 + 0x40 * n) * 256 + 0x03
/-- REST_FLAGS, 0x4414 (Table 7-6). -/
abbrev K.REST_FLAGS (n : Nat) : Nat := (0x4414 + 0x40 * n) * 256 + 0x04
/-- STILL_MS, 0x4414 (Table 7-6). -/
abbrev K.STILL_MS (n : Nat) : Nat := (0x4414 + 0x40 * n) * 256 + 0x05
/-- LOAD_EVENTS, 0x4415 (Table 7-8). -/
abbrev K.LOAD_EVENTS (n : Nat) : Nat := (0x4415 + 0x40 * n) * 256 + 0x01
/-- LOAD_EVT_EN, 0x4415 (Table 7-8). -/
abbrev K.LOAD_EVT_EN (n : Nat) : Nat := (0x4415 + 0x40 * n) * 256 + 0x02
/-- IN_MODE, 0x4800 (Table 9-2). -/
abbrev K.IN_MODE (n : Nat) : Nat := (0x4800 + 0x40 * n) * 256 + 0x01
/-- TERM, 0x4800 (Table 9-2). -/
abbrev K.TERM (n : Nat) : Nat := (0x4800 + 0x40 * n) * 256 + 0x02
/-- FILT, 0x4800 (Table 9-2). -/
abbrev K.FILT (n : Nat) : Nat := (0x4800 + 0x40 * n) * 256 + 0x03
/-- DEC_CFG, 0x4800 (Table 9-2). -/
abbrev K.DEC_CFG (n : Nat) : Nat := (0x4800 + 0x40 * n) * 256 + 0x04
/-- LINES, 0x4800 (Table 9-2). -/
abbrev K.LINES (n : Nat) : Nat := (0x4800 + 0x40 * n) * 256 + 0x05
/-- ZTOL, 0x4800 (Table 9-2). -/
abbrev K.ZTOL (n : Nat) : Nat := (0x4800 + 0x40 * n) * 256 + 0x06
/-- ENC_NUM, 0x4800 (Table 9-2). -/
abbrev K.ENC_NUM (n : Nat) : Nat := (0x4800 + 0x40 * n) * 256 + 0x07
/-- ENC_DEN, 0x4800 (Table 9-2). -/
abbrev K.ENC_DEN (n : Nat) : Nat := (0x4800 + 0x40 * n) * 256 + 0x08
/-- ENC_CNT, 0x4801 (Table 9-3). -/
abbrev K.ENC_CNT (n : Nat) : Nat := (0x4801 + 0x40 * n) * 256 + 0x01
/-- ENC_POS, 0x4801 (Table 9-3). -/
abbrev K.ENC_POS (n : Nat) : Nat := (0x4801 + 0x40 * n) * 256 + 0x02
/-- ENC_PRESET, 0x4801 (Table 9-3). -/
abbrev K.ENC_PRESET (n : Nat) : Nat := (0x4801 + 0x40 * n) * 256 + 0x03
/-- ENC_FLAGS, 0x4801 (Table 9-3). -/
abbrev K.ENC_FLAGS (n : Nat) : Nat := (0x4801 + 0x40 * n) * 256 + 0x04
/-- DOUBLE_CNT, 0x4801 (Table 9-3). -/
abbrev K.DOUBLE_CNT (n : Nat) : Nat := (0x4801 + 0x40 * n) * 256 + 0x05
/-- INFERRED, 0x4801 (Table 9-3). -/
abbrev K.INFERRED (n : Nat) : Nat := (0x4801 + 0x40 * n) * 256 + 0x06
/-- V_EXPECT, 0x4801 (Table 9-3). -/
abbrev K.V_EXPECT (n : Nat) : Nat := (0x4801 + 0x40 * n) * 256 + 0x07
/-- ENC_TO, 0x4801 (Table 9-3). -/
abbrev K.ENC_TO (n : Nat) : Nat := (0x4801 + 0x40 * n) * 256 + 0x08
/-- IDX_CNT, 0x4802 (Table 9-4). -/
abbrev K.IDX_CNT (n : Nat) : Nat := (0x4802 + 0x40 * n) * 256 + 0x01
/-- IDX_NT, 0x4802 (Table 9-4). -/
abbrev K.IDX_NT (n : Nat) : Nat := (0x4802 + 0x40 * n) * 256 + 0x02
/-- IDX_PHASE, 0x4802 (Table 9-4). -/
abbrev K.IDX_PHASE (n : Nat) : Nat := (0x4802 + 0x40 * n) * 256 + 0x03
/-- IDX_SPAN, 0x4802 (Table 9-4). -/
abbrev K.IDX_SPAN (n : Nat) : Nat := (0x4802 + 0x40 * n) * 256 + 0x04
/-- IDX_CORR, 0x4802 (Table 9-4). -/
abbrev K.IDX_CORR (n : Nat) : Nat := (0x4802 + 0x40 * n) * 256 + 0x05
/-- IDX_ERR, 0x4802 (Table 9-4). -/
abbrev K.IDX_ERR (n : Nat) : Nat := (0x4802 + 0x40 * n) * 256 + 0x06
/-- ENC_VEL, 0x4803 (Table 9-5). -/
abbrev K.ENC_VEL (n : Nat) : Nat := (0x4803 + 0x40 * n) * 256 + 0x01
/-- ENC_CPS, 0x4803 (Table 9-5). -/
abbrev K.ENC_CPS (n : Nat) : Nat := (0x4803 + 0x40 * n) * 256 + 0x02
/-- SPD_METHOD, 0x4803 (Table 9-5). -/
abbrev K.SPD_METHOD (n : Nat) : Nat := (0x4803 + 0x40 * n) * 256 + 0x03
/-- T_STILL, 0x4803 (Table 9-5). -/
abbrev K.T_STILL (n : Nat) : Nat := (0x4803 + 0x40 * n) * 256 + 0x04
/-- SPD_NT, 0x4803 (Table 9-5). -/
abbrev K.SPD_NT (n : Nat) : Nat := (0x4803 + 0x40 * n) * 256 + 0x05
/-- SW_CFG, 0x4804 (Table 10-1). -/
abbrev K.SW_CFG (n : Nat) : Nat := (0x4804 + 0x40 * n) * 256 + 0x01
/-- SW_FILT, 0x4804 (Table 10-1). -/
abbrev K.SW_FILT (n : Nat) : Nat := (0x4804 + 0x40 * n) * 256 + 0x02
/-- LIM_REACT, 0x4804 (Table 10-1). -/
abbrev K.LIM_REACT (n : Nat) : Nat := (0x4804 + 0x40 * n) * 256 + 0x03
/-- D_LIMSW, 0x4804 (Table 10-1). -/
abbrev K.D_LIMSW (n : Nat) : Nat := (0x4804 + 0x40 * n) * 256 + 0x04
/-- SW_STATE, 0x4804 (Table 10-1). -/
abbrev K.SW_STATE (n : Nat) : Nat := (0x4804 + 0x40 * n) * 256 + 0x05
/-- LIM_HITS, 0x4804 (Table 10-1). -/
abbrev K.LIM_HITS (n : Nat) : Nat := (0x4804 + 0x40 * n) * 256 + 0x06
/-- LATCH_NT, 0x4805 (Table 10-2). -/
abbrev K.LATCH_NT (n i : Nat) : Nat := (0x4805 + 0x40 * n) * 256 + (0x01 + 4 * i)
/-- LATCH_CMD, 0x4805 (Table 10-2). -/
abbrev K.LATCH_CMD (n i : Nat) : Nat := (0x4805 + 0x40 * n) * 256 + (0x02 + 4 * i)
/-- LATCH_ENC, 0x4805 (Table 10-2). -/
abbrev K.LATCH_ENC (n i : Nat) : Nat := (0x4805 + 0x40 * n) * 256 + (0x03 + 4 * i)
/-- LATCH_FLAGS, 0x4805 (Table 10-2). -/
abbrev K.LATCH_FLAGS (n i : Nat) : Nat := (0x4805 + 0x40 * n) * 256 + (0x04 + 4 * i)
/-- METHOD, 0x4806 (Table 10-5). -/
abbrev K.METHOD (n : Nat) : Nat := (0x4806 + 0x40 * n) * 256 + 0x01
/-- V_SEARCH, 0x4806 (Table 10-5). -/
abbrev K.V_SEARCH (n : Nat) : Nat := (0x4806 + 0x40 * n) * 256 + 0x02
/-- V_SLOW, 0x4806 (Table 10-5). -/
abbrev K.V_SLOW (n : Nat) : Nat := (0x4806 + 0x40 * n) * 256 + 0x03
/-- HOME_POS, 0x4806 (Table 10-5). -/
abbrev K.HOME_POS (n : Nat) : Nat := (0x4806 + 0x40 * n) * 256 + 0x04
/-- HOME_RANGE, 0x4806 (Table 10-5). -/
abbrev K.HOME_RANGE (n : Nat) : Nat := (0x4806 + 0x40 * n) * 256 + 0x05
/-- IDX_RANGE, 0x4806 (Table 10-5). -/
abbrev K.IDX_RANGE (n : Nat) : Nat := (0x4806 + 0x40 * n) * 256 + 0x06
/-- HOME_START, 0x4806 (Table 10-5). -/
abbrev K.HOME_START (n : Nat) : Nat := (0x4806 + 0x40 * n) * 256 + 0x07
/-- HOME_RESULT, 0x4806 (Table 10-5). -/
abbrev K.HOME_RESULT (n : Nat) : Nat := (0x4806 + 0x40 * n) * 256 + 0x08
/-- HOME_PHASE, 0x4806 (Table 10-5). -/
abbrev K.HOME_PHASE (n : Nat) : Nat := (0x4806 + 0x40 * n) * 256 + 0x09
/-- HOME_REF, 0x4806 (Table 10-5). -/
abbrev K.HOME_REF (n : Nat) : Nat := (0x4806 + 0x40 * n) * 256 + 0x0A
/-- HOME_RESID, 0x4806 (Table 10-5). -/
abbrev K.HOME_RESID (n : Nat) : Nat := (0x4806 + 0x40 * n) * 256 + 0x0B
/-- HOME_NT, 0x4806 (Table 10-5). -/
abbrev K.HOME_NT (n : Nat) : Nat := (0x4806 + 0x40 * n) * 256 + 0x0C
/-- EMU_EN, 0x4C00 (Table 9-6). -/
abbrev K.EMU_EN (m : Nat) : Nat := (0x4C00 + 0x10 * m) * 256 + 0x01
/-- AXIS, 0x4C00 (Table 9-6). -/
abbrev K.AXIS (m : Nat) : Nat := (0x4C00 + 0x10 * m) * 256 + 0x02
/-- KIND, 0x4C00 (Table 9-6). -/
abbrev K.KIND (m : Nat) : Nat := (0x4C00 + 0x10 * m) * 256 + 0x03
/-- NUM, 0x4C00 (Table 9-6). -/
abbrev K.NUM (m : Nat) : Nat := (0x4C00 + 0x10 * m) * 256 + 0x04
/-- DEN, 0x4C00 (Table 9-6). -/
abbrev K.DEN (m : Nat) : Nat := (0x4C00 + 0x10 * m) * 256 + 0x05
/-- OUT_CFG, 0x4C00 (Table 9-6). -/
abbrev K.OUT_CFG (m : Nat) : Nat := (0x4C00 + 0x10 * m) * 256 + 0x06
/-- ZPER, 0x4C00 (Table 9-6). -/
abbrev K.ZPER (m : Nat) : Nat := (0x4C00 + 0x10 * m) * 256 + 0x07
/-- PULSE_W, 0x4C00 (Table 9-6). -/
abbrev K.PULSE_W (m : Nat) : Nat := (0x4C00 + 0x10 * m) * 256 + 0x08
/-- EMU_CNT, 0x4C00 (Table 9-6). -/
abbrev K.EMU_CNT (m : Nat) : Nat := (0x4C00 + 0x10 * m) * 256 + 0x09
/-- EMU_LAG, 0x4C00 (Table 9-6). -/
abbrev K.EMU_LAG (m : Nat) : Nat := (0x4C00 + 0x10 * m) * 256 + 0x0A
/-- EMU_FLAGS, 0x4C00 (Table 9-6). -/
abbrev K.EMU_FLAGS (m : Nat) : Nat := (0x4C00 + 0x10 * m) * 256 + 0x0B
/-- OVERRUNS, 0x4C00 (Table 9-6). -/
abbrev K.OVERRUNS (m : Nat) : Nat := (0x4C00 + 0x10 * m) * 256 + 0x0C
/-- PERIOD, 0x5000 (Table 6-2). -/
abbrev K.PERIOD (q : Nat) : Nat := (0x5000 + 0x40 * q) * 256 + 0x01
/-- STAGGER, 0x5000 (Table 6-2). -/
abbrev K.STAGGER (q : Nat) : Nat := (0x5000 + 0x40 * q) * 256 + 0x02
/-- NSAMP, 0x5000 (Table 6-2). -/
abbrev K.NSAMP (q : Nat) : Nat := (0x5000 + 0x40 * q) * 256 + 0x03
/-- SPOS1, 0x5000 (Table 6-2). -/
abbrev K.SPOS1 (q : Nat) : Nat := (0x5000 + 0x40 * q) * 256 + 0x04
/-- SPOS2, 0x5000 (Table 6-2). -/
abbrev K.SPOS2 (q : Nat) : Nat := (0x5000 + 0x40 * q) * 256 + 0x05
/-- SPOS3, 0x5000 (Table 6-2). -/
abbrev K.SPOS3 (q : Nat) : Nat := (0x5000 + 0x40 * q) * 256 + 0x06
/-- SPOS4, 0x5000 (Table 6-2). -/
abbrev K.SPOS4 (q : Nat) : Nat := (0x5000 + 0x40 * q) * 256 + 0x07
/-- SETTLE, 0x5000 (Table 6-2). -/
abbrev K.SETTLE (q : Nat) : Nat := (0x5000 + 0x40 * q) * 256 + 0x08
/-- MIN_INT, 0x5000 (Table 6-2). -/
abbrev K.MIN_INT (q : Nat) : Nat := (0x5000 + 0x40 * q) * 256 + 0x09
/-- GAIN, 0x5000 (Table 6-2). -/
abbrev K.GAIN (q : Nat) : Nat := (0x5000 + 0x40 * q) * 256 + 0x0A
/-- RSHUNT, 0x5000 (Table 6-2). -/
abbrev K.RSHUNT (q : Nat) : Nat := (0x5000 + 0x40 * q) * 256 + 0x0B
/-- IFS, 0x5000 (Table 6-2). -/
abbrev K.IFS (q : Nat) : Nat := (0x5000 + 0x40 * q) * 256 + 0x0C
/-- GRID_NT, 0x5000 (Table 6-2). -/
abbrev K.GRID_NT (q : Nat) : Nat := (0x5000 + 0x40 * q) * 256 + 0x0D
/-- VBUS, 0x5001 (Table 6-5). -/
abbrev K.VBUS (q : Nat) : Nat := (0x5001 + 0x40 * q) * 256 + 0x01
/-- VBUS_UV, 0x5001 (Table 6-5). -/
abbrev K.VBUS_UV (q : Nat) : Nat := (0x5001 + 0x40 * q) * 256 + 0x02
/-- VBUS_OV, 0x5001 (Table 6-5). -/
abbrev K.VBUS_OV (q : Nat) : Nat := (0x5001 + 0x40 * q) * 256 + 0x03
/-- VBUS_MAX, 0x5001 (Table 6-5). -/
abbrev K.VBUS_MAX (q : Nat) : Nat := (0x5001 + 0x40 * q) * 256 + 0x04
/-- VBUS_MIN, 0x5001 (Table 6-5). -/
abbrev K.VBUS_MIN (q : Nat) : Nat := (0x5001 + 0x40 * q) * 256 + 0x05
/-- TDIE, 0x5001 (Table 6-5). -/
abbrev K.TDIE (q : Nat) : Nat := (0x5001 + 0x40 * q) * 256 + 0x06
/-- BUS_FLAGS, 0x5001 (Table 6-5). -/
abbrev K.BUS_FLAGS (q : Nat) : Nat := (0x5001 + 0x40 * q) * 256 + 0x07
/-- CLAMPS, 0x5001 (Table 6-5). -/
abbrev K.CLAMPS (q : Nat) : Nat := (0x5001 + 0x40 * q) * 256 + 0x08
/-- BOC_TH, 0x5002 (Table 8-13). -/
abbrev K.BOC_TH (q : Nat) : Nat := (0x5002 + 0x40 * q) * 256 + 0x01
/-- VGL, 0x5002 (Table 8-13). -/
abbrev K.VGL (q : Nat) : Nat := (0x5002 + 0x40 * q) * 256 + 0x02
/-- Q_FLAGS, 0x5002 (Table 8-13). -/
abbrev K.Q_FLAGS (q : Nat) : Nat := (0x5002 + 0x40 * q) * 256 + 0x03
/-- INCIDENTS, 0x5002 (Table 8-13). -/
abbrev K.INCIDENTS_5002 (q : Nat) : Nat := (0x5002 + 0x40 * q) * 256 + 0x04
/-- INC_NT, 0x5003 (Table 8-14). -/
abbrev K.INC_NT_5003 (q : Nat) : Nat := (0x5003 + 0x40 * q) * 256 + 0x01
/-- INC_CLASS, 0x5003 (Table 8-14). -/
abbrev K.INC_CLASS (q : Nat) : Nat := (0x5003 + 0x40 * q) * 256 + 0x02
/-- INC_HS, 0x5003 (Table 8-14). -/
abbrev K.INC_HS (q : Nat) : Nat := (0x5003 + 0x40 * q) * 256 + 0x03
/-- INC_LS, 0x5003 (Table 8-14). -/
abbrev K.INC_LS (q : Nat) : Nat := (0x5003 + 0x40 * q) * 256 + 0x04
/-- INC_FLAGS, 0x5003 (Table 8-14). -/
abbrev K.INC_FLAGS (q : Nat) : Nat := (0x5003 + 0x40 * q) * 256 + 0x05
/-- LANES, 0x5004 (Table 8-15). -/
abbrev K.LANES (q : Nat) : Nat := (0x5004 + 0x40 * q) * 256 + 0x01
/-- CRC_ERR, 0x5004 (Table 8-15). -/
abbrev K.CRC_ERR (q : Nat) : Nat := (0x5004 + 0x40 * q) * 256 + 0x02
/-- ERR_RX, 0x5004 (Table 8-15). -/
abbrev K.ERR_RX (q : Nat) : Nat := (0x5004 + 0x40 * q) * 256 + 0x03
/-- BAD_TYPE, 0x5004 (Table 8-15). -/
abbrev K.BAD_TYPE (q : Nat) : Nat := (0x5004 + 0x40 * q) * 256 + 0x04
/-- TIMEOUTS, 0x5004 (Table 8-15). -/
abbrev K.TIMEOUTS (q : Nat) : Nat := (0x5004 + 0x40 * q) * 256 + 0x05
/-- LATE_EDGES, 0x5004 (Table 8-15). -/
abbrev K.LATE_EDGES (q : Nat) : Nat := (0x5004 + 0x40 * q) * 256 + 0x06
/-- INCOMPLETE, 0x5004 (Table 8-15). -/
abbrev K.INCOMPLETE (q : Nat) : Nat := (0x5004 + 0x40 * q) * 256 + 0x07
/-- DEAD_TIME, 0x5400 (Table 8-10). -/
abbrev K.DEAD_TIME (l : Nat) : Nat := (0x5400 + 0x10 * l) * 256 + 0x01
/-- T_SW, 0x5400 (Table 8-10). -/
abbrev K.T_SW (l : Nat) : Nat := (0x5400 + 0x10 * l) * 256 + 0x02
/-- TAILOR, 0x5400 (Table 8-10). -/
abbrev K.TAILOR (l : Nat) : Nat := (0x5400 + 0x10 * l) * 256 + 0x03
/-- FIXED_CODES, 0x5400 (Table 8-10). -/
abbrev K.FIXED_CODES (l : Nat) : Nat := (0x5400 + 0x10 * l) * 256 + 0x04
/-- VDS_TH, 0x5400 (Table 8-10). -/
abbrev K.VDS_TH (l : Nat) : Nat := (0x5400 + 0x10 * l) * 256 + 0x05
/-- TBLANK, 0x5400 (Table 8-10). -/
abbrev K.TBLANK (l : Nat) : Nat := (0x5400 + 0x10 * l) * 256 + 0x06
/-- T_BSMAX, 0x5400 (Table 8-10). -/
abbrev K.T_BSMAX (l : Nat) : Nat := (0x5400 + 0x10 * l) * 256 + 0x07
/-- T_REFRESH, 0x5400 (Table 8-10). -/
abbrev K.T_REFRESH (l : Nat) : Nat := (0x5400 + 0x10 * l) * 256 + 0x08
/-- CODES, 0x5401 (Table 8-11). -/
abbrev K.CODES (l : Nat) : Nat := (0x5401 + 0x10 * l) * 256 + 0x01
/-- TSW_MEAS, 0x5401 (Table 8-11). -/
abbrev K.TSW_MEAS (l : Nat) : Nat := (0x5401 + 0x10 * l) * 256 + 0x02
/-- DELAYS, 0x5401 (Table 8-11). -/
abbrev K.DELAYS (l : Nat) : Nat := (0x5401 + 0x10 * l) * 256 + 0x03
/-- TAIL_FLAGS, 0x5401 (Table 8-11). -/
abbrev K.TAIL_FLAGS (l : Nat) : Nat := (0x5401 + 0x10 * l) * 256 + 0x04
/-- LEG_FLAGS, 0x5401 (Table 8-11). -/
abbrev K.LEG_FLAGS (l : Nat) : Nat := (0x5401 + 0x10 * l) * 256 + 0x05
/-- VBST, 0x5401 (Table 8-11). -/
abbrev K.VBST (l : Nat) : Nat := (0x5401 + 0x10 * l) * 256 + 0x06
/-- REFRESHES, 0x5401 (Table 8-11). -/
abbrev K.REFRESHES (l : Nat) : Nat := (0x5401 + 0x10 * l) * 256 + 0x07
/-- BST_UV_CNT, 0x5402 (Table 8-12). -/
abbrev K.BST_UV_CNT (l : Nat) : Nat := (0x5402 + 0x10 * l) * 256 + 0x01
/-- INTERLOCKS, 0x5402 (Table 8-12). -/
abbrev K.INTERLOCKS (l : Nat) : Nat := (0x5402 + 0x10 * l) * 256 + 0x02
/-- TRIPS, 0x5402 (Table 8-12). -/
abbrev K.TRIPS (l : Nat) : Nat := (0x5402 + 0x10 * l) * 256 + 0x03

end Sys2Proof.Machine
end

