-- ==== Sys2Proof/Machine/Dict.lean ====
section
/-! DEFINITION. The object dictionary (chapter 03): types, access, ranges and defaults of every object, from the manual's field
maps, and the unit to which an index belongs.
Conventions of the model: DESIGN CHOICE: log 3, 21; DEDUCED: log 13. -/

namespace Sys2Proof.Machine

/-- The three parts (Table 0-2). -/
inductive Part where
  | fq16
  | fq16L
  | fq8
  deriving DecidableEq, Repr

/-- Quarters of a part (Table 0-2). -/
def Part.quarters : Part → Nat
  | .fq8 => 2
  | _ => 4

/-- Host link, port C and emulation outputs are present (Table 0-2). -/
def Part.full : Part → Bool
  | .fq16L => false
  | _ => true

/-- Data types (Table 3-2); `oct` is one slot of an OCTETS object (R68). BITS16 and BITS32 are u16 and u32 with their reserved
bits in the row. -/
inductive Dict.Ty where
  | bool | u8 | u16 | u32 | u64 | i16 | i32 | i64 | oct
  deriving DecidableEq, Repr

/-- Access types (Table 3-3). -/
inductive Dict.Acc where
  | ro | rw | rc | w1 | rws | rwl | wo
  deriving DecidableEq, Repr

/-- Size in bytes (Table 3-2). -/
def Dict.Ty.size : Dict.Ty → Nat
  | .bool | .u8 => 1
  | .u16 | .i16 => 2
  | .u32 | .i32 => 4
  | .u64 | .i64 | .oct => 8

def Dict.Ty.signed : Dict.Ty → Bool
  | .i16 | .i32 | .i64 => true
  | _ => false

/-- One row of a field map: `span` consecutive subindices from `sub` with one definition; `rsv` the reserved bits (R9); `hw` the
hardware-owned bits inside a writable slot (Table 3-8); `lo` to `hi` the fixed range (none: the type's, R68). -/
structure Dict.Row where
  sub : Nat
  ty : Dict.Ty
  acc : Dict.Acc
  span : Nat := 1
  dflt : Nat := 0
  lo : Int := 0
  hi : Int := -1
  counter : Bool := false
  rsv : Nat := 0
  hw : Nat := 0
  deriving DecidableEq, Repr

/-- The SIZE of a single ring access to a slot of the row; none fits an object of several slots, OCTETS(n) with n over 8, which the ring
reads with one block read (R68, R79). -/
def Dict.Row.ringSize (r : Dict.Row) : Nat := if r.ty = .oct ∧ 1 < r.span then 0 else r.ty.size

/-- Table 0-7. -/
def Dict.rows1000 : List Dict.Row :=
[ { sub := 0x01, ty := .u16, acc := .ro }   -- VENDOR_ID
, { sub := 0x02, ty := .u16, acc := .ro }   -- DEVICE_ID
, { sub := 0x03, ty := .u8, acc := .ro }   -- REVISION
]

/-- R3, Table 0-3. -/
def Dict.rows1010 : List Dict.Row :=
[ { sub := 0x01, ty := .u32, acc := .ro }   -- FEATURES
, { sub := 0x02, ty := .u16, acc := .ro }   -- VARIANT
]

/-- Table 16-5. -/
def Dict.rows1100 : List Dict.Row :=
[ { sub := 0x01, ty := .u8, acc := .ro }   -- DEV_STATE
, { sub := 0x02, ty := .bool, acc := .w1 }   -- RUN
, { sub := 0x03, ty := .bool, acc := .w1 }   -- STOP
, { sub := 0x04, ty := .bool, acc := .w1 }   -- STOW
, { sub := 0x05, ty := .bool, acc := .w1 }   -- WAKE
, { sub := 0x06, ty := .bool, acc := .w1 }   -- SAFE_EXIT
, { sub := 0x07, ty := .u8, acc := .ro }   -- SAFE_CAUSE
, { sub := 0x08, ty := .u8, acc := .ro }   -- START_RESULT
, { sub := 0x09, ty := .u32, acc := .ro }   -- START_TIME
, { sub := 0x0A, ty := .u64, acc := .ro }   -- STATE_NT
, { sub := 0x0B, ty := .u32, acc := .ro }   -- WAKES
]

/-- Table 3-11. -/
def Dict.rows1110 : List Dict.Row :=
[ { sub := 0x01, ty := .bool, acc := .w1 }   -- LOCK
, { sub := 0x02, ty := .bool, acc := .ro }   -- LOCKED
, { sub := 0x03, ty := .u64, acc := .ro }   -- LOCK_NT
, { sub := 0x04, ty := .u32, acc := .ro }   -- LOCK_CRC
]

/-- Table 1-4. -/
def Dict.rows1120 : List Dict.Row :=
[ { sub := 0x01, ty := .u8, acc := .ro, span := 16 }   -- SLICE_MAP
]

/-- Table 1-5. -/
def Dict.rows1121 : List Dict.Row :=
[ { sub := 0x01, ty := .u16, acc := .ro, span := 18 }   -- SLICE_STATUS
]

/-- Table 3-5. -/
def Dict.rows1130 : List Dict.Row :=
[ { sub := 0x01, ty := .u16, acc := .rc }   -- LAST_ABORT
, { sub := 0x02, ty := .u32, acc := .ro }   -- LAST_OBJ
, { sub := 0x03, ty := .u32, acc := .rw, counter := true }   -- ABORTS
, { sub := 0x04, ty := .u32, acc := .rw, counter := true }   -- IGNORED
, { sub := 0x05, ty := .u32, acc := .rw, counter := true }   -- REPLAYED
]

/-- Table 3-10. -/
def Dict.rows1132 : List Dict.Row :=
[ { sub := 0x01, ty := .u32, acc := .ro }   -- PAR_OBJ
, { sub := 0x02, ty := .u32, acc := .rw, counter := true }   -- PAR_COUNT
, { sub := 0x03, ty := .u64, acc := .ro }   -- PASS_NT
]

/-- Table 16-6. -/
def Dict.rows1140 : List Dict.Row :=
[ { sub := 0x01, ty := .u32, acc := .ro }   -- FW_ROM
, { sub := 0x02, ty := .u32, acc := .ro }   -- FW_ACTIVE
, { sub := 0x03, ty := .u8, acc := .rw, lo := 0, hi := 19 }   -- FW_BANK
, { sub := 0x04, ty := .bool, acc := .w1 }   -- FW_GO
, { sub := 0x05, ty := .u8, acc := .ro }   -- FW_RESULT
, { sub := 0x06, ty := .u32, acc := .ro }   -- FW_FLOOR
]

/-- Table 16-7. -/
def Dict.rows1150 : List Dict.Row :=
[ { sub := 0x01, ty := .u8, acc := .rw, lo := 0, hi := 2 }   -- HOST_REACT
, { sub := 0x02, ty := .u8, acc := .rw, lo := 0, hi := 2 }   -- RING_REACT
, { sub := 0x03, ty := .u16, acc := .rw, dflt := 65535 }   -- LOSS_AXES
, { sub := 0x04, ty := .u16, acc := .rw, lo := 0, hi := 10000 }   -- HOST_WD
, { sub := 0x05, ty := .u32, acc := .wo }   -- WD_KICK
, { sub := 0x06, ty := .u16, acc := .rw, dflt := 10, lo := 1, hi := 10000 }   -- RING_TO
, { sub := 0x07, ty := .u16, acc := .ro }   -- LOSS_FLAGS
, { sub := 0x08, ty := .u32, acc := .rw, counter := true }   -- LOSSES
]

/-- Table 17-20. -/
def Dict.rows1160 : List Dict.Row :=
[ { sub := 0x01, ty := .i16, acc := .ro }   -- T_CTRL
, { sub := 0x02, ty := .i16, acc := .rc, dflt := 32768 }   -- T_HOT
, { sub := 0x03, ty := .u16, acc := .ro }   -- OT_FLAGS
]

/-- Table 2-2. -/
def Dict.rows1200 : List Dict.Row :=
[ { sub := 0x01, ty := .u64, acc := .ro }   -- NT
, { sub := 0x02, ty := .u16, acc := .ro }   -- NT_FRAC
, { sub := 0x03, ty := .u8, acc := .ro }   -- TSTATE
, { sub := 0x04, ty := .u8, acc := .rwl, lo := 0, hi := 4 }   -- TSOURCE
, { sub := 0x05, ty := .i32, acc := .ro }   -- RATE
, { sub := 0x06, ty := .bool, acc := .w1 }   -- STEP
, { sub := 0x07, ty := .u32, acc := .rw, dflt := 0xf4240, lo := 1000, hi := 100000000 }   -- STEP_LIM
, { sub := 0x08, ty := .u16, acc := .ro }   -- TFLAGS
, { sub := 0x09, ty := .i64, acc := .ro }   -- PENDING_OFS
]

/-- Table 2-4. -/
def Dict.rows1201 : List Dict.Row :=
[ { sub := 0x01, ty := .u8, acc := .rw, dflt := 20, lo := 5, hi := 50 }   -- FLOOR_PCT
, { sub := 0x02, ty := .u8, acc := .rwl, dflt := 12, lo := 10, hi := 64 }   -- GUARD
]

/-- Table 17-16. -/
def Dict.rows1202 : List Dict.Row :=
[ { sub := 0x01, ty := .u64, acc := .ro }   -- SYNC_NT
, { sub := 0x02, ty := .u32, acc := .rw, counter := true }   -- SYNC_CNT
]

/-- Table 2-5. -/
def Dict.rows1210 : List Dict.Row :=
[ { sub := 0x01, ty := .i16, acc := .rc, span := 18, dflt := 32767 }   -- MIN_SLACK
]

/-- Table 2-5. -/
def Dict.rows1211 : List Dict.Row :=
[ { sub := 0x01, ty := .u32, acc := .rw, span := 18, counter := true }   -- BELOW_FLOOR
]

/-- Table 2-5. -/
def Dict.rows1212 : List Dict.Row :=
[ { sub := 0x01, ty := .u32, acc := .rw, span := 18, counter := true }   -- HELD
]

/-- Table 2-6. -/
def Dict.rows1220 : List Dict.Row :=
[ { sub := 0x01, ty := .u16, acc := .ro, dflt := 800 }   -- V_SET
, { sub := 0x02, ty := .u8, acc := .rwl, lo := 0, hi := 1 }   -- V_MODE
, { sub := 0x03, ty := .u16, acc := .rwl, dflt := 800, lo := 650, hi := 850 }   -- V_FIXED
, { sub := 0x04, ty := .u16, acc := .rwl, dflt := 650, lo := 650, hi := 850 }   -- V_MIN
, { sub := 0x05, ty := .u16, acc := .rwl, dflt := 850, lo := 700, hi := 850 }   -- V_MAX
, { sub := 0x06, ty := .u8, acc := .rwl, dflt := 64, lo := 0, hi := 127 }   -- PMB_ADDR
, { sub := 0x07, ty := .u16, acc := .ro }   -- V_STATUS
, { sub := 0x08, ty := .u16, acc := .ro, dflt := 4096 }   -- FSI
, { sub := 0x09, ty := .bool, acc := .w1 }   -- PMB_RETRY
, { sub := 0x0A, ty := .u16, acc := .ro }   -- V_READ
]

/-- Table 14-8. -/
def Dict.rows1300 : List Dict.Row :=
[ { sub := 0x01, ty := .u8, acc := .rwl, dflt := 3, lo := 0, hi := 3 }   -- ROLE_CFG
, { sub := 0x02, ty := .u8, acc := .ro }   -- ROLE
, { sub := 0x03, ty := .u8, acc := .ro }   -- MEMBER
, { sub := 0x04, ty := .u16, acc := .ro, dflt := 32768 }   -- ADDR
, { sub := 0x05, ty := .u8, acc := .rwl, dflt := 255, lo := 1, hi := 255 }   -- REQ_STATION
, { sub := 0x06, ty := .u8, acc := .rwl, dflt := 255, lo := 1, hi := 255 }   -- REQ_SEGMENT
, { sub := 0x07, ty := .u64, acc := .ro }   -- SERIAL
, { sub := 0x08, ty := .u16, acc := .ro }   -- EPOCH
, { sub := 0x09, ty := .u8, acc := .ro }   -- SEG_COUNT
, { sub := 0x0A, ty := .u8, acc := .ro, dflt := 255 }   -- BREAK
, { sub := 0x0B, ty := .u16, acc := .rw, dflt := 60, lo := 1, hi := 3600 }   -- ADDR_HOLD
]

/-- Table 14-9. -/
def Dict.rows1310 : List Dict.Row :=
[ { sub := 0x01, ty := .u8, acc := .rwl, lo := 0, hi := 3 }   -- PMODE
, { sub := 0x02, ty := .bool, acc := .rwl, dflt := 1 }   -- AN_EN
, { sub := 0x03, ty := .u8, acc := .ro }   -- PLINK
, { sub := 0x04, ty := .i32, acc := .rw, lo := -100000, hi := 100000 }   -- ASYM
, { sub := 0x05, ty := .u32, acc := .ro }   -- MEAN_DELAY
, { sub := 0x06, ty := .u64, acc := .ro }   -- NBR
, { sub := 0x07, ty := .u32, acc := .rw, counter := true }   -- FCS_ERR
, { sub := 0x08, ty := .u32, acc := .rw, counter := true }   -- HCRC_ERR
, { sub := 0x09, ty := .u32, acc := .rw, counter := true }   -- DROPPED
, { sub := 0x0A, ty := .u32, acc := .rw, counter := true }   -- DUPS
, { sub := 0x0B, ty := .u32, acc := .rw, counter := true }   -- LINK_DOWNS
, { sub := 0x0C, ty := .bool, acc := .ro }   -- WRAPPING
]

/-- Table 14-10. -/
def Dict.rows1313 : List Dict.Row :=
[ { sub := 0x01, ty := .u8, acc := .rwl, lo := 0, hi := 4 }   -- PORTC_MODE
, { sub := 0x02, ty := .u8, acc := .rwl, lo := 0, hi := 1 }   -- PLANT_DELAY
]

/-- Table 14-11. -/
def Dict.rows1320 : List Dict.Row :=
[ { sub := 0x01, ty := .u16, acc := .rwl, dflt := 34997, lo := 1536, hi := 65535 }   -- ETYPE
, { sub := 0x02, ty := .u16, acc := .rwl, dflt := 300, lo := 200, hi := 900 }   -- LINK_TO
, { sub := 0x03, ty := .u16, acc := .rwl, dflt := 10, lo := 1, hi := 10000 }   -- LINK_HOLD
, { sub := 0x04, ty := .u64, acc := .rw, span := 3 }   -- MCAST
, { sub := 0x07, ty := .u64, acc := .rw, dflt := 0x8000000000000000, hw := 0x8000000000000000 }   -- MCAST
, { sub := 0x08, ty := .u32, acc := .rw, counter := true }   -- DUP_EVICT
]

/-- Table 14-12. -/
def Dict.rows1330 : List Dict.Row :=
[ { sub := 0x01, ty := .u8, acc := .rwl }   -- DOMAIN
, { sub := 0x02, ty := .i16, acc := .rwl, dflt := 65529, lo := -10, hi := 0 }   -- LOG_SYNC
, { sub := 0x03, ty := .i16, acc := .rwl, dflt := 65532, lo := -7, hi := 0 }   -- LOG_PDELAY
, { sub := 0x04, ty := .u16, acc := .rw, dflt := 10, lo := 1, hi := 1000 }   -- LOCK_TH
, { sub := 0x05, ty := .u16, acc := .rw, dflt := 64, lo := 8, hi := 1024 }   -- LOCK_N
, { sub := 0x06, ty := .u16, acc := .rw, dflt := 100, lo := 1, hi := 10000 }   -- UNLOCK_TH
, { sub := 0x07, ty := .u8, acc := .rw, dflt := 8, lo := 2, hi := 64 }   -- HOLD_N
, { sub := 0x08, ty := .bool, acc := .rwl }   -- FREE_ROOT
, { sub := 0x09, ty := .bool, acc := .rwl }   -- PPS_EN
, { sub := 0x0A, ty := .u64, acc := .rw }   -- TOD_SEC
, { sub := 0x0B, ty := .u8, acc := .ro }   -- TIME_PORT
, { sub := 0x0C, ty := .i32, acc := .ro }   -- OFFSET
]

/-- Table 13-2. -/
def Dict.rows1400 : List Dict.Row :=
[ { sub := 0x01, ty := .u8, acc := .ro, dflt := 1 }   -- LINK_STATE
, { sub := 0x02, ty := .u8, acc := .ro }   -- SPEED
, { sub := 0x03, ty := .u8, acc := .ro }   -- WIDTH
, { sub := 0x04, ty := .u16, acc := .ro }   -- LINK_FLAGS
, { sub := 0x05, ty := .u16, acc := .ro, dflt := 128 }   -- MPS
, { sub := 0x06, ty := .u32, acc := .rw, counter := true }   -- LINK_DOWNS
]

/-- Table 13-5. -/
def Dict.rows1410 : List Dict.Row :=
[ { sub := 0x01, ty := .bool, acc := .rw }   -- Q_EN
, { sub := 0x02, ty := .u64, acc := .rw }   -- BASE
, { sub := 0x03, ty := .u8, acc := .rw, dflt := 10, lo := 6, hi := 20 }   -- LOG2SIZE
, { sub := 0x04, ty := .u64, acc := .rw }   -- SHADOW
, { sub := 0x05, ty := .u32, acc := .rw }   -- CONS
, { sub := 0x06, ty := .u32, acc := .ro }   -- PROD
, { sub := 0x07, ty := .u8, acc := .rw, lo := 0, hi := 31 }   -- VECTOR
, { sub := 0x08, ty := .u32, acc := .rw, dflt := 1, lo := 1, hi := 4294967295 }   -- MOD_COUNT
, { sub := 0x09, ty := .u16, acc := .rw, lo := 0, hi := 10000 }   -- MOD_TIME
, { sub := 0x0A, ty := .u16, acc := .ro }   -- Q_STATUS
, { sub := 0x0B, ty := .u16, acc := .ro }   -- STAGED
, { sub := 0x0C, ty := .u32, acc := .rw, counter := true }   -- DELIVERED
]

/-- Table 13-6. -/
def Dict.rows1420 : List Dict.Row :=
[ { sub := 0x01, ty := .u8, acc := .rw, span := 55 }   -- QUEUE
]

/-- Table 13-6. -/
def Dict.rows1430 : List Dict.Row :=
[ { sub := 0x01, ty := .u32, acc := .rw, span := 55, counter := true }   -- LOST_TOTAL
]

/-- Table 13-6. -/
def Dict.rows1431 : List Dict.Row :=
[ { sub := 0x01, ty := .u32, acc := .ro, span := 55 }   -- NEXT_SEQ
]

/-- Table 13-6. -/
def Dict.rows1440 : List Dict.Row :=
[ { sub := 0x01, ty := .u16, acc := .ro }   -- STAGE_FILL
, { sub := 0x02, ty := .u16, acc := .rc }   -- STAGE_HIGH
, { sub := 0x03, ty := .u32, acc := .rw, counter := true }   -- DROPPED
, { sub := 0x04, ty := .u16, acc := .ro }   -- STAGE_FLAGS
]

/-- Table 13-7. -/
def Dict.rows1450 : List Dict.Row :=
[ { sub := 0x01, ty := .u8, acc := .rw, lo := 0, hi := 2 }   -- FWD_MODE
, { sub := 0x02, ty := .u16, acc := .rw, dflt := 65535 }   -- FWD_HEAD
, { sub := 0x03, ty := .bool, acc := .ro }   -- FWD_STATE
, { sub := 0x04, ty := .u32, acc := .rw, counter := true }   -- FWD_SENT
, { sub := 0x05, ty := .u8, acc := .rw, dflt := 255 }   -- FWD_QUEUE
, { sub := 0x06, ty := .u32, acc := .rw, counter := true }   -- FWD_RCVD
, { sub := 0x07, ty := .u32, acc := .rw, counter := true }   -- FWD_GAPS
, { sub := 0x08, ty := .u16, acc := .ro }   -- FWD_PAIRS
]

/-- Table 12-8. -/
def Dict.rows2000 : List Dict.Row :=
[ { sub := 0x01, ty := .u16, acc := .rwl, dflt := 10, lo := 1, hi := 1000 }   -- T_GRACE
, { sub := 0x02, ty := .u16, acc := .rwl, dflt := 10, lo := 1, hi := 1000 }   -- T_STEP
, { sub := 0x03, ty := .u16, acc := .rw, dflt := 1000, lo := 10, hi := 10000 }   -- T_PULSE
, { sub := 0x04, ty := .bool, acc := .rw }   -- ERR_SW
, { sub := 0x05, ty := .u16, acc := .ro }   -- ERR_STATE
, { sub := 0x06, ty := .u16, acc := .rw, dflt := 200, lo := 1, hi := 10000 }   -- SAFE_STOP_TO
, { sub := 0x07, ty := .u32, acc := .rw, counter := true }   -- INCIDENTS
]

/-- Table 12-9. -/
def Dict.rows2010 : List Dict.Row :=
[ { sub := 0x01, ty := .u16, acc := .ro }   -- INC_NO
, { sub := 0x02, ty := .bool, acc := .ro }   -- INC_OPEN
, { sub := 0x03, ty := .u64, acc := .ro }   -- INC_NT
, { sub := 0x04, ty := .u16, acc := .ro }   -- FIRST_SRC
, { sub := 0x05, ty := .u16, acc := .ro }   -- MERGES
, { sub := 0x06, ty := .u8, acc := .ro }   -- STEP
, { sub := 0x07, ty := .u8, acc := .ro }   -- CEIL
, { sub := 0x08, ty := .u64, acc := .ro, dflt := 0xffffffffffffffff }   -- NEXT_STEP_NT
, { sub := 0x09, ty := .u16, acc := .wo }   -- ACK
, { sub := 0x0A, ty := .oct, acc := .ro, span := 12 }   -- SRC_MAP
]

/-- Table 12-11. -/
def Dict.rows2020 : List Dict.Row :=
[ { sub := 0x01, ty := .u8, acc := .ro }   -- LOG_HEAD
, { sub := 0x02, ty := .u32, acc := .ro }   -- LOG_TOTAL
, { sub := 0x03, ty := .bool, acc := .w1 }   -- LOG_CLEAR
, { sub := 0x10, ty := .oct, acc := .ro, span := 64 }   -- ENTRY
]

/-- Table 12-14. -/
def Dict.rows2030 : List Dict.Row :=
[ { sub := 0x01, ty := .u8, acc := .rw, dflt := 1, lo := 1, hi := 5 }   -- INJ_TARGET
, { sub := 0x02, ty := .u8, acc := .rw }   -- INJ_INST
, { sub := 0x03, ty := .u16, acc := .rw, dflt := 1, lo := 1, hi := 1000 }   -- INJ_N
, { sub := 0x04, ty := .bool, acc := .w1 }   -- INJ_GO
, { sub := 0x05, ty := .u16, acc := .ro }   -- INJ_LEFT
, { sub := 0x06, ty := .bool, acc := .w1 }   -- INJ_STOP
, { sub := 0x07, ty := .u32, acc := .rw, counter := true }   -- INJ_TOTAL
]

/-- Table 12-4. -/
def Dict.rows2400 : List Dict.Row :=
[ { sub := 0x01, ty := .u16, acc := .rwl, rsv := 0xFF80 }   -- CFG
, { sub := 0x02, ty := .u8, acc := .rwl, lo := 1, hi := 64 }   -- N
, { sub := 0x03, ty := .u32, acc := .rwl, lo := 1, hi := 60000 }   -- W
, { sub := 0x04, ty := .u32, acc := .rw, counter := true }   -- COUNT
, { sub := 0x05, ty := .u32, acc := .rw, counter := true }   -- SEVERE
, { sub := 0x06, ty := .u64, acc := .ro }   -- LAST_NT
, { sub := 0x07, ty := .u16, acc := .ro }   -- SRC_STATUS
]

/-- Table 11-9. -/
def Dict.rows2800 : List Dict.Row :=
[ { sub := 0x01, ty := .u32, acc := .ro, dflt := 0xffffffff }   -- MAINT_MAP
, { sub := 0x02, ty := .u32, acc := .rw, counter := true }   -- CE_TOTAL
, { sub := 0x03, ty := .u32, acc := .rw, counter := true }   -- UE_TOTAL
, { sub := 0x04, ty := .u32, acc := .ro }   -- LAST_UE
, { sub := 0x05, ty := .u64, acc := .ro }   -- LAST_UE_NT
, { sub := 0x06, ty := .u32, acc := .rw, counter := true }   -- BAR2_DROP
, { sub := 0x07, ty := .u32, acc := .rw, counter := true }   -- WRITE_LOST
, { sub := 0x08, ty := .u16, acc := .rw, dflt := 1000, lo := 100, hi := 60000 }   -- SCRUB_MS
, { sub := 0x09, ty := .u64, acc := .ro }   -- SCRUB_NT
, { sub := 0x0A, ty := .u32, acc := .ro }   -- START_PASS
]

/-- Table 11-10. -/
def Dict.rows2810 : List Dict.Row :=
[ { sub := 0x01, ty := .u8, acc := .ro }   -- OWNER
, { sub := 0x02, ty := .u8, acc := .ro }   -- STATE
, { sub := 0x03, ty := .u8, acc := .rw, dflt := 63 }   -- NEXT_OWNER
, { sub := 0x04, ty := .bool, acc := .w1 }   -- HAND
, { sub := 0x05, ty := .bool, acc := .w1 }   -- ACCEPT
, { sub := 0x06, ty := .u8, acc := .ro }   -- HAND_RESULT
, { sub := 0x07, ty := .u16, acc := .rw, dflt := 10, lo := 1, hi := 1000 }   -- HAND_TO
, { sub := 0x08, ty := .u32, acc := .rw, counter := true }   -- CE
, { sub := 0x09, ty := .u32, acc := .rw, counter := true }   -- UE
, { sub := 0x0A, ty := .u32, acc := .rw, counter := true }   -- REFUSED
, { sub := 0x0B, ty := .u8, acc := .rw, dflt := 1, lo := 0, hi := 1 }   -- TEST_MODE
, { sub := 0x0C, ty := .bool, acc := .w1 }   -- TEST
, { sub := 0x0D, ty := .u8, acc := .ro }   -- TEST_RESULT
, { sub := 0x0E, ty := .u32, acc := .ro }   -- SPARES
, { sub := 0x0F, ty := .u8, acc := .ro }   -- PHYS
]

/-- Table 11-11. -/
def Dict.rows2880 : List Dict.Row :=
[ { sub := 0x01, ty := .u8, acc := .rw, lo := 0, hi := 31 }   -- WIN_BANK
, { sub := 0x02, ty := .u32, acc := .rw, lo := 0, hi := 262136 }   -- WIN_OFS
, { sub := 0x03, ty := .u64, acc := .rw }   -- WIN_DATA
, { sub := 0x10, ty := .u64, acc := .rw, span := 128 }   -- WIN_BLOCK
]

/-- Table 15-6. -/
def Dict.rows2900 : List Dict.Row :=
[ { sub := 0x01, ty := .bool, acc := .rwl, dflt := 1 }   -- FRAY_EN
, { sub := 0x02, ty := .u16, acc := .rw, dflt := 60, lo := 1, hi := 1440 }   -- FRAY_INT
, { sub := 0x03, ty := .u16, acc := .rwl, dflt := 1365, rsv := 0xF000 }   -- POLICY
, { sub := 0x04, ty := .u32, acc := .ro }   -- SAMPLES
, { sub := 0x05, ty := .u32, acc := .ro }   -- SPARES
, { sub := 0x06, ty := .u16, acc := .ro }   -- NOSPARE
, { sub := 0x07, ty := .u8, acc := .rwl, dflt := 4, lo := 0, hi := 16 }   -- PATCH_TOL
]

/-- Table 15-7. -/
def Dict.rows2902 : List Dict.Row :=
[ { sub := 0x01, ty := .u8, acc := .rw, lo := 0, hi := 5 }   -- REQ_KIND
, { sub := 0x02, ty := .u16, acc := .rw }   -- REQ_INST
, { sub := 0x03, ty := .u16, acc := .rw }   -- REQ_SUB
, { sub := 0x04, ty := .bool, acc := .w1 }   -- REQ_GO
, { sub := 0x05, ty := .u8, acc := .ro }   -- REQ_RESULT
, { sub := 0x06, ty := .u8, acc := .ro }   -- P_STATE
, { sub := 0x07, ty := .u8, acc := .ro }   -- P_AXIS
, { sub := 0x08, ty := .u8, acc := .ro }   -- P_SPARE
, { sub := 0x09, ty := .u8, acc := .ro }   -- MATCHED
, { sub := 0x0A, ty := .u8, acc := .ro }   -- P_CAUSE
, { sub := 0x0B, ty := .u64, acc := .ro }   -- P_START_NT
, { sub := 0x0C, ty := .u64, acc := .ro }   -- P_END_NT
, { sub := 0x0D, ty := .u32, acc := .rw, counter := true }   -- PATCHES
]

/-- Table 15-3. -/
def Dict.rows2908 : List Dict.Row :=
[ { sub := 0x01, ty := .u16, acc := .rw, dflt := 307, lo := 0, hi := 1023 }   -- SLK_WARN
, { sub := 0x02, ty := .u16, acc := .rw, dflt := 256, lo := 0, hi := 1023 }   -- SLK_PATCH
, { sub := 0x03, ty := .u16, acc := .rw, dflt := 3891, lo := 2048, hi := 4096 }   -- RO_WARN
, { sub := 0x04, ty := .u16, acc := .rw, dflt := 3686, lo := 2048, hi := 4096 }   -- RO_PATCH
, { sub := 0x05, ty := .u8, acc := .rw, dflt := 8, lo := 1, hi := 255 }   -- ADC_WARN
, { sub := 0x06, ty := .u8, acc := .rw, dflt := 16, lo := 1, hi := 255 }   -- ADC_PATCH
, { sub := 0x07, ty := .u8, acc := .rw, dflt := 3, lo := 1, hi := 31 }   -- SEG_WARN
, { sub := 0x08, ty := .u8, acc := .rw, dflt := 6, lo := 1, hi := 31 }   -- SEG_PATCH
, { sub := 0x09, ty := .u16, acc := .rw, dflt := 1, lo := 1, hi := 65535 }   -- LANE_WARN
, { sub := 0x0A, ty := .u16, acc := .rw, dflt := 4, lo := 1, hi := 65535 }   -- LANE_PATCH
, { sub := 0x0B, ty := .u16, acc := .rw, dflt := 4, lo := 1, hi := 65535 }   -- COL_WARN
, { sub := 0x0C, ty := .u16, acc := .rw, dflt := 16, lo := 1, hi := 65535 }   -- COL_PATCH
]

/-- Table 15-8. -/
def Dict.rows2910 : List Dict.Row :=
[ { sub := 0x01, ty := .u16, acc := .ro, dflt := 1023 }   -- SLACK_M
, { sub := 0x02, ty := .u16, acc := .ro, dflt := 4096 }   -- RO_WEAR
, { sub := 0x03, ty := .u16, acc := .ro, dflt := 65535 }   -- HOURS
, { sub := 0x04, ty := .u8, acc := .ro }   -- MISMATCH
]

/-- Table 15-8. -/
def Dict.rows2930 : List Dict.Row :=
[ { sub := 0x01, ty := .u8, acc := .ro, dflt := 15 }   -- ADC_MAP
, { sub := 0x02, ty := .oct, acc := .ro }   -- ADC_DRIFT
, { sub := 0x03, ty := .u32, acc := .ro }   -- LANE_CRC
, { sub := 0x04, ty := .u16, acc := .ro, dflt := 4096 }   -- RO_WEAR
]

/-- Table 15-8. -/
def Dict.rows2940 : List Dict.Row :=
[ { sub := 0x01, ty := .u32, acc := .ro, span := 4 }   -- SEGMAP
, { sub := 0x05, ty := .u32, acc := .ro }   -- SEG_DRIFT
]

/-- Table 15-8. -/
def Dict.rows2980 : List Dict.Row :=
[ { sub := 0x01, ty := .u16, acc := .ro }   -- COL_CE
, { sub := 0x02, ty := .u16, acc := .ro }   -- COL_ID
]

/-- Table 15-9. -/
def Dict.rows29A0 : List Dict.Row :=
[ { sub := 0x01, ty := .u8, acc := .ro }   -- STORE_USED
, { sub := 0x02, ty := .u8, acc := .ro }   -- STORE_BAD
, { sub := 0x10, ty := .oct, acc := .ro, span := 128 }   -- RECORD
]

/-- Table 18-1. -/
def Dict.rows2F00 : List Dict.Row :=
[ { sub := 0x01, ty := .bool, acc := .w1 }   -- BUILD
, { sub := 0x02, ty := .u8, acc := .ro }   -- ENV_STATE
, { sub := 0x03, ty := .u16, acc := .ro, dflt := 9312 }   -- ENV_SIZE
, { sub := 0x04, ty := .u64, acc := .ro }   -- BUILD_NT
, { sub := 0x05, ty := .u32, acc := .ro }   -- ENV_CRC
, { sub := 0x06, ty := .u32, acc := .rw, counter := true }   -- BUILDS
]

/-- R467: the envelope's slots, of each index 0x2F10 to 0x2F19. -/
def Dict.rows2F10 : List Dict.Row :=
[ { sub := 0x01, ty := .u64, acc := .ro, span := 128 } ]

/-- Table 5-5. -/
def Dict.rows3000 : List Dict.Row :=
[ { sub := 0x01, ty := .u16, acc := .ro }   -- FILL
, { sub := 0x02, ty := .u16, acc := .rc }   -- HIGH_WATER
, { sub := 0x03, ty := .u8, acc := .rw, lo := 0, hi := 1 }   -- LATE_POLICY
, { sub := 0x04, ty := .u32, acc := .rw, dflt := 60000, lo := 1, hi := 1000000 }   -- HORIZON
, { sub := 0x05, ty := .u32, acc := .rw, counter := true }   -- ACCEPTED
, { sub := 0x06, ty := .u32, acc := .rw, counter := true }   -- REFUSED
, { sub := 0x07, ty := .u32, acc := .rw, counter := true }   -- LATE
, { sub := 0x08, ty := .u16, acc := .rw }   -- CANCEL_TAG
, { sub := 0x09, ty := .bool, acc := .w1 }   -- CANCEL
, { sub := 0x0A, ty := .u16, acc := .ro }   -- CANCELLED
, { sub := 0x0B, ty := .u64, acc := .ro, dflt := 0xffffffffffffffff }   -- NEXT_DUE
, { sub := 0x0C, ty := .bool, acc := .ro }   -- SYNC_LEVEL
]

/-- Table 5-10. -/
def Dict.rows3001 : List Dict.Row :=
[ { sub := 0x01, ty := .u8, acc := .rw, span := 16, lo := 0, hi := 2 }   -- POLICY
]

/-- Table 5-11. -/
def Dict.rows3002 : List Dict.Row :=
[ { sub := 0x01, ty := .u16, acc := .ro, span := 16 }   -- PRIME
]

/-- Table 5-8. -/
def Dict.rows3100 : List Dict.Row :=
[ { sub := 0x01, ty := .u8, acc := .ro }   -- STATE
, { sub := 0x02, ty := .u32, acc := .rw, lo := 0, hi := 131071 }   -- FIRST
, { sub := 0x03, ty := .u16, acc := .rw, lo := 0, hi := 1024 }   -- COUNT
, { sub := 0x04, ty := .bool, acc := .w1 }   -- VALIDATE
, { sub := 0x05, ty := .u8, acc := .ro }   -- VAL_RESULT
, { sub := 0x06, ty := .u32, acc := .ro }   -- DURATION
, { sub := 0x07, ty := .u32, acc := .ro }   -- MAX_VEL
, { sub := 0x08, ty := .u32, acc := .ro }   -- PCRC
, { sub := 0x09, ty := .u16, acc := .ro }   -- USE
]

/-- Table 4-2. -/
def Dict.rows4000 : List Dict.Row :=
[ { sub := 0x01, ty := .u16, acc := .rw, rsv := 0xFFF0 }   -- CONTROL
, { sub := 0x02, ty := .u8, acc := .ro }   -- STATE
, { sub := 0x03, ty := .u16, acc := .ro }   -- STATUS
, { sub := 0x04, ty := .u16, acc := .rc }   -- EVENTS
, { sub := 0x05, ty := .u16, acc := .rw, dflt := 0x1fe, rsv := 0xFC00 }   -- EVT_EN
]

/-- Table 4-6. -/
def Dict.rows4001 : List Dict.Row :=
[ { sub := 0x01, ty := .u8, acc := .rw, lo := 0, hi := 1 }   -- SHAPE
, { sub := 0x02, ty := .u16, acc := .rw, rsv := 0xFFFE }   -- OPTIONS
, { sub := 0x03, ty := .u16, acc := .rw, lo := 0, hi := 60000 }   -- T_REV
]

/-- Table 4-7. -/
def Dict.rows4010 : List Dict.Row :=
[ { sub := 0x01, ty := .u32, acc := .rw, dflt := 0x190000, lo := 1, hi := 2147483647 }   -- V_LIM
, { sub := 0x02, ty := .u32, acc := .rw, dflt := 6400, lo := 1, hi := 4294967295 }   -- A_LIM
, { sub := 0x03, ty := .u32, acc := .rw, dflt := 6400, lo := 1, hi := 4294967295 }   -- D_LIM
, { sub := 0x04, ty := .u32, acc := .rw, dflt := 25000, lo := 1, hi := 4294967295 }   -- J_LIM
, { sub := 0x05, ty := .u32, acc := .rw, dflt := 64000, lo := 1, hi := 4294967295 }   -- D_STOP
]

/-- Table 4-8. -/
def Dict.rows4020 : List Dict.Row :=
[ { sub := 0x01, ty := .i64, acc := .ro }   -- TARGET
, { sub := 0x02, ty := .i32, acc := .ro }   -- TARGET_VEL
, { sub := 0x03, ty := .i64, acc := .ro }   -- CMD_POS
, { sub := 0x04, ty := .i32, acc := .ro }   -- CMD_VEL
, { sub := 0x05, ty := .i32, acc := .ro }   -- CMD_ACC
, { sub := 0x06, ty := .u64, acc := .ro }   -- CMD_NT
, { sub := 0x07, ty := .i64, acc := .rws }   -- POS_SET
, { sub := 0x08, ty := .u64, acc := .ro }   -- LAND_NT
]

/-- Table 4-9. -/
def Dict.rows4030 : List Dict.Row :=
[ { sub := 0x01, ty := .u8, acc := .rw, lo := 0, hi := 4 }   -- SRC
, { sub := 0x02, ty := .u8, acc := .rw, lo := 0, hi := 15 }   -- MASTER
, { sub := 0x03, ty := .i32, acc := .rw, dflt := 1 }   -- GEAR_NUM
, { sub := 0x04, ty := .u32, acc := .rw, dflt := 1, lo := 1, hi := 4294967295 }   -- GEAR_DEN
, { sub := 0x05, ty := .u16, acc := .rw, dflt := 64, lo := 1, hi := 1024 }   -- STEP_UST
, { sub := 0x06, ty := .u16, acc := .rw, rsv := 0xFFF8 }   -- STEP_CFG
, { sub := 0x07, ty := .u8, acc := .rw, lo := 0, hi := 1 }   -- INTERP
, { sub := 0x08, ty := .u8, acc := .rw, dflt := 1, lo := 0, hi := 1 }   -- CHASE
, { sub := 0x09, ty := .u8, acc := .ro }   -- STREAM_FILL
, { sub := 0x0A, ty := .i32, acc := .ro }   -- FOLLOW_ERR
]

/-- Table 6-6. -/
def Dict.rows4400 : List Dict.Row :=
[ { sub := 0x01, ty := .u8, acc := .rw, lo := 0, hi := 1 }   -- LIMIT_MODE
, { sub := 0x02, ty := .i16, acc := .rws, lo := -64, hi := 64 }   -- PHASE_TRIM
, { sub := 0x03, ty := .u16, acc := .rws, dflt := 4096, lo := 3686, hi := 4506 }   -- BAL_TRIM
, { sub := 0x04, ty := .u8, acc := .rw, dflt := 64, lo := 16, hi := 255 }   -- EMF_GAIN
, { sub := 0x05, ty := .u16, acc := .ro, dflt := 16 }   -- CC_STATUS
, { sub := 0x06, ty := .u32, acc := .ro }   -- I_TGT
, { sub := 0x07, ty := .u32, acc := .ro }   -- I_EST
, { sub := 0x08, ty := .u32, acc := .ro }   -- EMF
, { sub := 0x09, ty := .u32, acc := .rw, counter := true }   -- VLIM_CNT
, { sub := 0x0A, ty := .u32, acc := .rw, counter := true }   -- SENSE_CNT
, { sub := 0x0B, ty := .u16, acc := .ro, dflt := 4096 }   -- AMP_FACTOR
]

/-- Table 6-9. -/
def Dict.rows4401 : List Dict.Row :=
[ { sub := 0x01, ty := .u32, acc := .rws, dflt := 0xf4240, lo := 10000, hi := 100000000 }   -- R_DEF
, { sub := 0x02, ty := .u32, acc := .rws, dflt := 0x1e8480, lo := 10000, hi := 1000000000 }   -- L_DEF
, { sub := 0x03, ty := .u16, acc := .rws, dflt := 700, lo := 0, hi := 2000 }   -- V_DIODE
, { sub := 0x04, ty := .u8, acc := .rws, dflt := 4, lo := 2, hi := 16 }   -- ID_RANGE
]

/-- Table 6-10. -/
def Dict.rows4402 : List Dict.Row :=
[ { sub := 0x01, ty := .u32, acc := .ro }   -- R_A
, { sub := 0x02, ty := .u32, acc := .ro }   -- R_B
, { sub := 0x03, ty := .u32, acc := .ro }   -- R_LIVE_A
, { sub := 0x04, ty := .u32, acc := .ro }   -- R_LIVE_B
, { sub := 0x05, ty := .u8, acc := .ro }   -- ID_RESULT
, { sub := 0x06, ty := .u64, acc := .ro }   -- ID_NT
, { sub := 0x07, ty := .u32, acc := .ro }   -- ID_TIME
, { sub := 0x08, ty := .u32, acc := .ro }   -- ISTEP
]

/-- Table 6-11. -/
def Dict.rows4403 : List Dict.Row :=
[ { sub := 0x01, ty := .u32, acc := .ro, span := 16 }   -- L_A(k)
, { sub := 0x11, ty := .u32, acc := .ro, span := 16 }   -- L_B(k)
]

/-- Table 6-12. -/
def Dict.rows4404 : List Dict.Row :=
[ { sub := 0x01, ty := .bool, acc := .rws }   -- TEST_EN
, { sub := 0x02, ty := .u8, acc := .rws, dflt := 1, lo := 1, hi := 8 }   -- TEST_STEPS
, { sub := 0x03, ty := .u16, acc := .rws, dflt := 20, lo := 4, hi := 65535 }   -- TEST_HOLD
, { sub := 0x04, ty := .u32, acc := .rws, span := 8 }   -- TEST_TGT_m
, { sub := 0x0C, ty := .u16, acc := .ro, span := 8 }   -- STEP_RATIO_m
]

/-- Table 6-13. -/
def Dict.rows4405 : List Dict.Row :=
[ { sub := 0x01, ty := .bool, acc := .rw }   -- CAP_EN
, { sub := 0x02, ty := .u8, acc := .rw, lo := 0, hi := 1 }   -- CAP_STOP
, { sub := 0x03, ty := .u16, acc := .ro }   -- CAP_NEXT
, { sub := 0x04, ty := .u32, acc := .ro }   -- CAP_WRAPS
]

/-- Table 7-1. -/
def Dict.rows4410 : List Dict.Row :=
[ { sub := 0x01, ty := .u16, acc := .rw, dflt := 3277, lo := 0, hi := 16383 }   -- I_RUN
, { sub := 0x02, ty := .u16, acc := .rw, dflt := 1638, lo := 0, hi := 16383 }   -- I_RUN_MIN
, { sub := 0x03, ty := .u16, acc := .rws, dflt := 6553, lo := 1, hi := 16383 }   -- I_MAX
, { sub := 0x04, ty := .u16, acc := .rw, dflt := 1638, lo := 0, hi := 16383 }   -- I_REST
, { sub := 0x05, ty := .u16, acc := .ro }   -- I_AMP
, { sub := 0x06, ty := .u8, acc := .ro }   -- AMP_SRC
]

/-- Table 7-3. -/
def Dict.rows4411 : List Dict.Row :=
[ { sub := 0x01, ty := .u32, acc := .rw, dflt := 32768, lo := 1024, hi := 2147483647 }   -- V_OBS
, { sub := 0x02, ty := .u8, acc := .rw, dflt := 32, lo := 1, hi := 255 }   -- OBS_FILT
, { sub := 0x03, ty := .u16, acc := .ro, dflt := 1 }   -- OBS_STATUS
, { sub := 0x04, ty := .i16, acc := .ro }   -- LOAD_ANGLE
, { sub := 0x05, ty := .i16, acc := .ro }   -- LOAD_FILT
, { sub := 0x06, ty := .u16, acc := .ro }   -- EMF_MAG
, { sub := 0x07, ty := .u32, acc := .ro }   -- KE
, { sub := 0x08, ty := .u16, acc := .rc }   -- LA_MAX
]

/-- Table 7-4. -/
def Dict.rows4412 : List Dict.Row :=
[ { sub := 0x01, ty := .bool, acc := .rw, dflt := 1 }   -- STALL_EN
, { sub := 0x02, ty := .u16, acc := .rw, dflt := 5120, lo := 2880, hi := 11520 }   -- THETA_STALL
, { sub := 0x03, ty := .u8, acc := .rw, dflt := 4, lo := 1, hi := 64 }   -- N_STALL
, { sub := 0x04, ty := .u8, acc := .rw, dflt := 64 }   -- KE_LOW
, { sub := 0x05, ty := .u8, acc := .rw, dflt := 1, lo := 0, hi := 2 }   -- STALL_REACT
, { sub := 0x06, ty := .bool, acc := .rw }   -- PLAY_STALL
, { sub := 0x07, ty := .u8, acc := .ro }   -- STALL_RUN
, { sub := 0x08, ty := .u32, acc := .rw, counter := true }   -- STALLS
, { sub := 0x09, ty := .u64, acc := .ro }   -- STALL_NT
, { sub := 0x0A, ty := .i64, acc := .ro }   -- STALL_POS
, { sub := 0x0B, ty := .bool, acc := .ro }   -- POS_DOUBT
]

/-- Table 7-5. -/
def Dict.rows4413 : List Dict.Row :=
[ { sub := 0x01, ty := .bool, acc := .rw }   -- STR_EN
, { sub := 0x02, ty := .u16, acc := .rw, dflt := 1920, lo := 0, hi := 11519 }   -- STR_T0
, { sub := 0x03, ty := .u16, acc := .rw, dflt := 4480, lo := 1, hi := 11520 }   -- STR_T1
, { sub := 0x04, ty := .u16, acc := .rw, dflt := 128, lo := 1, hi := 16383 }   -- STR_UP
, { sub := 0x05, ty := .u16, acc := .rw, dflt := 16, lo := 1, hi := 16383 }   -- STR_DOWN
, { sub := 0x06, ty := .u16, acc := .ro }   -- I_STR
, { sub := 0x07, ty := .u32, acc := .rw, counter := true }   -- STR_MAXED
]

/-- Table 7-6. -/
def Dict.rows4414 : List Dict.Row :=
[ { sub := 0x01, ty := .u16, acc := .rw, dflt := 200, lo := 0, hi := 60000 }   -- T_REST
, { sub := 0x02, ty := .u16, acc := .rw, dflt := 50, lo := 0, hi := 10000 }   -- T_REST_RAMP
, { sub := 0x03, ty := .u8, acc := .rw, dflt := 40, lo := 0, hi := 60 }   -- REST_WAKE
, { sub := 0x04, ty := .u16, acc := .ro }   -- REST_FLAGS
, { sub := 0x05, ty := .u32, acc := .ro }   -- STILL_MS
]

/-- Table 7-8. -/
def Dict.rows4415 : List Dict.Row :=
[ { sub := 0x01, ty := .u16, acc := .rc }   -- LOAD_EVENTS
, { sub := 0x02, ty := .u16, acc := .rw, dflt := 20, rsv := 0xFFC0, hw := 0x4 }   -- LOAD_EVT_EN
]

/-- Table 9-2. -/
def Dict.rows4800 : List Dict.Row :=
[ { sub := 0x01, ty := .u8, acc := .rws, lo := 0, hi := 2 }   -- IN_MODE
, { sub := 0x02, ty := .bool, acc := .rws }   -- TERM
, { sub := 0x03, ty := .u8, acc := .rws, dflt := 2, lo := 0, hi := 15 }   -- FILT
, { sub := 0x04, ty := .u16, acc := .rw, rsv := 0xFFF0 }   -- DEC_CFG
, { sub := 0x05, ty := .u32, acc := .rw, lo := 0, hi := 16777215 }   -- LINES
, { sub := 0x06, ty := .u16, acc := .rw, dflt := 4, lo := 0, hi := 1024 }   -- ZTOL
, { sub := 0x07, ty := .u32, acc := .rws, dflt := 1, lo := 1, hi := 4294967295 }   -- ENC_NUM
, { sub := 0x08, ty := .u32, acc := .rws, dflt := 1, lo := 1, hi := 4294967295 }   -- ENC_DEN
]

/-- Table 9-3. -/
def Dict.rows4801 : List Dict.Row :=
[ { sub := 0x01, ty := .i64, acc := .ro }   -- ENC_CNT
, { sub := 0x02, ty := .i64, acc := .ro }   -- ENC_POS
, { sub := 0x03, ty := .i64, acc := .rw }   -- ENC_PRESET
, { sub := 0x04, ty := .u16, acc := .ro, dflt := 1536 }   -- ENC_FLAGS
, { sub := 0x05, ty := .u32, acc := .rw, counter := true }   -- DOUBLE_CNT
, { sub := 0x06, ty := .u32, acc := .rw, counter := true }   -- INFERRED
, { sub := 0x07, ty := .u32, acc := .rw }   -- V_EXPECT
, { sub := 0x08, ty := .u32, acc := .rw, dflt := 10000, lo := 10, hi := 1000000 }   -- ENC_TO
]

/-- Table 9-4. -/
def Dict.rows4802 : List Dict.Row :=
[ { sub := 0x01, ty := .i64, acc := .ro }   -- IDX_CNT
, { sub := 0x02, ty := .u64, acc := .ro }   -- IDX_NT
, { sub := 0x03, ty := .u32, acc := .ro }   -- IDX_PHASE
, { sub := 0x04, ty := .i64, acc := .ro }   -- IDX_SPAN
, { sub := 0x05, ty := .i32, acc := .ro }   -- IDX_CORR
, { sub := 0x06, ty := .u32, acc := .rw, counter := true }   -- IDX_ERR
]

/-- Table 9-5. -/
def Dict.rows4803 : List Dict.Row :=
[ { sub := 0x01, ty := .i32, acc := .ro }   -- ENC_VEL
, { sub := 0x02, ty := .i32, acc := .ro }   -- ENC_CPS
, { sub := 0x03, ty := .u8, acc := .ro }   -- SPD_METHOD
, { sub := 0x04, ty := .u16, acc := .rw, dflt := 50, lo := 1, hi := 10000 }   -- T_STILL
, { sub := 0x05, ty := .u64, acc := .ro }   -- SPD_NT
]

/-- Table 10-1. -/
def Dict.rows4804 : List Dict.Row :=
[ { sub := 0x01, ty := .u16, acc := .rws, dflt := 3, rsv := 0xFF08 }   -- SW_CFG
, { sub := 0x02, ty := .u16, acc := .rws, dflt := 100, lo := 0, hi := 10000 }   -- SW_FILT
, { sub := 0x03, ty := .u8, acc := .rw, lo := 0, hi := 1 }   -- LIM_REACT
, { sub := 0x04, ty := .u32, acc := .rw, dflt := 64000, lo := 1, hi := 4294967295 }   -- D_LIMSW
, { sub := 0x05, ty := .u16, acc := .ro }   -- SW_STATE
, { sub := 0x06, ty := .u32, acc := .rw, counter := true }   -- LIM_HITS
]

/-- Table 10-2. -/
def Dict.rows4805 : List Dict.Row :=
[ { sub := 0x01, ty := .u64, acc := .ro }   -- LATCH_NT
, { sub := 0x02, ty := .i64, acc := .ro }   -- LATCH_CMD
, { sub := 0x03, ty := .i64, acc := .ro }   -- LATCH_ENC
, { sub := 0x04, ty := .u16, acc := .ro }   -- LATCH_FLAGS
, { sub := 0x05, ty := .u64, acc := .ro }   -- LATCH_NT
, { sub := 0x06, ty := .i64, acc := .ro }   -- LATCH_CMD
, { sub := 0x07, ty := .i64, acc := .ro }   -- LATCH_ENC
, { sub := 0x08, ty := .u16, acc := .ro }   -- LATCH_FLAGS
, { sub := 0x09, ty := .u64, acc := .ro }   -- LATCH_NT
, { sub := 0x0A, ty := .i64, acc := .ro }   -- LATCH_CMD
, { sub := 0x0B, ty := .i64, acc := .ro }   -- LATCH_ENC
, { sub := 0x0C, ty := .u16, acc := .ro }   -- LATCH_FLAGS
]

/-- Table 10-5. -/
def Dict.rows4806 : List Dict.Row :=
[ { sub := 0x01, ty := .u8, acc := .rw, dflt := 3, lo := 1, hi := 13 }   -- METHOD
, { sub := 0x02, ty := .u32, acc := .rw, dflt := 0x4e200, lo := 1, hi := 2147483647 }   -- V_SEARCH
, { sub := 0x03, ty := .u32, acc := .rw, dflt := 40960, lo := 1, hi := 2147483647 }   -- V_SLOW
, { sub := 0x04, ty := .i64, acc := .rw }   -- HOME_POS
, { sub := 0x05, ty := .u32, acc := .rw, dflt := 0x100000, lo := 1, hi := 4294967295 }   -- HOME_RANGE
, { sub := 0x06, ty := .u32, acc := .rw, dflt := 8192, lo := 1, hi := 4294967295 }   -- IDX_RANGE
, { sub := 0x07, ty := .bool, acc := .w1 }   -- HOME_START
, { sub := 0x08, ty := .u8, acc := .ro }   -- HOME_RESULT
, { sub := 0x09, ty := .u8, acc := .ro }   -- HOME_PHASE
, { sub := 0x0A, ty := .i64, acc := .ro }   -- HOME_REF
, { sub := 0x0B, ty := .i32, acc := .ro }   -- HOME_RESID
, { sub := 0x0C, ty := .u64, acc := .ro }   -- HOME_NT
]

/-- Table 9-6. -/
def Dict.rows4C00 : List Dict.Row :=
[ { sub := 0x01, ty := .bool, acc := .rw }   -- EMU_EN
, { sub := 0x02, ty := .u8, acc := .rw, lo := 0, hi := 15 }   -- AXIS
, { sub := 0x03, ty := .u8, acc := .rw, lo := 0, hi := 1 }   -- KIND
, { sub := 0x04, ty := .u16, acc := .rw, dflt := 1, lo := 1, hi := 65535 }   -- NUM
, { sub := 0x05, ty := .u16, acc := .rw, dflt := 1, lo := 1, hi := 65535 }   -- DEN
, { sub := 0x06, ty := .u16, acc := .rw, rsv := 0xFFF8 }   -- OUT_CFG
, { sub := 0x07, ty := .u16, acc := .rw, dflt := 4096, lo := 4, hi := 65532 }   -- ZPER
, { sub := 0x08, ty := .u16, acc := .rw, dflt := 100, lo := 25, hi := 1000 }   -- PULSE_W
, { sub := 0x09, ty := .i64, acc := .ro }   -- EMU_CNT
, { sub := 0x0A, ty := .i32, acc := .ro }   -- EMU_LAG
, { sub := 0x0B, ty := .u16, acc := .ro }   -- EMU_FLAGS
, { sub := 0x0C, ty := .u32, acc := .rw, counter := true }   -- OVERRUNS
]

/-- Table 6-2. -/
def Dict.rows5000 : List Dict.Row :=
[ { sub := 0x01, ty := .u16, acc := .rws, dflt := 2500, lo := 625, hi := 7812 }   -- PERIOD
, { sub := 0x02, ty := .u8, acc := .rws, lo := 0, hi := 1 }   -- STAGGER
, { sub := 0x03, ty := .u8, acc := .rws, dflt := 2, lo := 1, hi := 4 }   -- NSAMP
, { sub := 0x04, ty := .u16, acc := .rws, dflt := 128, lo := 0, hi := 1023 }   -- SPOS1
, { sub := 0x05, ty := .u16, acc := .rws, dflt := 512, lo := 0, hi := 1023 }   -- SPOS2
, { sub := 0x06, ty := .u16, acc := .rws, dflt := 768, lo := 0, hi := 1023 }   -- SPOS3
, { sub := 0x07, ty := .u16, acc := .rws, dflt := 896, lo := 0, hi := 1023 }   -- SPOS4
, { sub := 0x08, ty := .u16, acc := .rws, dflt := 300, lo := 100, hi := 1000 }   -- SETTLE
, { sub := 0x09, ty := .u16, acc := .rws, dflt := 200, lo := 100, hi := 2000 }   -- MIN_INT
, { sub := 0x0A, ty := .u8, acc := .rws, lo := 0, hi := 3 }   -- GAIN
, { sub := 0x0B, ty := .u32, acc := .rws, dflt := 10000, lo := 1000, hi := 1000000 }   -- RSHUNT
, { sub := 0x0C, ty := .u32, acc := .ro, dflt := 0x1312d00 }   -- IFS
, { sub := 0x0D, ty := .u64, acc := .ro }   -- GRID_NT
]

/-- Table 6-5. -/
def Dict.rows5001 : List Dict.Row :=
[ { sub := 0x01, ty := .u16, acc := .ro }   -- VBUS
, { sub := 0x02, ty := .u16, acc := .rw, dflt := 900, lo := 0, hi := 7900 }   -- VBUS_UV
, { sub := 0x03, ty := .u16, acc := .rw, dflt := 7800, lo := 1000, hi := 8000 }   -- VBUS_OV
, { sub := 0x04, ty := .u16, acc := .rc }   -- VBUS_MAX
, { sub := 0x05, ty := .u16, acc := .rc, dflt := 65535 }   -- VBUS_MIN
, { sub := 0x06, ty := .i16, acc := .ro }   -- TDIE
, { sub := 0x07, ty := .u16, acc := .ro }   -- BUS_FLAGS
, { sub := 0x08, ty := .u32, acc := .rw, counter := true }   -- CLAMPS
]

/-- Table 8-13. -/
def Dict.rows5002 : List Dict.Row :=
[ { sub := 0x01, ty := .u16, acc := .rws, dflt := 150, lo := 20, hi := 300 }   -- BOC_TH
, { sub := 0x02, ty := .u16, acc := .ro }   -- VGL
, { sub := 0x03, ty := .u16, acc := .ro, dflt := 82 }   -- Q_FLAGS
, { sub := 0x04, ty := .u32, acc := .rw, counter := true }   -- INCIDENTS
]

/-- Table 8-14. -/
def Dict.rows5003 : List Dict.Row :=
[ { sub := 0x01, ty := .u64, acc := .ro }   -- INC_NT
, { sub := 0x02, ty := .u8, acc := .ro }   -- INC_CLASS
, { sub := 0x03, ty := .u16, acc := .ro }   -- INC_HS
, { sub := 0x04, ty := .u16, acc := .ro }   -- INC_LS
, { sub := 0x05, ty := .u16, acc := .ro }   -- INC_FLAGS
]

/-- Table 8-15. -/
def Dict.rows5004 : List Dict.Row :=
[ { sub := 0x01, ty := .u16, acc := .ro, dflt := 3 }   -- LANES
, { sub := 0x02, ty := .u32, acc := .rw, counter := true }   -- CRC_ERR
, { sub := 0x03, ty := .u32, acc := .rw, counter := true }   -- ERR_RX
, { sub := 0x04, ty := .u32, acc := .rw, counter := true }   -- BAD_TYPE
, { sub := 0x05, ty := .u32, acc := .rw, counter := true }   -- TIMEOUTS
, { sub := 0x06, ty := .u32, acc := .rw, counter := true }   -- LATE_EDGES
, { sub := 0x07, ty := .u32, acc := .rw, counter := true }   -- INCOMPLETE
]

/-- Table 8-10. -/
def Dict.rows5400 : List Dict.Row :=
[ { sub := 0x01, ty := .u16, acc := .rws, dflt := 100, lo := 20, hi := 1000 }   -- DEAD_TIME
, { sub := 0x02, ty := .u16, acc := .rw, dflt := 80, lo := 32, hi := 240 }   -- T_SW
, { sub := 0x03, ty := .u8, acc := .rw, lo := 0, hi := 1 }   -- TAILOR
, { sub := 0x04, ty := .u32, acc := .rws, dflt := 0x8080808, rsv := 0xE0E0E0E0 }   -- FIXED_CODES
, { sub := 0x05, ty := .u8, acc := .rws, dflt := 30, lo := 5, hi := 80 }   -- VDS_TH
, { sub := 0x06, ty := .u16, acc := .rws, dflt := 250, lo := 100, hi := 1000 }   -- TBLANK
, { sub := 0x07, ty := .u16, acc := .rws, dflt := 40, lo := 2, hi := 1000 }   -- T_BSMAX
, { sub := 0x08, ty := .u16, acc := .rws, dflt := 300, lo := 100, hi := 2000 }   -- T_REFRESH
]

/-- Table 8-11. -/
def Dict.rows5401 : List Dict.Row :=
[ { sub := 0x01, ty := .u32, acc := .ro, dflt := 0x8080808 }   -- CODES
, { sub := 0x02, ty := .u32, acc := .ro }   -- TSW_MEAS
, { sub := 0x03, ty := .u32, acc := .ro }   -- DELAYS
, { sub := 0x04, ty := .u16, acc := .ro, dflt := 15 }   -- TAIL_FLAGS
, { sub := 0x05, ty := .u16, acc := .ro }   -- LEG_FLAGS
, { sub := 0x06, ty := .u16, acc := .ro }   -- VBST
, { sub := 0x07, ty := .u32, acc := .rw, counter := true }   -- REFRESHES
]

/-- Table 8-12. -/
def Dict.rows5402 : List Dict.Row :=
[ { sub := 0x01, ty := .u32, acc := .rw, counter := true }   -- BST_UV_CNT
, { sub := 0x02, ty := .u32, acc := .rw, counter := true }   -- INTERLOCKS
, { sub := 0x03, ty := .u32, acc := .ro }   -- TRIPS
]

def Dict.tables0 : List (Nat × List Dict.Row) :=
[ (0x1000, Dict.rows1000)
, (0x1010, Dict.rows1010)
, (0x1100, Dict.rows1100)
, (0x1110, Dict.rows1110)
, (0x1120, Dict.rows1120)
, (0x1121, Dict.rows1121)
, (0x1130, Dict.rows1130)
, (0x1132, Dict.rows1132)
, (0x1140, Dict.rows1140)
, (0x1150, Dict.rows1150)
, (0x1160, Dict.rows1160)
, (0x1200, Dict.rows1200)
, (0x1201, Dict.rows1201)
, (0x1202, Dict.rows1202)
, (0x1210, Dict.rows1210)
, (0x1211, Dict.rows1211)
, (0x1212, Dict.rows1212)
, (0x1220, Dict.rows1220)
, (0x1300, Dict.rows1300)
, (0x1310, Dict.rows1310) ]

def Dict.tables1 : List (Nat × List Dict.Row) :=
[ (0x1313, Dict.rows1313)
, (0x1320, Dict.rows1320)
, (0x1330, Dict.rows1330)
, (0x1400, Dict.rows1400)
, (0x1410, Dict.rows1410)
, (0x1420, Dict.rows1420)
, (0x1430, Dict.rows1430)
, (0x1431, Dict.rows1431)
, (0x1440, Dict.rows1440)
, (0x1450, Dict.rows1450)
, (0x2000, Dict.rows2000)
, (0x2010, Dict.rows2010)
, (0x2020, Dict.rows2020)
, (0x2030, Dict.rows2030)
, (0x2400, Dict.rows2400)
, (0x2800, Dict.rows2800)
, (0x2810, Dict.rows2810)
, (0x2880, Dict.rows2880)
, (0x2900, Dict.rows2900)
, (0x2902, Dict.rows2902) ]

def Dict.tables2 : List (Nat × List Dict.Row) :=
[ (0x2908, Dict.rows2908)
, (0x2910, Dict.rows2910)
, (0x2930, Dict.rows2930)
, (0x2940, Dict.rows2940)
, (0x2980, Dict.rows2980)
, (0x29A0, Dict.rows29A0)
, (0x2F00, Dict.rows2F00)
, (0x2F10, Dict.rows2F10)
, (0x3000, Dict.rows3000)
, (0x3001, Dict.rows3001)
, (0x3002, Dict.rows3002)
, (0x3100, Dict.rows3100)
, (0x4000, Dict.rows4000)
, (0x4001, Dict.rows4001)
, (0x4010, Dict.rows4010)
, (0x4020, Dict.rows4020)
, (0x4030, Dict.rows4030)
, (0x4400, Dict.rows4400)
, (0x4401, Dict.rows4401)
, (0x4402, Dict.rows4402)
, (0x4403, Dict.rows4403) ]

def Dict.tables3 : List (Nat × List Dict.Row) :=
[ (0x4404, Dict.rows4404)
, (0x4405, Dict.rows4405)
, (0x4410, Dict.rows4410)
, (0x4411, Dict.rows4411)
, (0x4412, Dict.rows4412)
, (0x4413, Dict.rows4413)
, (0x4414, Dict.rows4414)
, (0x4415, Dict.rows4415)
, (0x4800, Dict.rows4800)
, (0x4801, Dict.rows4801)
, (0x4802, Dict.rows4802)
, (0x4803, Dict.rows4803)
, (0x4804, Dict.rows4804)
, (0x4805, Dict.rows4805)
, (0x4806, Dict.rows4806)
, (0x4C00, Dict.rows4C00)
, (0x5000, Dict.rows5000)
, (0x5001, Dict.rows5001)
, (0x5002, Dict.rows5002)
, (0x5003, Dict.rows5003) ]

def Dict.tables4 : List (Nat × List Dict.Row) :=
[ (0x5004, Dict.rows5004)
, (0x5400, Dict.rows5400)
, (0x5401, Dict.rows5401)
, (0x5402, Dict.rows5402) ]

/-- Every table of the dictionary, by template index. -/
def Dict.tables : List (Nat × List Dict.Row) :=
  Dict.tables0 ++ Dict.tables1 ++ Dict.tables2 ++ Dict.tables3 ++ Dict.tables4

/-- The unit to which an index belongs (R64, R65). -/
inductive Dict.Owner where
  | device
  | hostLink
  | portC
  | source (id : Nat)
  | axis (n : Nat)
  | emu (m : Nat)
  | quarter (q : Nat)
  | leg (l : Nat)
  deriving DecidableEq, Repr

/-- The template index (instance 0), the instance and the owner of an index (Table 3-1). -/
structure Dict.Loc where
  tmpl : Nat
  inst : Nat
  owner : Dict.Owner
  deriving DecidableEq, Repr

/-- Table 3-1. -/
def Dict.locate (idx : Nat) : Dict.Loc :=
  if 0x4000 ≤ idx ∧ idx < 0x4C00 then
    let n := (idx - 0x4000) % 0x400 / 0x40
    ⟨idx - 0x40 * n, n, .axis n⟩
  else if 0x4C00 ≤ idx ∧ idx < 0x4C40 then
    let m := (idx - 0x4C00) / 0x10
    ⟨idx - 0x10 * m, m, .emu m⟩
  else if 0x5000 ≤ idx ∧ idx < 0x5100 then
    let q := (idx - 0x5000) / 0x40
    ⟨idx - 0x40 * q, q, .quarter q⟩
  else if 0x5400 ≤ idx ∧ idx < 0x5800 then
    let l := (idx - 0x5400) / 0x10
    ⟨idx - 0x10 * l, l, .leg l⟩
  else if 0x2400 ≤ idx ∧ idx < 0x2700 then ⟨0x2400, idx - 0x2400, .source (idx - 0x2400)⟩
  else if 0x3100 ≤ idx ∧ idx < 0x3200 then ⟨0x3100, idx - 0x3100, .device⟩
  else if 0x1130 ≤ idx ∧ idx < 0x1132 then ⟨0x1130, idx - 0x1130, .device⟩
  else if 0x1310 ≤ idx ∧ idx < 0x1312 then ⟨0x1310, idx - 0x1310, .device⟩
  else if idx = 0x1312 then ⟨0x1310, 2, .portC⟩
  else if idx = 0x1313 then ⟨0x1313, 0, .portC⟩
  else if idx = 0x1400 then ⟨0x1400, 0, .hostLink⟩
  else if 0x1410 ≤ idx ∧ idx < 0x1418 then ⟨0x1410, idx - 0x1410, .hostLink⟩
  else if 0x2810 ≤ idx ∧ idx < 0x2830 then ⟨0x2810, idx - 0x2810, .device⟩
  else if 0x2910 ≤ idx ∧ idx < 0x2922 then ⟨0x2910, idx - 0x2910, .device⟩
  else if 0x2930 ≤ idx ∧ idx < 0x2934 then ⟨0x2930, idx - 0x2930, .quarter (idx - 0x2930)⟩
  else if 0x2940 ≤ idx ∧ idx < 0x2980 then ⟨0x2940, idx - 0x2940, .leg (idx - 0x2940)⟩
  else if 0x2980 ≤ idx ∧ idx < 0x29A0 then ⟨0x2980, idx - 0x2980, .device⟩
  else if 0x2F10 ≤ idx ∧ idx < 0x2F1A then ⟨0x2F10, idx - 0x2F10, .device⟩
  else ⟨idx, 0, .device⟩

/-- A source ID is assigned (Table 12-1). -/
def Dict.sourceAssigned (id : Nat) : Bool :=
  if id < 0x140 then true
  else if id < 0x180 then id % 0x10 < 8
  else if id < 0x280 then id % 0x10 < 10
  else id < 0x290

/-- The quarter of a leg, quarter or axis source (Table 12-6); none for a device source. -/
def Dict.sourceQuarter (id : Nat) : Option Nat :=
  if id < 0x140 then some (id % 0x40 / 16)
  else if id < 0x180 then some ((id - 0x140) / 0x10)
  else if id < 0x280 then some ((id - 0x180) / 0x10 / 4)
  else none

/-- The units of a part (Table 0-2). -/
def Dict.Owner.present (p : Part) : Dict.Owner → Bool
  | .device => true
  | .hostLink => p.full
  | .portC => p.full
  | .source id =>
    if Dict.sourceAssigned id then
      match Dict.sourceQuarter id with
      | some q => q < p.quarters
      | none => true
    else true
  | .axis n => n < 4 * p.quarters
  | .emu _ => p.full
  | .quarter q => q < p.quarters
  | .leg l => l < 16 * p.quarters

/-- The mailbag sources of Table 13-4. -/
def Dict.mailSource (s : Nat) : Bool :=
  s < 0x12 || (0x20 ≤ s && s < 0x24) || (0x30 ≤ s && s < 0x37)

/-- A subindex of an array object names an absent unit: the axis entries of 0x3001 and 0x3002 (R5; DEDUCED, log 13), and the
quarter sources of 0x1420, 0x1430 and 0x1431 (R357). -/
def Dict.subAbsent (p : Part) (tmpl sub : Nat) : Bool :=
  if tmpl = 0x3001 ∨ tmpl = 0x3002 then 4 * p.quarters < sub && sub ≤ 16
  else if tmpl = 0x1420 ∨ tmpl = 0x1430 ∨ tmpl = 0x1431 then 0x21 + p.quarters ≤ sub && sub ≤ 0x24
  else false

/-- The row of a template index that covers a subindex. -/
def Dict.findRow (rows : List Dict.Row) (sub : Nat) : Option Dict.Row :=
  rows.find? fun r => r.sub ≤ sub && sub < r.sub + r.span

/-- The rows of a template index. -/
def Dict.rowsOf (tmpl : Nat) : List Dict.Row :=
  ((Dict.tables.find? fun t => t.1 == tmpl).map (·.2)).getD []

/-- The highest subindex that a defined object of the rows occupies (R66). -/
def Dict.highSub (rows : List Dict.Row) : Nat :=
  rows.foldl (fun m r => max m (r.sub + r.span - 1)) 0

/-- The row of an index:subindex; none where no object is defined (R64, R66, R326, R357). Subindex 00 of a defined index is a
read-only UINT8. -/
def Dict.row (idx sub : Nat) : Option Dict.Row :=
  let loc := Dict.locate idx
  let rows := Dict.rowsOf loc.tmpl
  if rows.isEmpty then none
  else
    match loc.owner with
    | .source id => if Dict.sourceAssigned id then pick rows loc.tmpl else none
    | _ => pick rows loc.tmpl
where
  /-- The row of the subindex, subindex 00 and the array objects of Table 13-6 included. -/
  pick (rows : List Dict.Row) (tmpl : Nat) : Option Dict.Row :=
    if sub = 0 then some { sub := 0, ty := .u8, acc := .ro, dflt := Dict.highSub rows }
    else if (tmpl = 0x1420 ∨ tmpl = 0x1430 ∨ tmpl = 0x1431) ∧ ¬ Dict.mailSource (sub - 1) then none
    else Dict.findRow rows sub

/-- Default class, N and W of a source (Tables 8-16, 12-2, 12-3). -/
def Dict.sourceDefault (id : Nat) : Nat × Nat × Nat :=
  if id < 0x140 then
    match id / 0x40 with
    | 2 => (1, 8, 1000)
    | 3 => (0, 1, 1000)
    | _ => (2, 1, 1000)
  else if id < 0x180 then
    match id % 0x10 with
    | 0 => (0, 1, 1000)
    | 1 => (1, 4, 1000)
    | 6 => (1, 2, 60000)
    | 7 => (1, 16, 1000)
    | _ => (2, 1, 1000)
  else if id < 0x280 then
    match id % 0x10 with
    | 0 => (1, 16, 1000)
    | 4 => (1, 3, 10000)
    | 8 => (1, 4, 1000)
    | 5 | 6 | 7 | 9 => (0, 1, 1000)
    | _ => (2, 1, 1000)
  else
    match id with
    | 0x283 => (1, 4, 1000)
    | 0x285 => (1, 64, 1000)
    | 0x28B => (1, 3, 60000)
    | 0x280 | 0x281 | 0x284 | 0x286 | 0x288 | 0x289 => (2, 1, 1000)
    | _ => (0, 1, 1000)

/-- Default CFG of a source (Table 12-5). -/
def Dict.sourceCfg (id : Nat) : Nat :=
  let cls := (Dict.sourceDefault id).1
  let log := if id = 0x285 ∨ (0x0C0 ≤ id ∧ id < 0x100) then 0 else 0x20
  cls + 0xC + (if cls = 0 then 0 else 0x10) + log

/-- Owner codes (Table 11-2); a slice s is code s. -/
abbrev ownerPostmaster : Nat := 0x20
abbrev ownerHost : Nat := 0x21
abbrev ownerDma : Nat := 0x22
abbrev ownerCapture : Nat := 0x23
abbrev ownerDespatch : Nat := 0x24
abbrev ownerMailbag : Nat := 0x25
abbrev ownerNone : Nat := 0x3F

/-- Default owner of a bank (Table 11-7; owner codes of Table 11-2). -/
def Dict.bankOwner (p : Part) (b : Nat) : Nat :=
  if b < 4 then (if p = .fq16L then ownerDma else ownerHost)
  else if b < 20 then (if p = .fq8 ∧ 12 ≤ b then ownerHost else ownerCapture)
  else if b < 24 then ownerDespatch
  else if b < 28 then ownerMailbag
  else if b < 30 then ownerPostmaster
  else ownerNone

/-- Default of a slot: the field map's, or the per-part, per-source, per-bank and per-slice values that the manual gives by rule
(R3, R16, R17, R469, R470, R318, R258, R324, R325). -/
def Dict.dflt (p : Part) (key : Nat) : Nat :=
  let idx := key / 256
  let sub := key % 256
  let loc := Dict.locate idx
  match loc.tmpl, sub with
  | 0x1000, 1 => Config.vendorId % 65536
  | 0x1000, 2 => if p = .fq8 then 0x0F08 else 0x0F16
  | 0x1000, 3 => Config.revision % 256
  | 0x1010, 1 => match p with | .fq16 => 0xFFFF0F07 | .fq16L => 0xFFFF0F00 | .fq8 => 0x00FF0307
  | 0x1010, 2 => (match p with | .fq16 => 1 | .fq16L => 2 | .fq8 => 3) + (if Config.gradeE then 0x4500 else 0x4300)
  | 0x1120, n + 1 => if n < 4 * p.quarters then n else 0x1F
  | 0x1121, s + 1 =>
    if s < 4 * p.quarters then s * 256
    else if s < 16 then 4 + 0x1F * 256
    else 1 + 0x1F * 256
  | 0x1140, 1 => Config.fwRom % 2 ^ 32
  | 0x1140, 2 => Config.fwRom % 2 ^ 32
  | 0x1140, 6 => Config.fwFloor % 2 ^ 32
  | 0x1300, 7 => Config.serial % 2 ^ 64
  | 0x2400, 1 => Dict.sourceCfg loc.inst
  | 0x2400, 2 => (Dict.sourceDefault loc.inst).2.1
  | 0x2400, 3 => (Dict.sourceDefault loc.inst).2.2
  | 0x2810, 1 => Dict.bankOwner p loc.inst
  | 0x2810, 15 => loc.inst
  | 0x2900, 5 => if p = .fq8 then 0x00033302 else 0x0003FF02
  | _, _ => ((Dict.row idx sub).map (·.dflt)).getD 0

end Sys2Proof.Machine
end

