-- ==== Sys2Proof/Machine/Tab.lean ====
section
/-! DEFINITION. Sparse tables: the plain data that holds instances of a unit, object slots and memory cells by number. -/

namespace Sys2Proof.Machine

/-- A table by number, keys rising. What an unlisted key reads as is the reader's default. -/
abbrev Tab (α : Type) := List (Nat × α)

/-- The entry of a key. -/
def Tab.find {α : Type} : Tab α → Nat → Option α
  | [], _ => none
  | (k, v) :: t, x => if k = x then some v else Tab.find t x

/-- The entry of a key, or the default. -/
def Tab.get {α : Type} (d : α) (t : Tab α) (x : Nat) : α :=
  (Tab.find t x).getD d

/-- The table with the entry of one key set. -/
def Tab.put {α : Type} : Tab α → Nat → α → Tab α
  | [], k, v => [(k, v)]
  | (k', v') :: t, k, v =>
    if k < k' then (k, v) :: (k', v') :: t
    else if k = k' then (k, v) :: t
    else (k', v') :: Tab.put t k v

/-- The table without the entry of one key. -/
def Tab.del {α : Type} (t : Tab α) (k : Nat) : Tab α :=
  t.filter fun e => e.1 ≠ k

/-- The table with a key set, unlisted where the value is the default: the canonical form. -/
def Tab.store {α : Type} [DecidableEq α] (d : α) (t : Tab α) (k : Nat) (v : α) : Tab α :=
  if v = d then Tab.del t k else Tab.put t k v

/-- Keys strictly rising. -/
def Tab.sorted {α : Type} : Tab α → Bool
  | [] => true
  | [_] => true
  | (k, _) :: (k', v') :: t => k < k' && Tab.sorted ((k', v') :: t)

end Sys2Proof.Machine
end

