-- ==== Sys2Proof/Machine/State.lean ====
section
/-! DEFINITION. The state of the FQ16 block: the waiting commands, the pigeonhole memory, the device state and the units. Every
object of the dictionary is one slot of the store `objs` (chapter 03: there is no second register model behind it); the other
fields hold what the manual's units keep beside the dictionary.
Conventions of the model: DESIGN CHOICE: log 3, 20, 21, 79, 80; DEDUCED: log 15, 22, 26, 28, 35, 40, 46, 50, 56, 58. -/

namespace Sys2Proof.Machine

/-- Why the machine stops with a fault. No command of this block stops it: the device answers, refuses on its own terms (an abort
code, a counted refusal) or goes on. -/
inductive Fault where
  /-- Raised by no command; safe. -/
  | neverRaised
  deriving DecidableEq, Repr

/-- Why a command has no meaning. -/
inductive Refusal where
  /-- Raised by the dispatch for a command that is not modelled yet; safe. -/
  | notModelled (mnemonic : String)
  deriving DecidableEq, Repr

/-! ## What leaves the device -/

/-- What leaves the device, in order. -/
inductive Out where
  /-- The bytes of a PCI Express read completion (R74, R320). -/
  | completion (data : Bytes)
  /-- The value that a single-object read returns to its path. -/
  | value (path : Path) (key : Nat) (v : Nat)
  /-- A posted memory write to the host (R348). -/
  | hostWrite (addr : Nat) (data : Bytes)
  /-- An MSI-X message (R362). -/
  | msix (vector addr data : Nat)
  /-- An envelope frame that has left a port: its 16 header bytes, its body, and whether its FCS holds (R378). -/
  | frame (port : Nat) (header body : Bytes) (fcsOk : Bool)
  /-- A PTP message sent on a port: kind (1 Sync, 2 Pdelay_Req, 3 Pdelay_Resp, 4 Announce) and timestamps, ps of NT (R391). -/
  | ptp (port kind : Nat) (t1 t2 : Int)
  /-- An envelope that arrived on a port and is delivered to this device (R376): header and body. -/
  | delivered (port : Nat) (header body : Bytes)
  /-- A PMBus command with its data (R54). -/
  | pmbus (cmd : PmbCommand) (data : Nat)
  /-- A heartbeat or edge letter sent over a lane of a seam: quarter, toward the quarter, lane, the flit. -/
  | flit (q : Nat) (toQuarter : Bool) (lane : Nat) (f : Flit)
  /-- A protection report sent by a quarter (Table 8-9, type 0xA). -/
  | report (q : Nat) (kind : ReportKind) (nt : Nat)
  /-- A refresh report sent by a quarter: leg and NT (Table 8-9, type 0xB). -/
  | refresh (leg nt : Nat)
  /-- A setting acknowledge sent by a quarter (Table 8-9, type 0xC). -/
  | settingAck (q addr : Nat)
  /-- An ADC sample sent by a quarter: channel, code, instant in 1/4 ns of NT (Table 8-9, type 0x8). -/
  | sample (q ch : Nat) (code : Int) (ts : Nat)
  /-- A level on an emulation ball: output, ball (0 A, 1 B, 2 Z), level. -/
  | emuBall (m ball : Nat) (level : Bool)
  /-- SYNC_OUT or PPS_OUT at a level, NT in ns. -/
  | syncOut (level : Bool) (nt : Nat)
  | ppsOut (level : Bool) (nt : Nat)
  /-- One go flit sent to a quarter (Table 8-9, type 0x2; R175): its axes (bit i: local axis i), timed, the axes' generations by local
  axis, and the instant in 1/4 ns of NT. -/
  | go (q axes : Nat) (timed : Bool) (gens : List Nat) (g : Nat)
  /-- A setting sent to a quarter: its address (log 78) and value (Table 8-9, type 0x3). -/
  | setting (q addr value : Nat)
  /-- Leg measurements sent by a quarter (Table 8-9, type 0x9). -/
  | measure (q : Nat) (m : LegMeasure)
  /-- A mode change sent to a quarter (Table 8-9, type 0x4). -/
  | mode (q : Nat) (c : ModeChange)
  /-- A bit on TDO of the boundary-scan chain. -/
  | tdo (level : Bool)
  /-- TDO at high impedance, outside the Shift states (Table 17-13). -/
  | tdoOff
  deriving DecidableEq, Repr

/-! ## The device state and the start lock (chapters 03 and 16) -/

/-- Device states (Table 16-1). -/
inductive DevState where
  | off | stowed | ready | operating | safe
  deriving DecidableEq, Repr

/-- The value of DEV_STATE (Table 16-1). -/
def DevState.code : DevState → Nat
  | .off => 0
  | .stowed => 1
  | .ready => 2
  | .operating => 3
  | .safe => 4

/-- The device state and the start lock: DEV_STATE and LOCKED read here. -/
structure Power where
  devState : DevState := .off
  locked : Bool := false
  deriving DecidableEq, Repr

/-! ## The object fabric (chapter 03) -/

/-- A stored response: source address, tag and body (R80). -/
structure Reply where
  src : Nat
  tag : Nat
  body : Bytes
  deriving DecidableEq, Repr

/-- What the object fabric keeps beside the objects. -/
structure Fabric where
  /-- Dictionary defaults have been loaded (Not ready ends). -/
  ready : Bool := false
  /-- The BAR0 read latch: slot key and upper half (R75). -/
  readLatch : Option (Nat × Nat) := none
  /-- The BAR0 write buffer: slot key and lower half (R75). -/
  writeBuf : Option (Nat × Nat) := none
  /-- The NT_FRAC latches by path (R43). -/
  ntFrac : Tab Nat := []
  /-- The reply store, most recently served first, at most 64 (R80). -/
  replies : List Reply := []
  /-- Finish times of the ring requests in execution (R81), ns of device time. -/
  executing : List Nat := []
  /-- Ring requests executed, the argument of Config.ringExecNs. -/
  execCount : Nat := 0
  /-- Parity, one bit per byte of a slot (R88): the bytes of a slot, bit b byte b, whose stored parity bit is not that of the stored value. -/
  upset : Tab Nat := []
  /-- The slot that the scrubber checks next. -/
  scrubAt : Nat := 0
  deriving DecidableEq, Repr

/-! ## Faults (chapter 12) -/

/-- A raise on its way to the fault unit (R327). -/
structure Raise where
  src : Nat
  nt : Nat
  injected : Bool := false
  deriving DecidableEq, Repr

/-- What the fault unit keeps beside its objects. -/
structure FaultUnit where
  /-- Raises in arrival order (R328). -/
  raises : List Raise := []
  /-- Detection NTs in the window of a source (R329). -/
  windows : Tab (List Nat) := []
  /-- Steps up to this one are due at once (R336). -/
  atOnce : Nat := 0
  /-- Device time at which the ERR_N pulse ends (R341). -/
  pulseEnd : Option Nat := none
  /-- Quarters whose safe request of step 2 stands (R338), bit q. -/
  stepSafe : Nat := 0
  /-- Checks fed by the injection in progress. -/
  injFed : Nat := 0
  deriving DecidableEq, Repr

/-! ## The mailbag (chapter 13) -/

/-- An event record (Table 13-3); `addr` is bytes 16 to 17. -/
structure EventRec where
  src : Nat
  seq : Nat
  nt : Nat
  type : Nat
  obj : Nat
  addr : Nat
  lost : Nat := 0
  payload : Bytes
  deriving DecidableEq, Repr

/-- A staged record with the queue for which it was staged (R357). -/
structure Staged where
  queue : Nat
  rcd : EventRec
  deriving DecidableEq, Repr

/-- What one queue keeps beside its objects. -/
structure QueueRt where
  /-- The value 0 must be written to the shadow before any record (R355). -/
  zeroShadow : Bool := false
  /-- Records since the last interrupt (R362). -/
  modCount : Nat := 0
  /-- Device time at which that count became nonzero. -/
  modStart : Nat := 0
  deriving DecidableEq, Repr

/-- What the mailbag keeps beside its objects. -/
structure Mailbag where
  staging : List Staged := []
  /-- Last SEQ delivered per own source (R353). -/
  lastSeq : Tab Nat := []
  /-- Last SEQ delivered per pair address * 256 + SOURCE (R365). -/
  pairs : Tab Nat := []
  queues : Tab QueueRt := []
  /-- MSI-X table entries and pending bits by vector (R362). -/
  msix : Tab MsixEntry := []
  msixPending : Nat := 0
  /-- Records in the forward envelope being filled, and when its first entered (R363). -/
  fwd : List EventRec := []
  fwdStart : Nat := 0
  /-- The level of PE_PERST_N: true deasserted. -/
  perst : Bool := true
  deriving DecidableEq, Repr

/-! ## The quarter dies: legs, frankers, seams (chapters 06 and 08) -/

/-- The state of a leg (R228). -/
inductive LegPos where
  | off | high | low
  deriving DecidableEq, Repr

/-- An edge letter as the franker holds it (Table 8-8): `state` 0 off, 1 high, 2 low, 3 commit only; `gen` the go generation;
`ptag` the period number modulo 16; `offset` in 250 ps from the period start or from g. -/
structure EdgeLet where
  state : Nat
  ctrl : Nat := 0
  gen : Nat := 0
  ptag : Nat := 0
  last : Bool := false
  offset : Nat := 0
  deriving DecidableEq, Repr

/-- What a leg keeps beside its objects. Times are device time in 1/4 ns. -/
structure LegRt where
  pos : LegPos := .off
  /-- The sinks hold at code 31 (R229, R421). -/
  hold31 : Bool := true
  /-- Device time of the last change of the leg's state. -/
  since : Nat := 0
  /-- The device to turn on after the dead time, and when (R237); when the franker gives it up (R228). -/
  turnOn : Option (LegPos × Nat) := none
  giveUp : Nat := 0
  /-- The device whose gate a protective turn-off is still discharging, and until when (R248, R250). -/
  gate : LegPos := .off
  gateEnd : Nat := 0
  /-- The franker's last launch: its edge kind and instant, ahead of the edge by the leg's delay (R44, R236). -/
  launch : Nat × Nat := (0, 0)
  /-- The end of a soft turn-off (R229): from then the sink holds at code 31. -/
  softEnd : Option Nat := none
  /-- Ends of the VDS blanking windows of the high and the low side (R245, R247). -/
  blankH : Nat := 0
  blankL : Nat := 0
  /-- High-side on-time counted so far (R241), 1/4 ns, up to `since`. -/
  onTime : Nat := 0
  /-- A refresh in progress: its start, and the state that an edge inside it sets at its end (R241, R242). -/
  refresh : Option (Nat × Option Nat) := none
  /-- Letters of the running period not yet applied, by instant (device time, state, ctrl). -/
  due : List (Nat × Nat × Nat) := []
  /-- Letters held for later periods. -/
  held : List EdgeLet := []
  /-- The go set held in the prime slot (R170), the one that is arriving, and the pattern of the last period that was not held (R58). -/
  goSet : List EdgeLet := []
  goNew : List EdgeLet := []
  /-- The go set that was taken last (R171). -/
  goRun : List EdgeLet := []
  pattern : List EdgeLet := []
  /-- Consecutive events farther than T_SW / 2 from T_SW, per code (R232). -/
  farRun : Tab Nat := []
  /-- Consecutive events out of reach at a limit code, per code (R234). -/
  limitRun : Tab Nat := []
  /-- Latest delay per edge kind since the enable, 1/4 ns (R236): 0 GH on, 1 GH off, 2 GL on, 3 GL off; those that the controller knows. -/
  delays : Tab Nat := []
  known : Tab Nat := []
  /-- Latest switching time per controlling code, with the code used and the direction (R230, R231), to be sent (R236). -/
  meas : Tab (Nat × Nat × Bool) := []
  /-- The bootstrap voltage last seen by the leg's monitor, 10 mV. -/
  bst : Nat := 0
  /-- The leg-enable mode change (Table 8-9). -/
  enabled : Bool := false
  deriving DecidableEq, Repr

/-- An open short incident (R250). -/
structure IncidentRt where
  openNt : Nat
  /-- Device time of the opening trip, 1/4 ns. -/
  openAt : Nat
  hs : Nat := 0
  ls : Nat := 0
  boc : Bool := false
  trips : Nat := 0
  /-- Local legs whose high and whose low side has tripped in it (R252). -/
  trippedHs : Nat := 0
  trippedLs : Nat := 0
  deriving DecidableEq, Repr

/-- What one end of one lane of a seam keeps: when the last valid flit came (device time, ns), CRC errors of the last
millisecond, and whether an error is to be shown in the next flit sent (Table 8-8, ERR). -/
structure LaneRt where
  lastValid : Nat := 0
  crcTimes : List Nat := []
  errPending : Bool := false
  deriving DecidableEq, Repr

/-- What a quarter keeps beside its objects. -/
structure QuarterRt where
  /-- Causes of the safe state that are present, bit c = cause c of Table 8-2; the start-up hold at reset. -/
  causes : Nat := 0x20
  /-- The cause that was entered last, and the one that held last, which event 0x0166 carries (Table 8-17). -/
  lastCause : Nat := 5
  leftCause : Nat := 5
  /-- The quarter's NT copy less NT, ticks (R39), and whether the next valid heartbeat's NT is taken. -/
  ntOfs : Int := 0
  takeNt : Bool := false
  /-- Lane ends at the quarter and at the controller. -/
  rxQ : Tab LaneRt := []
  rxC : Tab LaneRt := []
  /-- The seam is trained (Table 16-3). -/
  trained : Bool := false
  /-- The quarter's latest 1 us average of VBSq, 10 mV (R196). -/
  vbus : Nat := 0
  /-- Since when valid flits flow without a gap, after a timeout (R257), ns. -/
  flowSince : Option Nat := none
  /-- The controller has stopped sending (R256). -/
  silent : Bool := false
  incident : Option IncidentRt := none
  /-- End of the bus comparator's blanking (R246, R247), 1/4 ns. -/
  bocEnd : Nat := 0
  /-- The quarter's period grid (R180): set, and its device time in ticks. -/
  gridOn : Bool := false
  gridAt : Nat := 0
  /-- Coils clamped to slow decay (R197), bit j, and since when VBUS stays below VBUS_OV - 1.0 V. -/
  clamp : Nat := 0
  belowOv : Option Nat := none
  /-- Settings in effect at the quarter by object slot, those received that wait for a period boundary (R86), and the addresses whose
  acknowledge has come (Table 8-9). -/
  settings : Tab Nat := []
  settingsNew : Tab Nat := []
  acked : List Nat := []
  /-- Values of the quarter's objects in effect at the controller since the last period boundary of one of its coils (R86). -/
  eff : Tab Nat := []
  /-- Protection and refresh reports delivered to the controller, latest first. -/
  reports : List (ReportKind × Nat) := []
  /-- The ADC channel's conversion in progress: channel, code, instant in 1/4 ns of NT, end. -/
  converting : Tab (Int × Nat × Nat) := []
  deriving DecidableEq, Repr

/-! ## Coils -/

/-- A computed or executed schedule (R183, R190): intervals of a length in 1/4 ns with the signed bridge state of each: 1 the bridge
applies +V_bus to the coil (R14), -1 it applies -V_bus, 0 slow decay. -/
abbrev Sched := List (Nat × Int)

/-- A job in progress (R34, R47): the period for which it computes, its edge letters of the left and the right leg, its go set,
its schedules, and its deadline (device time, ticks). -/
structure JobRt where
  k : Nat
  left : List EdgeLet := []
  right : List EdgeLet := []
  goLeft : List EdgeLet := []
  goRight : List EdgeLet := []
  sched : Sched := []
  goSched : Sched := []
  deadline : Nat := 0
  window : Nat := 0
  slice : Nat := 0
  deriving DecidableEq, Repr

/-- A schedule with the device time (1/4 ns) at which it began: what the engine keeps of executed periods (R188). -/
structure Ran where
  at_ : Nat
  sched : Sched
  deriving DecidableEq, Repr

/-- A reconstructed period of a coil (R188, R191): its start and end (device time, 1/4 ns), start and end current (A), the updated
back-EMF and the one predicted for it (V), blind. -/
structure PeriodRec where
  t0 : Nat
  t1 : Nat
  iS : Rat
  iE : Rat
  e : Rat
  hat : Rat
  blind : Bool
  deriving DecidableEq, Repr

/-- The counter of R241 of one leg as the engine mirrors it from the edges it posts (R243): where the leg stands, high-side on-time and
present low interval so far, and what is still to pass until the device of that state conducts, 1/4 ns. -/
structure Mirror where
  pos : LegPos := .off
  on : Nat := 0
  low : Nat := 0
  wait : Nat := 0
  deriving DecidableEq, Repr

/-- What a coil keeps beside its axis's objects. -/
structure CoilRt where
  /-- Its periods run (R180); the number and the start (ticks) of the next period, and the start of the running one. -/
  running : Bool := false
  next : Nat := 0
  nextAt : Nat := 0
  /-- A period has begun since the periods run. -/
  begun : Bool := false
  start : Nat := 0
  /-- The running period is a test period of identification (R199). -/
  testNow : Bool := false
  /-- The running period is held (R58); consecutive held periods so far (R60); the period whose job has completed late, the core-voltage
  loop knowing of it (R53). -/
  heldNow : Bool := false
  lateRun : Nat := 0
  lateJob : Option Nat := none
  /-- The verdict of R254 on the next period. -/
  complete : Option Bool := none
  /-- A go set runs from this device time (1/4 ns), until letters of the new generation hold (R171), with its schedule. -/
  goFrom : Option Nat := none
  goSched : Sched := []
  /-- The job in progress, and the schedules of jobs whose letters have passed the seam interface: for the next period, and of
  the go set. -/
  job : Option JobRt := none
  posted : Option (Nat × Sched) := none
  goPosted : Sched := []
  /-- The schedule of the last computed period, and the executed schedules, latest first. -/
  computed : Sched := []
  ran : List Ran := []
  /-- The period of the last job, the schedule that it planned, and the mirrored counters of R241, left and right leg: at that period's
  start, and as predicted for its end. -/
  jobFor : Option Nat := none
  planned : Sched := []
  mirrorL : Mirror := {}
  mirrorR : Mirror := {}
  aheadL : Mirror := {}
  aheadR : Mirror := {}
  /-- Samples that no job has used yet: code, instant in device time, 1/4 ns (R35). -/
  samples : List (Int × Nat) := []
  /-- Refreshes reported by the franker: leg, device time in 1/4 ns (R243). -/
  refreshes : List (Nat × Nat) := []
  /-- The start current of the period last reconstructed, and its end (R188), A. -/
  iStart : Rat := 0
  iEnd : Rat := 0
  /-- Back-EMF of the coil, updated and predicted (R191), V. -/
  emf : Rat := 0
  emfHat : Rat := 0
  /-- The target of the last computed period, counts (R177), and the amplitude that its job took. -/
  tgt : Int := 0
  amp : Nat := 0
  /-- The coil's part in R_TRACK, BEYOND_TABLE and DUTY_LIM (Table 6-7). -/
  tracks : Bool := false
  beyond : Bool := false
  dutyLim : Bool := false
  /-- Live resistance, ohm (R192). -/
  rLive : Rat := 0
  /-- ADC offset, codes (Table 6-8), and the sums of its averaging. -/
  offset : Rat := 0
  offSum : Int := 0
  offCount : Nat := 0
  /-- Consecutive blind periods (R187), and what has been seen in them. -/
  blindRun : Nat := 0
  sawOverrange : Bool := false
  sawDisturbed : Bool := false
  /-- The last reconstructed period was blind. -/
  blind : Bool := false
  /-- A usable sample has come since identification began (Table 6-4). -/
  sampled : Bool := false
  /-- Consecutive periods at commanded velocity 0 (R191), and periods of motion since (Table 6-4). -/
  stillRun : Nat := 0
  moveRun : Nat := 0
  /-- The last reconstructed periods, latest first (R211). -/
  past : List PeriodRec := []
  deriving DecidableEq, Repr

/-! ## Axes -/

/-- Why an axis brakes to standstill: HALT (R116), quick stop (R117), disable in Moving (Table 4-13), limit stop (R285), a homing stop
(R293), safe-stop (R337), disengagement (R118), and the loss of a follow source or of a play's points at D_STOP (R126, R129, R166). -/
inductive StopKind where
  | halt | qstop | disable | limit | homing | safeStop | follow | lost
  deriving DecidableEq, Repr

/-- A stop in progress, with the shape of the move that it ends. -/
structure Stop where
  kind : StopKind
  scurve : Bool := false
  deriving DecidableEq, Repr

/-- What the profile generator runs. -/
inductive Move where
  | idle
  | position (target : Int)
  | velocity (req : Int)
  | play
  | follow
  deriving DecidableEq, Repr

/-- A letter as the device holds it (Table 5-1): `due` expanded (R135), `k` its arrival number, `arr` its arrival NT. `decided`: an
ALL_OR_NONE letter that every axis accepts (R150); `queued`: waiting under the conflict policy (R167). -/
structure Letter where
  due : Nat
  k : Nat
  axes : Nat
  action : Nat
  flags : Nat
  tag : Nat
  args : Bytes
  arr : Nat
  /-- The DUE field as sent (48 bits), for the events. -/
  due48 : Nat
  /-- At its arrival, every axis of AXES held a prime of its pattern and scales (R144). -/
  primed : Bool := false
  decided : Bool := false
  queued : Bool := false
  /-- It came from the Postmaster (R141, R152). -/
  post : Bool := false
  deriving DecidableEq, Repr

/-- A play (R161): `start` in 2^-16 ns of NT, `pos0` its start position in 2^-32 ust, `next` the points reached so far over all
repeats, `repeats` its REPEAT. -/
structure PlayRt where
  pat : Nat
  first : Nat
  count : Nat
  scale : Nat
  swing : Int
  amp : Nat
  repeats : Nat
  tag : Nat
  primed : Bool := false
  start : Nat
  pos0 : Int
  next : Nat := 0
  deriving DecidableEq, Repr

/-- The prime of an axis (R169). -/
structure PrimeRt where
  pat : Nat
  scale : Nat
  swing : Int
  amp : Nat
  deriving DecidableEq, Repr

/-- What a follow source keeps (R118 to R129). Positions in 1/65,536 ust. -/
structure FollowRt where
  engaged : Bool := false
  /-- An arm letter waits for the other conditions; a disengagement bars the source until FOLLOW_EN is written 0 or an arm letter. -/
  armed : Bool := false
  barred : Bool := false
  /-- Follow target and its velocity in ust/s. -/
  xf : Int := 0
  vf : Rat := 0
  /-- Step edges with their directions: those not yet counted, and those of the last 100 us. -/
  steps : List (Nat × Int) := []
  counted : Nat := 0
  /-- Stream points held, and the last one held or passed. -/
  points : List (Nat × Int) := []
  lastPt : Option (Nat × Int) := none
  /-- The running segment: its start point, slopes at both ends (1/65,536 ust per ns). -/
  seg : Option ((Nat × Int) × Rat × Rat) := none
  /-- The master at engagement and at the last cadence, and the commanded position at engagement. -/
  m0 : Rat := 0
  mPrev : Rat := 0
  p0 : Int := 0
  deriving DecidableEq, Repr

/-- What one axis publishes on the position bus at a cadence (R27): positions in 1/65,536 ust, velocity in 1/16 ust/s. -/
structure BusVal where
  nt : Nat
  pos : Int
  vel : Int
  enc : Int
  cnt : Int
  encOk : Bool
  deriving DecidableEq, Repr

/-- What the profile generator of an axis keeps beside its objects. -/
structure MotionRt where
  /-- The position register, 2^-32 ust (R96), and the remainder of the rate multiplier (R100). -/
  pos : BitVec 80 := 0
  rem : Nat := 0
  /-- The position register at the last cadence, as a number, to see a wrap (R97). -/
  lastPos : Int := 0
  /-- Velocity in 10^-12 x 1/16 ust/s and its change per cadence in the same unit (R99, log 15). -/
  vel : Int := 0
  acc : Int := 0
  /-- The velocity handed to the rate multiplier, 1/16 ust/s. -/
  vOut : Int := 0
  /-- NT of the last cadence run. -/
  cadence : Option Nat := none
  move : Move := .idle
  stops : List Stop := []
  /-- The present move is an S-curve. -/
  scurve : Bool := false
  /-- Braking toward the present target has begun (R109); deceleration deferred and the one kept (R111). -/
  final : Bool := false
  deferring : Bool := false
  dkPrev : Nat := 0
  /-- OVERSHOOT has been reported for this move; the clamp of R112 binds. -/
  overshot : Bool := false
  clamping : Bool := false
  /-- End of the reversal dwell, ns of device time (R114). -/
  dwell : Option Nat := none
  /-- An action since the last cadence (R101): its NT and the commanded state there: position in 2^-32 ust, velocity, its change. -/
  act : Option (Nat × Int × Int × Int) := none
  /-- When the safe-stop reaction began (device time, ns; R337). -/
  safeAt : Option Nat := none
  play : Option PlayRt := none
  /-- A primed play that waits for its immediate go (R172). -/
  goWait : Option PlayRt := none
  prime : Option PrimeRt := none
  follow : FollowRt := {}
  /-- The rest timer in cadences, when the axis entered Holding (device time, ns; R222), and whether a stall was declared since (R216). -/
  restUs : Nat := 0
  heldAt : Nat := 0
  stallSeen : Bool := false
  /-- The reaction of a stall declared by a job of coil A, for the first cadence after the job completes (R217). -/
  stallReact : Option Nat := none
  /-- The path of the register over the last 20 ms, latest first: NT, register, remainder, velocity handed over (R289). -/
  path : List (Nat × Int × Nat × Int) := []
  /-- Latched CMD_VEL, CMD_ACC and CMD_NT by path (R105). -/
  latch : Tab (Nat × Nat × Nat) := []
  /-- Values on the position bus, latest first, at most three (R28). -/
  bus : List BusVal := []
  deriving DecidableEq, Repr

/-- A counted edge: timestamp, count after it, and its step. -/
structure EdgeRec where
  t : Nat
  cnt : Int
  step : Int
  deriving DecidableEq, Repr

/-- What a transition changes in the decoder (R263, R274): levels, edge history (latest first), the edges of the last 20 ms since the
last preset, the sign of the last counted edge since then (0: none), the last reversing edge. -/
structure DecRt where
  a : Bool := false
  b : Bool := false
  hist : List EdgeRec := []
  edges : List EdgeRec := []
  sign : Int := 0
  revAt : Option Nat := none
  /-- A counted edge lies since wake or the last preset (R264); the NT T_p of that preset (R266). -/
  seen : Bool := false
  preAt : Nat := 0
  /-- The estimate holds until the restarted history has two edges. -/
  holds : Bool := false
  /-- Standstill (R275): the next edge starts the history again. -/
  still : Bool := false
  /-- The count method is in use (R276). -/
  count : Bool := false
  /-- An index has been seen, and nothing since it that skips the check of R271. -/
  idxClean : Bool := false
  deriving DecidableEq, Repr

/-- What an accepted transition found: the decoder, the count, the encoder timeout and the open latches before it. -/
structure LastStep where
  t : Nat
  lineB : Bool
  dec : DecRt
  cnt : Int
  toSince : Nat
  timeout : Bool
  opened : Tab (Nat × EdgeRec)
  deriving DecidableEq, Repr

/-- The encoder decoder of an axis (chapter 09). -/
structure EncRt where
  dec : DecRt := {}
  /-- The last transition and what it found: a second line's transition with the same timestamp makes a double transition with it. -/
  last : Option LastStep := none
  /-- The level of Z; an accepted index that waits for the A and B transitions of its timestamp (R269). -/
  z : Option Bool := none
  zAt : Option Nat := none
  /-- The changes of POS_VALID, by NT, latest first (R290). -/
  valid : List (Nat × Bool) := []
  /-- The estimate, counts/s. -/
  v : Rat := 0
  /-- Since when the encoder timeout runs, ns of device time (R273). -/
  toSince : Nat := 0
  /-- Path latches of ENC_POS, ENC_FLAGS (read of ENC_CNT) and of ENC_CPS, SPD_METHOD, SPD_NT (read of ENC_VEL). -/
  latchCnt : Tab (Nat × Nat) := []
  latchVel : Tab (Nat × Nat × Nat) := []
  deriving DecidableEq, Repr

/-- The switch inputs of an axis (chapter 10): accepted levels, bit i (open inputs read high); when input i was accepted as active. -/
structure SwitchRt where
  levels : Nat := 7
  since : Tab Nat := []
  /-- The NT at which sampling began, and the inputs, bit i, whose starting level has been accepted other than as an open input's (R284). -/
  startNt : Nat := 0
  started : Nat := 0
  /-- Latches whose encoder interpolation is open: input, t_s and e_a. -/
  openLatch : Tab (Nat × EdgeRec) := []
  /-- Path latches of the other subindices of an input, by path * 4 + input (R291). -/
  latch : Tab (Nat × Nat × Nat) := []
  deriving DecidableEq, Repr

/-- Homing in progress (R292 to R296). Positions in 1/65,536 ust. -/
structure HomeRt where
  running : Bool := false
  /-- 0 to start at the next cadence, 1 search, 2 back-off, 3 approach, 4 preset; the stop at a phase's end is running. -/
  phase : Nat := 0
  stopping : Bool := false
  /-- The limit stop that has been met is being handled (R293). -/
  atLimit : Bool := false
  /-- Direction of the search; the search has been reversed; HOME is being passed through. -/
  dir : Int := 1
  reversed : Bool := false
  passing : Bool := false
  start : Int := 0
  /-- Position at the start of the approach. -/
  approach : Int := 0
  /-- The reference: P_ref and E_ref (count), found. -/
  found : Option (Int × Int) := none
  /-- The indices of the approach, earliest first: timestamp, commanded and encoder position (R293). -/
  seen : List (Nat × Int × Int) := []
  /-- Consecutive valid periods past THETA_STALL (R294). -/
  count : Nat := 0
  /-- The result with which homing ends at standstill, where it has failed. -/
  fail : Nat := 0
  deriving DecidableEq, Repr

/-- Identification in progress (R198): the next row of Table 6-8, when it began (device time of t_e, ticks), the points done,
results so far. -/
structure IdentRt where
  row : Nat := 0
  began : Nat := 0
  /-- Entered Identifying, device time in ns (R198: t_e lies at least 2 us after). -/
  entered : Nat := 0
  /-- Point in progress (1 to 32), its approach periods so far, and whether its test period runs. -/
  point : Nat := 0
  approach : Nat := 0
  testing : Bool := false
  /-- Periods that the points have taken so far: approach periods, the added ones too, and test periods (R198). -/
  spent : Nat := 0
  /-- Accumulated sums of i_k^2 R_k and i_k^2 per coil. -/
  sumA : Rat := 0
  sumA2 : Rat := 0
  sumB : Rat := 0
  sumB2 : Rat := 0
  /-- I_run and I_max when identification began, counts. -/
  iRun : Nat := 0
  iMax : Nat := 0
  /-- Incremental inductances measured so far, points in order, H. -/
  ls : List Rat := []
  /-- When the present row began, device time in ns. -/
  rowAt : Nat := 0
  /-- Test step in progress (R206); when the first period of its coil began, ns of NT (0: not yet), and that of the step after it; the
  last instant of the step seen with the current outside the band of R204, 1/4 ns of NT. -/
  step : Nat := 0
  stepStart : Nat := 0
  nextStart : Nat := 0
  outAt : Nat := 0
  deriving DecidableEq, Repr

/-- What the engine of an axis keeps beside its objects, from every enable on (R225). -/
structure EngineRt where
  /-- Sign of v_cmd in the run of qualifying periods (R212). -/
  qualSign : Int := 0
  /-- Filtered load angle in 1/64 degree (R213), k_e in V s/ust and its updates (R214). -/
  thetaF : Rat := 0
  ke : Rat := 0
  keCount : Nat := 0
  /-- Event 0x0153 has been posted for this move (R221). -/
  maxed : Bool := false
  /-- The rest ramp (R223): I_0, I_REST and its start, device time in ns. -/
  ramp : Option (Nat × Nat × Nat) := none
  /-- The wake (R224): from this device time (ns) on. -/
  wake : Option Nat := none
  deriving DecidableEq, Repr

/-- What an axis keeps beside its objects. -/
structure AxisRt where
  mot : MotionRt := {}
  ident : IdentRt := {}
  /-- Letters released to the axis, in key order, at most 32 (R146). -/
  inbox : List Letter := []
  enc : EncRt := {}
  sw : SwitchRt := {}
  home : HomeRt := {}
  eng : EngineRt := {}
  /-- Faulted has been requested (R331, R337): true where the axis still regulates and brakes. -/
  faultReq : Option Bool := none
  /-- The go generation of the axis at the franker (R171). -/
  goGen : Nat := 0
  /-- A go on its way to the franker: timed, its instant (1/4 ns of NT), and whether its flit has been sent (R172, R175). -/
  goDue : Option (Bool × Nat × Bool) := none
  /-- The slice that served the axis before a takeover, while coil B has not reached its first boundary since B_T (R20). -/
  oldSlice : Option Nat := none
  /-- Values of the axis's current, load and rest objects in effect since the last period boundary of coil A (R86). -/
  eff : Tab Nat := []
  deriving DecidableEq, Repr

/-- The despatch unit (chapter 05). -/
structure Despatch where
  /-- Held letters in key order, at most 2,048 (R145). -/
  table : List Letter := []
  /-- Arrival number of the last letter granted (R142). -/
  number : Nat := 0
  /-- Base level of SYNC_OUT, and the end of its running pulse, device time in ns (R176). -/
  base : Bool := false
  pulseEnd : Option Nat := none
  deriving DecidableEq, Repr

/-- An emulation output (R278 to R282). -/
structure EmuRt where
  c0 : Int := 0
  s0 : Int := 0
  /-- c0 and s0 are to be taken at the next cadence. -/
  take : Bool := false
  /-- Edges to come: device time in 1/4 ns, what (0 the count becomes, 1 STEP falls, 2 the direction ball) and its value. -/
  edges : List (Nat × Nat × Int) := []
  /-- The count that the balls show. -/
  shown : Int := 0
  /-- Sign of the last count emitted, and cadences until a slow pulse may follow. -/
  sign : Int := 1
  wait : Nat := 0
  /-- Levels of EMA, EMB and EMZ. -/
  ema : Bool := false
  emb : Bool := false
  emz : Bool := false
  deriving DecidableEq, Repr

/-- What the core-voltage loop keeps (R52, R53, R56): per slice the smallest slack since the last evaluation with its floor and its
window; whether a period was held and whether a job had less than twice its floor since then; quiet evaluations; when the last one
was and when settling ends (device time, ns); consecutive failed transactions; a retry was asked for. -/
structure VcoreRt where
  loopMin : Tab (Int × Nat × Nat) := []
  held : Bool := false
  busy : Bool := false
  quiet : Nat := 0
  last : Nat := 0
  settleEnd : Option Nat := none
  fails : Nat := 0
  retry : Bool := false
  deriving DecidableEq, Repr

/-- A slice patch (R403 to R406): decided and waiting for B0, loading, or shadowing. `cur`: the jobs of the running period of coil A
matched so far; `nxt`: those of its next one (none: no compared job). -/
structure PatchRt where
  axis : Nat
  spare : Nat
  cause : Nat
  started : Bool := false
  /-- B0, device time in ns. -/
  b0 : Nat := 0
  loaded : Bool := false
  matched : Nat := 0
  cur : Option Bool := none
  nxt : Option Bool := none
  deriving DecidableEq, Repr

/-- A patch decided or requested that waits: kind, instance, sub, cause (Table 15-5). -/
structure PatchAsk where
  kind : Nat
  inst : Nat
  sub : Nat
  cause : Nat
  deriving DecidableEq, Repr

/-- What the fray monitor keeps beside its objects (chapter 15). -/
structure FrayRt where
  /-- The last 16 samples of a measure of a resource, latest first, with their device times in ns; consecutive samples beyond its patch threshold; resources that have
  warned. Keys: measure * 65536 + instance. -/
  hist : Tab (List (Nat × Int)) := []
  runs : Tab Nat := []
  warned : List Nat := []
  /-- Per slice the smallest slack / W of the interval, 1/1,024 (R397). -/
  slack : Tab Nat := []
  /-- The last periodic sample, device time in ns. -/
  lastAt : Nat := 0
  /-- Patches decided or requested that have not begun. -/
  asks : List PatchAsk := []
  /-- The slice patch in progress; ADC patches by quarter: coil, cause and the coil's period at which it began. -/
  slice : Option PatchRt := none
  adc : Tab (Nat × Nat × Nat) := []
  /-- The latest sample of an unassigned spare ADC channel by quarter, and of every coil: code, device time in 1/4 ns (R26). -/
  spareAdc : Tab (Int × Nat) := []
  ownAdc : Tab (Int × Nat) := []
  /-- Code differences by quarter: of the turn of the spare channel in progress (its number, sum, samples), channel j minus channel 8; the
  mean of the last turn by coil (Table 15-2); those of an ADC patch, channel 8 minus channel j (R409). -/
  turn : Tab (Nat × Int × Nat) := []
  turnMean : Tab Rat := []
  adcSum : Tab (Int × Nat) := []
  /-- Flits discarded for CRC since the last sample, by 3q + lane; corrected errors of the last 24 h: bit line (bank * 2^14 and the layout of
  FROM) and device time in ns, latest first (R301, Table 15-2). -/
  laneErr : Tab Nat := []
  colErr : List (Nat × Nat) := []
  /-- By 4L + output the code at the first convergence after wake, with VBUS (10 mV) and the die temperature (1/16 degC) there. -/
  firstCode : Tab (Nat × Nat × Int) := []
  /-- Records being written, and the patch store: whether a slot's CHECK holds, and its bytes (R414). -/
  writing : List Bytes := []
  store : List (Bool × Bytes) := []
  deriving DecidableEq, Repr

/-- A soft repair of a sub-array of a bank (R316): a spare row or bit line, its index, and what it replaces. -/
structure Repair where
  bank : Nat
  sub : Nat
  row : Bool
  index : Nat
  from_ : Nat
  deriving DecidableEq, Repr

/-- A test that runs on a bank (R314, R315): preserving with the physical bank of its reserve, the bit line that a patch names
(cause, sub-array, line). -/
structure TestRt where
  reserve : Option Nat := none
  line : Option (Nat × Nat × Nat) := none
  deriving DecidableEq, Repr

/-- What the pigeonholes keep beside their objects (chapter 11). Words of physical memory are numbered bank * 32,768 + word. -/
structure MemRt where
  /-- Handovers in progress by bank: the old owner, the new one, and the device time (ns) of the write of HAND. -/
  hands : Tab (Nat × Nat × Nat) := []
  /-- Tests in progress by bank. -/
  tests : Tab TestRt := []
  /-- Logical banks that a reserve goes on serving (R315, R317), with its physical bank; logical banks out of service (R317, R413). -/
  remap : Tab Nat := []
  dead : List Nat := []
  /-- Words that hold an uncorrectable error (R301). -/
  poison : List Nat := []
  /-- The word that the patrol scrubber reads next. -/
  scrubAt : Nat := 0
  repairs : List Repair := []
  deriving DecidableEq, Repr

/-- The Postmaster (R29 to R31): halted since (device time, ns), restarted from ROM, the last lockstep mismatch, and the loss
reactions that wait for it to resume (R442): 0 host, 1 ring. -/
structure PostRt where
  halted : Option Nat := none
  restarted : Bool := false
  mismatch : Option Nat := none
  react : List Nat := []
  deriving DecidableEq, Repr

/-- Start-up (R427): power-on reset has been released; the steps of Table 16-3 completed, t_p and the end of the
last step (device time, ns). -/
structure StartRt where
  up : Bool := false
  stage : Nat := 0
  tp : Nat := 0
  at_ : Nat := 0
  deriving DecidableEq, Repr

/-- Loss of the host and of the ring (R441): LINK_STATE has read 3 since wake, the last WD_KICK (device time, ns); the causes that hold
the host loss (bit 0 link, bit 1 watchdog); since when neither ring port is up, the device has been listed since wake, the causes
that hold the ring loss (bit 0 ports, bit 1 address). -/
structure LossRt where
  linked : Bool := false
  kick : Nat := 0
  host : Nat := 0
  portsDown : Option Nat := some 0
  listed : Bool := false
  ring : Nat := 0
  deriving DecidableEq, Repr

/-! ## The Qorush ring and network time (chapter 14) -/

/-- A frame in an output port (R378): class, bytes, what it is, and the port on which it is still arriving (cut-through). -/
structure QFrame where
  cls : Nat
  size : Nat
  what : Out
  open_ : Option Nat := none
  deriving DecidableEq, Repr

/-- What a port keeps beside its objects. Times are device time in ns. -/
structure PortRt where
  /-- PCS synchronisation and its mode; the mode being tried in PMODE 0 (true: 2.5GBASE-X) and since when (R366). -/
  synced : Bool := false
  fast : Bool := false
  trying : Bool := true
  tryAt : Nat := 0
  /-- Auto-negotiation has completed; a hello has arrived since synchronisation; since when the port has been up without a break. -/
  an : Bool := false
  hello : Bool := false
  stable : Option Nat := none
  /-- The last frame with a valid FCS. -/
  last : Nat := 0
  /-- The neighbour's time state and segment offer, of its last hello. -/
  nbrState : Nat := 0
  nbrOffer : Nat := 0xFF
  /-- The envelope that is arriving, with its header. -/
  inHdr : Option Bytes := none
  /-- The frame being sent and those that wait. -/
  sending : Option QFrame := none
  queue : List QFrame := []
  /-- The last Pdelay_Req sent. -/
  lastPd : Nat := 0
  deriving DecidableEq, Repr

/-- A source in the duplicate filter (R376): address, H, the 64 values below H delivered (bit 0: H - 1), last seen. -/
structure SeenRt where
  src : Nat
  high : Nat
  below : Nat
  at_ : Nat
  deriving DecidableEq, Repr

/-- An entry of the segment map (Table 14-5). -/
structure MapEntry where
  serial : Nat
  station : Nat
  tport : Nat
  deriving DecidableEq, Repr

/-- A report as received (Table 14-5). -/
structure ReportRt where
  serial : Nat
  addr : Nat
  role : Nat
  station : Nat
  nbr : Nat × Nat × Nat
  links : Nat
  tstate : Nat
  portc : Nat
  segment : Nat
  deriving DecidableEq, Repr

/-- What the Qorush switch and topology discovery keep. -/
structure RingRt where
  ports : Tab PortRt := []
  /-- The envelope counter (R370). -/
  seq : Nat := 0
  seen : List SeenRt := []
  /-- The map in force, in ring order from the head's port A; its segment; one has been applied. -/
  map : List MapEntry := []
  segment : Nat := 0
  mapped : Bool := false
  /-- The system map: segment and trunk station; its epoch. -/
  sysEpoch : Option Nat := none
  sysmap : List (Nat × Nat) := []
  /-- Reports known, by serial number; a change that a head has not yet published. -/
  reports : Tab ReportRt := []
  dirty : Bool := true
  /-- As head: stations given, by serial number; stations held for departed devices (serial, device time of leaving). -/
  stations : Tab Nat := []
  held : Tab (Nat × Nat) := []
  /-- Last hello and report sent; a report is due at once. -/
  lastHello : Nat := 0
  lastReport : Nat := 0
  reportNow : Bool := true
  /-- The holder of the role that this device asked for, once reported; devices of the segment reported as joined. -/
  conflict : Option Nat := none
  joined : List Nat := []
  deriving DecidableEq, Repr

/-- What the time unit keeps (R38 to R42, R390 to R394, R459). Times are device time in ns unless said otherwise. -/
structure TimeRt where
  /-- A step that waits for its tick, 1/65,536 ns. -/
  step : Option Int := none
  /-- Seconds that wait to be set (R394). -/
  tod : Option Nat := none
  /-- Consecutive Syncs within LOCK_TH, and beyond UNLOCK_TH. -/
  lockRun : Nat := 0
  badRun : Nat := 0
  lastSync : Nat := 0
  /-- The steering moves from a value toward a goal since an instant, in the unit of RATE (R41). -/
  rateFrom : Int := 0
  rateGoal : Int := 0
  rateAt : Nat := 0
  /-- TREF is present; since when the tick has followed it within 1 ns; a PPS_IN edge has set the seconds. -/
  tref : Bool := false
  trefSince : Option Nat := none
  ppsSet : Bool := false
  /-- The time port before the change whose event 0x01B9 waits for the first Sync. -/
  oldPort : Option Nat := none
  lastSyncSend : Nat := 0
  lastAnnounce : Nat := 0
  /-- Masters heard at a plant port, and the best one (identity). -/
  masters : Tab AnnounceData := []
  best : Option Nat := none
  /-- PPS_OUT: the ticks at which it falls, and the tick of its last rise or of a step onto a whole second. -/
  ppsFall : List Nat := []
  ppsRise : Option Nat := none
  deriving DecidableEq, Repr

/-! ## The boundary-scan port (R12) -/

/-- The states of a test access port (IEEE 1149.1, log 11). -/
inductive TapState where
  | reset | idle
  | selectDr | captureDr | shiftDr | exit1Dr | pauseDr | exit2Dr | updateDr
  | selectIr | captureIr | shiftIr | exit1Ir | pauseIr | exit2Ir | updateIr
  deriving DecidableEq, Repr

/-- The boundary-scan chain: the state that the dies' ports share, the level of TCK, the instruction bits being shifted and in force
(TDO's end first), and the data bits being shifted. -/
structure TapRt where
  st : TapState := .reset
  tck : Bool := false
  shift : List Bool := []
  ir : List Bool := []
  data : List Bool := []
  deriving DecidableEq, Repr

/-- The units of the device. -/
structure Dev where
  part : Part := .fq16
  objs : Tab Slot := []
  /-- NT in ns, and its fraction in 1/65,536 ns (R38). -/
  nt : Nat := 0
  ntFrac : Nat := 0
  /-- Ticks since power was applied: the physical clock, which an NT step leaves alone (R42). -/
  ticks : Nat := 0
  /-- Values drawn so far from the free values (log 8). -/
  drawn : Nat := 0
  out : List Out := []
  fab : Fabric := {}
  flt : FaultUnit := {}
  mail : Mailbag := {}
  legs : Tab LegRt := []
  quarters : Tab QuarterRt := []
  coils : Tab CoilRt := []
  axes : Tab AxisRt := []
  desp : Despatch := {}
  emu : Tab EmuRt := []
  vcore : VcoreRt := {}
  fray : FrayRt := {}
  memu : MemRt := {}
  post : PostRt := {}
  ring : RingRt := {}
  time : TimeRt := {}
  start : StartRt := {}
  loss : LossRt := {}
  /-- A firmware update in progress: its bank and the owner that held it (R436). -/
  fw : Option (Nat × Nat) := none
  /-- An update image is active (R437). -/
  fwImage : Bool := false
  tap : TapRt := {}
  /-- The complete return envelope, and the NT at which the build in progress began (R466). -/
  env : Bytes := []
  buildNt : Nat := 0
  deriving DecidableEq, Repr

/-- The state of the block. -/
structure State where
  /-- Commands waiting, first in first out. -/
  pending : List Instr := []
  /-- Pigeonhole bytes by physical address bank * 0x4_0000 + offset; an unlisted byte reads 0 (R311, log 5). -/
  mem : List Host.Cell := []
  pow : Power := {}
  dev : Dev := {}
  deriving DecidableEq, Repr

/-- The block right after reset: Off, before power-on reset is released, dictionary at its defaults, nothing waiting. -/
def State.reset : State := {}

end Sys2Proof.Machine
end

