-- ==== Sys2Proof/Machine/Ops.lean ====
section
/-! DEFINITION. The named operations of the units: bit fields and byte strings, the object store, event records, raises, pigeonhole
memory.
Conventions of the model: DEDUCED: log 5, 14, 28; DESIGN CHOICE: log 8, 86. -/

namespace Sys2Proof.Machine

/-! ## Numbers, bit fields and byte strings -/

/-- Two's complement reading of the low w bits (R67). -/
def sext (w v : Nat) : Int := (BitVec.ofNat w v).toInt

/-- Two's complement bits of a number in w bits (R67). -/
def enc (w : Nat) (x : Int) : Nat := (BitVec.ofInt w x).toNat

/-- A number held in a signed field of w bits that cannot hold it: the nearest value it can hold. -/
def clampI (lo hi x : Int) : Int := if x < lo then lo else if hi < x then hi else x

/-- Bits [hi:lo]. -/
def field (v hi lo : Nat) : Nat := v / 2 ^ lo % 2 ^ (hi + 1 - lo)

/-- v with bits [hi:lo] replaced by x. -/
def withField (v hi lo x : Nat) : Nat :=
  v - field v hi lo * 2 ^ lo + x % 2 ^ (hi + 1 - lo) * 2 ^ lo

/-- v with bit i replaced. -/
def withBit (v i : Nat) (b : Bool) : Nat := withField v i i b.toNat

/-- The low n bytes of v, little-endian (R67). -/
def le : Nat → Nat → Bytes
  | 0, _ => []
  | n + 1, v => BitVec.ofNat 8 v :: le n (v / 256)

/-- The number that a little-endian byte string holds. -/
def ofLe : Bytes → Nat
  | [] => 0
  | b :: t => b.toNat + 256 * ofLe t

/-- A byte string cut or padded with zeros to n bytes. -/
def padTo (n : Nat) (b : Bytes) : Bytes := (b ++ List.replicate n 0).take n

/-- The bytes [start, start + n) of a byte string, zeros beyond its end. -/
def slice (b : Bytes) (start n : Nat) : Bytes := padTo n (b.drop start)

/-- One bit of a reflected CRC: the shift and, where a one leaves, the polynomial. -/
def crcBit (poly r : Nat) : Nat := if r % 2 = 1 then Nat.xor (r / 2) poly else r / 2

/-- One byte of a reflected CRC. -/
def crcByte (poly r : Nat) (b : Byte) : Nat :=
  (List.range 8).foldl (fun r _ => crcBit poly r) (Nat.xor r b.toNat)

/-- CRC-32 of IEEE 802.3 (R94): polynomial 0x04C1_1DB7, initial value all ones, reflected, inverted at the end. -/
def crc32 (b : Bytes) : Nat := Nat.xor (b.foldl (crcByte 0xEDB88320) 0xFFFFFFFF) 0xFFFFFFFF

/-- One bit of the CRC-8 of R253, bit first. -/
def crc8Bit (r : Nat) (b : Bool) : Nat :=
  let top := (r / 128 % 2 = 1) != b
  Nat.xor (r * 2 % 256) (if top then 0x07 else 0)

/-- CRC-8 over the low n bits of v, highest first: polynomial 0x07, initial value 0. -/
def crc8 (n v : Nat) : Nat := (List.range n).foldl (fun r i => crc8Bit r (v.testBit (n - 1 - i))) 0

/-- Ceiling of a / b. -/
def ceilDiv (a b : Nat) : Nat := (a + b - 1) / b

/-! ## The object store -/

/-- The stored value of a slot. -/
def Dev.rd (d : Dev) (k : Nat) : Nat :=
  (Tab.get (BitVec.ofNat 64 (Dict.dflt d.part k)) d.objs k).toNat

/-- The store with one slot set. -/
def Dev.wr (d : Dev) (k v : Nat) : Dev :=
  { d with objs := Tab.store (BitVec.ofNat 64 (Dict.dflt d.part k)) d.objs k (BitVec.ofNat 64 v) }

/-- The signed value of a slot of w bits. -/
def Dev.rdI (d : Dev) (w k : Nat) : Int := sext w (d.rd k)

/-- A signed value of w bits stored. -/
def Dev.wrI (d : Dev) (w k : Nat) (x : Int) : Dev := d.wr k (enc w x)

/-- Bit i of a slot. -/
def Dev.bit (d : Dev) (k i : Nat) : Bool := (d.rd k).testBit i

/-- A slot with bit i replaced. -/
def Dev.setBit (d : Dev) (k i : Nat) (b : Bool) : Dev := d.wr k (withBit (d.rd k) i b)

/-- A slot with bits [hi:lo] replaced. -/
def Dev.setField (d : Dev) (k hi lo x : Nat) : Dev := d.wr k (withField (d.rd k) hi lo x)

/-- A 32-bit counter raised by n, modulo 2^32 (log 14). -/
def Dev.count (d : Dev) (k : Nat) (n : Nat := 1) : Dev := d.wr k ((d.rd k + n) % 2 ^ 32)

/-- A configuration slot written by a unit of the device: the write recomputes its parity (R88). -/
def Dev.wrCfg (d : Dev) (k x : Nat) : Dev :=
  let d := d.wr k x
  { d with fab := { d.fab with upset := Tab.del d.fab.upset k } }

/-- The slots set in order. -/
def Dev.wrs (d : Dev) (l : List (Nat × Nat)) : Dev := l.foldl (fun d e => d.wr e.1 e.2) d

/-- Device time in ns: the physical clock of ticks, 8 ns each (R38, R42). -/
def Dev.now (d : Dev) : Nat := 8 * d.ticks

/-- A free value of w bits, a new one at each drawing (log 8). -/
def Dev.draw (d : Dev) (w : Nat) : Nat × Dev :=
  ((Config.freeValue d.drawn).toNat % 2 ^ w, { d with drawn := d.drawn + 1 })

/-- Something leaves the device. -/
def Dev.emit (d : Dev) (o : Out) : Dev := { d with out := d.out ++ [o] }

/-! ## Units present -/

/-- Axis n exists on the part (Table 0-2). -/
def Dev.hasAxis (d : Dev) (n : Nat) : Bool := n < 4 * d.part.quarters

/-- Quarter q exists on the part. -/
def Dev.hasQuarter (d : Dev) (q : Nat) : Bool := q < d.part.quarters

/-- Coil c exists on the part. -/
def Dev.hasCoil (d : Dev) (c : Nat) : Bool := c < 8 * d.part.quarters

/-- Leg l exists on the part. -/
def Dev.hasLeg (d : Dev) (l : Nat) : Bool := l < 16 * d.part.quarters

/-- The present axes. -/
def Dev.axisList (d : Dev) : List Nat := List.range (4 * d.part.quarters)

/-- The present quarters. -/
def Dev.quarterList (d : Dev) : List Nat := List.range d.part.quarters

/-- The slice that serves axis n (R16). -/
def Dev.sliceOf (d : Dev) (n : Nat) : Nat := d.rd (K.SLICE_MAP n) % 32

/-! ## Raises and event records -/

/-- A raise of a fault source sent to the fault unit (R327); an absent unit never raises (R326). -/
def Dev.raise (d : Dev) (src nt : Nat) (injected : Bool := false) : Dev :=
  if Dict.sourceAssigned src ∧ (Dict.Owner.source src).present d.part then
    { d with flt := { d.flt with raises := d.flt.raises ++ [{ src := src, nt := nt, injected := injected }] } }
  else d

/-- A condition source begins: ACTIVE is set and the source raises once; while it holds, nothing (R327). -/
def Dev.raiseOn (d : Dev) (src nt : Nat) (injected : Bool := false) : Dev :=
  if d.bit (K.SRC_STATUS src) 0 then d
  else (d.setBit (K.SRC_STATUS src) 0 true).raise src nt injected

/-- A condition source ends: ACTIVE clears (R327). -/
def Dev.raiseOff (d : Dev) (src : Nat) : Dev := d.setBit (K.SRC_STATUS src) 0 false

/-- Records of staging (R358). -/
def stagingSize : Nat := 32768

/-- A record dropped: LOST_TOTAL of its source, DROPPED, and a raise of 0x28D (R353); a forwarded one counts in DROPPED alone (R365). -/
def Dev.dropRecord (d : Dev) (r : EventRec) : Dev :=
  let d := if r.addr.testBit 14 then d else d.count (K.LOST_TOTAL r.src)
  (d.count K.DROPPED_1440).raise 0x28D d.nt

/-- The device forwards its records (R363). -/
def Dev.forwarding (d : Dev) : Bool :=
  d.rd K.FWD_MODE = 2 || (d.rd K.FWD_MODE = 0 && !(d.part.full && d.rd K.LINK_STATE = 3))

/-- The head that takes forwarded records: FWD_HEAD, or the assigned head of the segment, where this device is another one (R365). -/
def Dev.fwdHead (d : Dev) : Option Nat :=
  let h := d.rd K.FWD_HEAD
  if h ≠ 0xFFFF then some (h % 2 ^ 14)
  else if d.ring.mapped ∧ ¬ d.bit K.ADDR 15 ∧ d.rd K.ADDR % 128 ≠ 0 then some (d.ring.segment * 128)
  else none

/-- Records enter the forward envelope that is being filled, in staging order, up to 8 (R363). -/
def Dev.fwdFill (d : Dev) : Dev :=
  let m := d.mail
  let room := 8 - m.fwd.length
  if ¬ d.forwarding ∨ d.fwdHead.isNone ∨ room = 0 ∨ m.staging = [] then d
  else { d with mail := { m with fwd := m.fwd ++ (m.staging.take room).map (·.rcd), staging := m.staging.drop room,
                                 fwdStart := if m.fwd = [] then d.now else m.fwdStart } }

/-- A record placed in staging, or dropped where staging is full (R358). -/
def Dev.stage (d : Dev) (queue : Nat) (r : EventRec) : Dev :=
  if stagingSize ≤ d.mail.staging.length then d.dropRecord r
  else
    let st := d.mail.staging ++ [{ queue := queue, rcd := r }]
    let d := { d with mail := { d.mail with staging := st } }
    (d.wr K.STAGE_HIGH (max (d.rd K.STAGE_HIGH) st.length)).fwdFill

/-- A mailbag source of the device exists: Table 13-4, less the quarters that are absent (R357). -/
def Dev.hasSource (d : Dev) (src : Nat) : Bool :=
  Dict.mailSource src && !(Dict.subAbsent d.part 0x1420 (src + 1))

/-- An event record created: SEQ given, staged for the queue of its source; a muted source creates none (R351, R352, R357). -/
def Dev.event (d : Dev) (src type obj nt : Nat) (payload : Bytes) : Dev :=
  let queue := d.rd (K.QUEUE src)
  if ¬ d.hasSource src ∨ queue = 0xFF then d
  else
    let seq := d.rd (K.NEXT_SEQ src)
    let addr := if d.bit K.ADDR 15 then 0x8000 else d.rd K.ADDR % 2 ^ 14
    let r : EventRec := { src := src, seq := seq, nt := nt, type := type, obj := obj, addr := addr, payload := padTo 12 payload }
    (d.wr (K.NEXT_SEQ src) ((seq + 1) % 2 ^ 24)).stage queue r

/-! ## Pigeonhole memory -/

/-- Bytes of a bank (R298). -/
def bankSize : Nat := 0x40000

/-- What an unlisted byte reads as: the banks are cleared at wake (R311, log 5). -/
def memDefault : Byte := 0

/-- One byte of memory, by physical address. -/
def memRead (m : List Host.Cell) (a : Nat) : Byte := Tab.get memDefault m a

/-- One byte of memory written; the canonical form is kept. -/
def memWrite (m : List Host.Cell) (a : Nat) (b : Byte) : List Host.Cell := Tab.store memDefault m a b

/-- n bytes from an address. -/
def memReads (m : List Host.Cell) (a n : Nat) : Bytes := (List.range n).map fun i => memRead m (a + i)

/-- Bytes written from an address on. -/
def memWrites : List Host.Cell → Nat → Bytes → List Host.Cell
  | m, _, [] => m
  | m, a, b :: t => memWrites (memWrite m a b) (a + 1) t

/-- The canonical form of memory: addresses strictly rising, no entry that reads as an unlisted byte does. -/
def memWf (m : List Host.Cell) : Bool := Tab.sorted m && m.all fun e => e.2 ≠ memDefault

/-- The physical bank that serves logical bank b (R300, R315). -/
def Dev.servedBy (d : Dev) (b : Nat) : Nat := (Tab.find d.memu.remap b).getD (d.rd (K.PHYS b))

/-- The physical address of byte ofs of logical bank b (R298, R300). -/
def Dev.physAddr (d : Dev) (b ofs : Nat) : Nat := d.servedBy b * bankSize + ofs

/-- The physical number of a word of logical bank b. -/
def Dev.wordNo (d : Dev) (b w : Nat) : Nat := d.servedBy b * 32768 + w

/-- An event of the pigeonholes about bank b (R322). -/
def Dev.bankEvent (d : Dev) (b type : Nat) (payload : Bytes) : Dev := d.event 0x34 type (0x2810 + b) d.nt payload

/-- Where word w of a bank lies (R298): its sub-array, row, and position in the row. -/
def wordPlace (w : Nat) : Nat × Nat × Nat := (w % 4, w / 4 / 32, w / 4 % 32)

/-- The bit line of bit i (0 to 71) of word w, in the layout of FROM (Table 15-5): sub-array, and the line within it; a row's words follow
one another, 72 lines each (DESIGN CHOICE, log 86). -/
def bitLine (w i : Nat) : Nat :=
  let (sub, _, pos) := wordPlace w
  0x1000 * sub + 72 * pos + i

/-- A corrected error of bit i of a word of a bank (R301): its counts, that of the bit line over the last 24 h with them. -/
def Dev.corrected (d : Dev) (b w i : Nat) (injected : Bool) : Dev :=
  let f := d.fray
  let recent := f.colErr.filter fun e => d.now < e.2 + 86400000000000
  let d := { d with fray := { f with colErr := (b * 2 ^ 14 + bitLine w i, d.now) :: recent } }
  ((d.count (K.CE b)).count K.CE_TOTAL).raise 0x285 d.nt injected

/-- An uncorrectable error met by a consumer, an owner code, in a word (R301). -/
def Dev.uncorrectable (d : Dev) (unit b w : Nat) (injected : Bool) : Dev :=
  let d := ((d.count (K.UE b)).count K.UE_TOTAL).wrs [(K.LAST_UE, b + 256 * w), (K.LAST_UE_NT, d.nt)]
  (d.raise 0x284 d.nt injected).bankEvent b 0x0192 (le 1 b ++ le 1 unit ++ le 2 w ++ le 8 d.nt)

/-- Words written whole hold valid check bits again (R301): n bytes from offset ofs of logical bank b. -/
def Dev.cleanWords (d : Dev) (b ofs n : Nat) : Dev :=
  let lo := d.wordNo b (ceilDiv ofs 8)
  let hi := d.wordNo b ((ofs + n) / 8)
  { d with memu := { d.memu with poison := d.memu.poison.filter fun x => x < lo || hi ≤ x } }

/-! ## States -/

/-- The state with its units changed. -/
def State.onDev (s : State) (f : Dev → Dev) : State := { s with dev := f s.dev }

end Sys2Proof.Machine
end

