-- ==== Sys2Proof/Machine/Units.lean ====
section
/-! DEFINITION. Access to the units by number, and the operations that several chapters share: axis states, requests for Faulted, legs
off, the quarter safe state.
Conventions of the model: DESIGN CHOICE: log 16, 78, 79; DEDUCED: log 36, 44, 72. -/

namespace Sys2Proof.Machine

/-! ## Units by number -/

def Dev.leg (d : Dev) (l : Nat) : LegRt := Tab.get {} d.legs l
def Dev.setLeg (d : Dev) (l : Nat) (r : LegRt) : Dev := { d with legs := Tab.put d.legs l r }
def Dev.coil (d : Dev) (c : Nat) : CoilRt := Tab.get {} d.coils c
def Dev.setCoil (d : Dev) (c : Nat) (r : CoilRt) : Dev := { d with coils := Tab.put d.coils c r }
def Dev.quarter (d : Dev) (q : Nat) : QuarterRt := Tab.get {} d.quarters q
def Dev.setQuarter (d : Dev) (q : Nat) (r : QuarterRt) : Dev := { d with quarters := Tab.put d.quarters q r }
def Dev.axis (d : Dev) (n : Nat) : AxisRt := Tab.get {} d.axes n
def Dev.setAxis (d : Dev) (n : Nat) (r : AxisRt) : Dev := { d with axes := Tab.put d.axes n r }
def Dev.mot (d : Dev) (n : Nat) : MotionRt := (d.axis n).mot
def Dev.setMot (d : Dev) (n : Nat) (m : MotionRt) : Dev := d.setAxis n { d.axis n with mot := m }

/-- The host link is up: requests of the host can arrive (R347). -/
def Dev.hostUp (d : Dev) : Bool := d.part.full && d.rd K.LINK_STATE = 3

/-- Device time in 1/4 ns (R44: 250 ps). -/
def Dev.nowQ (d : Dev) : Nat := 32 * d.ticks

/-- The steering approaches its goal by at most 0.1 ppm per millisecond (chapter 02); RATE shows it. -/
def Dev.rampRate (d : Dev) : Dev :=
  let t := d.time
  if d.rdI 32 K.RATE = t.rateGoal then d
  else
    let room : Int := ((d.now - t.rateAt) * 65536 / 10000000 : Nat)
    d.wrI 32 K.RATE (clampI (t.rateFrom - room) (t.rateFrom + room) t.rateGoal)

/-- The steering takes a new goal, from where it stands. -/
def Dev.aimRate (d : Dev) (goal : Int) : Dev :=
  { d with time := { d.time with rateFrom := d.rdI 32 K.RATE, rateGoal := goal, rateAt := d.now } }

/-- An instant of NT in 1/4 ns as device time: what the franker keeps is physical (R42). -/
def Dev.ntToQ (d : Dev) (g : Nat) : Nat := g + d.nowQ - 4 * d.nt

/-! ## Settings of a quarter die (Tables 1-7 and 8-9) -/

/-- The quarter that a setting object reaches, and its setting address there (log 78): sampling instants and ADC gain of 0x5000, the
bus-current threshold of 0x5002, the leg settings of 0x5400. -/
def settingAddr (key : Nat) : Option (Nat × Nat) :=
  let idx := key / 256
  let sub := key % 256
  if 0x5000 ≤ idx ∧ idx < 0x5100 then
    let q := (idx - 0x5000) / 0x40
    if (idx - 0x5000) % 0x40 = 0 ∧ (3 ≤ sub ∧ sub ≤ 7 ∨ sub = 10) then some (q, sub)
    else if (idx - 0x5000) % 0x40 = 2 ∧ sub = 1 then some (q, 0x201)
    else none
  else if 0x5400 ≤ idx ∧ idx < 0x5800 ∧ idx % 16 = 0 ∧ 1 ≤ sub ∧ sub ≤ 8 then
    let l := (idx - 0x5400) / 16
    some (l / 16, 0x1000 + 16 * (l % 16) + sub)
  else none

/-- The setting object of quarter q that an address names. -/
def settingKey (q addr : Nat) : Nat :=
  if addr < 0x200 then (0x5000 + 0x40 * q) * 256 + addr
  else if addr < 0x1000 then (0x5002 + 0x40 * q) * 256 + addr % 0x200
  else (0x5400 + 0x10 * (16 * q + (addr - 0x1000) / 16)) * 256 + addr % 16

/-- The value of a setting in effect at a quarter die: the last one that reached it over the seam and took effect (R10), else the
default. -/
def Dev.setting (d : Dev) (q key : Nat) : Nat := (Tab.find (d.quarter q).settings key).getD (Dict.dflt d.part key)

/-- A setting of a leg in effect at its quarter die. -/
def Dev.legSetting (d : Dev) (l key : Nat) : Nat := d.setting (l / 16) key

/-! ## Axis states (Table 4-2) -/

abbrev axDisabled : Nat := 0
abbrev axIdentifying : Nat := 1
abbrev axHolding : Nat := 2
abbrev axMoving : Nat := 3
abbrev axResting : Nat := 4
abbrev axFaulted : Nat := 5

def Dev.axState (d : Dev) (n : Nat) : Nat := d.rd (K.STATE_4000 n)
def Dev.setAxState (d : Dev) (n s : Nat) : Dev := d.wr (K.STATE_4000 n) s

/-- Holding, Moving or Resting. -/
def Dev.axLive (d : Dev) (n : Nat) : Bool :=
  d.axState n = axHolding || d.axState n = axMoving || d.axState n = axResting

/-- The controller regulates the currents of axis n: Identifying, Holding, Moving, Resting, or braking under the safe-stop reaction
(R337). -/
def Dev.regulates (d : Dev) (n : Nat) : Bool :=
  d.axLive n || d.axState n = axIdentifying || (d.axState n = axFaulted && !(d.mot n).stops.isEmpty)

/-- Every present axis of a list is Disabled. -/
def Dev.allDisabled (d : Dev) (l : List Nat) : Bool := l.all fun n => d.axState n = axDisabled

/-- An event of axis n from its serving slice (R24). -/
def Dev.axisEvent (d : Dev) (n type obj nt : Nat) (payload : Bytes) : Dev :=
  d.event (d.sliceOf n) type (obj + 0x40 * n) nt payload

/-- The slice that serves axis n starts, at start-up or at a wake from Stowed (R265, R284, R432, R433): its private store is empty, POS_VALID
is clear with cause 6, an open switch input reads high, which SW_STATE shows at once. What the line detectors found stays.
DEDUCED: the registers of the position and of the count begin at 0 (log 72). -/
def Dev.sliceStart (d : Dev) (n : Nat) : Dev :=
  let cfg := d.rd (K.SW_CFG n)
  let act (i : Nat) : Bool := !cfg.testBit i
  let both : Bool := cfg.testBit 4 && cfg.testBit 5 && act 0 && act 1
  let flags := d.rd (K.ENC_FLAGS n)
  let d := d.setAxis n { sw := { startNt := d.nt } }
  let d := d.wrs [(K.SW_STATE n, (act 0).toNat + 2 * (act 1).toNat + 4 * (act 2).toNat + 8 * both.toNat),
    (K.ENC_FLAGS n, 0x0600 + 2 * field flags 3 1 + 32 * field flags 5 5), (K.ENC_CNT n, 0), (K.ENC_CPS n, 0), (K.ENC_VEL n, 0),
    (K.SPD_METHOD n, 0), (K.CMD_POS n, 0), (K.CMD_VEL n, 0), (K.CMD_ACC n, 0), (K.TARGET n, 0)]
  if flags.testBit 0 then d.axisEvent n 0x0170 0x4801 d.nt (le 1 6 ++ le 3 0 ++ le 8 d.nt) else d

/-- An event of a quarter (R208, R259). -/
def Dev.quarterEvent (d : Dev) (q type obj : Nat) (payload : Bytes) : Dev :=
  d.event (0x20 + q) type (obj + 0x40 * q) d.nt payload

/-- Faulted is requested for axis n from the next cadence on (R331, R337); a request that leaves it unable to regulate prevails. -/
def Dev.requestFault (d : Dev) (n : Nat) (regulates : Bool) : Dev :=
  if d.axState n = axDisabled ∨ d.axState n = axFaulted then d
  else
    let a := d.axis n
    d.setAxis n { a with faultReq := some (a.faultReq.getD true && regulates) }

/-! ## Legs off (R229) -/

/-- The counter of R241 at an instant, 1/4 ns, where the leg leaves its state: it runs while the high side is on and restarts at the end
of a low interval of at least T_REFRESH. -/
def Dev.onTimeAt (d : Dev) (l t : Nat) : Nat :=
  let r := d.leg l
  if r.pos = .high then r.onTime + (t - r.since)
  else if r.pos = .low ∧ 4 * d.legSetting l (K.T_REFRESH l) ≤ t - r.since then 0
  else r.onTime

/-- From a protective decision to the conducting soft sink: the bound of Table 8-4, 89 ns, in 1/4 ns. -/
def softSinkDelay : Nat := 356

/-- The soft turn-off of a leg: both gates off with the sink at code 4; 2 us later the sink holds at code 31. The gate of the device that
conducted counts as on until its soft sink conducts (R248, R250; log 79). -/
def Dev.legOff (d : Dev) (l : Nat) : Dev :=
  let r := d.leg l
  if r.pos = .off ∧ r.turnOn = none ∧ r.due = [] then d
  else
    d.setLeg l { r with pos := .off, since := d.nowQ, turnOn := none, refresh := none, due := [], onTime := d.onTimeAt l d.nowQ,
                        softEnd := some (d.nowQ + 8000), hold31 := false,
                        gate := if r.pos = .off then r.gate else r.pos,
                        gateEnd := if r.pos = .off then r.gateEnd else d.nowQ + softSinkDelay }

/-- The letters and go sets that the franker holds for a leg are discarded (R240, R249). -/
def Dev.dropLetters (d : Dev) (l : Nat) : Dev := d.setLeg l { d.leg l with held := [], goSet := [], goNew := [] }

/-- A leg off and latched: its letters and go set are discarded, its counter restarts (R247, R249). -/
def Dev.legLatch (d : Dev) (l : Nat) : Dev :=
  let d := (d.legOff l).dropLetters l
  (d.setLeg l { d.leg l with onTime := 0 }).setBit (K.LEG_FLAGS l) 2 true

/-- The four legs of axis n (Table 1-2). -/
def axisLegs (n : Nat) : List Nat := [4 * n, 4 * n + 1, 4 * n + 2, 4 * n + 3]

/-- The sixteen legs of quarter q. -/
def quarterLegs (q : Nat) : List Nat := (List.range 16).map (16 * q + ·)

/-- The axes of quarter q. -/
def quarterAxes (q : Nat) : List Nat := (List.range 4).map (4 * q + ·)

/-- The legs of axis n off under R229, with nothing held for them. -/
def Dev.axisLegsOff (d : Dev) (n : Nat) : Dev :=
  (axisLegs n).foldl (fun d l => (d.legOff l).dropLetters l) d

/-! ## Identification ends in failure (R200) -/

/-- ID_TIME at an instant (Table 6-10): the time since t_e, at which identification begins (R198), us; 0 before it. -/
def IdentRt.lasted (i : IdentRt) (now : Nat) : Nat := if i.row = 0 then 0 else (now - 8 * i.began) / 1000 % 2 ^ 32

/-- Identification of axis n fails with a cause: the legs go off, the axis enters Faulted, its fault and event 0x0130. -/
def Dev.identFail (d : Dev) (n cause : Nat) : Dev :=
  if d.axState n ≠ axIdentifying ∨ (d.axis n).faultReq.isSome then d
  else
    let a := d.axis n
    let d := d.axisLegsOff n
    let d := d.setAxis n { d.axis n with ident := {}, faultReq := some false }
    let d := d.wrs [(K.ID_RESULT n, cause), (K.ID_NT n, d.nt), (K.ID_TIME n, a.ident.lasted d.now)]
    (d.axisEvent n 0x0130 0x4400 d.nt (le 4 (d.rd (K.R_A n)) ++ le 4 (d.rd (K.R_B n)) ++ le 1 cause)).raise (0x183 + 0x10 * n) d.nt

/-! ## The quarter safe state (R240) -/

/-- SAFE_CAUSE while the safe state holds: the cause that came last where it is still present, else the lowest present one, else
the one that came last (log 16). -/
def QuarterRt.shownCause (r : QuarterRt) : Nat :=
  if r.causes.testBit r.lastCause then r.lastCause
  else ((List.range 6).find? fun c => r.causes.testBit c).getD r.lastCause

/-- Q_FLAGS shows the cause. -/
def Dev.showCause (d : Dev) (q : Nat) : Dev := d.setField (K.Q_FLAGS q) 6 4 (d.quarter q).shownCause

/-- The quarter is in its safe state. -/
def Dev.isSafe (d : Dev) (q : Nat) : Bool := d.bit (K.Q_FLAGS q) 1

/-- The quarter safe state is entered for a cause, or the cause joins those of a state that holds: all legs off, letters and go
sets discarded, every axis outside Disabled Faulted at its next cadence, event 0x0165. Cause 3 clears at once (Table 8-2). -/
def Dev.safeEnter (d : Dev) (q cause : Nat) : Dev :=
  let r := d.quarter q
  let causes := if cause = 3 then r.causes else withBit r.causes cause true
  let was := d.isSafe q
  let left := if cause = 3 ∧ r.causes = 0 then 3 else r.leftCause
  let d := (d.setQuarter q { r with causes := causes, lastCause := if r.causes.testBit cause then r.lastCause else cause, leftCause := left }).showCause q
  if was then d
  else
    let d := d.setBit (K.Q_FLAGS q) 1 true
    let d := (quarterLegs q).foldl (fun d l => ((d.legOff l).dropLetters l).setBit (K.LEG_FLAGS l) 3 true) d
    let d := (quarterAxes q).foldl (fun d n => (d.identFail n 10).requestFault n false) d
    d.quarterEvent q 0x0165 0x5002 (le 1 cause ++ le 3 0 ++ le 8 d.nt)

/-- A cause of the safe state clears (Table 8-2); the state itself holds until its release. The cause that cleared last is the one that
held last. -/
def Dev.safeCauseOff (d : Dev) (q cause : Nat) : Dev :=
  let r := d.quarter q
  (d.setQuarter q { r with causes := withBit r.causes cause false,
                           leftCause := if r.causes.testBit cause then cause else r.leftCause }).showCause q

/-- A cause set on every present quarter, or cleared on every one. -/
def Dev.safeAll (d : Dev) (cause : Nat) (on : Bool) : Dev :=
  d.quarterList.foldl (fun d q => if on then d.safeEnter q cause else d.safeCauseOff q cause) d

end Sys2Proof.Machine
end

