-- ==== Sys2Proof/Machine/Gate.lean ====
section
/-! DEFINITION. Gate drive, bootstrap and leg protection (chapter 08): legs, tailoring, supplies, shorts.
Conventions of the model: DEDUCED: log 4, 17, 24, 53, 55; DESIGN CHOICE: log 79. -/

namespace Sys2Proof.Machine

/-- The next state of a command that acts on the units alone. -/
def onDev (s : State) (f : Dev → Dev) : Host.Outcome State Fault Refusal := .next (s.onDev f)

/-- Slices and quarter dies are powered and serve (Table 16-1); after a start-up that ended in Safe with cause 3 none enters service
(Table 16-4). -/
def State.unitsOn (s : State) : Bool :=
  match s.pow.devState with
  | .off => false
  | .stowed => false
  | .ready => true
  | .operating => true
  | .safe => s.dev.rd K.SAFE_CAUSE ≠ 3

/-- A command of the slices and the quarter dies: nothing happens while they are unpowered or in standby (R432). -/
def gated (s : State) (o : Host.Outcome State Fault Refusal) : Host.Outcome State Fault Refusal := if s.unitsOn then o else .next s

/-- An input of a slice: sampled once the slices have started in the start-up sequence (R284), not in Stowed. -/
def sliced (s : State) (o : Host.Outcome State Fault Refusal) : Host.Outcome State Fault Refusal :=
  if s.unitsOn || (s.pow.devState = .off && s.dev.start.up && 4 ≤ s.dev.start.stage) then o else .next s

/-- A line detector of the pins works in Stowed as well. -/
def lined (s : State) (o : Host.Outcome State Fault Refusal) : Host.Outcome State Fault Refusal :=
  if s.pow.devState = .stowed then o else sliced s o

/-- A command of the despatch unit: letters are accepted from Ready on (R428). -/
def served (s : State) (o : Host.Outcome State Fault Refusal) : Host.Outcome State Fault Refusal :=
  if s.pow.devState = .off then .next s else o

/-! ## Leg changes -/

/-- The dead time of a leg, 1/4 ns. -/
def Dev.deadTime (d : Dev) (l : Nat) : Nat := 4 * d.legSetting l (K.DEAD_TIME l)

/-- The edge kind of a leg's change to p (R236): 0 GH on, 1 GH off, 2 GL on, 3 GL off. -/
def LegRt.edgeKind (r : LegRt) (p : LegPos) : Nat :=
  match p with
  | .high => 0
  | .low => 2
  | .off => if r.pos = .low then 3 else 1

/-- By how much the franker launches an edge kind ahead: its measured delay, 25 ns until it has been measured once (R236), 1/4 ns. -/
def LegRt.advance (r : LegRt) (kind : Nat) : Nat := (Tab.find r.delays kind).getD 100

/-- A leg's device changes at an instant: the counter of R241 runs while the high side is on, holds while the leg is off, and
restarts at the end of a low interval of at least T_REFRESH. The franker has launched the edge ahead of it (R44, R236). A turn-on starts
the blanking of its VDS monitor and of the bus comparator, unless a window is open (R245 to R247). -/
def Dev.legTo (d : Dev) (l : Nat) (p : LegPos) (t : Nat) : Dev :=
  let r := d.leg l
  let on := if r.pos = .low ∧ p = .low then r.onTime else d.onTimeAt l t
  let d := if p = .off then d else
    let q := d.quarter (l / 16)
    d.setQuarter (l / 16) (if q.bocEnd ≤ t then { q with bocEnd := t + 200 } else q)
  let blank := t + 4 * d.legSetting l (K.TBLANK l)
  d.setLeg l { r with pos := p, since := t, onTime := on, hold31 := false, softEnd := none, gate := .off,
                      launch := (r.edgeKind p, t - r.advance (r.edgeKind p)),
                      blankH := if p = .high ∧ r.blankH ≤ t then blank else r.blankH,
                      blankL := if p = .low ∧ r.blankL ≤ t then blank else r.blankL }

/-- The leg state that an edge letter sets; in LS_ONLY high becomes off (R239). -/
def Dev.edgeTarget (d : Dev) (l st : Nat) : LegPos :=
  if st = 1 then (if d.bit (K.LEG_FLAGS l) 1 then .off else .high)
  else if st = 2 then .low
  else .off

/-- A device of a leg is to turn on at an instant, once the other device's gate is below 2.0 V; the franker gives it up dead time plus
200 ns after the edge at t0 (R228). -/
def Dev.await (d : Dev) (l : Nat) (p : LegPos) (t0 t : Nat) : Dev :=
  d.setLeg l { d.leg l with turnOn := some (p, t), giveUp := t0 + d.deadTime l + 800 }

/-- An edge sets a leg (R237): a change between high and low turns the conducting device off at the instant and the other on after
the dead time; a change to or from off has no dead time. A turn-on waits for the other device's gate (R228; `gateLow`: it is below
2.0 V). An edge inside a dead time replaces the turn-on to come (log 17). -/
def Dev.edgeSet (d : Dev) (l : Nat) (p : LegPos) (t : Nat) (gateLow : Bool) : Dev :=
  let r := d.leg l
  if r.turnOn.isSome then
    if p = .off then d.setLeg l { r with turnOn := none }
    else d.await l p t (t + d.deadTime l)
  else if r.pos = p then d
  else if r.pos ≠ .off ∧ p ≠ .off then (d.legTo l .off t).await l p t (t + d.deadTime l)
  else if p = .off ∨ gateLow then d.legTo l p t
  else d.await l p t t

/-- Steps 1 to 4 of a refresh, with times from its start (R241). -/
def Dev.refreshLowEnd (d : Dev) (l start : Nat) : Nat := start + d.deadTime l + 4 * d.legSetting l (K.T_REFRESH l)

/-- The next edge of the running period, where it is due: inside a refresh it waits for the refresh's end (R242). -/
def Dev.edgeDue (d : Dev) (l lim : Nat) (gateLow : Bool) : Dev :=
  let r := d.leg l
  match r.due with
  | (t, st, _) :: rest =>
    if t ≤ lim then
      let d := d.setLeg l { r with due := rest }
      if st = 3 then d
      else
        match r.refresh with
        | some (start, _) => d.setLeg l { d.leg l with refresh := some (start, some st) }
        | none => d.edgeSet l (d.edgeTarget l st) t gateLow
    else d
  | [] => d

/-- The state that a leg takes at the end of a refresh: that of the edge that fell inside it, else high (R242); in LS_ONLY never high
(R239). -/
def Dev.refreshNext (d : Dev) (l : Nat) (queued : Option Nat) : LegPos := d.edgeTarget l (queued.getD 1)

/-- A turn-on that is due takes place, not before the present tick where the other device's gate has held it up (R228). -/
def Dev.turnOnNow (d : Dev) (l : Nat) (p : LegPos) (t : Nat) : Dev :=
  let r := d.leg l
  let at_ := max t d.nowQ
  let d := d.setLeg l { r with turnOn := none }
  match r.refresh with
  | some (start, queued) =>
    if p = .low then d.legTo l .low at_
    else
      let d := d.legTo l (d.refreshNext l queued) at_
      if d.refreshLowEnd l start ≤ t then d.setLeg l { d.leg l with refresh := none } else d
  | none => d.legTo l p at_

/-- The low interval of a refresh ends (R241, R242). -/
def Dev.refreshEnd (d : Dev) (l e : Nat) (queued : Option Nat) : Dev :=
  match d.refreshNext l queued with
  | .low => d.setLeg l { d.leg l with refresh := none, onTime := 0 }
  | .off =>
    let d := d.legTo l .off e
    d.setLeg l { d.leg l with refresh := none, onTime := 0 }
  | .high =>
    let d := (d.legTo l .off e).await l .high e (e + d.deadTime l)
    d.setLeg l { d.leg l with onTime := 0 }

/-- The action of a leg that is due by the end of the present tick, earliest first: the turn-on after a dead time, where the other
device's gate is below 2.0 V, the end of a refresh's low interval, the next edge. -/
def Dev.legAction (d : Dev) (l : Nat) (gateLow : Bool) : Dev :=
  let r := d.leg l
  let lim := d.nowQ + 31
  match r.turnOn with
  | some (p, t) => if t ≤ lim ∧ gateLow then d.turnOnNow l p t else d.edgeDue l lim gateLow
  | none =>
    match r.refresh with
    | some (start, queued) =>
      let e := d.refreshLowEnd l start
      if r.pos = .low ∧ e ≤ lim then d.refreshEnd l e queued else d.edgeDue l lim gateLow
    | none => d.edgeDue l lim gateLow

/-- The driver has measured the propagation delay of the gate edge just made (R236); 0 where none was measured. -/
def Dev.noteDelay (d : Dev) (l : Nat) (was : LegPos) (delay : Nat) : Dev :=
  let r := d.leg l
  if r.pos = was ∨ delay = 0 then d else d.setLeg l { r with delays := Tab.put r.delays r.launch.1 delay }

/-- EDGE_APPLY (R44): the edge or gate action of the leg that is due. -/
def execEdgeApply (leg : Nat) (gateLow : Bool) (delay : Nat) (s : State) : Host.Outcome State Fault Refusal := gated s <|
  onDev s fun d => if d.hasLeg leg then (d.legAction leg gateLow).noteDelay leg (d.leg leg).pos delay else d

/-- INTERLOCK_TIMEOUT (R228): a turn-on has waited for the other gate dead time plus 200 ns; it is abandoned, the leg goes off, leg fault
kind 4. The axis enters Faulted at its next cadence (R331). -/
def execInterlockTimeout (leg : Nat) (s : State) : Host.Outcome State Fault Refusal := gated s <|
  onDev s fun d =>
    if d.hasLeg leg ∧ (d.leg leg).turnOn.isSome ∧ (d.leg leg).giveUp ≤ d.nowQ + 31 then
      let d := d.legOff leg
      let d := (d.setBit (K.LEG_FLAGS leg) 4 true).count (K.INTERLOCKS leg)
      let d := d.raise (0x100 + leg) d.nt
      (d.identFail (leg / 4) 8).requestFault (leg / 4) false
    else d

/-- SOFT_OFF_HOLD (R229): 2 us after a turn-off that no letter made, the sinks hold both gates low at code 31. -/
def execSoftOffHold (leg : Nat) (s : State) : Host.Outcome State Fault Refusal :=
  onDev s fun d =>
    match (d.leg leg).softEnd with
    | some t => if t ≤ d.nowQ + 31 then d.setLeg leg { d.leg leg with softEnd := none, hold31 := true } else d
    | none => d

/-- The time for which a leg's high side has been on (R241), 1/4 ns. -/
def Dev.highTime (d : Dev) (l : Nat) : Nat :=
  let r := d.leg l
  if r.pos = .high then r.onTime + (d.nowQ - r.since) else r.onTime

/-- BOOTSTRAP_REFRESH (R241): the counter has reached T_BSMAX; the high side turns off and the refresh sequence begins. The
franker reports it (R243). -/
def execBootstrapRefresh (leg : Nat) (s : State) : Host.Outcome State Fault Refusal := gated s <|
  onDev s fun d =>
    let r := d.leg leg
    if d.hasLeg leg ∧ r.pos = .high ∧ r.refresh = none ∧ 4000 * d.legSetting leg (K.T_BSMAX leg) ≤ d.highTime leg + 31 then
      let t := r.since + (4000 * d.legSetting leg (K.T_BSMAX leg) - r.onTime)
      let d := (d.legTo leg .off t).await leg .low t (t + d.deadTime leg)
      let d := d.setLeg leg { d.leg leg with refresh := some (t, none), onTime := 0 }
      (d.count (K.REFRESHES leg)).emit (.refresh leg (d.nt - (d.nowQ - t) / 4))
    else d

/-! ## Tailoring (R230 to R235) -/

/-- The controlling code of a switching event (Table 8-1): 0 HS source, 1 HS sink, 2 LS source, 3 LS sink. -/
def controllingCode (up iPos : Bool) : Nat :=
  match up, iPos with
  | true, true => 0
  | true, false => 3
  | false, true => 1
  | false, false => 2

/-- One adjustment of R232: code, converging and the run of far events, from the error e in 1/4 ns and T_SW in 1/4 ns. -/
def tailorStep (code : Nat) (converging : Bool) (far : Nat) (e : Int) (tsw : Nat) : Nat × Bool × Nat :=
  let step := if e.natAbs ≤ 2 then 0 else if converging then 4 else 1
  let code' := if 2 < e then min (code + step) 31 else if e < -2 then code - step else code
  let conv := converging && !(4 * e.natAbs ≤ tsw)
  let far' := if ¬ conv ∧ tsw < 2 * e.natAbs then far + 1 else 0
  if 4 ≤ far' then (code', true, 0) else (code', conv, far')

/-- A code out of reach at its limit (R234): still slower at 31, or still faster at 0. -/
def outOfReach (code : Nat) (e : Int) : Bool := (code = 31 && 2 < e) || (code = 0 && e < -2)

/-- The code at the first convergence of an output after wake, for SEG_DRIFT of Table 15-2, with VBUS and the die temperature there. -/
def Dev.noteSettled (d : Dev) (out code : Nat) : Dev :=
  let f := d.fray
  let q := out / 64
  if (Tab.find f.firstCode out).isSome then d
  else { d with fray := { f with firstCode := Tab.put f.firstCode out (code, d.rd (K.VBUS q), d.rdI 16 (K.TDIE q)) } }

/-- A switching event under tailoring: it is measured, and with TAILOR = 0 its code is adjusted (R232, R235). The 64th consecutive event
of a code out of reach raises leg fault kind 3 (R234). -/
def Dev.switching (d : Dev) (l : Nat) (up iPos : Bool) (tm : Nat) : Dev :=
  let c := controllingCode up iPos
  let tsw := d.legSetting l (K.T_SW l)
  let code := field (d.rd (K.CODES l)) (8 * c + 4) (8 * c)
  let d := d.setLeg l { d.leg l with meas := Tab.put (d.leg l).meas c (tm, code, up) }
  if d.legSetting l (K.TAILOR l) = 1 then d
  else
    let e : Int := (tm : Int) - tsw
    let r := d.leg l
    let (code', conv, far) := tailorStep code (d.bit (K.TAIL_FLAGS l) c) (Tab.get 0 r.farRun c) e tsw
    let was := Tab.get 0 r.limitRun c
    let run := if outOfReach code e then min (was + 1) 64 else 0
    let d := d.setLeg l { r with farRun := Tab.put r.farRun c far, limitRun := Tab.put r.limitRun c run }
    let d := (d.setField (K.CODES l) (8 * c + 4) (8 * c) code').setBit (K.TAIL_FLAGS l) c conv
    let d := if e.natAbs ≤ 2 then d.setBit (K.TAIL_FLAGS l) (4 + c) false else d
    let d := if conv then d else d.noteSettled (4 * l + c) code'
    if run = 64 ∧ was = 63 then
      let d := (d.setBit (K.TAIL_FLAGS l) (4 + c) true).raise (0x0C0 + l) d.nt
      d.quarterEvent (l / 16) 0x0167 0x5002 (le 1 (l % 16) ++ le 1 c ++ le 2 tm ++ le 8 d.nt)
    else d

/-- SWITCHING_EVENT (R232). A transition slower than the dead time plus 500 ns is no switching event (R230). -/
def execSwitchingEvent (leg : Nat) (up iPos : Bool) (tm : Nat) (s : State) : Host.Outcome State Fault Refusal := gated s <|
  onDev s fun d => if d.hasLeg leg ∧ tm ≤ d.deadTime leg + 2000 then d.switching leg up iPos tm else d

/-- Tailoring starts again: all four codes at 8, converging (R233); FIXED_CODES where TAILOR is 1 (R235). -/
def Dev.tailorReset (d : Dev) (l : Nat) : Dev :=
  let d := d.setLeg l { d.leg l with farRun := [], limitRun := [] }
  let codes := if d.legSetting l (K.TAILOR l) = 1 then d.legSetting l (K.FIXED_CODES l) else 0x08080808
  d.wrs [(K.CODES l, codes), (K.TAIL_FLAGS l, withField (d.rd (K.TAIL_FLAGS l)) 7 0 0xF)]

/-- With TAILOR = 1 the codes are FIXED_CODES (R235). -/
def Dev.fixedCodes (d : Dev) (l : Nat) : Dev :=
  if d.legSetting l (K.TAILOR l) = 1 then d.wr (K.CODES l) (d.legSetting l (K.FIXED_CODES l)) else d

/-- An enable of the axis clears the delays of a leg (R236), ends its latch (R247), and starts it in LS_ONLY where its bootstrap voltage
lies below 8.4 V (R239). -/
def Dev.legEnabled (d : Dev) (l : Nat) : Dev :=
  let r := d.leg l
  let d := (d.setLeg l { r with delays := [], known := [], meas := [] }).wr (K.DELAYS l) 0
  let d := (d.setField (K.TAIL_FLAGS l) 11 8 0).setBit (K.LEG_FLAGS l) 2 false
  if r.bst < 840 then d.setBit (K.LEG_FLAGS l) 1 true else d

/-! ## Gate supplies (R238, R239) -/

/-- VGL_UNDERVOLTAGE (R238): below 8.5 V the quarter enters its safe state with cause 2. -/
def execVglUndervoltage (q : Nat) (v : Nat) (s : State) : Host.Outcome State Fault Refusal :=
  onDev s fun d =>
    if d.hasQuarter q ∧ v < 850 ∧ ¬ d.bit (K.Q_FLAGS q) 0 then
      let d := (d.wr (K.VGL q) v).setBit (K.Q_FLAGS q) 0 true
      let d := (d.safeEnter q 2).raiseOn (0x142 + 0x10 * q) d.nt
      d.quarterEvent q 0x0163 0x5002 (le 2 v ++ le 2 0 ++ le 8 d.nt)
    else d

/-- VGL_RESTORED (R238): VGL_q has stayed above 9.0 V for `held` ns; after 1 ms the cause clears, the safe state holds until its
release. -/
def execVglRestored (q : Nat) (v held : Nat) (s : State) : Host.Outcome State Fault Refusal :=
  onDev s fun d =>
    if d.hasQuarter q ∧ 900 < v ∧ 1000000 ≤ held ∧ d.bit (K.Q_FLAGS q) 0 then
      let d := (d.wr (K.VGL q) v).setBit (K.Q_FLAGS q) 0 false
      let d := (d.safeCauseOff q 2).raiseOff (0x142 + 0x10 * q)
      d.quarterEvent q 0x0164 0x5002 (le 2 v ++ le 2 0 ++ le 8 d.nt)
    else d

/-- BOOTSTRAP_UVLO (R239): the leg's monitor shows v; below 7.8 V outside Disabled: the high side off, LS_ONLY, leg fault kind 2, a
report. -/
def execBootstrapUvlo (leg : Nat) (v : Nat) (s : State) : Host.Outcome State Fault Refusal := gated s <|
  onDev s fun d =>
    let d := if d.hasLeg leg then d.setLeg leg { d.leg leg with bst := v } else d
    if d.hasLeg leg ∧ v < 780 ∧ d.axState (leg / 4) ≠ axDisabled ∧ ¬ d.bit (K.LEG_FLAGS leg) 1 then
      let r := d.leg leg
      let d := if r.pos = .high ∨ (r.turnOn.map (·.1)) = some .high then
          let due := r.due
          let d := d.legOff leg
          d.setLeg leg { d.leg leg with due := due }
        else d
      let d := (d.setBit (K.LEG_FLAGS leg) 0 true).setBit (K.LEG_FLAGS leg) 1 true
      let d := (d.count (K.BST_UV_CNT leg)).raise (0x080 + leg) d.nt
      let d := d.emit (.report (leg / 16) (.uvlo (leg % 16)) d.nt)
      d.quarterEvent (leg / 16) 0x0161 0x5002 (le 1 (leg % 16) ++ le 1 0 ++ le 2 v ++ le 8 d.nt)
    else d

/-- LS_ONLY_CLEARED (R239): at a period boundary of the coil, after the bootstrap voltage v has stayed above 8.4 V for two whole periods
of the coil (`held`: for how many). -/
def execLsOnlyCleared (leg v held : Nat) (s : State) : Host.Outcome State Fault Refusal := gated s <|
  onDev s fun d =>
    let c := d.coil (leg / 2)
    if d.hasLeg leg ∧ d.bit (K.LEG_FLAGS leg) 1 ∧ c.begun ∧ c.start = d.ticks ∧ 840 < v ∧ 2 ≤ held then
      let d := d.setLeg leg { d.leg leg with bst := v }
      let d := (d.setBit (K.LEG_FLAGS leg) 0 false).setBit (K.LEG_FLAGS leg) 1 false
      d.quarterEvent (leg / 16) 0x0162 0x5002 (le 1 (leg % 16) ++ le 1 0 ++ le 2 (d.leg leg).bst ++ le 8 d.nt)
    else d

/-! ## Shorts (R245 to R252) -/

/-- A device of a leg is on: its state, or its gate that a protective turn-off has not discharged yet (R250). -/
def Dev.gateOn (d : Dev) (l : Nat) (p : LegPos) : Bool :=
  let r := d.leg l
  r.pos = p || (r.gate = p && decide (d.nowQ ≤ r.gateEnd))

/-- The local legs of a quarter whose high (or low) side is on, bit j. -/
def Dev.onMask (d : Dev) (q : Nat) (p : LegPos) : Nat :=
  (List.range 16).foldl (fun m j => if d.gateOn (16 * q + j) p then m + 2 ^ j else m) 0

/-- Bitwise or of two masks. -/
def maskOr (a b : Nat) : Nat := Nat.lor a b

/-- A trip opens the quarter's short incident, or joins the open one; it latches every armed monitor's raw output (R250). `devHs` and
`devLs`: the device that trips, as masks. -/
def Dev.tripLatch (d : Dev) (q rawHs rawLs : Nat) (boc : Bool) (devHs devLs : Nat) : Dev :=
  let hs := Nat.land (maskOr rawHs devHs) (d.onMask q .high)
  let ls := Nat.land (maskOr rawLs devLs) (d.onMask q .low)
  let r := d.quarter q
  let i : IncidentRt := r.incident.getD { openNt := d.nt, openAt := d.nowQ }
  d.setQuarter q { r with incident := some { i with hs := maskOr i.hs hs, ls := maskOr i.ls ls, boc := i.boc || boc, trips := i.trips + 1,
                                                    trippedHs := maskOr i.trippedHs devHs, trippedLs := maskOr i.trippedLs devLs } }

/-- The device has tripped in the open incident already: a monitor that has tripped is latched (R247, R252). -/
def Dev.hasTripped (d : Dev) (leg : Nat) (hs : Bool) : Bool :=
  (d.quarter (leg / 16)).incident.any fun i => (if hs then i.trippedHs else i.trippedLs).testBit (leg % 16)

/-- VDS_TRIP (R247): an armed monitor past its blanking trips: the four legs of its axis off and latched, its leg fault, the
incident; identification fails; the axis is Faulted from the next cadence. -/
def execVdsTrip (leg : Nat) (hs : Bool) (rawHs rawLs : Nat) (boc : Bool) (s : State) : Host.Outcome State Fault Refusal := gated s <|
  onDev s fun d =>
    let r := d.leg leg
    let q := leg / 16
    let n := leg / 4
    if d.hasLeg leg ∧ d.gateOn leg (if hs then LegPos.high else LegPos.low) ∧ (if hs then r.blankH else r.blankL) ≤ d.nowQ + 31 ∧
        ¬ d.hasTripped leg hs then
      let own := 2 ^ (leg % 16)
      let d := d.tripLatch q rawHs rawLs boc (if hs then own else 0) (if hs then 0 else own)
      let d := d.identFail n 8
      let d := (axisLegs n).foldl Dev.legLatch d
      let t := d.rd (K.TRIPS leg)
      let d := d.wr (K.TRIPS leg) (if hs then withField t 15 0 (min (field t 15 0 + 1) 0xFFFF)
                                   else withField t 31 16 (min (field t 31 16 + 1) 0xFFFF))
      let d := (d.raise ((if hs then 0 else 0x040) + leg) d.nt).emit (.report q (.trip (leg % 16) hs) d.nt)
      d.requestFault n false
    else d

/-- BUS_CURRENT_TRIP (R247): outside 50 ns after any turn-on of the quarter, every leg of the quarter is latched off and the quarter
enters its safe state with cause 3; the incident fails identification with cause 8 (R252). -/
def execBusCurrentTrip (q : Nat) (rawHs rawLs : Nat) (s : State) : Host.Outcome State Fault Refusal := gated s <|
  onDev s fun d =>
    if d.hasQuarter q ∧ (d.quarter q).bocEnd ≤ d.nowQ + 31 then
      let d := d.tripLatch q rawHs rawLs true 0 0
      let d := (quarterAxes q).foldl (fun d n => d.identFail n 8) d
      let d := ((quarterLegs q).foldl Dev.legLatch d).safeEnter q 3
      d.raise (0x143 + 0x10 * q) d.nt
    else d

/-- The only local leg set in a mask. -/
def onlyLeg (m : Nat) : Bool := ((List.range 16).filter fun j => m.testBit j).length = 1

/-- The class of a short incident and its SUB bit (Table 8-5), first matching row. -/
def shortClass (hs ls : Nat) (boc : Bool) : Nat × Bool :=
  let partner (j : Nat) : Nat := if j % 2 = 0 then j + 1 else j - 1
  if (List.range 16).any fun j => hs.testBit j && ls.testBit j then (1, false)
  else if (List.range 16).any fun j => hs.testBit j && ls.testBit (partner j) then (2, false)
  else if hs = 0 ∧ onlyLeg ls then (3, false)
  else if onlyLeg hs ∧ ls = 0 then (4, !boc)
  else if hs = 0 ∧ ls = 0 ∧ boc then (5, false)
  else (0, false)

/-- INCIDENT_CLOSE (R251): 250 ns after its opening the incident closes and is classified, stored and reported. -/
def execIncidentClose (q : Nat) (s : State) : Host.Outcome State Fault Refusal := gated s <|
  onDev s fun d =>
    match (d.quarter q).incident with
    | some i =>
      if d.hasQuarter q ∧ i.openAt + 1000 ≤ d.nowQ + 31 then
        let (cls, sub) := shortClass i.hs i.ls i.boc
        let d := d.setQuarter q { d.quarter q with incident := none }
        let d := d.wrs [(K.INC_NT_5003 q, i.openNt), (K.INC_CLASS q, cls), (K.INC_HS q, i.hs), (K.INC_LS q, i.ls),
          (K.INC_FLAGS q, i.boc.toNat + 2 * sub.toNat + 256 * min i.trips 255)]
        let d := (d.count (K.INCIDENTS_5002 q)).raise (0x144 + 0x10 * q) d.nt
        let d := (quarterAxes q).foldl (fun d n =>
          if (axisLegs n).any fun l => (maskOr i.hs i.ls).testBit (l % 16) then d.identFail n 8 else d) d
        let d := d.emit (.report q .incidentClose d.nt)
        d.quarterEvent q 0x0160 0x5002 (le 1 cls ++ le 1 (i.boc.toNat + 2 * sub.toNat) ++ le 2 i.hs ++ le 2 i.ls ++ le 6 i.openNt)
      else d
    | none => d

/-- SAFE_RELEASE (R240): the safe-release mode change, sent only when no cause remains and every axis of the quarter is Disabled;
the safe state and the latches end, event 0x0166. -/
def execSafeRelease (q : Nat) (s : State) : Host.Outcome State Fault Refusal :=
  onDev s fun d =>
    let r := d.quarter q
    if d.hasQuarter q ∧ d.isSafe q ∧ r.causes = 0 ∧ d.allDisabled (quarterAxes q) then
      let d := (d.setBit (K.Q_FLAGS q) 1 false).setField (K.Q_FLAGS q) 6 4 0
      let d := (quarterLegs q).foldl (fun d l => (d.setBit (K.LEG_FLAGS l) 3 false).setBit (K.LEG_FLAGS l) 2 false) d
      d.quarterEvent q 0x0166 0x5002 (le 1 r.leftCause ++ le 3 0 ++ le 8 d.nt)
    else d

end Sys2Proof.Machine
end

