-- ==== Sys2Proof/Machine/Fault.lean ====
section
/-! DEFINITION. The fault unit (chapter 12), device states and the entry into Safe (chapter 16).
Conventions of the model: DEDUCED: log 37, 60, 61. -/

namespace Sys2Proof.Machine

/-- A status slot of an access path: 0x1130 for BAR0, 0x1131 for the ring (Table 3-5). -/
def statKey (p : Path) (k : Nat) : Nat :=
  match p with
  | .bar0 => k
  | .ring _ => k + 256

/-- An ignored write counted on its path (Table 3-5). -/
def Dev.ignored (d : Dev) (p : Path) : Dev := d.count (statKey p K.IGNORED)

/-! ## ERR_N (R341) -/

/-- ERR_STATE as R341 gives it: asserted until the fault unit has its defaults, during a pulse, in Safe, or by ERR_SW. -/
def Dev.errUpdate (d : Dev) : Dev :=
  let hold := d.bit K.ERR_STATE 2
  let pulse := d.flt.pulseEnd.isSome
  let on := !d.fab.ready || hold || pulse || d.rd K.ERR_SW = 1
  (d.setBit K.ERR_STATE 0 on).setBit K.ERR_STATE 1 pulse

/-- The pulse starts: it ends T_PULSE from now. -/
def Dev.pulseStart (d : Dev) : Dev :=
  { d with flt := { d.flt with pulseEnd := some (d.now + 1000 * d.rd K.T_PULSE) } }.errUpdate

/-- ERR_PULSE_END (R341). -/
def execErrPulseEnd (s : State) : Host.Outcome State Fault Refusal :=
  onDev s fun d =>
    match d.flt.pulseEnd with
    | some t => if t ≤ d.now + 7 then { d with flt := { d.flt with pulseEnd := none } }.errUpdate else d
    | none => d

/-! ## Device states (R423 to R426) -/

/-- The device state changes: STATE_NT and event 0x01D0 (R423, R444). -/
def State.changeState (s : State) (new : DevState) : State :=
  let old := s.pow.devState
  let d := s.dev.wr K.STATE_NT s.dev.nt
  let d := d.event 0x35 0x01D0 0x1100 d.nt
    (le 1 old.code ++ le 1 new.code ++ le 1 (d.rd K.SAFE_CAUSE) ++ le 1 (d.rd K.START_RESULT) ++ le 8 d.nt)
  { s with pow := { s.pow with devState := new }, dev := d }

/-- The device enters Safe with a cause (R434): cause 4 on every quarter, every axis outside Disabled Faulted, ERR_N held; leaving Operating sets cause 5 (R424). -/
def State.enterSafe (s : State) (cause : Nat) : State :=
  if s.pow.devState = .safe then s
  else
    let was := s.pow.devState
    let s := s.onDev fun d =>
      let d := d.wr K.SAFE_CAUSE cause
      let d := if was = .operating then d.safeAll 5 true else d
      let d := d.safeAll 4 true
      let d := if was = .stowed then d.axisList.foldl Dev.sliceStart d else d
      let d := d.axisList.foldl (fun d n => (d.identFail n 10).requestFault n false) d
      (d.setBit K.ERR_STATE 2 true).errUpdate
    s.changeState .safe

/-! ## The dead-letter log (R342, R343) -/

/-- A log entry written: NT, source, class, kind, incident, detail, injected (Table 12-10). -/
def Dev.logEntry (d : Dev) (nt src cls kind inc detail : Nat) (injected : Bool) : Dev :=
  let head := d.rd K.LOG_HEAD % 32
  let total := d.rd K.LOG_TOTAL
  let what := src % 0x400 + 0x400 * cls + 0x1000 * kind + 0x8000 * injected.toNat
  d.wrs [(K.ENTRY (2 * head), nt), (K.ENTRY (2 * head + 1), what + 2 ^ 16 * inc + 2 ^ 32 * (total % 2 ^ 16) + 2 ^ 48 * (detail % 2 ^ 16)),
    (K.LOG_HEAD, (head + 1) % 32), (K.LOG_TOTAL, (total + 1) % 2 ^ 32)]

/-- An event of the fault unit (R344). -/
def Dev.faultEvent (d : Dev) (type : Nat) (payload : Bytes) : Dev := d.event 0x30 type 0x2010 d.nt payload

/-! ## Incidents -/

def Dev.incOpen (d : Dev) : Bool := d.rd K.INC_OPEN = 1

/-- Source id is in the incident's map. -/
def Dev.inMap (d : Dev) (id : Nat) : Bool := d.bit (K.SRC_MAP (id / 64)) (id % 64)

/-- Scope of a source: axes and quarters (Table 12-6). -/
def Dev.sourceScope (d : Dev) (id : Nat) : List Nat × List Nat :=
  if id < 0x140 then ([id % 0x40 / 4], [id % 0x40 / 16])
  else if id < 0x180 then (quarterAxes ((id - 0x140) / 0x10), [(id - 0x140) / 0x10])
  else if id < 0x280 then ([(id - 0x180) / 0x10], [(id - 0x180) / 0x40])
  else (d.axisList, d.quarterList)

/-- The assigned sources in the map. -/
def Dev.mapSources (d : Dev) : List Nat := (List.range 0x290).filter d.inMap

/-- The present scope of the incident (R334): its axes and its quarters. -/
def Dev.scopeAxes (d : Dev) : List Nat :=
  let srcs := d.mapSources
  d.axisList.filter fun n => srcs.any fun id => (d.sourceScope id).1.contains n
def Dev.scopeQuarters (d : Dev) : List Nat :=
  let srcs := d.mapSources
  d.quarterList.filter fun q => srcs.any fun id => (d.sourceScope id).2.contains q

/-- A mask of numbers. -/
def maskOf (l : List Nat) : Nat := l.foldl (fun m i => withBit m i true) 0

/-- The time of the next step (R335, R336): T_GRACE + (k - 1) T_STEP after INC_NT, at once up to the steps that are due at once;
all ones where no step up to CEIL is left. -/
def Dev.schedule (d : Dev) : Dev :=
  let k := d.rd K.STEP_2010 + 1
  if ¬ d.incOpen ∨ d.rd K.CEIL < k then d.wr K.NEXT_STEP_NT (2 ^ 64 - 1)
  else
    let t := d.rd K.INC_NT_2010 + 1000000 * (d.rd K.T_GRACE + (k - 1) * d.rd K.T_STEP)
    if k ≤ d.flt.atOnce ∨ t ≤ d.nt then d.wr K.NEXT_STEP_NT d.nt else d.wr K.NEXT_STEP_NT t

/-- Step k of the ladder applied to axes and quarters (Table 12-7). Table 16-2 gives step 3 no transition out of Off (R423). -/
def State.applyStep (s : State) (k : Nat) (axes quarters : List Nat) : State :=
  if k = 1 then s.onDev fun d => axes.foldl (fun d n => (d.identFail n 10).requestFault n true) d
  else if k = 2 then s.onDev fun d => quarters.foldl (fun d q =>
    { d with flt := { d.flt with stepSafe := withBit d.flt.stepSafe q true } }.safeEnter q 4) d
  else if k = 3 ∧ s.pow.devState ≠ .off then s.enterSafe 1
  else s

/-- The next step is taken (R335). -/
def State.takeStep (s : State) : State :=
  let k := s.dev.rd K.STEP_2010 + 1
  if ¬ s.dev.incOpen ∨ s.dev.rd K.CEIL < k then s
  else
    let axes := s.dev.scopeAxes
    let quarters := s.dev.scopeQuarters
    let s := (s.onDev fun d => d.wr K.STEP_2010 k).applyStep k axes quarters
    s.onDev fun d =>
      let first := d.rd K.FIRST_SRC
      let d := d.logEntry d.nt first (d.rd (K.CFG first) % 4) 4 (d.rd K.INC_NO) k false
      let d := d.faultEvent 0x01A2 (le 2 (d.rd K.INC_NO) ++ le 1 k ++ le 1 (d.rd K.CEIL) ++ le 2 (maskOf axes) ++ le 1 (maskOf quarters))
      d.schedule

/-- Steps that are due now are taken at the merge (R336). -/
def State.dueSteps (s : State) : State :=
  let go (s : State) : State := if s.dev.rd K.NEXT_STEP_NT ≤ s.dev.nt then s.takeStep else s
  go (go (go s))

/-- The map with one source's bit set. -/
def Dev.mapSet (d : Dev) (id : Nat) : Dev := d.setBit (K.SRC_MAP (id / 64)) (id % 64) true

/-- A severe raise opens an incident (R332). -/
def State.openIncident (s : State) (r : Raise) (cfg : Nat) : State :=
  s.onDev fun d =>
    let ceil := field cfg 3 2
    let no := d.rd K.INC_NO % 0xFFFF + 1
    let d := (List.range 12).foldl (fun d i => d.wr (K.SRC_MAP i) 0) d
    let d := d.wrs [(K.INC_NO, no), (K.INC_OPEN, 1), (K.INC_NT_2010, r.nt), (K.FIRST_SRC, r.src), (K.MERGES, 0), (K.STEP_2010, 0),
      (K.CEIL, ceil)]
    let d := (d.mapSet r.src).count K.INCIDENTS_2000
    let d := { d with flt := { d.flt with atOnce := if cfg.testBit 6 then ceil else 0, stepSafe := 0 } }
    let d := d.pulseStart.logEntry r.nt r.src (cfg % 4) 2 no ceil r.injected
    let d := d.faultEvent 0x01A0 (le 2 no ++ le 2 r.src ++ le 1 (cfg % 4) ++ le 1 ceil ++ le 6 r.nt)
    d.schedule

/-- A severe raise merges into the open incident (R333, R336): steps already taken act on what the scope gains. -/
def State.merge (s : State) (r : Raise) (cfg : Nat) : State :=
  let ceil := field cfg 3 2
  let axes := s.dev.scopeAxes
  let quarters := s.dev.scopeQuarters
  let s := s.onDev fun d =>
    let merges := min (d.rd K.MERGES + 1) 0xFFFF
    let no := d.rd K.INC_NO
    let d := (d.mapSet r.src).wrs [(K.MERGES, merges), (K.CEIL, max (d.rd K.CEIL) ceil)]
    let d := if cfg.testBit 6 then { d with flt := { d.flt with atOnce := max d.flt.atOnce ceil } } else d
    let d := d.logEntry r.nt r.src (cfg % 4) 3 no ceil r.injected
    d.faultEvent 0x01A1 (le 2 no ++ le 2 r.src ++ le 2 merges ++ le 6 r.nt)
  let gainA := s.dev.scopeAxes.filter fun n => !axes.contains n
  let gainQ := s.dev.scopeQuarters.filter fun q => !quarters.contains q
  let taken := s.dev.rd K.STEP_2010
  let s := if 1 ≤ taken then s.applyStep 1 gainA gainQ else s
  let s := if 2 ≤ taken then s.applyStep 2 gainA gainQ else s
  (s.onDev Dev.schedule).dueSteps

/-- Detection NTs of a source in the window (t - W, t] of a raise at t (R329). -/
def Dev.window (d : Dev) (src t : Nat) : List Nat :=
  (Tab.get [] d.flt.windows src).filter fun x => decide (t < x + 1000000 * d.rd (K.W src)) && decide (x ≤ t)

/-- A raise taken at the arbiter (R329): counted, classed, reported, and where severe an incident opens or the raise merges. -/
def State.takeRaise (s : State) (r : Raise) : State :=
  let d := s.dev
  let cfg := d.rd (K.CFG r.src)
  let cls := cfg % 4
  let old := Tab.get [] d.flt.windows r.src
  let fill := (d.window r.src r.nt).length + 1
  let reached := cls = 1 && decide (d.rd (K.N r.src) ≤ fill)
  let severe := cls = 2 || reached
  let kept := if cls ≠ 1 then old else if reached then []
    else (old.filter fun x => r.nt < x + 2000000 * d.rd (K.W r.src)) ++ [r.nt]
  let fill := if cls = 1 ∧ ¬ reached then fill else 0
  let d := (d.count (K.COUNT_2400 r.src)).wr (K.LAST_NT r.src) r.nt
  let d := d.setBit (K.SRC_STATUS r.src) 2 r.injected
  let d := { d with flt := { d.flt with windows := Tab.put d.flt.windows r.src kept } }
  let d := if severe then d.count (K.SEVERE r.src) else d
  let d := if cfg.testBit 4 then
      d.faultEvent 0x01A4 (le 2 r.src ++ le 1 cls ++ le 1 (severe.toNat + 2 * r.injected.toNat) ++ le 1 fill ++ le 3 0 ++ le 4 r.nt)
    else d
  if severe then (if d.incOpen then { s with dev := d }.merge r cfg else { s with dev := d }.openIncident r cfg)
  else if cfg.testBit 5 then { s with dev := d.logEntry r.nt r.src cls 1 0 fill r.injected }
  else { s with dev := d }

/-- FAULT_RAISE (R328, R329): the first raise waiting at the arbiter. -/
def execFaultRaise (s : State) : Host.Outcome State Fault Refusal :=
  .next <|
    match s.dev.flt.raises with
    | [] => s
    | r :: rest => (s.onDev fun d => { d with flt := { d.flt with raises := rest } }).takeRaise r

/-- ESCALATION_STEP (R335): the next step is taken when its time has come. -/
def execEscalationStep (s : State) : Host.Outcome State Fault Refusal :=
  .next (if s.dev.rd K.NEXT_STEP_NT ≤ s.dev.nt + 7 then s.takeStep else s)

/-- An acknowledgement of the open incident (R338); a write of another value, or with none open, is ignored and counted. In Safe
the device's own cause-4 request stays. -/
def State.ack (s : State) (p : Path) (value : Nat) : State :=
  if ¬ s.dev.incOpen ∨ value ≠ s.dev.rd K.INC_NO then s.onDev fun d => d.ignored p
  else
    let safe := s.pow.devState = .safe
    s.onDev fun d =>
      let d := d.wrs [(K.INC_OPEN, 0), (K.NEXT_STEP_NT, 2 ^ 64 - 1)]
      let d := if safe then d else
        (d.quarterList.filter fun q => d.flt.stepSafe.testBit q).foldl (fun d q => d.safeCauseOff q 4) d
      let d := { d with flt := { d.flt with stepSafe := 0, atOnce := 0 } }
      let first := d.rd K.FIRST_SRC
      let d := d.logEntry d.nt first (d.rd (K.CFG first) % 4) 5 value (d.rd K.MERGES) false
      d.faultEvent 0x01A3 (le 2 value ++ le 1 (d.rd K.STEP_2010) ++ le 1 0 ++ le 2 (d.rd K.MERGES) ++ le 2 0 ++
        le 4 (min ((d.nt - d.rd K.INC_NT_2010) / 1000) (2 ^ 32 - 1)))

/-- LOG_CLEAR's effect: the ring is emptied; LOG_TOTAL keeps counting (R342). -/
def Dev.logClear (d : Dev) : Dev :=
  (List.range 64).foldl (fun d i => d.wr (K.ENTRY i) 0) (d.wr K.LOG_HEAD 0)

/-- An enable of axis n is refused while an incident is open whose scope includes it (R340). -/
def Dev.blocksEnable (d : Dev) (n : Nat) : Bool := d.incOpen && d.scopeAxes.contains n

/-! ## Fault injection (R345, R346) -/

/-- The checker of a target and instance is being fed by a pending injection. -/
def Dev.injects (d : Dev) (target : Nat) (inst : Nat → Bool) : Bool :=
  d.rd K.INJ_GO = 1 && d.rd K.INJ_LEFT ≠ 0 && d.rd K.INJ_TARGET = target && inst (d.rd K.INJ_INST)

/-- An injection ends: INJ_GO completes, log kind 6, event 0x01A5. -/
def Dev.injEnd (d : Dev) : Dev :=
  let fed := d.flt.injFed
  let d := d.wrs [(K.INJ_GO, 0), (K.INJ_STOP, 0)]
  let d := d.logEntry d.nt 0x3FF 0 6 0 fed false
  d.faultEvent 0x01A5 (le 1 (d.rd K.INJ_TARGET) ++ le 1 (d.rd K.INJ_INST) ++ le 2 fed ++ le 2 (d.rd K.INJ_N))

/-- One check fed: INJ_LEFT counts down; at 0 the injection ends (INJECTION_ENDED). -/
def Dev.injFeed (d : Dev) : Dev :=
  let left := d.rd K.INJ_LEFT - 1
  let d := (d.wr K.INJ_LEFT left).count K.INJ_TOTAL
  { d with flt := { d.flt with injFed := d.flt.injFed + 1 } }

/-- A checker's check under an injection: whether it sees the inversion, and the state after the check. -/
def Dev.injCheck (d : Dev) (target : Nat) (inst : Nat → Bool) : Bool × Dev :=
  if d.injects target inst then (true, d.injFeed) else (false, d)

/-- One read of a word of logical bank b by a unit, with the bit errors that it meets (R301): whether the word is poisoned. An injected
single error is in one of the eight check bits, which one is free (Table 12-13, log 8). -/
def Dev.readWord (d : Dev) (unit b w ecc : Nat) : Bool × Dev :=
  let (single, d) := d.injCheck 2 fun i => i = b
  let (double, d) := d.injCheck 3 fun i => i = b
  let poisoned := d.memu.poison.contains (d.wordNo b w)
  let held := 72 < ecc || poisoned
  if held ∨ double then
    let d := if 72 < ecc ∧ ¬ poisoned then { d with memu := { d.memu with poison := d.memu.poison ++ [d.wordNo b w] } } else d
    (true, d.uncorrectable unit b w (!held))
  else if ecc ≠ 0 then (false, d.corrected b w (ecc - 1) false)
  else if single then
    let (x, d) := d.draw 3
    (false, d.corrected b w (64 + x) true)
  else (false, d)

/-- INJECTION_ENDED (R345): INJ_LEFT has reached 0. -/
def execInjectionEnded (s : State) : Host.Outcome State Fault Refusal :=
  onDev s fun d => if d.rd K.INJ_GO = 1 ∧ d.rd K.INJ_LEFT = 0 then d.injEnd else d

end Sys2Proof.Machine
end

