-- ==== Sys2Proof/Machine/Shadow.lean ====
section
/-! DEFINITION. Completed and abandoned patches, the patch store (chapter 15, R404 to R407, R414 to R418), and the shadow comparison of
a slice patch. The shadowing slice's copy of the axis is the axis itself: a copy that receives the same inputs holds the same state
(R22, R153, R268); that its letters agree is an input of JOB_COMPLETE.
Conventions of the model: DEDUCED: log 40, 69. -/

namespace Sys2Proof.Machine

/-- An event of the fray monitor (R418). -/
def Dev.frayEvent (d : Dev) (type : Nat) (payload : Bytes) : Dev := d.event 0x36 type 0x2900 d.nt payload

/-- The bytes of a string as one number, byte 0 highest. -/
def beNat (b : Bytes) : Nat := b.foldl (fun s x => 256 * s + x.toNat) 0

/-- A patch record (Table 15-5). -/
def patchBytes (nt kind cause inst from_ to_ : Nat) : Bytes :=
  let b := le 8 nt ++ le 1 kind ++ le 1 cause ++ le 2 inst ++ le 2 from_ ++ le 1 to_
  b ++ le 1 (crc8 120 (beNat b))

/-- A record goes to the patch store, or is not kept where all 64 slots are used (R414, R416). -/
def Dev.patchRecord (d : Dev) (nt kind cause inst from_ to_ : Nat) : Bool × Dev :=
  let f := d.fray
  if f.store.length + f.writing.length < 64 then
    (true, { d with fray := { f with writing := f.writing ++ [patchBytes nt kind cause inst from_ to_] } })
  else (false, (d.setBit K.NOSPARE 7 true).raise 0x28E d.nt)

/-- A patch that cannot be made for want of a spare (R417). -/
def Dev.noSpareEvent (d : Dev) (kind inst : Nat) : Dev := d.frayEvent 0x01C4 (le 1 kind ++ le 1 0 ++ le 2 inst ++ le 8 d.nt)

/-- The last spare of a kind has been used (R417). -/
def Dev.noSpare (d : Dev) (kind inst : Nat) : Dev := ((d.setBit K.NOSPARE kind true).raise 0x28E d.nt).noSpareEvent kind inst

/-- The instance of a record or event of a kind (Table 15-5), from that of a request (Table 15-7): the quarter of a coil. -/
def recordInst (kind inst : Nat) : Nat := if kind = 1 then inst / 8 else inst

/-- The pending request completes with a result (R401). -/
def Dev.requestEnd (d : Dev) (cause result : Nat) : Dev :=
  if cause = 2 ∧ d.rd K.REQ_GO = 1 then d.wrs [(K.REQ_GO, 0), (K.REQ_RESULT, result)] else d

/-- A patch completes: its record, PATCHES, event 0x01C2, its request; `last` where it used the last spare for its resource. -/
def Dev.patchComplete (d : Dev) (nt kind cause inst from_ to_ : Nat) (last : Bool) : Dev :=
  let (stored, d) := d.patchRecord nt kind cause inst from_ to_
  let d := d.count K.PATCHES
  let d := d.frayEvent 0x01C2 (le 1 kind ++ le 1 stored.toNat ++ le 2 inst ++ le 8 nt)
  let d := d.requestEnd cause 1
  if last then d.noSpare kind inst else d

/-- A spare of the kind remains for a resource (Table 15-1): instance and sub as a request names them (Table 15-7). -/
def Dev.spareFor (d : Dev) (kind inst sub : Nat) : Bool :=
  let sp := d.rd K.SPARES_2900
  match kind with
  | 0 => sp % 4 ≠ 0
  | 1 => sp.testBit (8 + inst / 8)
  | 2 => (List.range 4).any fun i => !(d.rd (K.SEGMAP inst (field sub 9 8))).testBit (8 * i + 7)
  | 3 => sp.testBit (12 + inst)
  | 4 => let s := field sub 13 12
    field (d.rd (K.SPARES_2810 inst)) (6 * s + 5) (6 * s + 3) < 4
  | _ => field sp 17 16 ≠ 0

/-- A patch that the monitor decides (R399, R400): made under policy 1 alone, reported where no spare remains (R417); one that waits or
runs already is not decided again. -/
def Dev.decidePatch (d : Dev) (kind inst sub cause : Nat) : Dev :=
  let known := d.fray.asks.any (fun a => a.kind = kind && a.inst = inst && a.sub = sub) ||
    (kind = 0 && (d.fray.slice.map (·.axis)) = some inst) || (kind = 1 && d.fray.adc.any fun e => e.2.1 = inst)
  if field (d.rd K.POLICY_2900) (2 * kind + 1) (2 * kind) ≠ 1 ∨ known then d
  else if ¬ d.spareFor kind inst sub then d.noSpareEvent kind (recordInst kind inst)
  else { d with fray := { d.fray with asks := d.fray.asks ++ [{ kind := kind, inst := inst, sub := sub, cause := cause }] } }

/-- STATE and AXIS of a slice (Table 1-5). -/
def Dev.setSlice (d : Dev) (s state axis : Nat) : Dev := d.wr (K.SLICE_STATUS s) (state + 256 * axis)

/-- Slices in state Spare, shown in SPARES. -/
def Dev.spareSlices (d : Dev) : List Nat := [16, 17].filter fun s => d.rd (K.SLICE_STATUS s) % 8 = 1
def Dev.showSpares (d : Dev) : Dev := d.setField K.SPARES_2900 1 0 d.spareSlices.length

/-- PATCH_ABANDONED (R406, R407): the spare returns to Spare, or to Retired after its second mismatch. -/
def Dev.patchAbandon (d : Dev) (cause : Nat) : Dev :=
  match d.fray.slice with
  | none => d
  | some p =>
    if ¬ p.started then d
    else
      let d := { d with fray := { d.fray with slice := none } }
      let d := d.setBit (K.SLICE_MAP p.axis) 6 false
      let bad := cause = 1 && decide (1 ≤ d.rd (K.MISMATCH p.spare))
      let d := if cause = 1 then d.wr (K.MISMATCH p.spare) (min 255 (d.rd (K.MISMATCH p.spare) + 1)) else d
      let d := if bad then
          ((d.setSlice p.spare 3 0x1F).patchRecord d.nt 0 6 p.axis p.spare 0xFF).2
        else d.setSlice p.spare 1 0x1F
      let d := d.showSpares.wrs [(K.P_STATE, 4), (K.P_CAUSE, cause), (K.P_END_NT, d.nt)]
      let d := d.raise 0x28F d.nt
      let d := d.frayEvent 0x01C3 (le 1 0 ++ le 1 cause ++ le 2 p.axis ++ le 1 (min 255 p.matched) ++ le 3 0 ++ le 4 d.nt)
      d.requestEnd p.cause 2

/-- Axis n enters Disabled, Identifying or Faulted: a patch of it is abandoned with cause 2. -/
def Dev.patchLeave (d : Dev) (n : Nat) : Dev :=
  match d.fray.slice with
  | some p => if p.axis = n then d.patchAbandon 2 else d
  | none => d

/-- PATCH_COMPARE (R404): a job of coil c of the axis completes while a loaded spare shadows it. A late job of the serving slice makes
the period neither matched nor mismatched. -/
def Dev.patchCompare (d : Dev) (c : Nat) (onTime agree : Bool) : Dev :=
  match d.fray.slice with
  | none => d
  | some p =>
    if p.axis ≠ c / 2 ∨ ¬ p.loaded then d
    else if onTime ∧ ¬ agree then d.patchAbandon 1
    else
      let p := if c % 2 = 0 then { p with nxt := some onTime } else if onTime then p else { p with cur := p.cur.map fun _ => false }
      { d with fray := { d.fray with slice := some p } }

/-- Coil A of the axis starts a period: the period that ends counts where all its jobs matched. Goes that move B_T beyond the start of
the 128th matched period abandon the patch (R406). -/
def Dev.patchPeriod (d : Dev) (c : Nat) : Dev :=
  match d.fray.slice with
  | none => d
  | some p =>
    if p.axis ≠ c / 2 ∨ c % 2 = 1 ∨ ¬ p.loaded then d
    else
      let p := { p with matched := p.matched + (if p.cur = some true then 1 else 0), cur := p.nxt, nxt := none }
      let shown := p.matched + (if p.cur = some true then 1 else 0)
      let d := ({ d with fray := { d.fray with slice := some p } }).wr K.MATCHED (min 255 shown)
      if 128 < shown then d.patchAbandon 4 else d

/-- PATCH_RECORD_WRITTEN (R414): the record being written takes the lowest free slot. -/
def execPatchRecordWritten (s : State) : Host.Outcome State Fault Refusal :=
  .next <| s.onDev fun d =>
    match d.fray.writing with
    | [] => d
    | b :: rest =>
      let i := d.fray.store.length
      let d := { d with fray := { d.fray with writing := rest, store := d.fray.store ++ [(true, b)] } }
      d.wrs [(K.RECORD (2 * i), ofLe (b.take 8)), (K.RECORD (2 * i + 1), ofLe (b.drop 8)), (K.STORE_USED, i + 1)]

end Sys2Proof.Machine
end

