-- ==== Sys2Proof/Machine/Seam.lean ====
section
/-! DEFINITION. The seam between the controller die and a quarter die (chapter 08, The seam link; chapter 01, R32, R33; chapter 02,
R39, R45), and the franker's periods (R58, R171, R181, R254).
Conventions of the model: DEDUCED: log 30, 38, 39, 42, 54, 73; DESIGN CHOICE: log 80, 83. -/

namespace Sys2Proof.Machine

/-! ## Flits (Table 8-8) -/

/-- Bits [hi:lo] of a flit. -/
def flitField (f : Flit) (hi lo : Nat) : Nat := field f.toNat hi lo

/-- A flit's CRC matches: it is computed over bits [63:8]. -/
def flitCrcOk (f : Flit) : Bool := flitField f 7 0 = crc8 56 (f.toNat / 256)

/-- A flit with its CRC, from bits [63:8]. -/
def mkFlit (body : Nat) : Flit := BitVec.ofNat 64 (body % 2 ^ 56 * 256 + crc8 56 (body % 2 ^ 56))

/-- The reserved types of Table 8-9. -/
def flitReserved (t : Nat) : Bool := (5 ≤ t && t ≤ 7) || t = 0xE

/-- A heartbeat: the sending tick, and its last field (VBUS, or SAFE_REQ in bit 12). -/
def heartbeatFlit (err : Bool) (tick last : Nat) : Flit :=
  mkFlit (err.toNat * 2 ^ 51 + tick % 2 ^ 38 * 2 ^ 13 + last % 2 ^ 13)

/-- An edge letter of local leg l. -/
def edgeFlit (err : Bool) (l : Nat) (e : EdgeLet) : Flit :=
  mkFlit (2 ^ 52 + err.toNat * 2 ^ 51 + l % 16 * 2 ^ 47 + e.state % 4 * 2 ^ 45 + e.ctrl % 2 * 2 ^ 44 + e.gen % 4 * 2 ^ 42 +
    e.ptag % 16 * 2 ^ 38 + e.last.toNat * 2 ^ 37 + e.offset % 2 ^ 19 * 2 ^ 18)

/-- The edge letter that a flit carries. -/
def flitEdge (f : Flit) : EdgeLet :=
  { state := flitField f 54 53
    ctrl := flitField f 52 52
    gen := flitField f 51 50
    ptag := flitField f 49 46
    last := flitField f 45 45 = 1
    offset := flitField f 44 26 }

/-! ## Reception (R253) -/

/-- The end of a lane at the quarter or at the controller. -/
def QuarterRt.lane (r : QuarterRt) (toQ : Bool) (lane : Nat) : LaneRt := Tab.get {} (if toQ then r.rxQ else r.rxC) lane
def QuarterRt.setLane (r : QuarterRt) (toQ : Bool) (lane : Nat) (x : LaneRt) : QuarterRt :=
  if toQ then { r with rxQ := Tab.put r.rxQ lane x } else { r with rxC := Tab.put r.rxC lane x }

/-- No valid flit on any lane of one end for t ns. -/
def Dev.seamQuiet (d : Dev) (q : Nat) (toQ : Bool) (t : Nat) : Bool :=
  (List.range 3).all fun i => ((d.quarter q).lane toQ i).lastValid + t ≤ d.now + 7

/-- A discarded flit whose CRC mismatches: CRC_ERR, the fray monitor's count (Table 15-2), and the error shown in the next flit sent on the
lane (R253, Table 8-8). -/
def Dev.rxBad (d : Dev) (q : Nat) (toQ : Bool) (lane : Nat) : Dev :=
  let r := d.quarter q
  let x := r.lane toQ lane
  let f := d.fray
  let d := { d with fray := { f with laneErr := Tab.put f.laneErr (3 * q + lane) (Tab.get 0 f.laneErr (3 * q + lane) + 1) } }
  (d.setQuarter q (r.setLane toQ lane
    { x with errPending := true, crcTimes := (x.crcTimes.filter fun t => d.now < t + 1000000) ++ [d.now] })).count (K.CRC_ERR q)

/-- A valid flit: when it came, whether valid flits flow at the quarter without a gap (R257), and the controller sends again. -/
def Dev.rxGood (d : Dev) (q : Nat) (toQ : Bool) (lane : Nat) : Dev :=
  let r := d.quarter q
  let gap := d.seamQuiet q true 2000
  let flow := if ¬ toQ then r.flowSince else if gap then some d.now else some (r.flowSince.getD d.now)
  let r := { r with flowSince := flow, silent := r.silent && toQ }
  d.setQuarter q (r.setLane toQ lane { r.lane toQ lane with lastValid := d.now })

/-- The checks of a flit received on a lane at one end: CRC, after an injection that inverts it (R345, target 4), ERR and type.
Whether it passes, and the state after the counts. -/
def Dev.rxCheck (d : Dev) (q : Nat) (toQ : Bool) (lane type : Nat) (crcOk err : Bool) : Bool × Dev :=
  if ¬ (d.hasQuarter q ∧ lane < 3) then (false, d)
  else
    let (bad, d) := d.injCheck 4 fun i => i % 4 = q && i.testBit 4 = !toQ && i / 32 = 0 && i / 4 % 4 = 0
    if bad ∨ ¬ crcOk then (false, d.rxBad q toQ lane)
    else
      let d := if err then d.count (K.ERR_RX q) else d
      if flitReserved type then (false, d.count (K.BAD_TYPE q)) else (true, d)

/-- A flit received: where it passes its checks it is valid and delivered. -/
def Dev.rxFlit (d : Dev) (q : Nat) (toQ : Bool) (lane type : Nat) (crcOk err : Bool) : Bool × Dev :=
  match d.rxCheck q toQ lane type crcOk err with
  | (true, d) => (true, d.rxGood q toQ lane)
  | (false, d) => (false, d)

/-! ## Heartbeats (R39, R196, R253) -/

/-- The quarter's NT copy, in ticks modulo 2^38. -/
def Dev.quarterTick (d : Dev) (q : Nat) : Nat := (((d.nt / 8 : Nat) + (d.quarter q).ntOfs) % (2 ^ 38 : Int)).toNat

/-- A heartbeat at the quarter: its NT is taken after a mismatch, else compared, a mismatch making it an erroneous flit (R39);
SAFE_REQ sets or withdraws cause 4. -/
def Dev.heartbeatQ (d : Dev) (q lane : Nat) (f : Flit) : Dev :=
  let tick := flitField f 58 21
  let r := d.quarter q
  if r.takeNt ∨ tick = d.quarterTick q then
    let d := d.setQuarter q { r with takeNt := false, ntOfs := if r.takeNt then (tick : Int) - (d.nt / 8 % 2 ^ 38 : Nat) else r.ntOfs }
    let d := d.rxGood q true lane
    if flitField f 20 20 = 1 then d.safeEnter q 4
    else if d.flt.stepSafe.testBit q ∨ d.bit K.ERR_STATE 2 then d
    else d.safeCauseOff q 4
  else
    let d := d.rxBad q true lane
    d.setQuarter q { d.quarter q with takeNt := true }

/-- A heartbeat at the controller: VBUS of the quarter, its extrema. -/
def Dev.heartbeatC (d : Dev) (q lane : Nat) (f : Flit) : Dev :=
  let v := flitField f 20 8
  let d := d.rxGood q false lane
  d.wrs [(K.VBUS q, v), (K.VBUS_MAX q, max (d.rd (K.VBUS_MAX q)) v), (K.VBUS_MIN q, min (d.rd (K.VBUS_MIN q)) v)]

/-- HEARTBEAT (R39): a received heartbeat flit; the CRC decides first. -/
def execHeartbeat (q : Nat) (toQuarter : Bool) (lane : Nat) (flit : Flit) (s : State) : Host.Outcome State Fault Refusal :=
  onDev s fun d =>
    let type := flitField flit 63 60
    match d.rxCheck q toQuarter lane type (flitCrcOk flit) (flitField flit 59 59 = 1) with
    | (false, d) => d
    | (true, d) =>
      if type ≠ 0 then d.rxGood q toQuarter lane
      else if toQuarter then d.heartbeatQ q lane flit
      else d.heartbeatC q lane flit

/-- Lanes on which an end sends: those in service, and lane 2 while it is a spare (R411). -/
def Dev.sendLanes (d : Dev) (q : Nat) : List Nat :=
  (List.range 3).filter fun i => d.bit (K.LANES q) i || (i = 2 && !d.bit (K.LANES q) 6)

/-- HEARTBEAT_SEND (R253): one heartbeat on every lane, with the sending tick and VBUS or SAFE_REQ; ERR where a flit of the lane was
bad since the last sending. A controller that has stopped sends nothing (R256). -/
def execHeartbeatSend (q : Nat) (toQuarter : Bool) (s : State) : Host.Outcome State Fault Refusal :=
  onDev s fun d =>
    let r := d.quarter q
    if ¬ d.hasQuarter q ∨ ¬ r.trained ∨ (toQuarter ∧ r.silent) then d
    else
      let safeReq := d.flt.stepSafe.testBit q || d.bit K.ERR_STATE 2
      let last := if toQuarter then safeReq.toNat * 2 ^ 12 else r.vbus
      let tick := if toQuarter then d.nt / 8 else d.quarterTick q
      (d.sendLanes q).foldl (fun d i =>
        let r := d.quarter q
        let x := r.lane (!toQuarter) i
        let d := d.setQuarter q (r.setLane (!toQuarter) i { x with errPending := false })
        d.emit (.flit q toQuarter i (heartbeatFlit x.errPending tick last))) d

/-! ## Edge letters at the franker (R45, R170, R171, R240, R249) -/

/-- Coil c's period whose number modulo 16 is ptag: the next one, or one near it. -/
def CoilRt.tagged (r : CoilRt) (ptag : Nat) : Nat :=
  let diff := (ptag + 16 - r.next % 16) % 16
  if diff < 8 then r.next + diff else r.next - (16 - diff)

/-- The start of period k of a coil, device time in 1/4 ns. -/
def Dev.periodAt (d : Dev) (c k : Nat) : Nat :=
  let r := d.coil c
  32 * (r.nextAt + (k - r.next) * d.rd (K.PERIOD (c / 8)) - (r.next - k) * d.rd (K.PERIOD (c / 8)))

/-- Letters and go sets of a leg are discarded: the quarter safe, the leg latched off, or its coil clamped (R197, R240, R249). -/
def Dev.legShut (d : Dev) (l : Nat) : Bool :=
  d.isSafe (l / 16) || d.bit (K.LEG_FLAGS l) 2 || (d.quarter (l / 16)).clamp.testBit (l / 2 % 8)

/-- An edge letter taken by the franker. A letter of the generation that the next go raises belongs to the go set (DEDUCED); one of
another generation is older and discarded; one that arrives later than 20 ns before its instant is discarded and reported. -/
def Dev.takeEdge (d : Dev) (l : Nat) (e : EdgeLet) : Dev :=
  let c := l / 2
  let gen := (d.axis (l / 4)).goGen
  if d.legShut l ∨ ¬ (d.coil c).running then d
  else if e.gen = (gen + 1) % 4 then
    let r := d.leg l
    let new := (r.goNew.filter fun x => x.ptag = e.ptag) ++ [e]
    d.setLeg l (if e.last then { r with goSet := new, goNew := [] } else { r with goNew := new })
  else if e.gen ≠ gen % 4 then d
  else
    let k := (d.coil c).tagged e.ptag
    if d.periodAt c k + e.offset < d.nowQ + 80 then
      let q := l / 16
      ((d.count (K.LATE_EDGES q)).raise (0x147 + 0x10 * q) d.nt).emit (.report q (.lateEdge (l % 16)) d.nt)
    else if k < (d.coil c).next then d
    else d.setLeg l { d.leg l with held := (d.leg l).held ++ [e] }

/-- EDGE_LETTER (R45, R253): an edge-letter flit received by the quarter. -/
def execEdgeLetter (q : Nat) (lane : Nat) (flit : Flit) (s : State) : Host.Outcome State Fault Refusal :=
  onDev s fun d =>
    let type := flitField flit 63 60
    match d.rxFlit q true lane type (flitCrcOk flit) (flitField flit 59 59 = 1) with
    | (false, d) => d
    | (true, d) => if type = 1 then d.takeEdge (16 * q + flitField flit 58 55) (flitEdge flit) else d

/-! ## Settings and mode changes (Table 8-9) -/

/-- A coil whose period boundary a setting of quarter q waits for: any coil of the quarter, for a leg setting one of the leg's axis (R86). -/
def settingFor (key c : Nat) : Bool :=
  if 0x5400 ≤ key / 256 then (key / 256 - 0x5400) / 64 = c / 2 && c % 2 = 0 else (key / 256 - 0x5000) / 0x40 = c / 8

/-- A setting takes effect in the quarter die; T_SW and TAILOR restart tailoring (R233),
FIXED_CODES acts on the codes (R235). -/
def Dev.applySetting (d : Dev) (q key value : Nat) : Dev :=
  let r := d.quarter q
  let d := d.setQuarter q { r with settings := Tab.put r.settings key value }
  let l := (key / 256 - 0x5400) / 16
  if key / 256 < 0x5400 then d
  else if key % 256 = 2 ∨ key % 256 = 3 then d.tailorReset l
  else if key % 256 = 4 then d.fixedCodes l
  else d

/-- The quarter die takes a setting: at the next period boundary of the coils concerned, at once where none of them runs (R86). -/
def Dev.takeSetting (d : Dev) (q key value : Nat) : Dev :=
  if (List.range 8).any fun j => settingFor key (8 * q + j) && (d.coil (8 * q + j)).running then
    let r := d.quarter q
    d.setQuarter q { r with settingsNew := Tab.put r.settingsNew key value }
  else d.applySetting q key value

/-- The settings that wait for a boundary of coil c take effect. -/
def Dev.settingsAt (d : Dev) (c : Nat) : Dev :=
  let q := c / 8
  let due := (d.quarter q).settingsNew.filter fun e => settingFor e.1 c
  let r := d.quarter q
  let d := d.setQuarter q { r with settingsNew := r.settingsNew.filter fun e => !settingFor e.1 c }
  due.foldl (fun d e => d.applySetting q e.1 e.2) d

/-- SETTING (R253): the quarter takes the value and acknowledges it. -/
def execSetting (q lane addr value : Nat) (crcOk err : Bool) (s : State) : Host.Outcome State Fault Refusal :=
  onDev s fun d =>
    match d.rxFlit q true lane 3 crcOk err with
    | (false, d) => d
    | (true, d) => (d.takeSetting q (settingKey q addr) value).emit (.settingAck q addr)

/-- A mode change taken by the quarter: leg enable (a leg disabled goes off, R229), lane selection, segment map entry (R410). -/
def Dev.takeMode (d : Dev) (q : Nat) : ModeChange → Dev
  | .legEnable leg on =>
    let l := 16 * q + leg
    let d := d.setLeg l { d.leg l with enabled := on }
    if on then d else (d.legOff l).dropLetters l
  | .laneSelect lane on => d.setBit (K.LANES q) lane on
  | .segmentMap leg output spare segment =>
    d.setField (K.SEGMAP (16 * q + leg) output) (8 * spare + 7) (8 * spare) (0x80 + segment)

/-- MODE_CHANGE (R253). -/
def execModeChange (q lane : Nat) (change : ModeChange) (crcOk err : Bool) (s : State) : Host.Outcome State Fault Refusal :=
  onDev s fun d =>
    match d.rxFlit q true lane 4 crcOk err with
    | (false, d) => d
    | (true, d) => d.takeMode q change

/-- SETTING_ACKNOWLEDGE (R253): the controller learns that a setting has been taken. -/
def execSettingAcknowledge (q lane addr : Nat) (crcOk err : Bool) (s : State) : Host.Outcome State Fault Refusal :=
  onDev s fun d =>
    match d.rxFlit q false lane 0xC crcOk err with
    | (false, d) => d
    | (true, d) =>
      let r := d.quarter q
      d.setQuarter q { r with acked := addr :: r.acked.filter (· ≠ addr) }

/-! ## Measurements and reports at the controller -/

/-- The coil that a channel of a quarter serves: channel 8 the coil that patching assigned to it, whose own channel is retired
(R15, R26, R409). -/
def Dev.channelCoil (d : Dev) (q ch : Nat) : Option Nat :=
  let j := d.rd (K.ADC_MAP q) % 16
  if ch = 8 then (if j < 8 then some (8 * q + j) else none)
  else if ch < 8 ∧ ch ≠ j then some (8 * q + ch)
  else none

/-- The turn of the spare channel's rotation at a device time (1/4 ns): 1 s each (Table 15-2). -/
def spareTurn (t : Nat) : Nat := t / 4000000000

/-- A turn of the spare channel of quarter q is over: its mean stands for the coil until the next one. -/
def Dev.closeTurn (d : Dev) (q now : Nat) : Dev :=
  let f := d.fray
  match Tab.find f.turn q with
  | some (k, sum, n) =>
    if k = now ∨ n = 0 then d
    else { d with fray := { f with turn := Tab.del f.turn q, turnMean := Tab.put f.turnMean (8 * q + k % 8) ((sum : Rat) / n) } }
  | none => d

/-- A sample of the spare channel of quarter q and one of the coil that it samples, of one instant, are compared: for the fray monitor
(R26), or for the ADC patch in progress (R409). -/
def Dev.pairSpare (d : Dev) (q : Nat) : Dev :=
  let f := d.fray
  match Tab.find f.spareAdc q with
  | none => d
  | some (x, t) =>
    let patch := Tab.find f.adc q
    let c := (patch.map (·.1)).getD (8 * q + spareTurn t % 8)
    match Tab.find f.ownAdc c with
    | none => d
    | some (y, t') =>
      if t ≠ t' then d
      else
        let d := { d with fray := { f with spareAdc := Tab.del f.spareAdc q } }
        if patch.isSome then
          let (sum, n) := (Tab.find f.adcSum q).getD ((0, 0) : Int × Nat)
          { d with fray := { d.fray with adcSum := Tab.put f.adcSum q (sum + (x - y), n + 1) } }
        else
          let d := d.closeTurn q (spareTurn t)
          let (_, sum, n) := (Tab.find d.fray.turn q).getD ((0, 0, 0) : Nat × Int × Nat)
          { d with fray := { d.fray with turn := Tab.put d.fray.turn q (spareTurn t, sum + (y - x), n + 1) } }

/-- ADC_SAMPLE (R26, R35): the sample goes to the slice that serves the coil, for its next job; one of an unassigned spare channel to the
fray monitor alone. -/
def execAdcSample (q lane ch : Nat) (code : Int) (ts : Nat) (crcOk err : Bool) (s : State) : Host.Outcome State Fault Refusal :=
  onDev s fun d =>
    match d.rxFlit q false lane 8 crcOk err with
    | (false, d) => d
    | (true, d) =>
      let x := (code, d.ntToQ ts)
      match d.channelCoil q ch with
      | some c =>
        let d := { d with fray := { d.fray with ownAdc := Tab.put d.fray.ownAdc c x } }
        (if (d.coil c).running then d.setCoil c { d.coil c with samples := (d.coil c).samples ++ [x] } else d).pairSpare q
      | none => if ch = 8 then { d with fray := { d.fray with spareAdc := Tab.put d.fray.spareAdc q x } }.pairSpare q else d

/-- The mean of the measured delays of two edge kinds (Table 8-11). -/
def meanDelay (t : Tab Nat) (a b : Nat) : Nat :=
  match Tab.find t a, Tab.find t b with
  | some x, some y => (x + y) / 2
  | some x, none => x
  | none, some y => y
  | none, none => 0

/-- LEG_MEASUREMENTS (R236): switching time, delay of an edge kind (0: none measured), and once per period the bootstrap voltage. -/
def execLegMeasurements (q lane : Nat) (m : LegMeasure) (crcOk err : Bool) (s : State) : Host.Outcome State Fault Refusal :=
  onDev s fun d =>
    match d.rxFlit q false lane 9 crcOk err with
    | (false, d) => d
    | (true, d) =>
      let l := 16 * q + m.leg
      let d := if m.tsw = 0 then d else if m.up then d.setField (K.TSW_MEAS l) 15 0 m.tsw else d.setField (K.TSW_MEAS l) 31 16 m.tsw
      let r := d.leg l
      let known := Tab.put r.known m.kind m.delay
      let d := if m.delay = 0 then d else
        ((d.setLeg l { r with known := known }).setBit (K.TAIL_FLAGS l) (8 + m.kind) true).wr (K.DELAYS l)
          (meanDelay known 0 1 % 2 ^ 16 + meanDelay known 2 3 % 2 ^ 16 * 2 ^ 16)
      match m.vbst with
      | some v => d.wr (K.VBST l) v
      | none => d

/-- PROTECTION_REPORT (R253): the report reaches the controller die. -/
def execProtectionReport (q lane : Nat) (kind : ReportKind) (nt : Nat) (crcOk err : Bool) (s : State) :
    Host.Outcome State Fault Refusal :=
  onDev s fun d =>
    match d.rxFlit q false lane 0xA crcOk err with
    | (false, d) => d
    | (true, d) =>
      let r := d.quarter q
      d.setQuarter q { r with reports := (kind, nt) :: r.reports.take 63 }

/-- REFRESH_REPORT (R243): the engine reconstructs from the reported refreshes. -/
def execRefreshReport (q lane leg nt : Nat) (crcOk err : Bool) (s : State) : Host.Outcome State Fault Refusal :=
  onDev s fun d =>
    match d.rxFlit q false lane 0xB crcOk err with
    | (false, d) => d
    | (true, d) =>
      let l := 16 * q + leg % 16
      let c := l / 2
      d.setCoil c { d.coil c with refreshes := (d.coil c).refreshes ++ [(l, d.ntToQ (4 * nt))] }

/-- The temperature of die 0 (controller) or 1 + q, 1/16 degC; the first of a die above 140 degC raises source 0x289 (R463). -/
def Dev.dieTemp (d : Dev) (die : Nat) (t : Int) : Dev :=
  let d := d.wrI 16 (if die = 0 then K.T_CTRL else K.TDIE (die - 1)) t
  let d := d.wrI 16 K.T_HOT (max (d.rdI 16 K.T_HOT) t)
  if t ≤ 2240 ∨ d.bit K.OT_FLAGS die then d else (d.setBit K.OT_FLAGS die true).raiseOn 0x289 d.nt

/-- QUARTER_STATUS (R253): die temperature and VGL_q. -/
def execQuarterStatus (q lane : Nat) (temp : Int) (vgl : Nat) (crcOk err : Bool) (s : State) : Host.Outcome State Fault Refusal :=
  onDev s fun d =>
    match d.rxFlit q false lane 0xD crcOk err with
    | (false, d) => d
    | (true, d) =>
      (d.wr (K.VGL q) vgl).dieTemp (1 + q) temp

/-! ## Lanes and timeouts (R255 to R257) -/

/-- CRC errors of a lane in the last millisecond, at both ends: what CRC_ERR counts (Table 8-15). -/
def Dev.laneCrcRate (d : Dev) (q lane : Nat) : Nat :=
  let n (toQ : Bool) := (((d.quarter q).lane toQ lane).crcTimes.filter fun t => d.now < t + 1000000).length
  n true + n false

/-- LANE_LOST (R255): 2 us without a valid flit, or more than 16 CRC errors in 1 ms. -/
def execLaneLost (q lane : Nat) (s : State) : Host.Outcome State Fault Refusal :=
  onDev s fun d =>
    let quiet := [true, false].any fun toQ => ((d.quarter q).lane toQ lane).lastValid + 2000 ≤ d.now + 7
    let rate := decide (16 < d.laneCrcRate q lane)
    if d.hasQuarter q ∧ (d.quarter q).trained ∧ lane < 3 ∧ d.bit (K.LANES q) lane ∧ (quiet ∨ rate) then
      let d := (d.setBit (K.LANES q) lane false).setBit (K.LANES q) (4 + lane) true
      let d := d.raise (0x146 + 0x10 * q) d.nt
      let d := d.quarterEvent q 0x0168 0x5002
        (le 1 lane ++ le 1 (if quiet then 1 else 2) ++ le 2 (d.rd (K.CRC_ERR q)) ++ le 8 d.nt)
      if lane < 2 then d.decidePatch 3 q lane 3 else d
    else d

/-- SEAM_TIMEOUT (R256): no valid flit on any lane for 2 us at the quarter: its safe state with cause 1, quarter fault kind 5. -/
def execSeamTimeout (q : Nat) (s : State) : Host.Outcome State Fault Refusal :=
  onDev s fun d =>
    if d.hasQuarter q ∧ (d.quarter q).trained ∧ d.seamQuiet q true 2000 ∧ ¬ (d.quarter q).causes.testBit 1 then
      let d := (d.safeEnter q 1).count (K.TIMEOUTS q)
      let d := d.setQuarter q { d.quarter q with flowSince := none }
      d.raiseOn (0x145 + 0x10 * q) d.nt
    else d

/-- CONTROLLER_SEAM_SILENCE (R256): no valid flit from a quarter for 2 us: the controller stops sending on its lanes and raises the
same fault. -/
def execControllerSeamSilence (q : Nat) (s : State) : Host.Outcome State Fault Refusal :=
  onDev s fun d =>
    let r := d.quarter q
    if d.hasQuarter q ∧ r.trained ∧ d.seamQuiet q false 2000 ∧ ¬ r.silent then
      (d.setQuarter q { r with silent := true }).raiseOn (0x145 + 0x10 * q) d.nt
    else d

/-- SEAM_RECOVERED (R257): valid flits have flowed for 10 us and still do; the cause clears, the safe state holds until its release, and the quarter takes NT
from the next valid heartbeat (R39). -/
def execSeamRecovered (q : Nat) (s : State) : Host.Outcome State Fault Refusal :=
  onDev s fun d =>
    let r := d.quarter q
    match r.flowSince with
    | some t =>
      if d.hasQuarter q ∧ r.causes.testBit 1 ∧ t + 10000 ≤ d.now + 7 ∧ ¬ d.seamQuiet q true 2000 then
        let d := d.setQuarter q { r with takeNt := true }
        (d.safeCauseOff q 1).raiseOff (0x145 + 0x10 * q)
      else d
    | none => d

/-! ## Periods at the franker (R58, R60, R171, R180, R181, R254) -/

/-- Ticks from the grid instant to coil c's period start (R181). -/
def Dev.stagger (d : Dev) (c : Nat) : Nat :=
  if d.rd (K.STAGGER (c / 8)) = 1 then 0 else c % 8 * d.rd (K.PERIOD (c / 8)) / 8

/-- The periods of the coils of axis n start to run, on the quarter's grid, which is set where the quarter becomes enabled (R180): the
grid instants are the multiples of P in NT, each taken at its tick or the first one after it. A coil's first period starts at the first instant of its own grid at or after the enable. -/
def Dev.startCoils (d : Dev) (n : Nat) : Dev :=
  let q := n / 4
  let p := d.rd (K.PERIOD q)
  let r := d.quarter q
  let d := if r.gridOn then d else
    let g := ceilDiv d.nt (8 * p) * (8 * p)
    (d.setQuarter q { r with gridOn := true, gridAt := d.ticks + ceilDiv (g - d.nt) 8 }).wr (K.GRID_NT q) g
  [2 * n, 2 * n + 1].foldl (fun d c =>
    let base := (d.quarter q).gridAt + d.stagger c
    let k := ceilDiv (d.ticks + p - base) p
    let d := d.setCoil c { running := true, next := k, nextAt := base + k * p - p }
    [2 * c, 2 * c + 1].foldl (fun d l => (d.dropLetters l).setLeg l { (d.dropLetters l).leg l with pattern := [], goRun := [] }) d) d

/-- The periods of the coils of axis n stop; the quarter's grid ends with its last enabled axis (R180). -/
def Dev.stopCoils (d : Dev) (n : Nat) : Dev :=
  let d := [2 * n, 2 * n + 1].foldl (fun d c => d.setCoil c { d.coil c with running := false, begun := false, job := none }) d
  if d.allDisabled ((quarterAxes (n / 4)).filter (· ≠ n)) then d.setQuarter (n / 4) { d.quarter (n / 4) with gridOn := false } else d

/-- The two legs of a coil. -/
def coilLegs (c : Nat) : List Nat := [2 * c, 2 * c + 1]

/-- A leg holds letters up to one with LAST for the period whose tag is given. -/
def Dev.setHeld (d : Dev) (l tag : Nat) : Bool := (d.leg l).held.any fun e => e.ptag = tag && e.last

/-- A go set up to its LAST letter is held for a leg. -/
def Dev.goHeld (d : Dev) (l : Nat) : Bool := (d.leg l).goSet.any (·.last)

/-- The verdict of R254 applies to coil c: its periods run, letters reach it, and a computed period was due before. -/
def Dev.commits (d : Dev) (c : Nat) : Bool :=
  let r := d.coil c
  r.begun && (coilLegs c).all (fun l => !d.legShut l) && d.regulates (c / 2)

/-- COMMIT_CHECK (R254): 20 ns before the next period of coil c starts, the franker must hold both legs' letters. -/
def execCommitCheck (c : Nat) (s : State) : Host.Outcome State Fault Refusal := gated s <|
  onDev s fun d =>
    let r := d.coil c
    if d.hasCoil c ∧ d.commits c ∧ r.complete = none ∧ 32 * r.nextAt ≤ d.nowQ + 31 + 80 then
      let ok := (coilLegs c).all fun l => d.setHeld l (r.next % 16)
      let d := d.setCoil c { r with complete := some ok }
      if ok ∨ r.goFrom.isSome then d
      else
        let q := c / 8
        ((d.count (K.INCOMPLETE q)).raise (0x147 + 0x10 * q) d.nt).emit (.report q (.incompleteSet c) d.nt)
    else d

/-- Values of the axis's current, load and rest objects take effect at a period boundary (R86): the RW configuration fields. -/
def effKeys (n : Nat) : List Nat :=
  [K.LIMIT_MODE n, K.EMF_GAIN n, K.I_RUN n, K.I_RUN_MIN n, K.I_REST n, K.V_OBS n, K.OBS_FILT n, K.STALL_EN n, K.THETA_STALL n,
   K.N_STALL n, K.KE_LOW n, K.STALL_REACT n, K.PLAY_STALL n, K.STR_EN n, K.STR_T0 n, K.STR_T1 n, K.STR_UP n, K.STR_DOWN n, K.T_REST n,
   K.T_REST_RAMP n, K.REST_WAKE n, K.CAP_EN n, K.CAP_STOP n, K.LOAD_EVT_EN n]

/-- The RW configuration fields of a quarter that the controller uses (R86, R196, R197). -/
def quarterEffKeys (q : Nat) : List Nat := [K.VBUS_UV q, K.VBUS_OV q]

/-- The objects of quarter q as landed now take effect, and the value of one in effect; where no coil of the quarter runs, as landed. -/
def Dev.latchQuarter (d : Dev) (q : Nat) : Dev :=
  d.setQuarter q { d.quarter q with eff := (quarterEffKeys q).map fun k => (k, d.rd k) }
def Dev.effQ (d : Dev) (q k : Nat) : Nat :=
  if (d.quarter q).gridOn then (Tab.find (d.quarter q).eff k).getD (d.rd k) else d.rd k

/-- The objects of axis n as landed now take effect. -/
def Dev.latchEff (d : Dev) (n : Nat) : Dev := d.setAxis n { d.axis n with eff := (effKeys n).map fun k => (k, d.rd k) }

/-- The value of an object in effect for axis n. -/
def Dev.eff (d : Dev) (n k : Nat) : Nat := (Tab.find (d.axis n).eff k).getD (d.rd k)

/-- The letters of one leg as actions at their instants. -/
def dueFrom (at_ : Nat) (l : List EdgeLet) : List (Nat × Nat × Nat) := l.map fun e => (at_ + e.offset, e.state, e.ctrl)

/-- A leg starts a period: with the letters of its tag, with its last pattern again, or with no letters. -/
def Dev.legPeriod (d : Dev) (l at_ tag : Nat) (computed held : Bool) : Dev :=
  let r := d.leg l
  let mine := r.held.filter fun e => e.ptag = tag
  let rest := r.held.filter fun e => e.ptag ≠ tag
  if computed then d.setLeg l { r with due := dueFrom at_ mine, pattern := mine, held := rest }
  else if held then d.setLeg l { r with due := dueFrom at_ r.pattern, held := rest }
  else d.setLeg l { r with pattern := [], held := rest }

/-- The edges of a leg's go set that fall into the period from at_ for p (1/4 ns), the go set taken at g: that period's pattern (R58). -/
def goEdges (l : List EdgeLet) (g at_ p : Nat) : List EdgeLet :=
  (l.filter fun e => at_ ≤ g + e.offset && g + e.offset < at_ + p).map fun e => { e with offset := g + e.offset - at_ }

/-- The part of a schedule from an offset on, for a length. -/
def Sched.window : Sched → Nat → Nat → Sched
  | [], _, _ => []
  | (t, b) :: rest, from_, len =>
    if t ≤ from_ then Sched.window rest (from_ - t) len
    else if t - from_ < len then (t - from_, b) :: Sched.window rest 0 (len - (t - from_))
    else [(len, b)]

/-- The end of a period that was the second held one in a row (R60): the axis fault and Faulted, its legs off. -/
def Dev.heldRunEnd (d : Dev) (c : Nat) : Dev :=
  let r := d.coil c
  let n := c / 2
  if r.heldNow ∧ 2 ≤ r.lateRun then
    ((d.setCoil c { r with lateRun := 0, heldNow := false }).raise (0x181 + 0x10 * n) d.nt).requestFault n false
  else d

/-- The leg measurements of a coil's legs at its period start (R236, Table 8-9): the newest of each edge kind, and the bootstrap voltage. A
flit of edge kind k carries the switching time of controlling code k (log 80). -/
def Dev.sendMeasures (d : Dev) (c : Nat) : Dev :=
  (coilLegs c).foldl (fun d l =>
    let r := d.leg l
    let flit (k : Nat) (v : Option Nat) : LegMeasure :=
      let (tm, code, up) := (Tab.find r.meas k).getD (0, 0, false)
      { leg := l % 16, kind := k, code := code, tsw := tm, delay := Tab.get 0 r.delays k, up := up, vbst := v }
    let more := [1, 2, 3].filter fun k => (Tab.find r.meas k).isSome || (Tab.find r.delays k).isSome
    let d := more.foldl (fun d k => d.emit (.measure (l / 16) (flit k none))) (d.emit (.measure (l / 16) (flit 0 (some r.bst))))
    d.setLeg l { d.leg l with meas := [] }) d

/-- A coil's next period starts (R181): computed, held (R58) or under a go set (R171). -/
def Dev.beginPeriod (d : Dev) (c : Nat) : Dev :=
  let n := c / 2
  let r := d.coil c
  let at_ := 32 * r.nextAt
  let p := d.rd (K.PERIOD (c / 8))
  let tag := r.next % 16
  let commits := d.commits c
  let computed := r.complete.getD ((coilLegs c).all fun l => d.setHeld l tag) && (coilLegs c).all (fun l => d.setHeld l tag && !d.legShut l)
  let inGo := match r.goFrom with
    | some g => !computed && decide (at_ < g + 64 * p)
    | none => false
  let held := commits && !computed && !inGo
  let g := r.goFrom.getD 0
  let d := (coilLegs c).foldl (fun d l =>
    if inGo then d.setLeg l { d.leg l with pattern := goEdges (d.leg l).goRun g at_ (32 * p) } else d.legPeriod l at_ tag computed held) d
  let posted := match r.posted with
    | some (k, sc) => if k = r.next then some sc else none
    | none => none
  let sched :=
    if inGo then Sched.window r.goSched (at_ - g) (32 * p)
    else if computed then posted.getD []
    else if held then r.computed
    else if (d.quarter (c / 8)).clamp.testBit (c % 8) then [(32 * p, 0)]
    else []
  let last := if computed then posted.getD [] else r.computed
  let i := (d.axis n).ident
  let test := computed && d.axState n = axIdentifying && i.testing && (i.point - 1) / 16 = c % 2
  let d := d.setCoil c { r with next := r.next + 1, testNow := test, nextAt := r.nextAt + p, begun := true, start := r.nextAt, complete := none,
                                heldNow := held, lateRun := if held then r.lateRun + 1 else 0,
                                goFrom := if inGo then r.goFrom else none, goSched := if inGo then r.goSched else [],
                                computed := last, posted := none, ran := { at_ := at_, sched := sched } :: r.ran.take 3 }
  let d := if held ∧ r.lateJob ≠ some r.next then { d with vcore := { d.vcore with held := true } } else d
  let d := ((d.patchPeriod c).settingsAt c).latchQuarter (c / 8)
  let d := if c % 2 = 0 then d else d.setAxis n { d.axis n with oldSlice := none }
  (if c % 2 = 0 then d.latchEff n else d).sendMeasures c

/-- The conditions of a prime of axis n hold (R169): Holding or Resting, no follow source engaged, its pattern valid. -/
def Dev.primeMay (d : Dev) (n : Nat) : Bool :=
  let v := d.rd (K.PRIME n)
  v.testBit 8 && (d.axState n = axHolding || d.axState n = axResting) && !d.bit (K.STATUS n) 8 && d.rd (K.STATE_3100 (v % 256)) = 1

/-- A prime whose conditions do not hold is suspended (R169): PRIMED reads 0 and the go sets of the axis are discarded. -/
def Dev.primeSuspend (d : Dev) (n : Nat) : Dev :=
  if d.primeMay n ∨ ¬ d.bit (K.PRIME n) 8 then d
  else (axisLegs n).foldl (fun d l => d.setLeg l { d.leg l with goSet := [], goNew := [] }) (d.setBit (K.PRIME n) 9 false)

/-- A prime is active from the start of the first period for which go sets of both coils are held, while its conditions hold (R169):
PRIMED of 0x3002. -/
def Dev.primeUpdate (d : Dev) (n : Nat) : Dev :=
  if d.primeMay n then d.setBit (K.PRIME n) 9 ((axisLegs n).all d.goHeld) else d.primeSuspend n

/-- PERIOD_START (R181): the next period of coil c starts. -/
def execPeriodStart (c : Nat) (s : State) : Host.Outcome State Fault Refusal := gated s <|
  onDev s fun d =>
    if d.hasCoil c ∧ (d.coil c).running ∧ (d.coil c).nextAt ≤ d.ticks then
      ((d.heldRunEnd c).beginPeriod c).primeUpdate (c / 2)
    else d

/-- A leg takes its go set from g: the remaining edges of its period end, letters of the older generation are discarded. -/
def Dev.goLeg (d : Dev) (l g : Nat) : Dev :=
  let r := d.leg l
  let c := d.coil (l / 2)
  let at_ := 32 * c.start
  let before := r.pattern.filter fun e => at_ + e.offset < g
  d.setLeg l { r with due := dueFrom g r.goSet, held := [], goSet := [], goRun := r.goSet,
                      pattern := before ++ goEdges r.goSet g at_ (32 * (c.nextAt - c.start)) }

/-- The schedule that a coil has executed ends at g and the go set's schedule follows (R171). -/
def Dev.goCoil (d : Dev) (c g : Nat) : Dev :=
  let r := d.coil c
  let ran := match r.ran with
    | x :: rest => { x with sched := Sched.window x.sched 0 (g - x.at_) ++ Sched.window r.goPosted 0 (32 * r.nextAt - g) } :: rest
    | [] => []
  d.setCoil c { r with goFrom := some g, goSched := r.goPosted, ran := ran, posted := none }

/-- The franker's part of a go of axis n at a device time (1/4 ns): both coils' remaining edges end, the go sets apply, the axis's go
generation rises (R171). -/
def Dev.goTake (d : Dev) (n at_ : Nat) : Dev :=
  let d := (axisLegs n).foldl (fun d l => d.goLeg l at_) d
  let d := [2 * n, 2 * n + 1].foldl (fun d c => d.goCoil c at_) d
  let d := d.setAxis n { d.axis n with goGen := ((d.axis n).goGen + 1) % 4 }
  d.setBit (K.PRIME n) 9 false

end Sys2Proof.Machine
end

