-- ==== Sys2Proof/Machine/Feedback.lean ====
section
/-! DEFINITION. Quadrature feedback and speed (chapter 09), switch inputs and position latching (chapter 10).
Conventions of the model: DEDUCED: log 46, 56, 87. -/

namespace Sys2Proof.Machine

def Dev.encRt (d : Dev) (n : Nat) : EncRt := (d.axis n).enc
def Dev.setEnc (d : Dev) (n : Nat) (e : EncRt) : Dev := d.setAxis n { d.axis n with enc := e }
def Dev.dec (d : Dev) (n : Nat) : DecRt := (d.axis n).enc.dec
def Dev.setDec (d : Dev) (n : Nat) (x : DecRt) : Dev := d.setEnc n { d.encRt n with dec := x }
def Dev.sw (d : Dev) (n : Nat) : SwitchRt := (d.axis n).sw
def Dev.setSw (d : Dev) (n : Nat) (x : SwitchRt) : Dev := d.setAxis n { d.axis n with sw := x }

/-! ## Count, position, validity (R265 to R267) -/

/-- The count ENC_CNT. -/
def Dev.encCnt (d : Dev) (n : Nat) : Int := d.rdI 64 (K.ENC_CNT n)

/-- The encoder position of a count: floor(count * 65,536 * ENC_NUM / ENC_DEN) (R267). -/
def Dev.encPosOf (d : Dev) (n : Nat) (c : Int) : Int :=
  c * (65536 * d.rd (K.ENC_NUM n) : Nat) / (d.rd (K.ENC_DEN n) : Nat)

/-- POS_VALID. -/
def Dev.posValid (d : Dev) (n : Nat) : Bool := d.bit (K.ENC_FLAGS n) 0

/-- A line fault on A or B stands. -/
def Dev.lineAB (d : Dev) (n : Nat) : Bool := d.bit (K.ENC_FLAGS n) 1 || d.bit (K.ENC_FLAGS n) 2

/-- The input of axis n decodes quadrature: mode 1 or 2, follow source not step/direction. -/
def Dev.quadrature (d : Dev) (n : Nat) : Bool := d.rd (K.IN_MODE n) ≠ 0 && d.rd (K.SRC n) ≠ 1

/-- An encoder event (Table 9-7). -/
def Dev.encEvent (d : Dev) (n type : Nat) (payload : Bytes) : Dev := d.axisEvent n type 0x4801 d.nt payload

/-- POS_VALID is noted as it stands from NT t on: the changes of the last 20 ms and the one before them are kept (log 46). -/
def Dev.noteValid (d : Dev) (n t : Nat) : Dev :=
  let r := d.encRt n
  let young (e : Nat × Bool) : Bool := t < e.1 + 20000000
  d.setEnc n { r with valid := (t, d.posValid n) :: (r.valid.takeWhile young ++ (r.valid.dropWhile young).take 1) }

/-- POS_VALID at an instant of NT (R290). -/
def Dev.validAt (d : Dev) (n t : Nat) : Bool :=
  let l := (d.encRt n).valid
  match l.find? fun e => e.1 ≤ t with
  | some e => e.2
  | none => match l.getLast? with
    | some e => !e.2
    | none => d.posValid n

/-- POS_VALID clears at NT t with a cause; while it is clear a further cause changes nothing (R265). -/
def Dev.encInvalid (d : Dev) (n cause t : Nat) : Dev :=
  if d.posValid n then
    let d := ((d.setBit (K.ENC_FLAGS n) 0 false).setField (K.ENC_FLAGS n) 11 8 cause).noteValid n t
    let d := d.setDec n { d.dec n with idxClean := false }
    d.encEvent n 0x0170 (le 1 cause ++ le 3 0 ++ le 8 d.nt)
  else d

/-- POS_VALID sets at NT t (cause 1 preset, 2 index, 3 homing), never while a line fault on A or B stands or in step/direction (R265,
R277); the event carries IDX_CORR, the last correction (R283). -/
def Dev.encValid (d : Dev) (n cause t : Nat) : Dev :=
  if d.posValid n ∨ d.lineAB n ∨ d.rd (K.SRC n) = 1 then d
  else
    let d := ((d.setBit (K.ENC_FLAGS n) 0 true).setField (K.ENC_FLAGS n) 11 8 0).noteValid n t
    d.encEvent n 0x0171 (le 1 cause ++ le 3 0 ++ le 4 (d.rd (K.IDX_CORR n)) ++ le 4 (d.rd (K.ENC_CNT n)))

/-- The count moved by an amount, with the counts of the kept edges and of the open latches. DEDUCED: log 46. -/
def Dev.encShift (d : Dev) (n : Nat) (by_ : Int) : Dev :=
  let x := d.dec n
  let mv (e : EdgeRec) : EdgeRec := { e with cnt := e.cnt + by_ }
  let d := (d.setDec n { x with hist := x.hist.map mv, edges := x.edges.map mv }).wrI 64 (K.ENC_CNT n) (d.encCnt n + by_)
  d.setSw n { d.sw n with openLatch := (d.sw n).openLatch.map fun (i, ts, ea) => (i, ts, mv ea) }

/-- A preset of the count at T_p = NT, by a write or by homing: PHASE_SET clears, the index check starts anew, no counted edge is held.
The sign of the last counted edge stays (R263), but no double transition is inferred before the next one (R264). -/
def Dev.encPreset (d : Dev) (n cause : Nat) (value : Int) : Dev :=
  let d := d.encShift n (value - d.encCnt n)
  let x := { d.dec n with edges := [], seen := false, preAt := d.nt, idxClean := false }
  let d := d.setEnc n { d.encRt n with dec := x, last := none }
  (d.setBit (K.ENC_FLAGS n) 6 false).encValid n cause d.nt

/-! ## The decoder (R263, R264, R274) -/

/-- The quadrature index of a state (A, B): 00, 10, 11, 01 are 0 to 3. -/
def quadIndex (a b : Bool) : Nat :=
  match a, b with
  | false, false => 0
  | true, false => 1
  | true, true => 2
  | false, true => 3

/-- Table 9-1: none for a double transition. -/
def quadStep (a b a' b' : Bool) : Option Int :=
  match (quadIndex a' b' + 4 - quadIndex a b) % 4 with
  | 0 => some 0
  | 1 => some 1
  | 3 => some (-1)
  | _ => none

/-- Edges kept: the last nine, and those of the last 100 us or 20 ms. -/
def keepEdges (t age : Nat) (l : List EdgeRec) : List EdgeRec := l.take 9 ++ (l.drop 9).filter fun e => t < e.t + age

/-- The history after a counted edge: it starts again at a reversing edge, which becomes its first edge, after standstill, and while
empty; a new one starts in the period method. -/
def DecRt.edge (x : DecRt) (e : EdgeRec) : DecRt :=
  let rev := x.sign ≠ 0 && e.step * x.sign < 0
  let fresh := rev || x.still
  { x with hist := if fresh then [e] else keepEdges e.t 100000 (e :: x.hist)
           edges := keepEdges e.t 20000000 (e :: x.edges)
           sign := if 0 < e.step then 1 else -1
           seen := true
           revAt := if rev then some e.t else x.revAt
           still := false
           count := x.count && !fresh
           holds := x.holds && !rev && x.hist.isEmpty
           idxClean := x.idxClean && !rev }

/-- A counted edge: TIMEOUT clears, the encoder timeout restarts at the edge's timestamp (R46, R273). One timestamped before the T_p of the
last preset is overwritten by it: the preset value stands, and the edges before it move back (R266). -/
def Dev.encEdge (d : Dev) (n : Nat) (step : Int) (t : Nat) : Dev :=
  let c := d.encCnt n + step
  let x := d.dec n
  let d := d.wrI 64 (K.ENC_CNT n) c
  let d := d.setEnc n { d.encRt n with dec := x.edge { t := t, cnt := c, step := step }, toSince := d.ntToQ (4 * t) / 4 }
  let d := d.setBit (K.ENC_FLAGS n) 4 false
  if t < x.preAt then
    let d := d.encShift n (-step)
    d.setDec n { d.dec n with edges := (d.dec n).edges.filter fun e => x.preAt ≤ e.t, seen := x.seen }
  else d

/-- R_max, counts/s (R262). -/
def Dev.rMax (d : Dev) (n : Nat) : Rat := 1000000000 / (max 25 ((d.rd (K.FILT n) + 2) * 4) : Nat)

/-- A double transition (R264): inferred as two counts in the sign of the last counted edge, or the count is lost; one before the T_p of
the last preset leaves POS_VALID as that preset set it (R266). -/
def Dev.encDouble (d : Dev) (n t : Nat) : Dev :=
  let d := d.count (K.DOUBLE_CNT n)
  let x := d.dec n
  if d.bit (K.DEC_CFG n) 1 ∧ x.seen ∧ d.rMax n / 2 ≤ rabs (d.rdI 32 (K.ENC_CPS n)) then
    (d.encEdge n (2 * x.sign) t).count (K.INFERRED n)
  else
    let d := d.setDec n { x with hist := [], holds := true, count := false }
    (if t < x.preAt then d else d.encInvalid n 1 t).raise (0x186 + 0x10 * n) d.nt

/-! ## Switch latches (R289, R290) -/

/-- The commanded position of axis n at an instant of NT, 1/65,536 ust, exact against the register (R289). -/
def Dev.posAt (d : Dev) (n ts : Nat) : Int :=
  let m := d.mot n
  let (t0, p0, r0, v) := ((m.path.find? fun e => e.1 ≤ ts).orElse fun _ => m.path.getLast?).getD (ts, m.pos.toInt, m.rem, 0)
  let j := (ts - t0) / 8
  let at_ (j : Nat) : Int := p0 + ((r0 : Int) + v * 2 ^ 31 * (j : Int)) / 1000000000
  rfloor (((at_ j : Int) + ((at_ (j + 1) - at_ j : Int) : Rat) * ((ts - t0) % 8 : Nat) / 8) / 65536)

/-- The latch of an input takes an encoder position. -/
def Dev.latchEnc (d : Dev) (n i : Nat) (e : Int) (held : Bool) : Dev :=
  let d := d.wrI 64 (K.LATCH_ENC n i) e
  let d := (d.setBit (K.LATCH_FLAGS n i) 1 true).setBit (K.LATCH_FLAGS n i) 2 held
  d.setSw n { d.sw n with openLatch := Tab.del (d.sw n).openLatch i }

/-- Completion of a latch between e_a and the first counted edge after t_s: interpolated, or held where that edge reverses. -/
def Dev.latchBetween (d : Dev) (n i ts : Nat) (ea eb : EdgeRec) : Dev :=
  if eb.step * ea.step < 0 then d.latchEnc n i (d.encPosOf n ea.cnt) true
  else
    let pa := d.encPosOf n ea.cnt
    let pb := d.encPosOf n eb.cnt
    let e : Rat := (pa : Rat) + ((pb - pa : Int) : Rat) * ((ts - ea.t : Nat) : Rat) / ((eb.t - ea.t : Nat) : Rat)
    d.latchEnc n i (rfloor e) false

/-- A counted edge completes the open latches of its axis, held where it comes over 10 ms after t_s; one accepted late, at or before t_s,
is their e_a. -/
def Dev.completeLatches (d : Dev) (n : Nat) : Dev :=
  match (d.dec n).edges with
  | eb :: _ => (d.sw n).openLatch.foldl (fun (d : Dev) (i, ts, ea) =>
      if ts + 10000000 < eb.t then d.latchEnc n i (d.encPosOf n ea.cnt) true
      else if ts < eb.t then d.latchBetween n i ts ea eb
      else d.setSw n { d.sw n with openLatch := Tab.put (d.sw n).openLatch i (ts, eb) }) d
  | [] => d

/-- The decoder as it was before its last transition, the first half of a double transition: its count, its encoder timeout and the
latches that it completed. -/
def Dev.unstep (d : Dev) (n : Nat) (l : LastStep) : Dev :=
  let d := (d.wrI 64 (K.ENC_CNT n) l.cnt).setBit (K.ENC_FLAGS n) 4 l.timeout
  let d := d.setEnc n { d.encRt n with dec := l.dec, toSince := l.toSince }
  l.opened.foldl (fun (d : Dev) (i, x) =>
    let d := if (Tab.find (d.sw n).openLatch i).isSome then d
      else (d.setBit (K.LATCH_FLAGS n i) 1 false).setBit (K.LATCH_FLAGS n i) 2 false
    d.setSw n { d.sw n with openLatch := Tab.put (d.sw n).openLatch i x }) d

/-- An accepted transition of A or B is decoded (Table 9-1). -/
def Dev.decodeAB (d : Dev) (n : Nat) (lineB level : Bool) (ts : Nat) : Dev :=
  let x := d.dec n
  let (a', b') := if lineB then (x.a, level) else (level, x.b)
  let d := match (d.encRt n).last with
    | some l => if l.t = ts ∧ l.lineB ≠ lineB then d.unstep n l else d
    | none => d
  let r := d.encRt n
  let prior : LastStep := { t := ts, lineB := lineB, dec := r.dec, cnt := d.encCnt n, toSince := r.toSince
                            timeout := d.bit (K.ENC_FLAGS n) 4, opened := (d.sw n).openLatch }
  let d := d.setEnc n { r with dec := { r.dec with a := a', b := b' }, last := some prior }
  if ¬ d.quadrature n ∨ d.lineAB n then d
  else
    match quadStep r.dec.a r.dec.b a' b' with
    | some 0 => d
    | some k => (d.encEdge n (if d.bit (K.DEC_CFG n) 0 then -k else k) ts).completeLatches n
    | none => (d.encDouble n ts).completeLatches n

/-- The pin sampler accepts a level seen on FILT + 1 consecutive samples (R261). -/
def Dev.accepts (d : Dev) (n run : Nat) : Bool := d.rd (K.FILT n) < run

/-! ## Index (R269 to R271) -/

/-- The count nearest to c that is congruent to phase modulo m; on a tie the lower (R270). -/
def nearestPhase (c : Int) (phase m : Nat) : Int :=
  let r := (c - phase) % m
  if 2 * r ≤ m then c - r else c + (m - r)

/-- An index that counts: the phase correction, the latch, the phase taken, the span check. DEDUCED (R270 speaks of the first index after a
preset): the index after a write of LINES, which clears PHASE_SET, with POS_VALID set stores the phase again (log 87). -/
def Dev.takeIndex (d : Dev) (n ts : Nat) : Dev :=
  let lines := d.rd (K.LINES n)
  let valid := d.posValid n
  let clean := (d.dec n).idxClean && valid
  let move : Bool := !valid && d.bit (K.ENC_FLAGS n) 6 && !d.lineAB n && lines ≠ 0
  let corr := if move then nearestPhase (d.encCnt n) (d.rd (K.IDX_PHASE n)) (4 * lines) - d.encCnt n else 0
  let d := if move then ((d.encShift n corr).wrI 32 (K.IDX_CORR n) corr).encValid n 2 ts else d
  let c := d.encCnt n
  let span := c - d.rdI 64 (K.IDX_CNT n)
  let d := d.wrs [(K.IDX_CNT n, enc 64 c), (K.IDX_NT n, ts), (K.IDX_SPAN n, enc 64 span)]
  let d := if valid ∧ lines ≠ 0 ∧ ¬ d.bit (K.ENC_FLAGS n) 6 then
      (d.wr (K.IDX_PHASE n) (c % (4 * lines : Nat)).toNat).setBit (K.ENC_FLAGS n) 6 true
    else d
  let off := ((span.natAbs : Int) - (4 * lines : Nat)).natAbs
  let d := if lines ≠ 0 ∧ clean ∧ d.rd (K.ZTOL n) < off then
      let d := (d.count (K.IDX_ERR n)).encInvalid n 3 ts
      let d := d.raise (0x187 + 0x10 * n) d.nt
      d.encEvent n 0x0172 (le 4 (enc 32 span) ++ le 3 lines ++ le 1 0 ++ le 4 ts)
    else d
  d.setDec n { d.dec n with idxClean := d.posValid n }

/-- The approach of a homing method that takes an index finds its reference: the first index of the approach, by timestamps after the
active edge of its switch where it has one (R46, Table 10-3). -/
def Dev.homeFind (d : Dev) (n : Nat) : Dev :=
  let h := (d.axis n).home
  let m := d.rd (K.METHOD n)
  let switch := if m = 5 then some 1 else if m = 6 then some 0 else if m = 7 ∨ m = 8 then some 2 else none
  let after (ts : Nat) : Bool := match switch with
    | some i => d.bit (K.SW_STATE n) i && decide (d.rd (K.LATCH_NT n i) < ts)
    | none => true
  if h.running ∧ h.phase = 3 ∧ ¬ h.stopping ∧ h.found.isNone ∧ 5 ≤ m ∧ m ≤ 10 then
    d.setAxis n { d.axis n with home := { h with found := (h.seen.find? fun e => after e.1).map (·.2) } }
  else d

/-- An index of the approach of homing. -/
def Dev.homeIndex (d : Dev) (n ts : Nat) : Dev :=
  let h := (d.axis n).home
  let e := (ts, d.posAt n ts, d.encPosOf n (d.rdI 64 (K.IDX_CNT n)))
  if h.running ∧ h.phase = 3 then
    (d.setAxis n { d.axis n with home := { h with seen := h.seen ++ [e] } }).homeFind n
  else d

/-- The index that waits is taken, with the state that the transitions of its timestamp have left (R269). -/
def Dev.takeZ (d : Dev) (n : Nat) : Dev :=
  match (d.encRt n).zAt with
  | none => d
  | some ts =>
    let d := d.setEnc n { d.encRt n with zAt := none }
    let x := d.dec n
    if d.quadrature n ∧ (¬ d.bit (K.DEC_CFG n) 3 ∨ (x.a ∧ x.b)) then (d.takeIndex n ts).homeIndex n ts else d

/-- The index that waits is taken before an input of a later timestamp. -/
def Dev.takeZBefore (d : Dev) (n ts : Nat) : Dev :=
  match (d.encRt n).zAt with
  | some t => if t < ts then d.takeZ n else d
  | none => d

/-- Every index that waits is taken: at the end of the tick. -/
def Dev.takeZs (d : Dev) : Dev := d.axes.foldl (fun (d : Dev) (n, _) => d.takeZ n) d

/-- ENCODER_TRANSITION (R261, R263): a transition of A or B, seen on `run` consecutive samples, with the timestamp of the first. -/
def execEncoderTransition (n : Nat) (lineB level : Bool) (ts run : Nat) (s : State) : Host.Outcome State Fault Refusal := sliced s <|
  onDev s fun d => if d.hasAxis n ∧ d.accepts n run then (d.takeZBefore n ts).decodeAB n lineB level ts else d

/-- INDEX (R261, R269): a transition of Z, seen on `run` consecutive samples; one to the active level is an index, which the decoder takes
at the end of the tick, after the A and B transitions of its timestamp. -/
def execIndex (n : Nat) (level : Bool) (ts run : Nat) (s : State) : Host.Outcome State Fault Refusal := sliced s <|
  onDev s fun d =>
    if d.hasAxis n ∧ d.accepts n run ∧ (d.encRt n).z ≠ some level then
      let d := d.takeZ n
      let on := d.quadrature n && !d.bit (K.ENC_FLAGS n) 3 && level != d.bit (K.DEC_CFG n) 2
      d.setEnc n { d.encRt n with z := some level, zAt := if on then some ts else none }
    else d

/-! ## Line checks and the encoder timeout (R272, R273) -/

/-- LINE_FAULT (R272): the condition of line 0 A, 1 B, 2 Z has been present for `held` ns, continuously. -/
def execLineFault (n line held : Nat) (s : State) : Host.Outcome State Fault Refusal := lined s <|
  onDev s fun d =>
    let covered := d.rd (K.IN_MODE n) ≠ 0 ∧ line < (if d.rd (K.SRC n) = 1 then 2 else 3) ∧ 1000 ≤ held
    if d.hasAxis n ∧ covered ∧ ¬ d.bit (K.ENC_FLAGS n) (1 + line) then
      let d := (d.setBit (K.ENC_FLAGS n) (1 + line) true).raiseOn (0x188 + 0x10 * n) d.nt
      let d := d.encEvent n 0x0173 (le 1 line ++ le 3 0 ++ le 8 d.nt)
      if line < 2 then d.encInvalid n 2 d.nt else d
    else d

/-- LINE_RESTORED (R272): the line has been healthy for `held` ns. -/
def execLineRestored (n line held : Nat) (s : State) : Host.Outcome State Fault Refusal := lined s <|
  onDev s fun d =>
    if d.hasAxis n ∧ line < 3 ∧ 1000000 ≤ held ∧ d.bit (K.ENC_FLAGS n) (1 + line) then
      let d := d.setBit (K.ENC_FLAGS n) (1 + line) false
      let d := if field (d.rd (K.ENC_FLAGS n)) 3 1 = 0 then d.raiseOff (0x188 + 0x10 * n) else d
      d.encEvent n 0x0174 (le 1 line ++ le 3 0 ++ le 8 d.nt)
    else d

/-- The encoder timeout runs: |CMD_VEL| at least V_EXPECT, quadrature decoding (R273). -/
def Dev.encTimed (d : Dev) (n : Nat) : Bool :=
  d.rd (K.V_EXPECT n) ≠ 0 && d.quadrature n && decide (d.rd (K.V_EXPECT n) ≤ (d.rdI 32 (K.CMD_VEL n)).natAbs)

/-- ENCODER_TIMEOUT (R273). -/
def execEncoderTimeout (n : Nat) (s : State) : Host.Outcome State Fault Refusal := gated s <|
  onDev s fun d =>
    if d.hasAxis n ∧ d.encTimed n ∧ ¬ d.bit (K.ENC_FLAGS n) 4 ∧ (d.encRt n).toSince + 1000 * d.rd (K.ENC_TO n) ≤ d.now + 7 then
      let d := ((d.setBit (K.ENC_FLAGS n) 4 true).encInvalid n 4 d.nt).raise (0x189 + 0x10 * n) d.nt
      d.encEvent n 0x0175 (le 4 (d.rd (K.CMD_VEL n)) ++ le 8 d.nt)
    else d

/-! ## Speed (R274 to R276) -/

/-- The period method (R275): counts/s from the latest edge and the edge k counts earlier. DEDUCED: where an inferred double transition
leaves no edge exactly k counts earlier, the first edge at least k counts earlier, with the counts between the two (log 87). -/
def periodSpeed (t : Nat) (hist : List EdgeRec) : Rat :=
  match hist, hist.getLast? with
  | e :: rest, some first =>
    let k := min 4 ((e.cnt - first.cnt).natAbs)
    let o := (rest.find? fun x => k ≤ (e.cnt - x.cnt).natAbs).getD first
    let v : Rat := ((e.cnt - o.cnt : Int) : Rat) * 1000000000 / ((e.t - o.t : Nat) : Rat)
    let gap : Rat := ((t - e.t : Nat) : Rat)
    if 1000000000 < gap * rabs v then rsign v * 1000000000 / gap else v
  | _, _ => 0

/-- The count method over the edges of a window (R276). -/
def countSpeed (win : List EdgeRec) : Rat :=
  match win, win.getLast? with
  | e :: _, some o => ((e.cnt - o.cnt : Int) : Rat) * 1000000000 / ((e.t - o.t : Nat) : Rat)
  | _, _ => 0

/-- A number truncated toward zero and saturated at the INT32 limits. -/
def sat32 (x : Rat) : Int := clampI (-(2 ^ 31)) (2 ^ 31 - 1) (rtrunc x)

/-- SPEED_UPDATE (R275): the estimate at a cadence instant from the edges timestamped before it. DEDUCED: an estimate that R274 holds stays
held when T_STILL passes (log 87). -/
def Dev.speedUpdate (d : Dev) (n t : Nat) : Dev :=
  let r := d.encRt n
  let x := r.dec
  let hist := x.hist.filter fun e => e.t < t
  let win := hist.filter fun e => t < e.t + 100000
  let rev : Bool := match x.revAt with
    | some t' => decide (t < t' + 100000)
    | none => false
  let count := if x.count then decide (4 < win.length) && !rev else decide (8 ≤ win.length) && !rev
  let still : Bool := match hist with
    | e :: _ => x.still || decide (1000000 * d.rd (K.T_STILL n) ≤ t - e.t)
    | [] => x.still
  let held := x.holds && decide (hist.length < 2)
  let v : Rat := if held then r.v else if hist.length < 2 ∨ still then 0 else if count then countSpeed win else periodSpeed t hist
  let method := if held ∨ v = 0 then 0 else if count then 2 else 1
  let d := d.setEnc n { r with v := v, dec := { x with count := count, still := still } }
  let vel : Rat := v * 16 * d.rd (K.ENC_NUM n) / d.rd (K.ENC_DEN n)
  let d := (d.wrI 32 (K.ENC_CPS n) (sat32 v)).wrI 32 (K.ENC_VEL n) (sat32 vel)
  let d := d.wrs [(K.SPD_METHOD n, method), (K.SPD_NT n, t)]
  if d.encTimed n then d else d.setEnc n { d.encRt n with toSince := d.now }

/-! ## Step and direction (R123, R277) -/

/-- STEP_EDGE (R123, R261): a STEP edge, seen on `run` consecutive samples, counts at its timestamp, where EDGE selects it. -/
def execStepEdge (n : Nat) (rising : Bool) (ts run : Nat) (s : State) : Host.Outcome State Fault Refusal := sliced s <|
  onDev s fun d =>
    let cfg := d.rd (K.STEP_CFG n)
    let chosen := cfg % 4 = 2 || (if rising then cfg % 4 = 0 else cfg % 4 = 1)
    if d.hasAxis n ∧ d.rd (K.SRC n) = 1 ∧ d.rd (K.IN_MODE n) ≠ 0 ∧ d.accepts n run then
      let x := d.dec n
      let d := d.setDec n { x with a := rising }
      if chosen ∧ ¬ d.lineAB n then
        let m := d.mot n
        let up := x.b == cfg.testBit 2
        d.setMot n { m with follow := { m.follow with steps := (ts, if up then 1 else -1) :: m.follow.steps } }
      else d
    else d

/-! ## Switch inputs (R284, R288 to R290) -/

/-- An input is active: its accepted level inverted by its POL bit. -/
def Dev.switchActive (d : Dev) (n i : Nat) : Bool := (d.sw n).levels.testBit i != d.bit (K.SW_CFG n) i

/-- Limit i (0 LIMP, 1 LIMN) is enabled and active; accepted before t where t is given. -/
def Dev.limitOn (d : Dev) (n i t : Nat) : Bool :=
  d.bit (K.SW_CFG n) (4 + i) && d.switchActive n i && decide (Tab.get 0 (d.sw n).since i < t)

/-- SW_STATE follows the inputs; LIM_BOTH sets with event 0x0182 (R288), but for starting levels, which make no event (R284). -/
def Dev.switchState (d : Dev) (n : Nat) (start : Bool) : Dev :=
  let act (i : Nat) : Bool := d.switchActive n i
  let both := d.bit (K.SW_CFG n) 4 && d.bit (K.SW_CFG n) 5 && act 0 && act 1
  let was := d.bit (K.SW_STATE n) 3
  let d := [0, 1, 2].foldl (fun d i => d.setBit (K.SW_STATE n) i (act i)) d
  let d := d.setBit (K.SW_STATE n) 3 both
  if both ∧ ¬ was ∧ ¬ start then d.axisEvent n 0x0182 0x4804 d.nt (le 4 0 ++ le 8 d.nt) else d

/-- The count that the decoder held at an instant of NT, from the edges kept. -/
def Dev.cntAt (d : Dev) (n ts : Nat) : Int :=
  let edges := (d.dec n).edges
  match edges.find? fun e => e.t ≤ ts, edges.getLast? with
  | some ea, _ => ea.cnt
  | none, some e => e.cnt - e.step
  | none, none => d.encCnt n

/-- The encoder position of a new latch (R290). -/
def Dev.latchStart (d : Dev) (n i ts : Nat) : Dev :=
  let at_ := d.encPosOf n (d.cntAt n ts)
  let d := d.wrI 64 (K.LATCH_ENC n i) at_
  if ¬ d.validAt n ts ∨ d.rd (K.IN_MODE n) = 0 then d
  else
    let edges := (d.dec n).edges
    match edges.find? (fun e => e.t ≤ ts), (edges.filter fun e => ts < e.t).getLast? with
    | none, _ => d.latchEnc n i at_ true
    | some ea, some eb => if ts + 10000000 < eb.t then d.latchEnc n i at_ true else d.latchBetween n i ts ea eb
    | some ea, none => d.setSw n { d.sw n with openLatch := Tab.put (d.sw n).openLatch i (ts, ea) }

/-- SWITCH_TRANSITION (R284, R289): input 0 LIMP, 1 LIMN, 2 HOME has a new level, with the timestamps of the first contact and of the
stable run; it is accepted once that run has lasted SW_FILT. A level that is accepted already is no transition, and one that broke the
level of the start before it had lasted SW_FILT is the starting level. -/
def execSwitchTransition (n input : Nat) (level : Bool) (tsFirst tsLast : Nat) (s : State) : Host.Outcome State Fault Refusal := sliced s <|
  onDev s fun d =>
    let w := d.sw n
    let filt := 1000 * d.rd (K.SW_FILT n)
    let w' := { w with levels := withBit w.levels input level, since := Tab.put w.since input d.nt, started := withBit w.started input true }
    if ¬ d.hasAxis n ∨ 3 ≤ input ∨ d.nt + 7 < tsLast + filt ∨ w.levels.testBit input = level then d
    else if ¬ w.started.testBit input ∧ tsFirst < w.startNt + filt then (d.setSw n w').switchState n true
    else
      let ts := if d.bit (K.SW_CFG n) 7 then tsFirst else tsLast
      let d := (d.setSw n w').switchState n false
      let act := d.switchActive n input
      let over_ := (Tab.find w.openLatch input).isSome
      let d := d.setSw n { d.sw n with openLatch := Tab.del w.openLatch input }
      let d := d.wrs [(K.LATCH_NT n input, ts), (K.LATCH_CMD n input, enc 64 (d.posAt n ts)),
        (K.LATCH_FLAGS n input, act.toNat + 8 * over_.toNat)]
      let d := d.latchStart n input ts
      let v := d.rdI 32 (K.CMD_VEL n)
      let away := if input = 0 then decide (v < 0) else decide (0 < v)
      let d := d.homeFind n
      if act ∧ input < 2 ∧ d.bit (K.SW_CFG n) (4 + input) ∧ away then
        d.axisEvent n 0x0181 0x4804 d.nt (le 1 input ++ le 3 0 ++ le 8 d.nt)
      else d

/-- LATCH_TIMEOUT (R290): no counted edge within 10 ms; the latch takes E(e_a), held. -/
def execLatchTimeout (n input : Nat) (s : State) : Host.Outcome State Fault Refusal := gated s <|
  onDev s fun d =>
    match Tab.find (d.sw n).openLatch input with
    | some (ts, ea) => if d.hasAxis n ∧ ts + 10000000 ≤ d.nt + 7 then d.latchEnc n input (d.encPosOf n ea.cnt) true else d
    | none => d

end Sys2Proof.Machine
end

