-- ==== Sys2Proof/Machine/Emulation.lean ====
section
/-! DEFINITION. Encoder emulation outputs (chapter 09, R278 to R282).
Conventions of the model: DEDUCED: log 30, 56, 87. -/

namespace Sys2Proof.Machine

def Dev.emuRt (d : Dev) (m : Nat) : EmuRt := Tab.get {} d.emu m
def Dev.setEmu (d : Dev) (m : Nat) (r : EmuRt) : Dev := { d with emu := Tab.put d.emu m r }

/-- The emulation outputs of the part (Table 0-2). -/
def Dev.hasEmu (d : Dev) (m : Nat) : Bool := d.part.full && m < 4

/-- Step/direction mode of an output. -/
def Dev.emuStep (d : Dev) (m : Nat) : Bool := d.bit (K.OUT_CFG m) 0

/-- round(x) = floor(x + 1/2) of a quotient (R278). -/
def roundDiv (num : Int) (den : Nat) : Int := (2 * num + den) / (2 * den : Nat)

/-- One ball of an output driven. -/
def Dev.emuDrive (d : Dev) (m ball : Nat) (level : Bool) : Dev :=
  let r := d.emuRt m
  let was := if ball = 0 then r.ema else if ball = 1 then r.emb else r.emz
  if was = level then d
  else
    let r := if ball = 0 then { r with ema := level } else if ball = 1 then { r with emb := level } else { r with emz := level }
    (d.setEmu m r).emit (.emuBall m ball level)

/-- EMZ follows the count shown (R280). -/
def Dev.emuZ (d : Dev) (m : Nat) : Dev :=
  let on := d.bit (K.OUT_CFG m) 2 && (d.emuRt m).shown % (d.rd (K.ZPER m) : Nat) = 0
  d.emuDrive m 2 (on && d.rd (K.EMU_EN m) = 1)

/-- The balls at a count in quadrature: 0 00, 1 10, 2 11, 3 01 (R280). -/
def Dev.emuQuad (d : Dev) (m : Nat) (c : Int) : Dev :=
  let i := c % 4
  (d.emuDrive m 0 (i = 1 || i = 2)).emuDrive m 1 (i = 2 || i = 3)

/-- EMULATION_EDGE (R279): the next edge of output m that is due. -/
def execEmulationEdge (m : Nat) (s : State) : Host.Outcome State Fault Refusal := served s <|
  onDev s fun d =>
    match (d.emuRt m).edges with
    | (t, what, x) :: rest =>
      if d.hasEmu m ∧ t ≤ d.nowQ + 31 then
        let d := d.setEmu m { d.emuRt m with edges := rest }
        match what with
        | 0 =>
          let d := d.setEmu m { d.emuRt m with shown := x }
          let d := if d.emuStep m then d.emuDrive m 0 true else d.emuQuad m x
          d.emuZ m
        | 1 => d.emuDrive m 0 false
        | _ => d.emuDrive m 1 (x ≠ 0)
      else d
    | [] => d

/-- EMU_EN = 1 (R278): c0 and s0 are taken at the next cadence. The balls show the count in quadrature (R280); in step/direction STEP is
low, and the first count moves EMB where it does not show its sign yet. DEDUCED: log 87. -/
def Dev.emuOn (d : Dev) (m : Nat) : Dev :=
  let r := d.emuRt m
  let d := (d.setEmu m { r with take := true, wait := 0, sign := if r.emb then -1 else 1 }).setBit (K.EMU_FLAGS m) 0 true
  if d.emuStep m then d.emuDrive m 0 false else d.emuQuad m r.shown

/-- EMU_EN = 0 (R282): the output stops emitting and discards its lag; STEP and EMZ go low. The count is that of the balls. -/
def Dev.emuOff (d : Dev) (m : Nat) : Dev :=
  let r := d.emuRt m
  let d := d.setEmu m { r with edges := [], take := false }
  let d := d.wrs [(K.EMU_CNT m, enc 64 r.shown), (K.EMU_LAG m, 0), (K.EMU_FLAGS m, 0)]
  let d := if d.emuStep m then d.emuDrive m 0 false else d
  d.emuDrive m 2 false

/-- The largest number of counts of this cadence, and the cadences without a count that follow one (R279). -/
def Dev.emuMax (d : Dev) (m : Nat) : Nat × Nat :=
  let w := d.rd (K.PULSE_W m)
  if ¬ d.emuStep m then (20, 0)
  else if w ≤ 500 then (min 20 (500 / w), 0)
  else (1, ceilDiv (2 * w) 1000 - 1)

/-- Counts scheduled: n of them with sign sg, edge i at base + i * 1,000 ns / n (device time, 1/4 ns). -/
def Dev.emuSchedule (d : Dev) (m : Nat) (c : Int) (n : Nat) (sg : Int) (base : Nat) : Dev :=
  let r := d.emuRt m
  let at_ (i : Nat) : Nat := base + (2 * i * 4000 + n) / (2 * n)
  let step := d.emuStep m
  let w := 4 * d.rd (K.PULSE_W m)
  let turn : List (Nat × Nat × Int) := if step ∧ sg ≠ r.sign then [(at_ 1 - 100, 2, if sg < 0 then 1 else 0)] else []
  let counts : List (Nat × Nat × Int) := (List.range n).flatMap fun i =>
    (at_ (i + 1), 0, c + sg * ((i : Int) + 1)) :: (if step then [(at_ (i + 1) + w, 1, 0)] else [])
  (d.setEmu m { r with edges := r.edges ++ turn ++ counts, sign := if n = 0 then r.sign else sg }).wrI 64 (K.EMU_CNT m) (c + sg * n)

/-- EMULATION_CADENCE (R279) of one output at a cadence: the target from the value published one cadence before, and up to N edges.
DEDUCED: INV negates the rounded term (R278; log 87). -/
def Dev.emuCadence (d : Dev) (m : Nat) (b : BusVal) (t : Nat) : Dev :=
  let enc0 := d.rd (K.KIND m) = 0
  let src := if enc0 then b.cnt else b.pos
  let r := d.emuRt m
  let c := d.rdI 64 (K.EMU_CNT m)
  if enc0 ∧ ¬ b.encOk then
    let d := (d.setEmu m { r with take := true, edges := [] }).wrs [(K.EMU_CNT m, enc 64 r.shown), (K.EMU_LAG m, 0)]
    let d := d.setBit (K.EMU_FLAGS m) 2 false
    if d.bit (K.EMU_FLAGS m) 1 then d
    else
      (d.setBit (K.EMU_FLAGS m) 1 true).event 0x33 0x0178 (0x4C00 + 0x10 * m) d.nt (le 1 (d.rd (K.AXIS m)) ++ le 3 0 ++ le 8 d.nt)
  else
    let d := d.setBit (K.EMU_FLAGS m) 1 false
    let r := if r.take then { r with take := false, c0 := c, s0 := src } else r
    let diff := roundDiv ((src - r.s0) * (d.rd (K.NUM m) : Nat)) (d.rd (K.DEN m) * (if enc0 then 1 else 65536))
    let target := if d.bit (K.OUT_CFG m) 1 then r.c0 - diff else r.c0 + diff
    let (most, pause) := d.emuMax m
    let n := if r.wait = 0 then min most (target - c).natAbs else 0
    let sg : Int := if target < c then -1 else 1
    let d := d.setEmu m { r with wait := if n = 0 then r.wait - 1 else pause }
    let d := (d.emuSchedule m c n sg (d.ntToQ (4 * (t + 1000)))).emuZ m
    let lag := target - d.rdI 64 (K.EMU_CNT m)
    let d := d.wrI 32 (K.EMU_LAG m) (clampI (-(2 ^ 31)) (2 ^ 31 - 1) lag)
    if 64 < lag.natAbs ∧ ¬ d.bit (K.EMU_FLAGS m) 2 then
      let d := (d.setBit (K.EMU_FLAGS m) 2 true).count (K.OVERRUNS m)
      d.event 0x33 0x0179 (0x4C00 + 0x10 * m) d.nt (le 4 (d.rd (K.EMU_LAG m)) ++ le 8 d.nt)
    else if lag = 0 then d.setBit (K.EMU_FLAGS m) 2 false
    else d

/-- The active outputs whose source is axis n. -/
def Dev.emuOf (d : Dev) (n : Nat) : List Nat :=
  (List.range 4).filter fun m => d.hasEmu m && d.rd (K.EMU_EN m) = 1 && d.rd (K.AXIS m) = n

end Sys2Proof.Machine
end

