-- ==== Sys2Proof/Machine/Motion.lean ====
section
/-! DEFINITION. The profile generator (chapter 04): stops, follow sources, plays (chapter 05, R155 to R166) and the plan of a cadence.
Conventions of the model: DEDUCED: log 48, 49, 52; DESIGN CHOICE: log 88, 89. -/

namespace Sys2Proof.Machine

/-! ## Shared quantities -/

/-- One whole microsecond of a velocity in ust/s, in the planner's unit. -/
def ustVel (u : Rat) : Rat := 16000000000000 * u

/-- The commanded position, 2^-32 ust. -/
def MotionRt.p (m : MotionRt) : Int := m.pos.toInt

/-- The commanded position in 1/65,536 ust: bits [79:16] (R96). -/
def Dev.cmdPos (d : Dev) (n : Nat) : Int := (d.mot n).p / 65536

/-- The position register set, with the remainder 0. -/
def MotionRt.setPos (m : MotionRt) (p : Int) : MotionRt := { m with pos := BitVec.ofInt 80 p, rem := 0 }

/-- The limits of axis n as landed (R86). -/
def Dev.limits (d : Dev) (n : Nat) : Limits :=
  { v := rawVel (d.rd (K.V_LIM n)), a := rawAcc (d.rd (K.A_LIM n)), d := rawAcc (d.rd (K.D_LIM n)), j := rawJerk (d.rd (K.J_LIM n)) }

/-- Motion event bit i with its record where EVT_EN has it (Table 4-5). -/
def Dev.motEvent (d : Dev) (n i : Nat) (payload : Bytes) : Dev :=
  let d := d.setBit (K.EVENTS n) i true
  if d.bit (K.EVT_EN n) i then d.axisEvent n (0x110 + i) 0x4000 d.nt payload else d

/-- A motion action refused (Table 4-5, bit 6): action code, axis state, reason, tag. -/
def Dev.refuse (d : Dev) (n action reason tag : Nat) : Dev :=
  d.motEvent n 6 (le 1 action ++ le 1 (d.axState n) ++ le 1 reason ++ le 2 tag)

/-! ## Plays (R160 to R166) -/

/-- A point of the pattern pool (Table 5-7) with T, the sum of DT up to it. -/
structure PatPoint where
  t : Nat
  angle : Int
  amp : Nat
  mark : Bool
  hold : Bool
  deriving DecidableEq, Repr

/-- The eight bytes of pool index i: bank i div 32,768, byte (i mod 32,768) * 8 (R155). -/
def Dev.poolBytes (d : Dev) (mem : List Host.Cell) (i : Nat) : Bytes := memReads mem (d.physAddr (i / 32768) (i % 32768 * 8)) 8

/-- The points of a range of the pool, with their times from T. -/
def Dev.points (d : Dev) (mem : List Host.Cell) : Nat → Nat → Nat → List PatPoint
  | _, 0, _ => []
  | i, count + 1, t =>
    let b := d.poolBytes mem i
    let t := t + ofLe (slice b 0 3)
    let f := ofLe (slice b 7 1)
    { t := t, angle := sext 16 (ofLe (slice b 3 2)), amp := ofLe (slice b 5 2), mark := f.testBit 0, hold := f.testBit 1 } ::
      Dev.points d mem (i + 1) count t

/-- The points of a play. -/
def Dev.playPoints (d : Dev) (mem : List Host.Cell) (r : PlayRt) : List PatPoint := d.points mem r.first r.count 0

/-- Length of one repeat, 2^-16 ns, and its advance, 1/65,536 ust (R161, R165). -/
def playLen (r : PlayRt) (ps : List PatPoint) : Nat := (ps.getLast?.map (·.t)).getD 0 * r.scale * 128
def playShift (r : PlayRt) (ps : List PatPoint) : Int := (ps.getLast?.map (·.angle)).getD 0 * r.swing * 16

/-- The scaled instant of point j, counted over all repeats, 2^-16 ns of NT. -/
def playInstant (r : PlayRt) (ps : List PatPoint) (j : Nat) : Nat :=
  r.start + j / r.count * playLen r ps + ((ps[j % r.count]?).map (·.t)).getD 0 * r.scale * 128

/-- The interval of a repeat in which a time from its start lies: the points before and after it, none before the first. -/
def playSpan (scale : Nat) (tau : Nat) : Option PatPoint → List PatPoint → Option PatPoint × Option PatPoint
  | prev, [] => (prev, none)
  | prev, p :: rest => if tau < p.t * scale * 128 then (prev, some p) else playSpan scale tau (some p) rest

/-- The repeat and the time inside it of an instant, 2^-16 ns. -/
def playLocal (r : PlayRt) (ps : List PatPoint) (at_ : Nat) : Nat × Nat :=
  let len := playLen r ps
  let tau := at_ - r.start
  let k := if len = 0 then r.repeats - 1 else min (tau / len) (r.repeats - 1)
  (k, tau - k * len)

/-- The pattern position at an instant, 2^-32 ust: interpolated linearly between points, the implicit start point at offset 0. -/
def playPos (r : PlayRt) (ps : List PatPoint) (at_ : Nat) : Rat :=
  let (k, tau) := playLocal r ps at_
  let base : Rat := r.pos0 + 65536 * (k * playShift r ps)
  let offset (p : PatPoint) : Rat := 65536 * (p.angle * r.swing * 16)
  match playSpan r.scale tau none ps with
  | (prev, some q) =>
    let o := (prev.map offset).getD 0
    let t0 := (prev.map (·.t)).getD 0
    let span : Rat := (q.t - t0) * r.scale * 128
    base + o + (offset q - o) * ((tau : Rat) - t0 * r.scale * 128) / span
  | (some last, none) => base + offset last
  | (none, none) => base

/-- End instant of a play (R165). -/
def playEnd (r : PlayRt) (ps : List PatPoint) : Nat := r.start + r.repeats * playLen r ps

/-- The coil-current amplitude of a play at an instant (R163), before the clamp at I_max. -/
def playAmp (r : PlayRt) (ps : List PatPoint) (run : Nat) (at_ : Nat) : Rat :=
  let (_, tau) := playLocal r ps at_
  let amp (p : PatPoint) : Rat := if p.amp = 0xFFFF then run else (p.amp * r.amp : Nat) / 4096
  match playSpan r.scale tau none ps with
  | (some p, some q) =>
    if p.hold ∨ q.t = p.t then amp p
    else amp p + (amp q - amp p) * ((tau : Rat) - p.t * r.scale * 128) / ((q.t - p.t) * r.scale * 128)
  | (none, some q) => amp q
  | (some p, none) => amp p
  | (none, none) => run

/-- USE of a pattern: the axes that play it or hold it as a prime (Table 5-8). -/
def Dev.useUpdate (d : Dev) (p : Nat) : Dev :=
  d.wr (K.USE p) (maskOf (d.axisList.filter fun n =>
    ((d.mot n).play.map (·.pat)) = some p || ((d.mot n).prime.map (·.pat)) = some p))

/-- A pattern event of axis n, with its NT (R164). -/
def Dev.patEvent (d : Dev) (n p type nt : Nat) (payload : Bytes) : Dev := d.event (d.sliceOf n) type (0x3100 + p) nt payload

/-- A play ends with a cause (Table 5-9). -/
def Dev.endPlay (d : Dev) (n cause nt : Nat) : Dev :=
  let m := d.mot n
  let d := d.setMot n { m with play := none, goWait := none, move := if m.move = .play then .idle else m.move }
  match m.play with
  | some r => (d.patEvent n r.pat 0x0121 nt (le 2 r.tag ++ le 1 n ++ le 1 cause ++ le 8 nt)).useUpdate r.pat
  | none => match m.goWait with
    | some r => d.useUpdate r.pat
    | none => d

/-- The prime of an axis removed (R169). -/
def Dev.dropPrime (d : Dev) (n : Nat) : Dev :=
  let m := d.mot n
  match m.prime with
  | some r =>
    let d := d.setMot n { m with prime := none }
    let d := (axisLegs n).foldl (fun d l => d.setLeg l { d.leg l with goSet := [], goNew := [] }) d
    (d.wr (K.PRIME n) 0).useUpdate r.pat
  | none => d

/-! ## Stops (R116, R117, R286) -/

/-- The deceleration of a stop, raw. -/
def Dev.stopRaw (d : Dev) (n : Nat) : StopKind → Nat
  | .halt | .follow => d.rd (K.D_LIM n)
  | .qstop | .disable | .safeStop | .lost => d.rd (K.D_STOP n)
  | .limit | .homing => d.rd (K.D_LIMSW n)

/-- The largest deceleration of the stops present (R286). -/
def Dev.stopDecel (d : Dev) (n : Nat) : Nat := (d.mot n).stops.foldl (fun x s => max x (d.stopRaw n s.kind)) 0

def MotionRt.stopping (m : MotionRt) (k : StopKind) : Bool := m.stops.any fun s => s.kind = k

/-- A follow source disengages; where software did not command it and one was engaged, FOLLOW_EN must be written 0 and 1 again, or an arm
letter come (R118, log 48). -/
def Dev.disengage (d : Dev) (n : Nat) (barred : Bool) : Dev :=
  let m := d.mot n
  let d := d.setMot n { m with move := if m.move = .follow then .idle else m.move,
                               follow := { m.follow with engaged := false, armed := false, barred := m.follow.barred || (barred && m.follow.engaged), seg := none } }
  d.setBit (K.STATUS n) 8 false

/-- A stop begins: the target is discarded, a dwell ends, a play ends with a cause, a follow source disengages; no move is present that
could overshoot (Table 4-4). -/
def Dev.addStop (d : Dev) (n : Nat) (kind : StopKind) (cause : Nat) (barred : Bool := true) : Dev :=
  let sc : Bool := match (d.mot n).move with
    | .follow => d.rd (K.SHAPE n) = 1
    | .play => false
    | _ => (d.mot n).scurve
  let d := if (d.mot n).play.isSome ∨ (d.mot n).goWait.isSome then d.endPlay n cause d.nt else d
  let d := if (d.mot n).follow.engaged then d.disengage n barred else d
  let m := d.mot n
  let stops := if m.stopping kind then m.stops else m.stops ++ [{ kind := kind, scurve := sc }]
  (d.setMot n { m with stops := stops, move := .idle, dwell := none, final := false, deferring := false }).setBit (K.STATUS n) 3 false

/-! ## Load events and the wake (R224, R226) -/

/-- A load event with its record where LOAD_EVT_EN has it (R226). -/
def Dev.loadEvent (d : Dev) (n i : Nat) (payload : Bytes) : Dev :=
  let d := d.setBit (K.LOAD_EVENTS n) i true
  if i = 2 ∨ d.bit (K.LOAD_EVT_EN n) i then d.axisEvent n (0x150 + i) 0x4410 d.nt payload else d

/-- A letter that starts motion (R222, R224). -/
def startsMotion (l : Letter) : Bool := l.action = 1 || l.action = 2 || l.action = 4

/-- The wake of axis n, with its letter or the follow source (R224): WAKING, and no longer ramping or at rest. -/
def Dev.wakeAxis (d : Dev) (n tag due : Nat) : Dev :=
  let e := (d.axis n).eng
  let d := d.setAxis n { d.axis n with eng := { e with wake := some d.now } }
  (d.wr (K.REST_FLAGS n) 4).loadEvent n 5 (le 2 tag ++ le 2 (d.rd (K.I_AMP n)) ++ le 6 due ++ le 2 0)

/-! ## Follow sources (R118 to R129) -/

/-- The follow source of axis n may engage: its axis state, HALT, quick stop, both limits (R118, R288). -/
def Dev.mayEngage (d : Dev) (n : Nat) : Bool :=
  d.axLive n && !d.bit (K.CONTROL n) 1 && !d.bit (K.CONTROL n) 3 && !(d.mot n).stopping .qstop && !d.bit (K.SW_STATE n) 3

/-- The conditions under which an arm letter engages the source, both limits aside (R118): while both are active it stays armed (R288). -/
def Dev.mayArm (d : Dev) (n : Nat) : Bool :=
  d.rd (K.SRC n) ≠ 0 && d.axLive n && !d.bit (K.CONTROL n) 1 && !d.bit (K.CONTROL n) 3 && !(d.mot n).stopping .qstop &&
    !(d.mot n).stopping .disable

/-- The master value and its validity at a cadence (R127, R129), 1/65,536 ust. -/
def Dev.master (d : Dev) (n t : Nat) : Rat × Option Nat :=
  let k := d.rd (K.MASTER n)
  let vals := (d.mot k).bus.filter fun b => b.nt < t
  let src := d.rd (K.SRC n)
  let m : Rat := match vals with
    | b :: rest =>
      if src = 3 then (b.pos : Rat) + (b.vel : Rat) * 4096 / 1000000
      else match rest with
        | b' :: _ => (2 * b.enc - b'.enc : Int)
        | [] => b.enc
    | [] => d.cmdPos k
  let cause := if ¬ d.axLive k then some 1
    else if src = 4 ∧ ¬ (vals.head?.map (·.encOk)).getD (d.posValid k) then some 2
    else none
  (m, cause)

/-- The gear ratio. -/
def Dev.gear (d : Dev) (n : Nat) : Rat := ((d.rdI 32 (K.GEAR_NUM n) : Int) : Rat) / (d.rd (K.GEAR_DEN n) : Nat)

/-- The step source at a cadence instant (R123): every edge timestamped before it counts; the step count of the last 100 us. -/
def Dev.stepFollow (d : Dev) (n t : Nat) (f : FollowRt) : FollowRt :=
  let ust : Int := d.rd (K.STEP_UST n)
  let new := f.steps.filter fun e => f.counted ≤ e.1 && e.1 < t
  let recent := f.steps.filter fun e => e.1 < t && t ≤ e.1 + 100000
  let sum (l : List (Nat × Int)) : Int := l.foldl (fun s e => s + e.2) 0
  { f with xf := f.xf + sum new * ust * 65536, vf := (sum recent * ust * 10000 : Int), counted := t,
           steps := f.steps.filter fun e => t ≤ e.1 + 100000 }

/-- The slopes of a stream segment, fixed when it starts (R125), 1/65,536 ust per ns. -/
def segSlopes (before : Option (Nat × Int)) (first : Bool) (a b : Nat × Int) (after : Option (Nat × Int)) : Rat × Rat :=
  let slope (x y : Nat × Int) : Rat := (y.2 - x.2 : Int) / ((y.1 - x.1 : Nat) : Rat)
  let chord := slope a b
  (if first then 0 else (before.map fun x => slope x b).getD chord, (after.map fun y => slope a y).getD chord)

/-- The stream's segment at an instant: it moves on while the next point's time has come. -/
def streamSeek (t : Nat) : Nat → FollowRt → FollowRt
  | 0, f => f
  | fuel + 1, f =>
    match f.seg, f.points with
    | none, a :: rest =>
      if t < a.1 then f
      else
        let s := match rest with
          | b :: more => segSlopes none true a b more.head?
          | [] => (0, 0)
        streamSeek t fuel { f with seg := some (a, s.1, s.2), points := rest }
    | some (a, _, _), b :: rest =>
      if t < b.1 then f
      else
        let s := match rest with
          | c :: more => segSlopes (some a) false b c more.head?
          | [] => (0, 0)
        streamSeek t fuel { f with seg := some (b, s.1, s.2), points := rest }
    | _, [] => f

/-- The stream at a cadence instant (R125); whether it underruns (R126). DESIGN CHOICE: a source engaged while no point has ever been held
keeps x_f at the position of engagement with v_f = 0, and does not underrun (log 88). -/
def Dev.streamFollow (d : Dev) (n t : Nat) (f : FollowRt) : FollowRt × Bool :=
  let f := streamSeek t 18 f
  match f.seg, f.points with
  | some (a, m0, m1), b :: _ =>
    let h : Rat := ((b.1 - a.1 : Nat) : Rat)
    let u : Rat := ((t - a.1 : Nat) : Rat) / h
    let dx : Rat := ((b.2 - a.2 : Int) : Rat)
    let (x, v) : Rat × Rat :=
      if d.rd (K.INTERP n) = 0 then ((a.2 : Rat) + dx * u, dx / h)
      else
        ((a.2 : Rat) + (3 * u * u - 2 * u * u * u) * dx + h * (u * (1 - u) * (1 - u) * m0 + u * u * (u - 1) * m1),
         (6 * u - 6 * u * u) * dx / h + (1 - 4 * u + 3 * u * u) * m0 + (3 * u * u - 2 * u) * m1)
    ({ f with xf := rfloor x, vf := v * 1000000000 / 65536 }, false)
  | some (a, _, _), [] => ({ f with xf := a.2, vf := 0 }, true)
  | none, a :: _ => ({ f with xf := a.2, vf := 0 }, false)
  | none, [] => ({ f with vf := 0 }, false)

/-- A follow source of axis n is about to engage, or engaged (R118, R224). -/
def Dev.followComes (d : Dev) (n : Nat) : Bool :=
  let f := (d.mot n).follow
  f.engaged || (d.rd (K.SRC n) ≠ 0 && ((d.bit (K.CONTROL n) 2 && !f.barred) || f.armed) && d.mayEngage n)

/-- The wake of a Resting axis ends where nothing that starts motion waits any more: a new ramp under R223 (R224). -/
def Dev.wakeCheck (d : Dev) (n : Nat) : Dev :=
  let a := d.axis n
  if d.axState n ≠ axResting ∨ a.eng.wake.isNone ∨ a.mot.move ≠ .idle ∨ a.inbox.any startsMotion ∨ d.followComes n then d
  else
    let d := d.setAxis n { a with eng := { a.eng with wake := none, ramp := some (d.rd (K.I_AMP n), d.eff n (K.I_REST n), d.now) } }
    (d.setBit (K.REST_FLAGS n) 2 false).setBit (K.REST_FLAGS n) 0 true

/-- A move begins: event 0x0153 can be posted again (R221). -/
def Dev.newMove (d : Dev) (n : Nat) : Dev :=
  let a := d.axis n
  d.setAxis n { a with eng := { a.eng with maxed := false } }

/-- A follow source engages at a cadence (R118, R128): it replaces the running move. -/
def Dev.engage (d : Dev) (n t : Nat) : Dev :=
  let d := if d.axState n = axResting ∧ (d.axis n).eng.wake.isNone then d.wakeAxis n 0xFFFF 0 else d
  let d := if (d.mot n).play.isSome then d.endPlay n 1 d.nt else d
  let m := d.mot n
  let p := d.cmdPos n
  let (g, _) := d.master n t
  let f := { m.follow with engaged := true, armed := false, xf := p, vf := 0, counted := t, m0 := g, mPrev := g, p0 := p, seg := none }
  let d := d.setMot n { m with move := .follow, stops := [], dwell := none, act := none, final := false, deferring := false,
                               overshot := false, scurve := d.rd (K.SHAPE n) = 1, follow := f }
  (((d.setBit (K.STATUS n) 8 true).setBit (K.STATUS n) 3 false).setBit (K.STATUS n) 9 false).newMove n

/-- The engaged source gives its target at a cadence; an underrun or an invalid master disengages it (R126, R129). DESIGN CHOICE: across a
wrap of a position register the geared difference m(t_k) − m0 is the plain difference (R128, log 89). -/
def Dev.followTarget (d : Dev) (n t : Nat) : Dev :=
  let m := d.mot n
  let f := m.follow
  match d.rd (K.SRC n) with
  | 1 => d.setMot n { m with follow := d.stepFollow n t f }
  | 2 =>
    let (f, dry) := d.streamFollow n t f
    let d := (d.setMot n { m with follow := f }).wr (K.STREAM_FILL n) f.points.length
    if dry then
      let last := (f.seg.map (·.1.1)).getD t
      (d.motEvent n 3 (le 8 last)).addStop n .lost 2
    else d
  | _ =>
    let (g, bad) := d.master n t
    match bad with
    | some cause => (d.motEvent n 5 (le 1 (d.rd (K.MASTER n)) ++ le 1 cause)).addStop n .lost 2
    | none =>
      let r := d.gear n
      d.setMot n { m with follow := { f with xf := f.p0 + rfloor ((g - f.m0) * r), vf := (g - f.mPrev) * r * 1000000 / 65536, mPrev := g } }

/-- The follow source at a cadence: it engages where R118 lets it, and gives its target. -/
def Dev.followStep (d : Dev) (n t : Nat) : Dev :=
  let f := (d.mot n).follow
  let soft := (d.mot n).stops.all fun s => s.kind = .follow || s.kind = .lost || s.kind = .halt
  let wants := (d.bit (K.CONTROL n) 2 && !f.barred) || f.armed
  let d := if ¬ f.engaged ∧ wants ∧ soft ∧ d.rd (K.SRC n) ≠ 0 ∧ d.mayEngage n then d.engage n t else d
  if (d.mot n).follow.engaged then d.followTarget n t
  else d.setMot n { d.mot n with follow := { (d.mot n).follow with armed := f.armed && d.mayArm n && d.bit (K.SW_STATE n) 3 } }

/-- FOLLOW_EN written 0 (R118): the source disengages, and may engage again from the next write of 1. -/
def Dev.followOff (d : Dev) (n : Nat) : Dev :=
  let d := if (d.mot n).follow.engaged then d.addStop n .follow 2 false else d
  let m := d.mot n
  d.setMot n { m with follow := { m.follow with barred := false } }

/-! ## The plan of one cadence, or of a fraction of one (R98 step 2, R101) -/

/-- What a cadence decides: the commanded state at its end, what the re-planner keeps, and what it reports. -/
structure Planned where
  cmd : Cmd
  keep : MoveRt
  over_ : Option Rat := none
  deferred : Bool := false
  landed : Bool := false
  still : Bool := false
  limited : Bool := false
  deriving DecidableEq, Repr

/-- The velocity of a play for a cadence: it carries the commanded position to the pattern position of the next one, rounded toward
minus infinity (R162), 1/16 ust/s. -/
def playVel (r : PlayRt) (ps : List PatPoint) (p : Int) (t : Nat) : Int :=
  let goal := rfloor (playPos r ps ((t + 1000) * 65536))
  let diff : Int := (BitVec.ofInt 80 (goal - p)).toInt
  rfloor (diff * distUnit / 1000000000000)

/-- The plan from a commanded state over a fraction f of a cadence. In a limited chase V_LIM bounds the absolute velocity, which falls to
a lowered V_LIM as any speed falls (R122). -/
def Dev.plan (d : Dev) (mem : List Host.Cell) (n t : Nat) (m : MotionRt) (c : Cmd) (f : Rat) : Planned :=
  let lim := d.limits n
  let keep : MoveRt := { final := m.final, deferring := m.deferring, dkPrev := m.dkPrev }
  if m.stops ≠ [] then
    let sc := m.stops.all fun s => s.scurve && (s.kind = .halt || s.kind = .follow)
    let r := brakeZero sc c (rawAcc (d.stopDecel n)) lim.j f
    { cmd := r, keep := { keep with final := false, deferring := false }, still := r.v = 0 }
  else
    match m.move with
    | .idle => { cmd := { c with v := 0, b := 0 }, keep := keep }
    | .position x =>
      let r := replan m.scurve (d.bit (K.OPTIONS n) 0) c (65536 * x : Int) 0 lim (d.rd (K.D_LIM n)) keep f
      { cmd := r.cmd, keep := r.keep, over_ := r.over_, deferred := r.deferred, landed := r.landed, still := r.standstill && !r.landed }
    | .velocity req =>
      let raw := clampI (-(d.rd (K.V_LIM n) : Int)) (d.rd (K.V_LIM n)) req
      let w := rawVel raw
      let r := if c.v * w < 0 ∨ (w = 0 ∧ c.v ≠ 0) then brakeZero m.scurve c lim.d lim.j f else toward m.scurve c w lim.a lim.d lim.j f
      let r := if r.v * c.v < 0 then { r with v := 0, b := 0 } else r
      { cmd := r, keep := keep, still := r.v = 0 && (w = 0 || c.v ≠ 0), limited := raw ≠ req }
    | .play =>
      match m.play with
      | some r => { cmd := { c with v := rawVel (playVel r (d.playPoints mem r) (rfloor c.p) t), b := 0 }, keep := keep }
      | none => { cmd := { c with v := 0, b := 0 }, keep := keep }
    | .follow =>
      let xf : Rat := (65536 * m.follow.xf : Int)
      let vf := ustVel m.follow.vf
      if d.rd (K.CHASE n) = 0 then
        let diff : Int := (BitVec.ofInt 80 (65536 * m.follow.xf - rfloor c.p)).toInt
        let want : Rat := diff * distUnit
        let v := rmax (-lim.v) (rmin lim.v want)
        { cmd := { c with v := v, b := v - c.v }, keep := keep, limited := v ≠ want }
      else
        let r := replan m.scurve false c xf vf lim (d.rd (K.D_LIM n)) keep f
        let top := if 0 ≤ r.cmd.v then lim.v else -lim.v
        let cmd := if rabs r.cmd.v ≤ lim.v then r.cmd
          else if rabs c.v ≤ lim.v ∨ c.v * top < 0 then { r.cmd with v := top, b := (top - c.v) / f }
          else toward m.scurve c top lim.a lim.d lim.j f
        { cmd := cmd, keep := r.keep, limited := decide (lim.v < rabs vf) }

end Sys2Proof.Machine
end

