-- ==== Sys2Proof/Machine/Homing.lean ====
section
/-! DEFINITION. Homing (chapter 10, R292 to R296), as the slice runs it at the profile cadences.
Conventions of the model: DEDUCED: log 45, 46. -/

namespace Sys2Proof.Machine

def Dev.home (d : Dev) (n : Nat) : HomeRt := (d.axis n).home
def Dev.setHome (d : Dev) (n : Nat) (h : HomeRt) : Dev := { d with axes := Tab.put d.axes n { d.axis n with home := h } }

/-- The search direction of a method (Table 10-3). -/
def homeDir (m : Nat) : Int := if m = 13 then 1 else if m = 12 then -1 else if m % 2 = 1 then -1 else 1

/-- The reference switch of a method: 0 LIMP, 1 LIMN, 2 HOME (Table 10-3). -/
def homeSwitch (m : Nat) : Option Nat :=
  if m = 1 ∨ m = 5 then some 1
  else if m = 2 ∨ m = 6 then some 0
  else if m = 3 ∨ m = 4 ∨ m = 7 ∨ m = 8 then some 2
  else none

/-- The method ends at an index. -/
def homeAtIndex (m : Nat) : Bool := 5 ≤ m && m ≤ 10

/-- The needs of the method of axis n are met (Table 10-3). -/
def Dev.homeNeeds (d : Dev) (n : Nat) : Bool :=
  let m := d.rd (K.METHOD n)
  let switch : Bool := match homeSwitch m with
    | some i => d.bit (K.SW_CFG n) (4 + i)
    | none => true
  switch && (!homeAtIndex m || d.quadrature n) && (m ≠ 12 && m ≠ 13 || d.rd (K.V_OBS n) ≤ d.rd (K.V_SLOW n))

/-- HOME_START lands: homing begins at the next cadence (R292). -/
def Dev.homeBegin (d : Dev) (n : Nat) : Dev :=
  (d.setHome n { running := true, dir := homeDir (d.rd (K.METHOD n)) }).wrs
    [(K.HOME_START n, 1), (K.HOME_RESULT n, 1), (K.HOME_PHASE n, 0)]

/-- Homing ends with a result, and event 0x0184 (R296). -/
def Dev.homeEnd (d : Dev) (n result : Nat) : Dev :=
  if ¬ (d.home n).running then d
  else
    let d := (d.setHome n {}).wrs [(K.HOME_START n, 0), (K.HOME_RESULT n, result), (K.HOME_PHASE n, 0), (K.HOME_NT n, d.nt)]
    d.axisEvent n 0x0184 0x4806 d.nt (le 1 (d.rd (K.METHOD n)) ++ le 1 result ++ le 2 0 ++ le 8 (d.rd (K.HOME_REF n)))

/-- The reference switch of running homing raises no limit stop while it serves (R293). -/
def Dev.homeExempt (d : Dev) (n i : Nat) : Bool := (d.home n).running && homeSwitch (d.rd (K.METHOD n)) = some i

/-- A homing motion: a velocity move with the present SHAPE. -/
def Dev.homeMove (d : Dev) (n : Nat) (v : Int) : Dev :=
  let m := d.mot n
  (d.setMot n { m with move := .velocity v, scurve := d.rd (K.SHAPE n) = 1, stops := [], final := false, clamping := false }).setBit
    (K.STATUS n) 3 false

/-- A stop of homing at D_LIMSW; what follows it waits for standstill. -/
def Dev.homeStop (d : Dev) (n : Nat) (h : HomeRt) : Dev := (d.setHome n { h with stopping := true }).addStop n .homing 2

/-- A phase begins (Table 10-4). -/
def Dev.homePhase (d : Dev) (n k : Nat) (h : HomeRt) : Dev :=
  let slow : Int := d.rd (K.V_SLOW n)
  let h := { h with atLimit := false }
  let d := d.wr (K.HOME_PHASE n) k
  match k with
  | 1 => (d.setHome n { h with phase := 1, stopping := false }).homeMove n (h.dir * (if h.reversed then -1 else 1) * d.rd (K.V_SEARCH n))
  | 2 => (d.setHome n { h with phase := 2, stopping := false }).homeMove n (-h.dir * slow)
  | 3 => (d.setHome n { h with phase := 3, stopping := false, approach := d.cmdPos n, seen := [] }).homeMove n (h.dir * slow)
  | _ => d.setHome n { h with phase := 4, stopping := false }

/-- HOMING_PRESET (R295): whole electrical cycles onto the position register and TARGET, the rest to HOME_RESID, the count shifted
where a quadrature input is used, POS_DOUBT cleared; result 2. -/
def Dev.homePreset (d : Dev) (n : Nat) (pRef eRef : Int) : Dev :=
  let cycle : Int := 4096 * 65536
  let want := d.rdI 64 (K.HOME_POS n) - pRef
  let by_ := cycle * ((want + cycle / 2) / cycle)
  let m := d.mot n
  let m := m.setPos (m.p + 65536 * by_)
  let d := d.setMot n { m with path := (d.nt, m.p, 0, m.vOut) :: m.path, lastPos := m.p }
  let d := d.wrs [(K.TARGET n, enc 64 (d.rdI 64 (K.TARGET n) + by_)), (K.HOME_REF n, enc 64 pRef),
    (K.HOME_RESID n, enc 32 (want - by_)), (K.POS_DOUBT n, 0)]
  let d := if d.quadrature n then
      let shift := roundDiv ((pRef + by_ - eRef) * (d.rd (K.ENC_DEN n) : Nat)) (65536 * d.rd (K.ENC_NUM n))
      (d.takeZ n).encPreset n 3 (d.encCnt n + shift)
    else d
  d.homeEnd n 2

/-- The references of a switch method: the latches of its input (R293). -/
def Dev.homeRefs (d : Dev) (n i : Nat) : Int × Int := (d.rdI 64 (K.LATCH_CMD n i), d.rdI 64 (K.LATCH_ENC n i))

/-- Homing at a cadence, at standstill after a stop or between motions. -/
def Dev.homeStill (d : Dev) (n : Nat) (h : HomeRt) : Dev :=
  let m := d.rd (K.METHOD n)
  if h.fail ≠ 0 then d.homeEnd n h.fail
  else if h.phase = 1 then
    if h.found.isSome then d.homePhase n 2 { h with found := none } else d.homePhase n 1 h
  else if h.phase = 2 then d.homePhase n 3 h
  else
    match homeSwitch m, homeAtIndex m, h.found with
    | some i, false, _ =>
      if (Tab.find (d.sw n).openLatch i).isSome then d.homePhase n 4 h
      else d.homePreset n (d.homeRefs n i).1 (d.homeRefs n i).2
    | _, _, some (p, e) => d.homePreset n p e
    | _, _, none => d.homePreset n (d.cmdPos n) (d.encPosOf n (d.encCnt n))

/-- A limit stop met by homing: it reverses the search of methods 3, 4, 7 and 8 once, else homing fails with result 5 (R293); a limit met
while the search stops at the HOME that it has found changes nothing. -/
def Dev.homeLimit (d : Dev) (n : Nat) (h : HomeRt) : Dev :=
  let h := { h with atLimit := true, stopping := true }
  if h.phase = 1 ∧ homeSwitch (d.rd (K.METHOD n)) = some 2 ∧ ¬ h.reversed then
    d.setHome n { h with reversed := h.found.isNone }
  else d.setHome n { h with fail := if h.fail = 0 then 5 else h.fail }

/-- Homing at a cadence instant t (R293, R294). -/
def Dev.homeStep (d : Dev) (n t : Nat) : Dev :=
  let h := d.home n
  if ¬ h.running then d
  else
    let m := d.rd (K.METHOD n)
    let mot := d.mot n
    let travel := (d.cmdPos n - h.start).natAbs
    let active : Bool := match homeSwitch m with
      | some i => d.switchActive n i && decide (Tab.get 0 (d.sw n).since i < t)
      | none => false
    if h.phase = 0 then
      let h := { h with start := d.cmdPos n }
      if m = 11 then d.homePreset n (d.cmdPos n) (d.encPosOf n (d.encCnt n))
      else if 12 ≤ m ∨ (homeSwitch m).isNone then d.homePhase n 3 h
      else if active then d.homePhase n 2 { h with passing := true }
      else d.homePhase n 1 h
    else if mot.stopping .limit ∧ ¬ h.atLimit then d.homeLimit n h
    else if h.stopping ∨ h.phase = 4 then
      if mot.stops = [] ∧ mot.vel = 0 then d.homeStill n h else d
    else if 65536 * d.rd (K.HOME_RANGE n) < travel then
      d.homeStop n { h with fail := if 12 ≤ m ∧ ¬ d.bit (K.OBS_STATUS n) 1 then 10 else 4 }
    else if h.phase = 1 then
      if active then d.homeStop n { h with found := some (0, 0), passing := h.reversed } else d
    else if h.phase = 2 then
      if h.passing ∧ ¬ active then d.homeStop n h
      else if active then d.setHome n { h with passing := true }
      else d
    else if homeAtIndex m then
      if h.found.isSome then d.homeStop n h
      else if 65536 * d.rd (K.IDX_RANGE n) < (d.cmdPos n - h.approach).natAbs then d.homeStop n { h with fail := 6 }
      else d
    else if active ∨ h.found.isSome then d.homeStop n h
    else d

end Sys2Proof.Machine
end

