-- ==== Sys2Proof/Machine/Cadence.lean ====
section
/-! DEFINITION. The profile cadence (R98): axis states (Table 4-13), limits, homing, follow, the plan, integration and publication.
Conventions of the model: DEDUCED: log 15, 47, 48, 49, 52. -/

namespace Sys2Proof.Machine

/-- The generator at rest: no move, no stop, velocity and acceleration 0. -/
def MotionRt.frozen (m : MotionRt) : MotionRt :=
  { m with move := .idle, stops := [], vel := 0, acc := 0, vOut := 0, act := none, dwell := none, final := false, deferring := false }

/-- The axis enters Holding (Table 4-13); the rest timer starts at 0 (R222). -/
def Dev.toHolding (d : Dev) (n : Nat) : Dev :=
  let d := d.setMot n { d.mot n with restUs := 0, heldAt := d.now, stallSeen := false }
  (d.setAxState n axHolding).wr (K.STILL_MS n) 0

/-- The generator freezes: the register stands from now on (R289), no limit stop runs (R286), no move overshoots (Table 4-4). -/
def Dev.freeze (d : Dev) (n : Nat) : Dev :=
  let m := d.mot n
  ((d.setMot n { m.frozen with path := (d.nt, m.p, m.rem, 0) :: m.path }).setBit (K.SW_STATE n) 4 false).setBit (K.STATUS n) 3 false

/-- The axis enters Disabled (Table 4-13): generator frozen, legs off, periods stopped. -/
def Dev.toDisabled (d : Dev) (n : Nat) : Dev :=
  let d := if (d.mot n).play.isSome ∨ (d.mot n).goWait.isSome then d.endPlay n 2 d.nt else d
  let d := ((d.homeEnd n 3).disengage n false).freeze n
  let d := d.setMot n { d.mot n with safeAt := none, stallReact := none }
  let d := d.setAxis n { d.axis n with ident := {}, faultReq := none }
  let d := ((d.setAxState n axDisabled).wrs [(K.REST_FLAGS n, 0), (K.AMP_SRC n, 0)]).axisLegsOff n
  let d := d.patchLeave n
  (d.setBit (K.CONTROL n) 3 false).stopCoils n

/-- ENABLE = 0 ends identification with cause 9 (R200). -/
def Dev.identAbort (d : Dev) (n : Nat) : Dev :=
  let d := d.wrs [(K.ID_RESULT n, 9), (K.ID_NT n, d.nt), (K.ID_TIME n, (d.axis n).ident.lasted d.now)]
  d.axisEvent n 0x0130 0x4400 d.nt (le 4 (d.rd (K.R_A n)) ++ le 4 (d.rd (K.R_B n)) ++ le 1 9)

/-- The axis enters Identifying (Table 4-13, R193, R198, R225, R236, R239, R247): v = a = 0, r = 0; the engine's history and its legs start
afresh. -/
def Dev.toIdentifying (d : Dev) (n : Nat) : Dev :=
  let d := d.freeze n
  let d := d.setMot n { d.mot n with rem := 0, stallSeen := false }
  let d := d.setAxis n { d.axis n with ident := { entered := d.now }, eng := {} }
  let d := d.wrs [(K.KE n, 0), (K.LOAD_ANGLE n, 0), (K.LOAD_FILT n, 0), (K.STALL_RUN n, 0), (K.OBS_STATUS n, 1),
    (K.REST_FLAGS n, 0), (K.STILL_MS n, 0)]
  let d := ((d.setBit (K.CC_STATUS n) 4 true).latchEff n).setAxState n axIdentifying
  (axisLegs n).foldl Dev.legEnabled ((d.startCoils n).patchLeave n)

/-- The legs of a Faulted axis go off and its generator freezes (R337, step 4). -/
def Dev.faultFreeze (d : Dev) (n : Nat) : Dev :=
  let d := d.freeze n
  ((d.setMot n { d.mot n with safeAt := none }).wr (K.AMP_SRC n) 0).axisLegsOff n

/-- The safe-stop reaction begins (R337), or the axis enters Faulted without regulating (R331). -/
def Dev.toFaulted (d : Dev) (n : Nat) (regulates : Bool) : Dev :=
  let d := if (d.mot n).play.isSome ∨ (d.mot n).goWait.isSome then d.endPlay n 4 d.nt else d
  let d := (d.homeEnd n 9).disengage n true
  let d := d.setAxis n { d.axis n with faultReq := none, inbox := [], ident := {} }
  let d := (d.setAxState n axFaulted).wrs [(K.AMP_SRC n, 8), (K.STALL_RUN n, 0), (K.REST_FLAGS n, 0)]
  let d := (d.setBit (K.CONTROL n) 3 false).patchLeave n
  if regulates ∧ (d.mot n).vel ≠ 0 then
    let d := d.addStop n .safeStop 4
    d.setMot n { d.mot n with safeAt := some d.now }
  else d.faultFreeze n

/-- QSTOP takes effect (R117). -/
def Dev.quickStop (d : Dev) (n : Nat) : Dev := ((d.homeEnd n 3).addStop n .qstop 2)

/-- A play, or one that waits for its go, whose pattern a write into its points has invalidated (R159, R166). -/
def Dev.playLost (d : Dev) (n : Nat) : Bool :=
  let m := d.mot n
  (m.play.orElse fun _ => m.goWait).any fun r => d.rd (K.STATE_3100 r.pat) ≠ 1

/-- State changes of a cadence (Table 4-13), in order: points written into the play's pattern (R166), the reaction of a stall, a requested
fault reaction, ENABLE, HALT, QSTOP. -/
def Dev.cadenceState (d : Dev) (n : Nat) : Dev :=
  let d := if d.playLost n then d.addStop n .lost 3 else d
  let m := d.mot n
  let due := m.stallReact.filter fun _ => (d.coil (2 * n)).job.isNone
  let d := if due.isSome then d.setMot n { m with stallReact := none } else d
  let d := if due = some 2 then d.requestFault n true
    else if due = some 1 ∧ d.axState n = axMoving then d.quickStop n else d
  let d := match (d.axis n).faultReq with
    | some r => d.toFaulted n r
    | none => d
  let on := d.bit (K.CONTROL n) 0
  let st := d.axState n
  let d := if st = axDisabled then (if on then d.toIdentifying n else d)
    else if on then d
    else if st = axIdentifying then (d.identAbort n).toDisabled n
    else if st = axMoving then (if (d.mot n).stopping .disable then d else (d.homeEnd n 3).addStop n .disable 2 false)
    else d.toDisabled n
  let d := if d.axLive n ∧ d.bit (K.CONTROL n) 1 ∧ ¬ (d.mot n).stopping .halt then
      let d := d.homeEnd n 3
      if d.axState n = axMoving ∨ (d.mot n).move ≠ .idle then d.addStop n .halt 2 else d
    else d
  if d.bit (K.CONTROL n) 3 then
    if d.axLive n ∧ ((d.mot n).vel ≠ 0 ∨ (d.mot n).move ≠ .idle) then
      (if (d.mot n).stopping .qstop then d else d.quickStop n)
    else (d.homeEnd n 3).setBit (K.CONTROL n) 3 false
  else d

/-! ## Limits (R285) -/

/-- The enabled active limit toward which a velocity points, accepted before t. -/
def Dev.limitAgainst (d : Dev) (n t : Nat) (v : Int) : Option Nat :=
  let i := if 0 < v then 0 else 1
  if v ≠ 0 ∧ d.limitOn n i t ∧ ¬ d.homeExempt n i then some i else none

/-- LIMIT_STOP (R285): the limit stop of input i begins. -/
def Dev.limitStop (d : Dev) (n i : Nat) : Dev :=
  let hard := d.rd (K.LIM_REACT n) = 1
  let moving := (d.mot n).vel ≠ 0
  let d := d.addStop n .limit 2
  let d := if hard then
      let d := d.setMot n { d.mot n with vel := 0, acc := 0, vOut := 0, act := none }
      if moving then d.wr (K.POS_DOUBT n) 1 else d
    else d
  let d := ((d.setBit (K.SW_STATE n) 4 true).count (K.LIM_HITS n)).raise (0x185 + 0x10 * n) d.nt
  d.axisEvent n 0x0180 0x4804 d.nt (le 1 i ++ le 1 (d.rd (K.LIM_REACT n)) ++ le 2 0 ++ le 8 (d.rd (K.LATCH_CMD n i)))

/-- The limits at a cadence, against the sign of the commanded velocity. -/
def Dev.limitStep (d : Dev) (n t : Nat) : Dev :=
  match d.limitAgainst n t (d.mot n).vel with
  | some i => if d.axLive n ∧ ¬ d.bit (K.SW_STATE n) 4 then d.limitStop n i else d
  | none => d

/-! ## Plays at a cadence (R164, R165) -/

/-- Marks reached up to an instant (2^-16 ns), in order. -/
def Dev.playMarks (d : Dev) (n : Nat) (r : PlayRt) (ps : List PatPoint) (upto : Nat) : Nat → Nat → Dev × Nat
  | 0, j => (d, j)
  | fuel + 1, j =>
    let t := playInstant r ps j
    if j < r.count * r.repeats ∧ t ≤ upto then
      let mark := ((ps[j % r.count]?).map (·.mark)).getD false
      let d := if mark then d.patEvent n r.pat 0x0122 (t / 65536) (le 2 (j % r.count) ++ le 1 n ++ le 1 0 ++ le 8 (t / 65536)) else d
      Dev.playMarks d n r ps upto fuel (j + 1)
    else (d, j)

/-- The slice reads the point that its play comes to: whether its word is poisoned (R301, Table 11-1). -/
def Dev.playRead (d : Dev) (n : Nat) (r : PlayRt) : Bool × Dev :=
  if r.next < r.count * r.repeats then
    let i := r.first + r.next % r.count
    d.readWord (d.sliceOf n) (i / 32768) (i % 32768) 0
  else (false, d)

/-- The marks of the play of axis n reached up to an instant (2^-16 ns) are posted before anything ends it (R164). -/
def Dev.playReach (d : Dev) (mem : List Host.Cell) (n upto : Nat) : Dev :=
  match (d.mot n).play with
  | some r =>
    let (d, next) := d.playMarks n r (d.playPoints mem r) upto (r.count * r.repeats - r.next) r.next
    d.setMot n { d.mot n with play := some { r with next := next } }
  | none => d

/-- The play of axis n at a cadence: marks, and its end at or after the scaled instant of its last point. -/
def Dev.playStep (d : Dev) (mem : List Host.Cell) (n t : Nat) : Dev :=
  match (d.mot n).play with
  | none => d
  | some r =>
    let (bad, d) := d.playRead n r
    if bad then d.addStop n .lost 4 else
    let ps := d.playPoints mem r
    let (d, next) := d.playMarks n r ps (t * 65536) (r.count * r.repeats - r.next) r.next
    let m := { d.mot n with play := some { r with next := next } }
    let stop := playEnd r ps
    if stop ≤ t * 65536 then
      let m := (m.setPos (r.pos0 + 65536 * (r.repeats * playShift r ps))).frozen
      let d := (d.setMot n { m with path := (d.nt, m.p, 0, 0) :: m.path }).endPlay n 0 (stop / 65536)
      d.toHolding n
    else d.setMot n m

/-! ## The cadence -/

/-- The position register's path kept for 20 ms, with the entry before it. -/
def trimPath (t : Nat) (l : List (Nat × Int × Nat × Int)) : List (Nat × Int × Nat × Int) :=
  let young := l.takeWhile fun e => t < e.1 + 20000000
  young ++ (l.drop young.length).take 1

/-- The commanded state at a cadence instant: that of a motion begun by an action since the last cadence (R101), else the present one. -/
def Dev.stateAt (d : Dev) (mem : List Host.Cell) (n t : Nat) (m : MotionRt) : Cmd × MotionRt :=
  match m.act with
  | some (ta, p, v, b) =>
    let f : Rat := (t - ta : Nat) / 1000
    let c : Cmd := { p := p, v := v, b := b }
    let m := { m with act := none }
    if f = 0 then (c, m)
    else
      let r := d.plan mem n t m c f
      ({ r.cmd with p := if r.landed then r.cmd.p else p + r.cmd.v * f / distUnit },
       { m with final := r.keep.final, deferring := r.keep.deferring, dkPrev := r.keep.dkPrev })
  | none => ({ p := m.p, v := m.vel, b := m.acc }, m)

/-- MODE of STATUS (Table 4-4). -/
def MotionRt.mode (m : MotionRt) : Nat :=
  if m.stops ≠ [] then 6
  else match m.move with
    | .idle => 0
    | .position _ => if m.scurve then 2 else 1
    | .velocity _ => 3
    | .play => 4
    | .follow => 5

/-- The reports of a plan: OVERSHOOT, DEFERRED, CLAMPED (Table 4-5). -/
def Dev.planEvents (d : Dev) (n : Nat) (r : Planned) : Dev :=
  let m := d.mot n
  let d := match r.over_ with
    | some x =>
      if m.overshot then d
      else
        let d := (d.setMot n { m with overshot := true }).setBit (K.STATUS n) 3 true
        d.motEvent n 1 (le 8 (d.rd (K.TARGET n)) ++ le 4 (enc 32 (clampI 0 (2 ^ 31 - 1) (rfloor (x / 2 ^ 28)))))
    | none => d
  let d := if r.deferred then d.motEvent n 2 (le 4 (d.rd (K.D_LIM n)) ++ le 4 r.keep.dkPrev) else d
  match (d.mot n).move with
  | .velocity req =>
    let m := d.mot n
    let d := d.setMot n { m with clamping := r.limited }
    let d := d.wrI 32 (K.TARGET_VEL n) (clampI (-(d.rd (K.V_LIM n) : Int)) (d.rd (K.V_LIM n)) req)
    if r.limited ∧ ¬ m.clamping then d.motEvent n 8 (le 4 (enc 32 req)) else d
  | _ => d

/-- A standstill inside a move whose motion goes on in the other direction (R114): REVERSED, and the dwell of T_REV, after the `more`
cadences that the standstill's own one still takes. -/
def Dev.reverse (d : Dev) (n : Nat) (v0 : Int) (more : Nat) : Dev :=
  let m := d.mot n
  let back : Bool := match m.move with
    | .position x => decide ((65536 * x - m.p) * v0 < 0)
    | .velocity req => decide (req * v0 < 0)
    | _ => false
  if back then
    let d := d.motEvent n 9 (le 8 (enc 64 (d.cmdPos n)))
    let rev := d.rd (K.T_REV n)
    if rev = 0 then d else d.setMot n { d.mot n with dwell := some (d.now + 1000 * (rev + more)) }
  else d

/-- Standstill at the end of every stop (R116, R117, R285, R337, Table 4-13). -/
def Dev.stopsEnd (d : Dev) (n : Nat) : Dev :=
  let m := d.mot n
  let d := (d.freeze n).setBit (K.CONTROL n) 3 false
  if m.stopping .safeStop then d.faultFreeze n
  else if m.stopping .disable then d.toDisabled n
  else if d.axState n = axMoving then d.toHolding n
  else d

/-- The transitions that follow from the velocity of the cadence (Table 4-13); v0 is the velocity before it. -/
def Dev.motionState (d : Dev) (n t : Nat) (v0 : Int) (r : Planned) : Dev :=
  let m := d.mot n
  if r.landed ∧ m.move ≠ .follow then
    let x := d.rd (K.TARGET n)
    let d := (d.setMot n { m.frozen with rem := 0 }).wr (K.LAND_NT n) t
    let d := ((d.setBit (K.STATUS n) 1 true).setBit (K.STATUS n) 3 false).motEvent n 0 (le 8 x)
    if d.axState n = axMoving then d.toHolding n else d.wakeCheck n
  else if m.vel ≠ 0 then
    if d.axState n = axHolding ∨ d.axState n = axResting then (d.setAxState n axMoving).wr (K.REST_FLAGS n) 0 else d
  else if m.stops ≠ [] then d.stopsEnd n
  else if m.dwell.isSome then d
  else
    match m.move with
    | .velocity 0 => if d.axState n = axMoving then (d.setMot n m.frozen).toHolding n else d.setMot n m.frozen
    | .follow => if v0 = 0 ∧ d.axState n = axMoving then d.toHolding n else d
    | .play => if d.axState n = axHolding ∨ d.axState n = axResting then (d.setAxState n axMoving).wr (K.REST_FLAGS n) 0 else d
    | .idle => if d.axState n = axMoving then d.toHolding n else d
    | _ => if r.still ∧ v0 ≠ 0 then d.reverse n v0 1 else d

/-- The plan applied to the registers. -/
def Dev.applyPlan (d : Dev) (n t : Nat) (m : MotionRt) (c : Cmd) (r : Planned) : Dev :=
  let v0 := m.vel
  let keep := { m with final := r.keep.final, deferring := r.keep.deferring, dkPrev := r.keep.dkPrev }
  let m :=
    if r.landed then
      { keep.setPos (rfloor r.cmd.p) with vel := rfloor r.cmd.v, acc := 0, vOut := rfloor (r.cmd.v / 1000000000000) }
    else
      let lead := (c.p - m.p) * distUnit
      { keep with vel := rfloor r.cmd.v, acc := rfloor r.cmd.b, vOut := rfloor ((r.cmd.v + lead) / 1000000000000) }
  let m := { m with path := trimPath t ((t, m.p, m.rem, m.vOut) :: m.path) }
  let d := (d.setMot n m).setBit (K.STATUS n) 2 r.limited
  (d.planEvents n r).motionState n t v0 r

/-- The V_LIM clamp binds a velocity move (R112). -/
def Dev.clamped (d : Dev) (n : Nat) : Move → Bool
  | .velocity req => clampI (-(d.rd (K.V_LIM n) : Int)) (d.rd (K.V_LIM n)) req ≠ req
  | _ => false

/-- A motion that an action has begun since the last cadence reaches the cadence instant t (R101): its state there is the commanded one
from now on, and a standstill that it meets reverses as any other (R114). -/
def Dev.settleAct (d : Dev) (mem : List Host.Cell) (n t : Nat) : Dev :=
  let m := d.mot n
  match m.act with
  | some (ta, _, v, _) =>
    if ta = t ∨ m.dwell.isSome then d
    else
      let (c, k) := d.stateAt mem n t m
      let d := d.setMot n { k with act := some (t, rfloor c.p, rfloor c.v, rfloor c.b), vel := rfloor c.v, acc := rfloor c.b }
      if v ≠ 0 ∧ rfloor c.v = 0 then d.reverse n v 0 else d
  | none => d

/-- Steps 2 to 4 of R98: the plan, its integration, the velocity handed over. -/
def Dev.drive (d : Dev) (mem : List Host.Cell) (n t : Nat) : Dev :=
  let m0 := d.mot n
  let dwelling : Bool := match m0.dwell with
    | some e => decide (d.now < e)
    | none => false
  let m0 := if dwelling then m0 else { m0 with dwell := none }
  let (c, m) := d.stateAt mem n t m0
  let r : Planned :=
    if dwelling then { cmd := { c with v := 0, b := 0 }, keep := { final := false, deferring := false, dkPrev := m.dkPrev }, limited := d.clamped n m.move }
    else d.plan mem n t m c 1
  match d.limitAgainst n t (rfloor r.cmd.v) with
  | some i =>
    if m0.vel * r.cmd.v ≤ 0 ∧ d.axLive n ∧ ¬ d.bit (K.SW_STATE n) 4 then
      let d := d.limitStop n i
      let d := if (d.home n).running then d.homeLimit n (d.home n) else d
      let (c, m) := d.stateAt mem n t (d.mot n)
      d.applyPlan n t m c (d.plan mem n t m c 1)
    else d.applyPlan n t m c r
  | none => d.applyPlan n t m c r

/-- Step 5 of R98: the commanded values, STATUS and the position bus (R27). -/
def Dev.publish (d : Dev) (n t : Nat) : Dev :=
  let m := d.mot n
  let st := d.rd (K.STATUS n)
  let st := if m.vel = 0 then st else withBit (withBit st 0 (m.vel < 0)) 1 false
  let st := withField (withBit (withBit st 4 m.deferring) 9 m.dwell.isSome) 7 5 m.mode
  let vel := clampI (-(2 ^ 31)) (2 ^ 31 - 1) m.vOut
  let d := d.wrs [(K.STATUS n, st), (K.CMD_POS n, enc 64 (m.p / 65536)), (K.CMD_VEL n, enc 32 vel),
    (K.CMD_ACC n, enc 32 (clampI (-(2 ^ 31)) (2 ^ 31 - 1) (m.acc / 256000000))), (K.CMD_NT n, t)]
  let d := if m.move = .follow then
      d.wrI 32 (K.FOLLOW_ERR n) (clampI (-(2 ^ 31)) (2 ^ 31 - 1) ((m.follow.xf - m.p / 65536) / 4096))
    else d
  let b : BusVal := { nt := t, pos := m.p / 65536, vel := vel, enc := d.encPosOf n (d.encCnt n), cnt := d.encCnt n, encOk := d.posValid n }
  d.setMot n { d.mot n with bus := b :: m.bus.take 2, cadence := some t, lastPos := m.p }

/-- The rest timer of R222, one cadence on; the cadence at which the axis entered Holding counts nothing. -/
def Dev.restTimer (d : Dev) (n : Nat) : Dev :=
  let m := d.mot n
  let t := d.eff n (K.T_REST n)
  if d.axState n = axHolding ∧ ¬ m.follow.engaged ∧ t ≠ 0 ∧ m.heldAt + 992 ≤ d.now then
    let us := min (m.restUs + 1) (1000 * t)
    (d.setMot n { m with restUs := us }).wr (K.STILL_MS n) (us / 1000)
  else d

/-- One cadence of axis n at the instant t. -/
def Dev.runCadence (d : Dev) (mem : List Host.Cell) (n t : Nat) : Dev :=
  let d := (d.takeZ n).speedUpdate n t
  let m := d.mot n
  let d := if 2 ^ 78 < (m.p - m.lastPos).natAbs then d.motEvent n 7 [] else d
  let d := match m.bus with
    | b :: _ => (d.emuOf n).foldl (fun (d : Dev) k => d.emuCadence k b t) d
    | [] => d
  let d := (d.settleAct mem n t).playReach mem n (65536 * t)
  let d := ((d.cadenceState n).playStep mem n t).limitStep n t
  let d := if d.axLive n then ((d.homeStep n t).followStep n t).drive mem n t
    else if (d.mot n).stops ≠ [] then d.drive mem n t
    else d
  ((d.restTimer n).primeSuspend n).publish n t

/-- PROFILE_CADENCE (R98): at an NT multiple of 1,000 ns, once. -/
def Dev.cadence (d : Dev) (mem : List Host.Cell) (n : Nat) : Dev :=
  let t := d.nt - d.nt % 1000
  if d.hasAxis n ∧ d.fab.ready ∧ d.nt % 1000 < 8 ∧ (d.mot n).cadence ≠ some t then d.runCadence mem n t else d

/-- PROFILE_CADENCE (R98). -/
def execProfileCadence (n : Nat) (s : State) : Host.Outcome State Fault Refusal := gated s <|
  .next (s.onDev fun d => d.cadence s.mem n)

/-- REV_DWELL_END (R114): the dwell's time has passed; REV_DWELL clears. -/
def execRevDwellEnd (n : Nat) (s : State) : Host.Outcome State Fault Refusal := gated s <|
  onDev s fun d =>
    match (d.mot n).dwell with
    | some t => if d.hasAxis n ∧ t ≤ d.now + 7 then (d.setMot n { d.mot n with dwell := none }).setBit (K.STATUS n) 9 false else d
    | none => d

/-- SAFE_STOP_TO (R337): the time limit of the safe-stop braking; the legs go off. -/
def execSafeStopTo (n : Nat) (s : State) : Host.Outcome State Fault Refusal := gated s <|
  onDev s fun d =>
    match (d.mot n).safeAt with
    | some t =>
      if d.hasAxis n ∧ d.axState n = axFaulted ∧ t + 1000000 * d.rd K.SAFE_STOP_TO ≤ d.now + 7 then d.faultFreeze n else d
    | none => d

end Sys2Proof.Machine
end

