-- ==== Sys2Proof/Machine/Letters.lean ====
section
/-! DEFINITION. Letters and their actions on an axis (chapter 05): layout, refusals, conflict policy, primes and plays.
Conventions of the model: DEDUCED: log 50, 52; DESIGN CHOICE: log 81, 82. -/

namespace Sys2Proof.Machine

/-! ## Layout (R134 to R138) -/

def Letter.arg (l : Letter) (at_ n : Nat) : Nat := ofLe (slice l.args (at_ - 12) n)
def Letter.immediate (l : Letter) : Bool := l.flags.testBit 0
def Letter.allOrNone (l : Letter) : Bool := l.flags.testBit 1
def Letter.lateDrop (l : Letter) : Bool := l.flags.testBit 2
def Letter.names (l : Letter) (n : Nat) : Bool := l.axes.testBit n

/-- The axes of a letter. -/
def Letter.list (l : Letter) : List Nat := (List.range 16).filter l.names

/-- A letter from its 32 bytes, its arrival NT and number; the due time of an immediate letter is its arrival. -/
def letterOf (b : Bytes) (arr k : Nat) : Letter :=
  let due := ofLe (slice b 0 6)
  let flags := ofLe (slice b 9 1)
  let lo : Int := (arr : Int) - 2 ^ 47
  let full := lo + (due - lo) % 2 ^ 48
  { due := if flags.testBit 0 then arr else full.toNat
    k := k, axes := ofLe (slice b 6 2), action := ofLe (slice b 8 1), flags := flags, tag := ofLe (slice b 10 2), args := slice b 12 20,
    arr := arr, due48 := due }

/-- Argument bytes of an action that are not reserved, as the number of the first ones (Table 5-3); byte 13 of a start is reserved. -/
def Letter.argLen (l : Letter) : Nat :=
  match l.action with
  | 0x01 => 9
  | 0x02 => 4
  | 0x03 => 20
  | 0x04 => 10
  | 0x05 => 6
  | 0x06 => if l.arg 12 1 = 0 then 1 else 8
  | 0x07 => 1
  | 0x08 => 16
  | _ => 20

/-- The layout rules of R138 are broken. -/
def Letter.bad (l : Letter) : Bool :=
  let reserved := 8 ≤ l.flags || (l.args.drop l.argLen).any (· ≠ 0)
  let axes := if l.action = 5 then l.axes ≠ 0 else l.axes = 0
  let args := match l.action with
    | 0x01 => 2 < l.arg 20 1
    | 0x02 | 0x08 => false
    | 0x03 => 2 ^ 31 ≤ l.arg 12 4
    | 0x04 => l.arg 13 1 ≠ 0 || l.arg 14 2 < 256 || l.arg 20 2 = 0
    | 0x05 =>
      let w := l.arg 14 4
      l.arg 12 1 ≠ 0 || 3 < l.arg 13 1 || (if 2 ≤ l.arg 13 1 then w < 8 || 1000000000 < w else w ≠ 0)
    | 0x06 => 1 < l.arg 12 1 || (l.arg 12 1 = 1 && l.arg 14 2 < 256)
    | 0x07 => 2 < l.arg 12 1
    | _ => true
  reserved || axes || args

/-! ## Refusals of the slice (R116 to R119, R131, R160, R287, R288, R292) -/

/-- A play runs, or waits for its go. -/
def MotionRt.playing (m : MotionRt) : Bool := m.play.isSome || m.goWait.isSome

/-- A quick stop is in progress: QSTOP, a stall's, or a disable. -/
def Dev.inQuickStop (d : Dev) (n : Nat) : Bool :=
  d.bit (K.CONTROL n) 3 || (d.mot n).stopping .qstop || (d.mot n).stopping .disable

/-- The absolute target of a new-target letter (Table 5-3). -/
def Dev.targetOf (d : Dev) (n : Nat) (l : Letter) : Int :=
  let t := sext 64 (l.arg 12 8)
  match l.arg 20 1 with
  | 0 => t
  | 1 => (BitVec.ofInt 64 (d.cmdPos n + t)).toInt
  | _ => (BitVec.ofInt 64 (d.rdI 64 (K.TARGET n) + t)).toInt

/-- A motion toward an enabled limit accepted as active before the action at t takes effect, or any while both are active or a limit stop
runs (R287, R288). -/
def Dev.limitRefuses (d : Dev) (n t : Nat) (l : Letter) : Bool :=
  let on (i : Nat) : Bool := d.limitOn n i t
  let dir : Int := if l.action = 1 then d.targetOf n l - d.cmdPos n else sext 32 (l.arg 12 4)
  d.bit (K.SW_STATE n) 3 || d.bit (K.SW_STATE n) 4 ||
    (if l.action = 4 then on 0 || on 1 else (0 < dir && on 0) || (dir < 0 && on 1))

/-- The reason with which a motion start of axis n is refused by event 0x0116. Where several apply the state comes first, then HALT, the
follow source, the quick stop, the limits (DESIGN CHOICE, log 81). -/
def Dev.startRefusal (d : Dev) (n : Nat) (l : Letter) : Option Nat :=
  if ¬ d.axLive n then some 1
  else if d.bit (K.CONTROL n) 1 then some 2
  else if (d.mot n).follow.engaged then some 3
  else if d.inQuickStop n then some 4
  else if d.limitRefuses n (max l.due d.nt) l ∨ ((d.home n).running ∧ ¬ l.post) then some 1
  else none

/-- The scales of a start or a prime: TIME_SCALE, SWING, AMP_SCALE. -/
def Letter.prime (l : Letter) : PrimeRt :=
  { pat := l.arg (if l.action = 4 then 12 else 13) 1, scale := l.arg 14 2, swing := sext 16 (l.arg 16 2), amp := l.arg 18 2 }

/-- Reasons 1 and 2 of R160. -/
def Dev.patRefusal (d : Dev) (n : Nat) (r : PrimeRt) : Option Nat :=
  if d.rd (K.STATE_3100 r.pat) ≠ 1 then some 1
  else if d.rd (K.V_LIM n) < ceilDiv (d.rd (K.MAX_VEL r.pat) * r.swing.natAbs) r.scale then some 2
  else none

/-- What a letter meets on axis n: it acts, it is refused by 0x0116 or by 0x0123, it waits in the queue, or it preempts. -/
inductive Meets where
  | acts
  | refused (reason : Nat)
  | patRefused (reason : Nat)
  | waits
  | preempts
  deriving DecidableEq, Repr

/-- A move or a play runs that the conflict policy governs for this letter (R167). -/
def Dev.conflicts (d : Dev) (n : Nat) (l : Letter) : Bool :=
  let m := d.mot n
  m.playing || (l.action = 4 && match m.move with
    | .position _ | .velocity _ => true
    | _ => false)

/-- The conflict policy of a motion start (Table 5-10). -/
def Dev.conflict (d : Dev) (n : Nat) (l : Letter) : Meets :=
  if ¬ d.conflicts n l then .acts
  else match d.rd (K.POLICY_3001 n) with
    | 0 => .waits
    | 1 => .preempts
    | _ => if l.action = 4 then .patRefused 3 else .refused 1

/-- What a letter meets on axis n now (R131, R150, R160, R167). -/
def Dev.meets (d : Dev) (n : Nat) (l : Letter) : Meets :=
  match l.action with
  | 0x01 | 0x02 =>
    match d.startRefusal n l with
    | some r => .refused r
    | none => d.conflict n l
  | 0x04 =>
    match d.startRefusal n l with
    | some r => .refused r
    | none => match d.patRefusal n l.prime with
      | some r => .patRefused r
      | none => d.conflict n l
  | 0x06 =>
    if ¬ d.axLive n then .refused 1
    else if l.arg 12 1 = 0 then .acts
    else match d.patRefusal n l.prime with
      | some r => .patRefused r
      | none => .acts
  | 0x08 => if d.axLive n then .acts else .refused 1
  | _ => .acts

/-- Whether a letter would be refused. -/
def Meets.refuses : Meets → Bool
  | .refused _ | .patRefused _ => true
  | _ => false

/-- The slice reports a refusal. -/
def Dev.reportRefusal (d : Dev) (n : Nat) (l : Letter) : Meets → Dev
  | .refused r => d.refuse n l.action r l.tag
  | .patRefused r => d.patEvent n l.prime.pat 0x0123 d.nt (le 2 l.tag ++ le 1 n ++ le 1 r ++ le 6 l.due48 ++ le 2 0)
  | _ => d

/-! ## Actions -/

/-- The commanded state of axis n at an instant inside the present tick (R101). -/
def Dev.stateNow (d : Dev) (mem : List Host.Cell) (n t : Nat) : Int × Int × Int :=
  let m := d.mot n
  match m.act with
  | some _ =>
    let (c, _) := d.stateAt mem n t m
    (rfloor c.p, rfloor c.v, rfloor c.b)
  | none => (m.p + (m.vOut * 2 ^ 31 * ((t - d.nt : Nat) : Int)) / 8000000000, m.vel, m.acc)

/-- A motion begins at an instant: what runs is replaced, from the commanded state of that instant (R101, R113); during a dwell it
waits for the dwell's end (R114). -/
def Dev.beginMotion (d : Dev) (mem : List Host.Cell) (n t : Nat) (mv : Move) : Dev :=
  let d := if (d.mot n).playing then (d.playReach mem n (65536 * t)).endPlay n 1 t else d
  let st := d.stateNow mem n t
  let m := d.mot n
  let d := d.setMot n { m with move := mv, stops := [], scurve := d.rd (K.SHAPE n) = 1, final := false, deferring := false,
                               overshot := false, clamping := false, act := if m.dwell.isSome then none else some (t, st.1, st.2.1, st.2.2) }
  (d.setBit (K.STATUS n) 3 false).newMove n

/-- New target (R109). -/
def Dev.actTarget (d : Dev) (mem : List Host.Cell) (n t : Nat) (l : Letter) : Dev :=
  let x := d.targetOf n l
  (d.wrI 64 (K.TARGET n) x).beginMotion mem n t (.position x)

/-- New velocity (R112). -/
def Dev.actVelocity (d : Dev) (mem : List Host.Cell) (n t : Nat) (l : Letter) : Dev :=
  let v := sext 32 (l.arg 12 4)
  let lim : Int := d.rd (K.V_LIM n)
  (d.wrI 32 (K.TARGET_VEL n) (clampI (-lim) lim v)).beginMotion mem n t (.velocity v)

/-- New limits (R132): a limit carried as 0 is left unchanged. -/
def Dev.actLimits (d : Dev) (n : Nat) (l : Letter) : Dev :=
  [(K.V_LIM n, 12), (K.A_LIM n, 16), (K.D_LIM n, 20), (K.J_LIM n, 24), (K.D_STOP n, 28)].foldl (fun d (k, a) =>
    if l.arg a 4 = 0 then d else d.wrCfg k (l.arg a 4)) d

/-- The prime of axis n matches a start and is active (R169, R172). -/
def Dev.primeMatches (d : Dev) (n : Nat) (l : Letter) : Bool := (d.mot n).prime = some l.prime
def Dev.primeActive (d : Dev) (n : Nat) (l : Letter) : Bool := d.primeMatches n l && d.bit (K.PRIME n) 9

/-- The largest PWM period among the quarters of a letter's axes, ns. -/
def Dev.letterPeriod (d : Dev) (l : Letter) : Nat := l.list.foldl (fun p n => max p (8 * d.rd (K.PERIOD (n / 4)))) 0

/-- A play starts at t_s with event 0x0120 (R161, R164). -/
def Dev.startPlay (d : Dev) (mem : List Host.Cell) (n : Nat) (r : PlayRt) (ts : Nat) : Dev :=
  let d := if (d.mot n).play.isSome then (d.playReach mem n (65536 * ts)).endPlay n 1 ts else d
  let p := (d.stateNow mem n (max ts d.nt)).1
  let m := d.mot n
  let d := d.setMot n { m with play := some { r with start := ts * 65536, pos0 := p }, goWait := none, move := .play, stops := [],
                               scurve := false, act := none, dwell := none, final := false, deferring := false, overshot := false }
  let d := ((d.setBit (K.STATUS n) 3 false).newMove n).useUpdate r.pat
  d.patEvent n r.pat 0x0120 ts (le 2 r.tag ++ le 1 n ++ le 1 r.primed.toNat ++ le 8 ts)

/-- The play that a start-pattern letter asks for. -/
def Dev.playOf (d : Dev) (l : Letter) (primed : Bool) : PlayRt :=
  let r := l.prime
  { pat := r.pat, first := d.rd (K.FIRST r.pat), count := d.rd (K.COUNT_3100 r.pat), scale := r.scale, swing := r.swing, amp := r.amp,
    repeats := l.arg 20 2, tag := l.tag, primed := primed, start := 0, pos0 := 0 }

/-- A go for axis n (R172); its flit leaves with those of the letter's other axes of the quarter (R175). -/
def Dev.sendGo (d : Dev) (n : Nat) (timed : Bool) (g : Nat) : Dev := d.setAxis n { d.axis n with goDue := some (timed, g, false) }

/-- The controller sends on the lanes of quarter q (R256). -/
def Dev.sends (d : Dev) (q : Nat) : Bool := (d.quarter q).trained && !(d.quarter q).silent

/-- The goes of a letter for one quarter leave in one flit once no axis of the quarter has the letter still to act (R175); a quarter to
which the controller does not send gets none. -/
def Dev.flushGoes (d : Dev) (k q : Nat) : Dev :=
  let axes := (quarterAxes q).filter fun n => (d.axis n).goDue.any fun g => !g.2.2
  let waits := (quarterAxes q).any fun n => (d.axis n).inbox.any fun x => x.k = k && !x.queued
  match axes.head?.bind fun n => (d.axis n).goDue with
  | some (timed, g, _) =>
    if waits then d
    else if ¬ d.sends q then axes.foldl (fun d n => d.setAxis n { d.axis n with goDue := none }) d
    else
      let d := axes.foldl (fun d n => d.setAxis n { d.axis n with goDue := some (timed, g, true) }) d
      d.emit (.go q (maskOf (axes.map (· % 4))) timed (axes.map fun n => ((d.axis n).goGen + 1) % 4) g)
  | none => d

/-- The goes of a letter for every quarter. -/
def Dev.sendGoes (d : Dev) (l : Letter) : Dev := d.quarterList.foldl (fun d q => d.flushGoes l.k q) d

/-- The first profile cadence instant at least P + 2 us after now (R149). -/
def Dev.playSlot (d : Dev) (l : Letter) : Nat := ceilDiv (d.nt + d.letterPeriod l + 2000) 1000 * 1000

/-- Start pattern (R149, R172, R173): a primed letter whose prime is active sends its go, and an immediate one waits for it; any other
starts the play at t. -/
def Dev.actPlay (d : Dev) (mem : List Host.Cell) (n t : Nat) (l : Letter) (now : Bool) : Dev :=
  if ¬ (l.primed ∧ d.primeActive n l) then d.startPlay mem n (d.playOf l false) t
  else if now then
    let d := if (d.mot n).playing then (d.playReach mem n (65536 * t)).endPlay n 1 t else d
    let d := d.setMot n { d.mot n with goWait := some (d.playOf l true) }
    (d.useUpdate l.prime.pat).sendGo n false (4 * d.nt)
  else (d.sendGo n true (4 * t)).startPlay mem n (d.playOf l true) t

/-- Arm (R118, R169): a follow source, or a prime of the axis, which replaces an earlier one. -/
def Dev.actArm (d : Dev) (n : Nat) (l : Letter) : Dev :=
  if l.arg 12 1 = 0 then
    let m := d.mot n
    d.setMot n { m with follow := { m.follow with armed := d.mayArm n, barred := false } }
  else
    let d := d.dropPrime n
    let r := l.prime
    let d := d.setMot n { d.mot n with prime := some r }
    (d.wr (K.PRIME n) (r.pat + 0x100)).useUpdate r.pat

/-- Disarm (R118, R169): an engaged source's braking begins at the due time t (R101). -/
def Dev.actDisarm (d : Dev) (mem : List Host.Cell) (n t : Nat) (l : Letter) : Dev :=
  let k := l.arg 12 1
  let d := if k = 0 ∨ k = 2 then
      let d := if (d.mot n).follow.engaged then
          let st := d.stateNow mem n t
          let d := d.addStop n .follow 2 true
          d.setMot n { d.mot n with act := some (t, st.1, st.2.1, st.2.2) }
        else d
      let m := d.mot n
      d.setMot n { m with follow := { m.follow with armed := false, barred := true } }
    else d
  if k = 1 ∨ k = 2 then d.dropPrime n else d

/-- A follow-stream point (R124). Where several reasons apply, 4 is reported before 1, 2 and 3 (DESIGN CHOICE, log 81). -/
def Dev.actPoint (d : Dev) (n : Nat) (l : Letter) : Dev :=
  let t := l.arg 12 8
  let x := sext 64 (l.arg 20 8)
  let m := d.mot n
  let f := m.follow
  let bad := match f.lastPt with
    | some (t', _) => if t ≤ t' then some 1 else if t - t' < 10000 ∨ 1000000000 < t - t' then some 2 else none
    | none => none
  let bad := if d.rd (K.SRC n) ≠ 2 then some 4 else bad.orElse fun _ => if 16 ≤ f.points.length then some 3 else none
  match bad with
  | some r => d.motEvent n 4 (le 8 t ++ le 1 r)
  | none =>
    let d := d.setMot n { m with follow := { f with points := f.points ++ [(t, x)], lastPt := some (t, x) } }
    d.wr (K.STREAM_FILL n) (f.points.length + 1)

/-- A letter taken at once wakes a Resting axis (R224). -/
def Dev.wakeFor (d : Dev) (n : Nat) (l : Letter) : Dev :=
  if startsMotion l ∧ d.axState n = axResting ∧ (d.axis n).eng.wake.isNone then
    d.wakeAxis n l.tag (if l.immediate then 0 else l.due48)
  else d

/-- The action of a letter on axis n, judged already; one that starts motion wakes a Resting axis that is not awake yet as it acts, be it
immediate or at a REST_WAKE of 0 (R224). -/
def Dev.perform (d : Dev) (mem : List Host.Cell) (n t : Nat) (l : Letter) (now : Bool) : Dev :=
  let d := d.wakeFor n l
  match l.action with
  | 0x01 => d.actTarget mem n t l
  | 0x02 => d.actVelocity mem n t l
  | 0x03 => d.actLimits n l
  | 0x04 => d.actPlay mem n t l now
  | 0x06 => d.actArm n l
  | 0x07 => d.actDisarm mem n t l
  | _ => d.actPoint n l

/-- The slice reports a letter that queues (1) or preempts (2) (Table 5-9). -/
def Dev.policyEvent (d : Dev) (n what : Nat) (l : Letter) : Dev :=
  let p := if l.action = 4 then l.prime.pat else ((d.mot n).play.map (·.pat)).getD 0
  d.patEvent n p 0x0124 d.nt (le 2 l.tag ++ le 1 n ++ le 1 what ++ le 6 l.due48 ++ le 2 0)

/-- Arrival number a comes before b: the numbers count modulo 2^32 (R142). -/
def arrivedBefore (a b : Nat) : Bool := a ≠ b && (b + 2 ^ 32 - a) % 2 ^ 32 < 2 ^ 31

/-- Insertion by key (R142, R143). -/
def insertLetter (l : Letter) : List Letter → List Letter
  | [] => [l]
  | x :: rest => if l.due < x.due ∨ (l.due = x.due ∧ arrivedBefore l.k x.k) then l :: x :: rest else x :: insertLetter l rest

/-- What a letter meets on axis n where it comes to act: an ALL_OR_NONE letter that was accepted acts unless the axis has entered Faulted
(R150). -/
def Dev.meetsNow (d : Dev) (n : Nat) (l : Letter) : Meets :=
  let m := d.meets n l
  if l.decided ∧ d.axState n ≠ axFaulted ∧ m.refuses then .acts else m

/-- A letter meets axis n at an instant: it acts, waits, preempts or is refused. -/
def Dev.takeLetter (d : Dev) (mem : List Host.Cell) (n t : Nat) (l : Letter) (now : Bool) : Dev :=
  match d.meetsNow n l with
  | .acts => d.perform mem n t l now
  | .preempts => (d.policyEvent n 2 l).perform mem n t l now
  | .waits =>
    let a := d.axis n
    (d.setAxis n { a with inbox := insertLetter { l with queued := true } a.inbox }).policyEvent n 1 l
  | r => d.reportRefusal n l r

/-- A start without an active prime that is taken at once (R149): it becomes due at the first profile cadence instant at least P + 2 us
later, and the axis wakes now. -/
def Dev.holdStart (d : Dev) (n : Nat) (l : Letter) : Dev :=
  let a := d.axis n
  (d.setAxis n { a with inbox := insertLetter { l with due := d.playSlot l, primed := false } a.inbox }).wakeFor n l

/-- A letter taken at once by axis n (R149, R151). -/
def Dev.takeNow (d : Dev) (mem : List Host.Cell) (n : Nat) (l : Letter) : Dev :=
  if l.action = 4 ∧ ¬ (l.primed ∧ d.primeActive n l) then d.holdStart n l else d.takeLetter mem n d.nt l true

end Sys2Proof.Machine
end

