-- ==== Sys2Proof/Machine/Despatch.lean ====
section
/-! DEFINITION. The despatch unit (chapter 05, R139 to R153, R176): arrival, table, release, late letters, cancel, SYNC_OUT; the commands
of letters at their axes; goes; validation of patterns.
Conventions of the model: DEDUCED: log 50, 51; DESIGN CHOICE: log 82. -/

namespace Sys2Proof.Machine

/-! ## The table -/

/-- The table set, with FILL, HIGH_WATER and NEXT_DUE (Table 5-5). -/
def Dev.setTable (d : Dev) (l : List Letter) : Dev :=
  let d := { d with desp := { d.desp with table := l } }
  d.wrs [(K.FILL, l.length), (K.HIGH_WATER, max (d.rd K.HIGH_WATER) l.length), (K.NEXT_DUE, ((l.head?).map (·.due)).getD (2 ^ 64 - 1))]

/-- A despatch event (Table 5-6): type, letter, its fourth byte. -/
def Dev.despEvent (d : Dev) (type x : Nat) (l : Letter) : Dev :=
  d.event 0x31 type 0x3000 d.nt (le 2 l.tag ++ le 1 l.action ++ le 1 x ++ le 2 l.axes ++ le 6 l.due48)

/-- A letter refused as a whole with a reason. -/
def Dev.refuseLetter (d : Dev) (l : Letter) (reason : Nat) : Dev := (d.count K.REFUSED_3000).despEvent 0x0200 reason l

/-- The lead of a letter (Table 5-4). -/
def Dev.lead (d : Dev) (l : Letter) : Nat :=
  if l.action = 4 ∧ ¬ l.primed then d.letterPeriod l + 2000 else 2000

/-! ## SYNC_OUT (R176) -/

/-- SYNC_OUT at a level from an instant of NT. -/
def Dev.syncLevel (d : Dev) (on : Bool) (t : Nat) : Dev := (d.wr K.SYNC_LEVEL on.toNat).emit (.syncOut on t)

/-- A switch-output letter acts at an instant. -/
def Dev.actSwitch (d : Dev) (t : Nat) (l : Letter) : Dev :=
  let lv := l.arg 13 1
  if lv < 2 then
    { d with desp := { d.desp with base := lv = 1, pulseEnd := none } }.syncLevel (lv = 1) t
  else
    let stop : Int := (d.now : Int) + t + l.arg 14 4 - d.nt
    { d with desp := { d.desp with pulseEnd := some stop.toNat } }.syncLevel (lv = 2) t

/-- SYNC_PULSE_END (R176): the pulse ends; the base level returns. -/
def execSyncPulseEnd (s : State) : Host.Outcome State Fault Refusal :=
  onDev s fun d =>
    match d.desp.pulseEnd with
    | some t =>
      if t ≤ d.now + 7 then { d with desp := { d.desp with pulseEnd := none } }.syncLevel d.desp.base (d.nt + (t - d.now)) else d
    | none => d

/-! ## Acting now, ALL_OR_NONE, lateness (R149 to R151) -/

/-- The refusals of an ALL_OR_NONE letter's axes: whether any would refuse; each refusing slice reports, then the despatch unit. -/
def Dev.allRefuse (d : Dev) (l : Letter) : Bool := l.list.any fun n => (d.meets n l).refuses
def Dev.reportAll (d : Dev) (l : Letter) : Dev :=
  (l.list.foldl (fun d n => d.reportRefusal n l (d.meets n l)) d).refuseLetter l 7

/-- A letter acts at once on its axes, or drives SYNC_OUT. -/
def Dev.actNow (d : Dev) (mem : List Host.Cell) (l : Letter) : Dev :=
  let l := { l with due := d.nt }
  if l.action = 5 then d.actSwitch d.nt l
  else if l.allOrNone then
    if d.allRefuse l then d.reportAll l
    else (l.list.foldl (fun d n => d.takeNow mem n { l with decided := true }) d).sendGoes l
  else (l.list.foldl (fun d n => d.takeNow mem n l) d).sendGoes l

/-- A late letter (R151): dropped with event 0x0202, or executed at once with event 0x0201 and its lateness in us. -/
def Dev.lateLetter (d : Dev) (mem : List Host.Cell) (l : Letter) (late : Nat) (arrival : Bool) : Dev :=
  let d := d.count K.LATE
  if l.lateDrop ∨ d.rd K.LATE_POLICY = 0 then d.despEvent 0x0202 0 l
  else
    let d := if arrival then d.count K.ACCEPTED else d
    (d.despEvent 0x0201 (min 255 (ceilDiv late 1000)) l).actNow mem l

/-! ## Arrival (R139 to R145) -/

/-- The letter of 32 bytes that is granted now: its arrival number, and for a start whether each of its axes holds its prime (R144). -/
def Dev.granted (d : Dev) (b : Bytes) (arr : Nat) (post : Bool) : Letter :=
  let l := letterOf b arr ((d.desp.number + 1) % 2 ^ 32)
  { l with post := post, primed := l.action = 4 && l.list.all fun n => d.primeMatches n l }

/-- LETTER_ARRIVAL (R143): one letter judged as it is granted; `post`: it is the Postmaster's. -/
def Dev.arrive (d : Dev) (mem : List Host.Cell) (b : Bytes) (arr : Nat) (post : Bool := false) : Dev :=
  let l := d.granted b arr post
  let d := { d with desp := { d.desp with number := l.k } }
  if l.bad then d.refuseLetter l 1
  else if ¬ l.list.all d.hasAxis then d.refuseLetter l 2
  else if l.immediate then (d.count K.ACCEPTED).actNow mem l
  else if d.rd K.TSTATE < 2 then d.refuseLetter l 3
  else if arr + 1000000 * d.rd K.HORIZON < l.due then d.refuseLetter l 4
  else if l.due < arr + d.lead l then d.lateLetter mem l (arr + d.lead l - l.due) true
  else if 2048 ≤ d.desp.table.length then d.refuseLetter l 5
  else (d.setTable (insertLetter l d.desp.table)).count K.ACCEPTED

/-- The 32-byte letters of a body, in order. -/
def lettersOf : Nat → Bytes → List Bytes
  | 0, _ => []
  | n + 1, b => b.take 32 :: lettersOf n (b.drop 32)

/-- A body of 1 to 8 whole letters; another is refused as a whole with reason 1. -/
def Dev.arriveAll (d : Dev) (mem : List Host.Cell) (body : Bytes) (arr : Nat) : Dev :=
  let n := body.length / 32
  if body.length % 32 ≠ 0 ∨ n = 0 ∨ 8 < n then d.refuseLetter (letterOf [] arr 0) 1
  else (lettersOf n body).foldl (fun d b => d.arrive mem b arr) d

/-- LETTER_ENVELOPE (R139): a letter envelope arrives on a present port. -/
def execLetterEnvelope (port src tArr : Nat) (body : Bytes) (s : State) : Host.Outcome State Fault Refusal := served s <|
  .next (s.onDev fun d => if src < 2 ^ 48 ∧ port < (if d.part.full then 3 else 2) then d.arriveAll s.mem body tArr else d)

/-- LETTER_SUBMISSION (R140): a write into the submission window, whole 32-byte slots. -/
def execLetterSubmission (ofs : Nat) (body : Bytes) (s : State) : Host.Outcome State Fault Refusal := served s <|
  .next (s.onDev fun d =>
    if ¬ d.hostUp ∨ 0x10000 ≤ ofs then d
    else if ofs % 32 ≠ 0 then d.refuseLetter (letterOf [] d.nt 0) 1
    else d.arriveAll s.mem body d.nt)

/-- POSTMASTER_LETTER (R141): a letter of the Postmaster, with a tag of its own. -/
def execPostmasterLetter (letter : Bytes) (s : State) : Host.Outcome State Fault Refusal := served s <|
  .next (s.onDev fun d => if 0xFF00 ≤ ofLe (slice letter 10 2) ∧ letter.length = 32 ∧ d.post.halted.isNone then d.arrive s.mem letter d.nt true else d)

/-! ## Release and late letters (R146, R150, R151) -/

/-- A letter of the table may be released: its due time lies ahead by at most 64.5 us, room in every inbox, no earlier letter of one of its
axes before it. -/
def Dev.releasable (d : Dev) (before : List Letter) (l : Letter) : Bool :=
  l.action ≠ 5 && d.nt < l.due && l.due ≤ d.nt + 64507 && l.list.all (fun n => decide (((d.axis n).inbox.filter fun x => !x.immediate || x.queued).length < 32)) &&
    before.all fun x => x.action = 5 || (List.range 16).all fun n => !(x.names n && l.names n)

/-- The first releasable letter of the table, and the table without it. -/
def Dev.findRelease (d : Dev) : List Letter → List Letter → Option (Letter × List Letter)
  | _, [] => none
  | before, l :: rest =>
    if d.releasable before l then some (l, before ++ rest) else Dev.findRelease d (before ++ [l]) rest

/-- The last profile cadence instant strictly before a due time (R150). -/
def decisionAt (due : Nat) : Nat := (due - 1) / 1000 * 1000

/-- A letter removed from every inbox. -/
def Dev.unbox (d : Dev) (k : Nat) : Dev :=
  d.axisList.foldl (fun d n => let a := d.axis n; (d.setAxis n { a with inbox := a.inbox.filter fun x => x.k ≠ k }).wakeCheck n) d

/-- ALL_OR_NONE_DECISION (R150) for one letter held in the inboxes: all accept, or none acts and the refusals are reported. -/
def Dev.decideAll (d : Dev) (l : Letter) : Dev :=
  if d.allRefuse l then (d.unbox l.k).reportAll l
  else l.list.foldl (fun d n =>
    let a := d.axis n
    d.setAxis n { a with inbox := a.inbox.map fun x => if x.k = l.k then { x with decided := true } else x }) d

/-- LETTER_RELEASE (R146): the first held letter that may be released goes to the inboxes of its axes. -/
def execLetterRelease (s : State) : Host.Outcome State Fault Refusal := served s <|
  onDev s fun d =>
    match d.findRelease [] d.desp.table with
    | some (l, rest) =>
      let d := d.setTable rest
      let d := l.list.foldl (fun d n => let a := d.axis n; d.setAxis n { a with inbox := insertLetter l a.inbox }) d
      if l.allOrNone ∧ decisionAt l.due < d.nt then d.decideAll l else d
    | none => d

/-- ALL_OR_NONE_DECISION (R150): the first undecided ALL_OR_NONE letter of the inboxes whose decision instant has come. -/
def execAllOrNoneDecision (s : State) : Host.Outcome State Fault Refusal := served s <|
  onDev s fun d =>
    match (d.axisList.flatMap fun n => (d.axis n).inbox).find? fun l =>
        l.allOrNone && !l.decided && !l.queued && decide (decisionAt l.due ≤ d.nt + 7) with
    | some l => d.decideAll l
    | none => d

/-- LATE_LETTER (R151): the first held letter whose due time has come; a switch output acts at its due time and is late after it. -/
def execLateLetter (s : State) : Host.Outcome State Fault Refusal := served s <|
  .next (s.onDev fun d =>
    match d.desp.table.find? fun l => l.due ≤ d.nt + 7 && (l.action ≠ 5 || decide (l.due + 8 ≤ d.nt)) with
    | some l => (d.setTable (d.desp.table.filter fun x => x.k ≠ l.k)).lateLetter s.mem l (d.nt - l.due) false
    | none => d)

/-- SWITCH_OUTPUT (R176): the first due switch-output letter of the table acts. -/
def execSwitchOutput (s : State) : Host.Outcome State Fault Refusal := served s <|
  onDev s fun d =>
    match d.desp.table.find? fun l => l.action = 5 && l.due ≤ d.nt + 7 && decide (d.nt < l.due + 8) with
    | some l => (d.setTable (d.desp.table.filter fun x => x.k ≠ l.k)).actSwitch l.due l
    | none => d

/-! ## Letters at their axes (R147, R167, R168) -/

/-- A queued letter may act: no play runs, and a start of a pattern waits for Holding. -/
def Dev.queueFree (d : Dev) (n : Nat) (l : Letter) : Bool := !d.conflicts n l && d.axState n ≠ axMoving || !d.conflicts n l && l.action ≠ 4

/-- The letter of the inbox that acts now: the first queued one, where it may, else the first whose due time has come. -/
def Dev.inboxHead (d : Dev) (n : Nat) : Option Letter :=
  let box := (d.axis n).inbox
  match box.find? (·.queued) with
  | some q => if d.queueFree n q then some q else box.find? fun l => !l.queued && decide (l.due ≤ d.nt + 7)
  | none => box.find? fun l => decide (l.due ≤ d.nt + 7)

/-- The head letter of axis n acts, where it has this action; an ALL_OR_NONE letter once it is decided (R150). A start whose prime is lost
and whose lead is short is late where it would act (R172). -/
def Dev.inboxAct (d : Dev) (mem : List Host.Cell) (n action : Nat) : Dev :=
  match d.inboxHead n with
  | some l =>
    if d.hasAxis n ∧ l.action = action ∧ (¬ l.allOrNone ∨ l.decided) then
      let a := d.axis n
      let d := d.setAxis n { a with inbox := a.inbox.filter fun x => x.k ≠ l.k }
      let acts := d.meetsNow n l = .acts || d.meetsNow n l = .preempts
      let lost := l.action = 4 && l.primed && !l.queued && !d.primeActive n l && acts && decide (l.due < l.arr + d.letterPeriod l + 2000)
      if lost then
        let d := d.patEvent n l.prime.pat 0x0123 d.nt (le 2 l.tag ++ le 1 n ++ le 1 4 ++ le 6 l.due48 ++ le 2 0)
        let late := l.arr + d.letterPeriod l + 2000 - l.due
        d.lateLetter mem { l with axes := 2 ^ n } late false
      else ((d.takeLetter mem n (max l.due d.nt) { l with queued := false } false).sendGoes l).wakeCheck n
    else d
  | none => d

/-- NEW_TARGET (R109). -/
def execNewTarget (n : Nat) (s : State) : Host.Outcome State Fault Refusal := served s <| .next (s.onDev fun d => d.inboxAct s.mem n 1)
/-- NEW_VELOCITY (R112). -/
def execNewVelocity (n : Nat) (s : State) : Host.Outcome State Fault Refusal := served s <| .next (s.onDev fun d => d.inboxAct s.mem n 2)
/-- NEW_LIMITS (R132). -/
def execNewLimits (n : Nat) (s : State) : Host.Outcome State Fault Refusal := served s <| .next (s.onDev fun d => d.inboxAct s.mem n 3)
/-- START_PATTERN (R160). -/
def execStartPattern (n : Nat) (s : State) : Host.Outcome State Fault Refusal := served s <| .next (s.onDev fun d => d.inboxAct s.mem n 4)
/-- ARM (R169). -/
def execArm (n : Nat) (s : State) : Host.Outcome State Fault Refusal := served s <| .next (s.onDev fun d => d.inboxAct s.mem n 6)
/-- DISARM (R131). -/
def execDisarm (n : Nat) (s : State) : Host.Outcome State Fault Refusal := served s <| .next (s.onDev fun d => d.inboxAct s.mem n 7)
/-- FOLLOW_STREAM_POINT (R124). -/
def execFollowStreamPoint (n : Nat) (s : State) : Host.Outcome State Fault Refusal := served s <| .next (s.onDev fun d => d.inboxAct s.mem n 8)

/-- The go that has been sent for axis n allows one at g: a timed one at its due time, an untimed one at the instant at which the franker
applies it (R172). -/
def Dev.goAllows (d : Dev) (n : Nat) (timed : Bool) (g : Nat) : Bool :=
  match (d.axis n).goDue with
  | some (t, g', sent) => sent && t = timed && (if timed then g = g' else decide (d.nowQ ≤ d.ntToQ g)) && decide (d.ntToQ g ≤ d.nowQ + 31)
  | none => false

/-- The franker takes the go of axis n at g, an instant of NT in 1/4 ns; an immediate primed play starts there (R171, R172). -/
def Dev.goAxis (d : Dev) (mem : List Host.Cell) (n : Nat) (timed : Bool) (g : Nat) : Dev :=
  if d.goAllows n timed g ∧ (axisLegs n).all (fun l => d.goHeld l && !d.legShut l) then
    let d := d.setAxis n { d.axis n with goDue := none }
    let d := d.goTake n (d.ntToQ g)
    match (d.mot n).goWait with
    | some r =>
      let d := d.startPlay mem n r (g / 4)
      let m := d.mot n
      d.setMot n { m with play := m.play.map fun r => { r with start := 16384 * g } }
    | none => d
  else d

/-- GO (R171, R172, R175, R253): a go flit of quarter q for local axes (bit i) as the franker takes it. -/
def execGo (q lane axes : Nat) (timed : Bool) (g : Nat) (crcOk err : Bool) (s : State) : Host.Outcome State Fault Refusal := gated s <|
  .next (s.onDev fun d =>
    match d.rxFlit q true lane 2 crcOk err with
    | (false, d) => d
    | (true, d) => ((quarterAxes q).filter fun n => axes.testBit (n % 4)).foldl (fun d n => d.goAxis s.mem n timed g) d)

/-! ## Cancel (R152) -/

/-- A timed letter with the tag, not of the Postmaster. -/
def cancels (tag : Nat) (l : Letter) : Bool := l.tag = tag && !l.post && !l.immediate

/-- CANCEL's effect: every such letter leaves the table and the inboxes; CANCELLED and event 0x0203. -/
def Dev.cancelTag (d : Dev) : Dev :=
  let tag := d.rd K.CANCEL_TAG
  let boxed := (d.axisList.flatMap fun n => (d.axis n).inbox).filter (cancels tag)
  let ks := ((d.desp.table.filter (cancels tag)) ++ boxed).map (·.k)
  let count := ks.eraseDups.length
  let d := d.setTable (d.desp.table.filter fun l => !cancels tag l)
  let d := d.axisList.foldl (fun d n => let a := d.axis n; (d.setAxis n { a with inbox := a.inbox.filter fun l => !cancels tag l }).wakeCheck n) d
  let d := d.wrs [(K.CANCELLED, count % 2 ^ 16), (K.CANCEL, 0)]
  d.event 0x31 0x0203 0x3000 d.nt (le 2 tag ++ le 2 count ++ le 8 0)

/-! ## Patterns: validation and writes (R158, R159) -/

/-- The first condition of R158 that a pattern breaks; 1 passed. -/
def validResult (first count : Nat) (raw : List (Nat × Int × Nat × Nat)) : Nat :=
  if 131072 < first + count then 2
  else if (raw.drop 1).any fun p => p.1 = 0 then 3
  else if ((raw.head?).map fun p => decide (p.1 = 0 ∧ p.2.1 ≠ 0)).getD false then 6
  else if raw.any fun p => 16383 < p.2.2.1 && p.2.2.1 ≠ 0xFFFF then 4
  else if raw.any fun p => 4 ≤ p.2.2.2 then 5
  else 1

/-- The largest segment speed (R158): ceil(|d ANGLE| * 2,000,000,000 / DT), the implicit first segment included. A speed or a duration
beyond 32 bits is kept whole in the slot and read modulo 2^32 (DESIGN CHOICE, log 82). -/
def maxVel : Int → List (Nat × Int × Nat × Nat) → Nat
  | _, [] => 0
  | a, (dt, x, _, _) :: rest => max (if dt = 0 then 0 else ceilDiv ((x - a).natAbs * 2000000000) dt) (maxVel x rest)

/-- Validation of pattern p (R158). -/
def Dev.validate (d : Dev) (mem : List Host.Cell) (p : Nat) : Dev :=
  let d := d.wr (K.VALIDATE p) 0
  let first := d.rd (K.FIRST p)
  let count := d.rd (K.COUNT_3100 p)
  if d.rd (K.USE p) ≠ 0 then d.wr (K.VAL_RESULT p) 7
  else
    let fail (r : Nat) : Dev :=
      d.wrs [(K.VAL_RESULT p, r), (K.STATE_3100 p, 2), (K.DURATION p, 0), (K.MAX_VEL p, 0), (K.PCRC p, 0)]
    if count = 0 then fail 8
    else if 131072 < first + count then fail 2
    else
      let bytes := (List.range count).map fun i => d.poolBytes mem (first + i)
      let raw := bytes.map fun b => (ofLe (slice b 0 3), sext 16 (ofLe (slice b 3 2)), ofLe (slice b 5 2), ofLe (slice b 7 1))
      let r := validResult first count raw
      if r = 1 then
        d.wrs [(K.VAL_RESULT p, 1), (K.STATE_3100 p, 1), (K.DURATION p, raw.foldl (fun s x => s + x.1) 0),
          (K.MAX_VEL p, maxVel 0 raw), (K.PCRC p, crc32 (bytes.foldr (· ++ ·) []))]
      else fail r

/-- VALIDATION_COMPLETE (R158). -/
def execValidationComplete (p : Nat) (s : State) : Host.Outcome State Fault Refusal :=
  .next (s.onDev fun d => if p < 256 ∧ d.rd (K.VALIDATE p) = 1 then d.validate s.mem p else d)

/-- POINTS_WRITTEN (R159): a write into n bytes from offset ofs of logical bank b invalidates the valid patterns whose points it meets
and drops their primes; their plays end at their next cadence (R166). -/
def Dev.pointsWritten (d : Dev) (b ofs n : Nat) : Dev :=
  let lo := b * 32768 + ofs / 8
  let hi := b * 32768 + (ofs + n - 1) / 8
  (List.range 256).foldl (fun d p =>
    if d.rd (K.STATE_3100 p) = 1 ∧ d.rd (K.FIRST p) ≤ hi ∧ lo < d.rd (K.FIRST p) + d.rd (K.COUNT_3100 p) then
      let d := d.wr (K.STATE_3100 p) 2
      d.axisList.foldl (fun d n =>
        if ((d.mot n).prime.map (·.pat)) = some p then d.dropPrime n else d) d
    else d) d

end Sys2Proof.Machine
end

