-- ==== Sys2Proof/Machine/Current.lean ====
section
/-! DEFINITION. The arithmetic of current regulation (chapter 06, R177 to R195, R201): targets, coil model, reconstruction, intervals,
edges. Currents in A, voltages in V, times in 1/4 ns; what the engine keeps of an exact value is Config.engineRound (log 7).
Conventions of the model: DEDUCED: log 41. -/

namespace Sys2Proof.Machine

/-! ## Targets (R177, R34) -/

/-- 2 pi in 2^-96. -/
def twoPi96 : Int := 497805226624462170461043889244

/-- The terms of a Taylor series in 2^-96: t is the present term, x2 the squared angle, k its index. -/
def taylor : Nat → Int → Int → Int → Int → Int
  | 0, _, _, _, s => s
  | fuel + 1, t, x2, k, s =>
    let t' := -(t * x2 / 2 ^ 96) / (k * (k + 1))
    taylor fuel t' x2 (k + 2) (s + t')

/-- COS[t] = round(32767 * cos(2 pi t / 4096)). -/
def cosTable (t : Nat) : Int :=
  let t := t % 4096
  let u : Int := if t ≤ 2048 then t else 4096 - t
  let (u, sg) : Int × Int := if 1024 < u then (2048 - u, -1) else (u, 1)
  let x := twoPi96 * u / 4096
  let c := taylor 24 (2 ^ 96) (x * x / 2 ^ 96) 1 (2 ^ 96)
  sg * ((2 * 32767 * c + 2 ^ 96) / 2 ^ 97)

/-- SIN[t] = COS[(t - 1024) mod 4096]. -/
def sinTable (t : Nat) : Int := cosTable (t + 3072)

/-- Both coil targets in counts for an angle and an amplitude (R177); trims act outside identification (R178). -/
def coilTargets (angle : Nat) (amp : Rat) (phaseTrim : Int) (balTrim : Nat) : Int × Int :=
  let a := clampI (-16383) 16383 (rround (amp * cosTable angle / 32767))
  let tb := ((angle + phaseTrim) % 4096 : Int).toNat
  let b := clampI (-16383) 16383 (rround (amp * balTrim / 4096 * sinTable tb / 32767))
  (a, b)

/-! ## The coil model (R188, R201) -/

/-- A coil's model: resistance, the saturation table at multiples of istep (one entry: flat). -/
structure CoilModel where
  r : Rat
  table : List Rat
  istep : Rat
  deriving DecidableEq, Repr

/-- The incremental inductance at a current. -/
def CoilModel.l (m : CoilModel) (i : Rat) : Rat :=
  let x := if m.istep = 0 then 0 else rabs i / m.istep
  let k := (rfloor x).toNat
  let at_ (j : Nat) : Rat := (m.table[min (j - 1) (m.table.length - 1)]?).getD 1
  if k = 0 then at_ 1 else at_ k + (at_ (k + 1) - at_ k) * (x - k)

/-- The flux linkage: the integral of the interpolated inductance from 0. -/
def CoilModel.psi (m : CoilModel) (i : Rat) : Rat :=
  let a := rabs i
  let k := if m.istep = 0 then 0 else min (rfloor (a / m.istep)).toNat m.table.length
  let whole := (List.range k).foldl (fun s (j : Nat) =>
    s + (m.l ((j : Rat) * m.istep) + m.l (((j : Rat) + 1) * m.istep)) / 2 * m.istep) (0 : Rat)
  let rest := a - k * m.istep
  rsign i * (whole + (m.l (k * m.istep) + m.l a) / 2 * rest)

/-- One substep of the coil equation. -/
def CoilModel.step (m : CoilModel) (i v e h : Rat) : Rat := Config.engineRound (i + (v - m.r * i - e) / m.l i * h)

/-- A current integrated through a schedule, 16 equal substeps per interval (R188). -/
def CoilModel.project (m : CoilModel) (vbus e : Rat) : Sched → Rat → Rat
  | [], i => i
  | (t, b) :: rest, i =>
    let h : Rat := (t : Rat) / 16 / 4000000000
    let v : Rat := b * vbus
    CoilModel.project m vbus e rest ((List.range 16).foldl (fun i _ => m.step i v e h) i)

/-- Volt-seconds of a schedule. -/
def Sched.volts (s : Sched) (vbus : Rat) : Rat := s.foldl (fun x e => x + (e.2 : Rat) * vbus * e.1 / 4000000000) 0

/-- The length of a schedule. -/
def Sched.len (s : Sched) : Nat := s.foldl (fun x e => x + e.1) 0

/-- The bridge state in which a schedule ends. -/
def Sched.last (s : Sched) : Option Int := s.getLast?.map (·.2)

/-- The instants at which a schedule's bridge state changes, from the period start, with the state before and after. -/
def Sched.turns : Int → Int → Sched → List (Int × Int × Int)
  | _, _, [] => []
  | prev, t, (len, b) :: rest =>
    if len = 0 ∨ b = prev then Sched.turns prev (t + len) rest else (t, prev, b) :: Sched.turns b (t + len) rest

/-- The schedule of a period of length p from its turns. -/
def Sched.ofTurns (p : Int) : Int → Int → List (Int × Int × Int) → Sched
  | at_, b, [] => [((p - at_).toNat, b)]
  | at_, b, (t, _, b') :: rest =>
    if t ≤ at_ then Sched.ofTurns p at_ b' rest else ((t - at_).toNat, b) :: Sched.ofTurns p t b' rest

/-- The part of a schedule covered by a refresh as slow decay (R188, R243). -/
def Sched.blank (s : Sched) (start len : Nat) : Sched :=
  s.window 0 start ++ [(min len (s.len - start), 0)] ++ s.window (start + len) (s.len - (start + len))

/-! ## Intervals (R183, R190, R195) -/

/-- Table 6-3 for x >= 0: the primary and the secondary interval, 1/4 ns, and whether the coil is at the voltage limit. -/
def intervals (x tav minInt : Nat) : Nat × Nat × Bool :=
  if tav < x then (tav, 0, true)
  else if 2 * tav ≤ 2 * x + minInt then (tav, 0, false)
  else if tav ≤ x + minInt then (tav - minInt, 0, false)
  else if minInt ≤ x then (x, 0, false)
  else if 0 < x then (minInt + x, minInt, false)
  else (0, 0, false)

/-! ## Bootstrap refreshes as the engine mirrors them (R195, R241 to R243) -/

/-- What planning takes from the objects of a leg: T_BSMAX, T_REFRESH and DEAD_TIME, 1/4 ns. -/
structure LegCfg where
  tbs : Nat
  tref : Nat
  dead : Nat
  deriving DecidableEq, Repr

/-- The time that a refresh takes: T_REFRESH and two dead times (R195). -/
def LegCfg.took (c : LegCfg) : Nat := c.tref + 2 * c.dead

/-- An edge that sets the leg high or low. Its device conducts DEAD_TIME later, at once from off (R237); the counter restarts at the end
of a low interval of at least T_REFRESH. -/
def Mirror.edge (c : LegCfg) (high : Bool) (m : Mirror) : Mirror :=
  let pos : LegPos := if high then .high else .low
  if m.pos = pos then m
  else
    { pos := pos, on := if m.pos = .low ∧ c.tref ≤ m.low then 0 else m.on, low := 0, wait := if m.pos = .off then 0 else c.dead }

/-- The counter over a time without edges: the offsets at which it reaches T_BSMAX, and where it stands then. -/
def Mirror.run (c : LegCfg) : Nat → Nat → Nat → Mirror → List Nat × Mirror
  | 0, _, _, m => ([], m)
  | fuel + 1, at_, dt, m =>
    if dt ≤ m.wait then ([], { m with wait := m.wait - dt })
    else
      let t := dt - m.wait
      match m.pos with
      | .off => ([], { m with wait := 0 })
      | .low => ([], { m with wait := 0, low := m.low + t })
      | .high =>
        if m.on + t ≤ c.tbs then ([], { m with wait := 0, on := m.on + t })
        else
          let o := at_ + m.wait + (c.tbs - m.on)
          let r := Mirror.run c fuel o (t - (c.tbs - m.on)) { m with wait := c.took, on := 0 }
          (o :: r.1, r.2)

/-- The counter through the edges of a period of length p: the offsets of the refreshes, and the counter at the end (R241). -/
def Mirror.walk (c : LegCfg) (p : Nat) : Nat → List (Nat × Bool) → Mirror → List Nat × Mirror
  | at_, [], m => m.run c 64 at_ (p - at_)
  | at_, (t, high) :: rest, m =>
    let t := min (max at_ t) p
    let a := m.run c 64 at_ (t - at_)
    let b := Mirror.walk c p t rest (a.2.edge c high)
    (a.1 ++ b.1, b.2)

/-- The edges of a leg's letters: offset, and whether the leg goes high. -/
def edgesOf (l : List EdgeLet) : List (Nat × Bool) := (l.filter fun e => e.state = 1 || e.state = 2).map fun e => (e.offset, e.state = 1)

/-- The edges of both legs of a coil, or their counters. -/
abbrev Legs (α : Type) := α × α

/-- The refreshes of both legs in a period of length p, as (offset, time taken), and the counters at its end. -/
def refreshesOf (cfg : Legs LegCfg) (m : Legs Mirror) (p : Nat) (e : Legs (List (Nat × Bool))) : List (Nat × Nat) × Legs Mirror :=
  let a := m.1.walk cfg.1 p 0 e.1
  let b := m.2.walk cfg.2 p 0 e.2
  (a.1.map (·, cfg.1.took) ++ b.1.map (·, cfg.2.took), a.2, b.2)

/-- A planned period: its schedule, whether the coil is at the voltage limit, its predicted refreshes, the counters at its end. -/
structure PlanOut where
  sched : Sched
  limited : Bool
  refreshes : List (Nat × Nat)
  ends : Legs Mirror
  deriving DecidableEq, Repr

/-- The intervals of a period from its net drive time x, in the bridge state `dir`: each predicted refresh takes its time from t_av and
lengthens the interval that it falls into (R195); `edges` are those that a schedule posts, `n1` and `n2` the times so added. -/
def planFrom (cfg : Legs LegCfg) (m : Legs Mirror) (edges : Sched → Legs (List (Nat × Bool))) (x minInt p : Nat) (dir : Int) :
    Nat → Nat → Nat → PlanOut
  | fuel, n1, n2 =>
    let (a, b, lim) := intervals x (p - (n1 + n2)) minInt
    let s : Sched := [(a + n1, dir), (b + n2, -dir), (p - (a + n1 + b + n2), 0)].filter fun e => e.1 ≠ 0
    let (refs, ends) := refreshesOf cfg m p (edges s)
    let took (f : Nat → Bool) : Nat := (refs.filter fun e => f e.1).foldl (fun t e => t + e.2) 0
    let m1 := took fun o => decide (o < a + n1)
    let m2 := took fun o => decide (a + n1 ≤ o)
    let out : PlanOut := { sched := s, limited := lim, refreshes := refs, ends := ends }
    match fuel with
    | 0 => out
    | fuel + 1 => if m1 = n1 ∧ m2 = n2 then out else planFrom cfg m edges x minInt p dir fuel m1 m2

/-- The net drive time for volt-seconds lam on a bus, 1/4 ns, signed along the direction s (R189); with no bus voltage, beyond any
period (the manual states no quotient). -/
def netDrive (lam vbus : Rat) (s : Int) (p : Nat) : Int :=
  if lam = 0 then 0
  else if vbus ≤ 0 then (if 0 < lam then s else -s) * (p + 1)
  else
    let x := rabs lam / vbus * 4000000000
    (if 0 < lam then s else -s) * rfloor (x + 1 / 2)

/-- The last instant of a schedule (1/4 ns from its start) at which a current lies farther than `band` from i1, the current taken as a
straight line between substeps; none where it never does (R204). -/
def CoilModel.lastOut (m : CoilModel) (vbus e i1 band : Rat) : Sched → Nat → Rat → Option Rat → Option Rat
  | [], _, _, out => out
  | (t, b) :: rest, at_, i, out =>
    let h : Rat := (t : Rat) / 16
    let r := (List.range 16).foldl (fun (x : Rat × Option Rat) (k : Nat) =>
      let j := m.step x.1 (b * vbus) e (h / 4000000000)
      let from_ : Rat := (at_ : Rat) + h * k
      let edge := if i1 < x.1 then i1 + band else i1 - band
      (j, if band < rabs (j - i1) then some (from_ + h)
          else if band < rabs (x.1 - i1) then some (from_ + h * ((edge - x.1) / (j - x.1)))
          else x.2)) (i, out)
    CoilModel.lastOut m vbus e i1 band rest (at_ + t) r.1 r.2

/-! ## Transitions: posted instants, keep-out windows, edge letters (R184, R186, R231) -/

/-- The state of a leg in a bridge state: high or low. -/
def legHigh (left : Bool) (b : Int) : Bool := if left then b = 1 else b = -1

/-- The instant at which a leg's edge is posted so that the node moves at t (R184): the dead time counts where the current flows in the
diode that keeps the node, and V_DIODE counts through the dead time. -/
def postAt (t : Int) (up : Bool) (iLeg : Rat) (dead : Nat) (diode : Rat) : Int :=
  let late := if up then decide (0 ≤ iLeg) else decide (iLeg < 0)
  let d := rround (diode * dead)
  if late then t - dead - d else t + d

/-- What the placing of a period's transitions takes from the objects: both legs, V_DIODE as a part of the bus voltage, I_FS, the keep-out
windows, MIN_INT and the length, 1/4 ns. -/
structure Placing where
  cfg : Legs LegCfg
  diode : Rat
  iFs : Rat
  wins : List (Int × Int)
  minInt : Int
  p : Int
  deriving DecidableEq, Repr

/-- A transition of the bridge as posted: the instant at which the node moves, the states before and after, and the edge of each leg that
it moves: its instant, high or low, and whether the turn-off controls it (R231). -/
structure Moved where
  t : Int
  before : Int
  after : Int
  left : Option (Nat × Bool × Bool)
  right : Option (Nat × Bool × Bool)
  deriving DecidableEq, Repr

/-- The edge of one leg at a transition at t, with the coil current i there: the posted instant, and what it lacks because none is posted
before the period start, which is added to the leg's next edge. -/
def Placing.edge (x : Placing) (left : Bool) (carry t b0 b1 : Int) (i : Rat) : Option (Int × Int) :=
  if legHigh left b0 = legHigh left b1 then none
  else
    let want := postAt t (legHigh left b1) (if left then i else -i) (if left then x.cfg.1 else x.cfg.2).dead x.diode + carry
    some (max 0 want, max 0 want - want)

/-- The turn-off controls an edge: the leg's current is at least 5 % of I_FS and flows in the device that turns off (R231). -/
def Placing.turnOff (x : Placing) (left : Bool) (b1 : Int) (i : Rat) : Bool :=
  let iLeg := if left then i else -i
  decide (x.iFs / 20 ≤ rabs iLeg) && (if legHigh left b1 then decide (iLeg < 0) else decide (0 < iLeg))

/-- By how much a transition whose edges are posted at `us` moves (R186): 0 where none of them lies in a window; else to the nearer
instant at which all lie outside every window, the later on a tie; to the other one where the first is not `ok`; nowhere where neither is. -/
def keepOut (wins : List (Int × Int)) (ok : Int → Bool) (us : List Int) : Int :=
  let inside (u : Int) : Bool := wins.any fun w => w.1 < u && u < w.2
  if ¬ us.any inside then 0
  else
    let cand := (wins.flatMap fun w => us.flatMap fun u => [w.1 - u, w.2 - u]).filter fun x => !us.any fun u => inside (u + x)
    let back := (cand.filter (· < 0)).max?
    let on := (cand.filter (0 < ·)).min?
    let nearBack : Bool := match back, on with
      | some b, some o => b.natAbs < o.natAbs
      | some _, none => true
      | none, _ => false
    let order := if nearBack then back.toList ++ on.toList else on.toList ++ back.toList
    (order.find? ok).getD 0

/-- The transitions of a period, each with the coil current there, posted and moved out of the keep-out windows. The first interval begins
at the period start: it is 0 long or at least MIN_INT. -/
def Placing.place (x : Placing) : Int → Int → Int → List ((Int × Int × Int) × Rat) → List Moved
  | _, _, _, [] => []
  | prev, carryL, carryR, ((t, b0, b1), i) :: rest =>
    let l := x.edge true carryL t b0 b1 i
    let r := x.edge false carryR t b0 b1 i
    let us := (l.toList ++ r.toList).map (·.1)
    let next := (rest.head?.map (·.1.1)).getD x.p
    let ok (v : Int) : Bool :=
      us.all (fun u => decide (0 ≤ u + v)) && (prev + x.minInt ≤ t + v || (prev = 0 && t + v = 0)) && decide (t + v + x.minInt ≤ next)
    let v := keepOut x.wins ok us
    let out (left : Bool) (e : Option (Int × Int)) : Option (Nat × Bool × Bool) :=
      e.map fun e => ((e.1 + v).toNat, legHigh left b1, x.turnOff left b1 i)
    { t := t + v, before := b0, after := b1, left := out true l, right := out false r } ::
      Placing.place x (t + v) ((l.map (·.2)).getD carryL) ((r.map (·.2)).getD carryR) rest

/-- The edges of one leg in a list of posted transitions. -/
def legMoves (left : Bool) (l : List Moved) : List (Nat × Bool × Bool) := l.filterMap fun m => if left then m.left else m.right

/-- A leg's letters end with LAST; without an edge one commit-only letter stands (R254). -/
def withLast (gen tag : Nat) (l : List EdgeLet) : List EdgeLet :=
  match l.getLast? with
  | some e => l.dropLast ++ [{ e with last := true }]
  | none => [{ state := 3, gen := gen, ptag := tag, last := true }]

/-- The edge letters of one leg; `first` sets it at offset 0 where no bridge state came before. -/
def legLetters (left : Bool) (gen tag : Nat) (first : Option Int) (l : List Moved) : List EdgeLet :=
  let st (high : Bool) : Nat := if high then 1 else 2
  let head : List EdgeLet := match first with
    | some b => [{ state := st (legHigh left b), gen := gen, ptag := tag }]
    | none => []
  withLast gen tag (head ++ (legMoves left l).map fun (o, high, turnOff) =>
    { state := st high, ctrl := turnOff.toNat, gen := gen, ptag := tag, last := false, offset := o })

end Sys2Proof.Machine
end

