-- ==== Sys2Proof/Machine/Engine.lean ====
section
/-! DEFINITION. The axis engine: sampling, the bus voltage, the job of a coil, its completion (chapter 06, R34, R35, R47 to R49, R52).
Conventions of the model: DEDUCED: log 7, 41, 42, 44; DESIGN CHOICE: log 83. -/

namespace Sys2Proof.Machine

/-! ## Scales -/

/-- The ADC gain of a quarter and its shunt in ohm (R179). -/
def Dev.gain (d : Dev) (q : Nat) : Nat := 2 ^ d.rd (K.GAIN q)
def Dev.shunt (d : Dev) (q : Nat) : Rat := (d.rd (K.RSHUNT q) : Nat) / 1000000

/-- I_FS of a quarter, A (R179). -/
def Dev.ifs (d : Dev) (q : Nat) : Rat := 1 / 5 / (d.gain q * d.shunt q)

/-- Command counts and amperes (R179). -/
def Dev.toAmps (d : Dev) (q : Nat) (counts : Rat) : Rat := counts * d.ifs q / 16383
def Dev.toCounts (d : Dev) (q : Nat) (i : Rat) : Int := clampI (-32768) 32767 (rround (i / d.ifs q * 16383))

/-- The coil current of an ADC code, A, with the coil's offset (R179, Table 6-8). -/
def Dev.codeAmps (d : Dev) (c : Nat) (code : Int) : Rat :=
  ((code : Rat) - (d.coil c).offset) / 4 / (d.gain (c / 8) * 8192) / d.shunt (c / 8)

/-- The bus voltage that a job uses, V (R196). -/
def Dev.busVolts (d : Dev) (q : Nat) : Rat := (d.rd (K.VBUS q) : Nat) / 100

/-- MODEL_DEFAULT of axis n (Table 6-7). -/
def Dev.modelDefault (d : Dev) (n : Nat) : Bool := d.bit (K.CC_STATUS n) 4

/-- The model of coil c: the defaults of 0x4401, flat, or the identified tables with R_live (R188, R193, R201). -/
def Dev.coilModel (d : Dev) (c : Nat) : CoilModel :=
  let n := c / 2
  if d.modelDefault n then { r := (d.rd (K.R_DEF n) : Nat) / 1000000, table := [(d.rd (K.L_DEF n) : Nat) / 1000000000], istep := 0 }
  else
    let key (i : Nat) : Nat := if c % 2 = 0 then K.L_A n i else K.L_B n i
    { r := (d.coil c).rLive, table := (List.range 16).map fun i => (d.rd (key i) : Nat) / 1000000000,
      istep := (d.rd (K.ISTEP n) : Nat) / 1000000 }

/-- T_BSMAX, T_REFRESH and DEAD_TIME of a leg as the controller holds them. -/
def Dev.legCfg (d : Dev) (l : Nat) : LegCfg :=
  { tbs := 4000 * d.rd (K.T_BSMAX l), tref := 4 * d.rd (K.T_REFRESH l), dead := 4 * d.rd (K.DEAD_TIME l) }
def Dev.coilCfg (d : Dev) (c : Nat) : Legs LegCfg := (d.legCfg (2 * c), d.legCfg (2 * c + 1))

/-! ## Sampling (R185) -/

/-- A quarter's sampling instants, ticks from a period start, from its settings as `val` gives them. -/
def Dev.sposBy (d : Dev) (val : Nat → Nat) (q : Nat) : List Nat :=
  ([K.SPOS1 q, K.SPOS2 q, K.SPOS3 q, K.SPOS4 q].take (val (K.NSAMP q))).map fun k => val k * d.rd (K.PERIOD q) / 1024

/-- The quarter's sampling instants as the controller holds them. -/
def Dev.spos (d : Dev) (q : Nat) : List Nat := d.sposBy d.rd q

/-- The sampling instants of a coil, ticks from its period start: the fixed ones of a test period (R199), else its quarter's. -/
def Dev.samplePosBy (d : Dev) (val : Nat → Nat) (c : Nat) : List Nat :=
  let p := d.rd (K.PERIOD (c / 8))
  if (d.coil c).testNow then
    [1, 3, 5, 7].map fun k => (2 * k * p + 16) / 32
  else d.sposBy val (c / 8)
def Dev.samplePos (d : Dev) (c : Nat) : List Nat := d.samplePosBy d.rd c

/-- The coil whose instants a channel uses: its own, for channel 8 the one that patching assigned or is assigning (R409), else each coil
of the quarter in turn for 1 s (Table 15-2), the turns counted from power-up (log 83). -/
def Dev.sampledCoil (d : Dev) (q ch : Nat) : Option Nat :=
  if ch < 8 then some (8 * q + ch)
  else if ch = 8 then
    (match Tab.find d.fray.adc q with
     | some (c, _, _) => some c
     | none => let j := d.rd (K.ADC_MAP q) % 16; some (8 * q + if j < 8 then j else d.now / 1000000000 % 8))
  else none

/-- SAMPLE_INSTANT (R185): at a sampling instant of the coil the channel takes a code; its conversion completes 100 ns later. -/
def execSampleInstant (q ch : Nat) (code : Int) (s : State) : Host.Outcome State Fault Refusal := gated s <|
  onDev s fun d =>
    match d.sampledCoil q ch with
    | some c =>
      let r := d.coil c
      if d.hasQuarter q ∧ r.running ∧ r.begun ∧ (d.samplePosBy (d.setting q) c).contains (d.ticks - r.start) then
        let x := d.quarter q
        d.setQuarter q { x with converting := Tab.put x.converting ch (clampI (-8192) 8191 code, 4 * d.nt, d.now + 100) }
      else d
    | none => d

/-- CONVERSION_COMPLETE (R185): the sample leaves over the seam, tagged with its instant. -/
def execConversionComplete (q ch : Nat) (s : State) : Host.Outcome State Fault Refusal := gated s <|
  onDev s fun d =>
    let x := d.quarter q
    match Tab.find x.converting ch with
    | some (code, ts, e) =>
      if d.hasQuarter q ∧ e ≤ d.now + 7 then
        (d.setQuarter q { x with converting := Tab.del x.converting ch }).emit (.sample q ch code ts)
      else d
    | none => d

/-! ## Bus voltage (R196, R197) -/

/-- An event of the bus of a quarter (Table 6-15). -/
def Dev.busEvent (d : Dev) (q type v : Nat) : Dev := d.quarterEvent q type 0x5001 (le 2 v ++ le 2 0 ++ le 8 d.nt)

/-- The bits of the voltage flags for the axes of a quarter: CLAMPED (Table 6-7). -/
def Dev.showClamp (d : Dev) (q : Nat) (on : Bool) : Dev :=
  (quarterAxes q).foldl (fun d n => d.setBit (K.CC_STATUS n) 6 on) (d.setBit (K.BUS_FLAGS q) 1 on)

/-- A leg of a clamped coil goes low, unless a latch or the safe state holds it off; its letters and go set are discarded. The clamp's edge
ends the pattern of a running period. -/
def Dev.clampLeg (d : Dev) (l : Nat) : Dev :=
  let shut := d.isSafe (l / 16) || d.bit (K.LEG_FLAGS l) 2
  let c := d.coil (l / 2)
  let r := d.leg l
  let at_ := 32 * c.start
  let before := r.pattern.filter fun e => at_ + e.offset < d.nowQ
  let pattern := if c.running ∧ c.begun then before ++ [{ state := 2, offset := d.nowQ - at_ }] else []
  let d := (d.setLeg l { r with due := [], refresh := none, pattern := pattern, goRun := [] }).dropLetters l
  if shut then d else d.edgeSet l .low d.nowQ (r.gate ≠ .high || r.gateEnd ≤ d.nowQ)

/-- The engine reconstructs with slow decay from the clamp's onset on (R197); what has been posted for the coil is gone. -/
def Dev.clampSched (d : Dev) (c : Nat) : Dev :=
  let r := d.coil c
  let p := 32 * d.rd (K.PERIOD (c / 8))
  let ran := match r.ran with
    | x :: rest => { x with sched := Sched.window x.sched 0 (d.nowQ - x.at_) ++ [(32 * r.nextAt - d.nowQ, 0)] } :: rest
    | [] => []
  if r.running then
    d.setCoil c { r with ran := if r.begun then ran else r.ran, goFrom := none, goSched := [], goPosted := [], posted := none, computed := [(p, 0)] }
  else d

/-- Every coil of a quarter is clamped to slow decay, where it is not yet (R197). -/
def Dev.clampCoils (d : Dev) (q : Nat) : Dev :=
  let held := (d.quarter q).clamp
  let d := d.setQuarter q { d.quarter q with clamp := 255 }
  ((List.range 8).filter fun j => !held.testBit j).foldl (fun d j =>
    let c := 8 * q + j
    ((d.clampLeg (2 * c)).clampLeg (2 * c + 1)).clampSched c) d

/-- OV_CLAMP (R197): a sample of VBSq above VBUS_OV. -/
def Dev.clampOn (d : Dev) (q v : Nat) : Dev :=
  let held := d.bit (K.BUS_FLAGS q) 1
  let d := (quarterAxes q).foldl (fun d n => d.identFail n 8) (d.clampCoils q)
  if held then d
  else
    let d := ((d.showClamp q true).count (K.CLAMPS q)).raiseOn (0x141 + 0x10 * q) d.nt
    (d.emit (.report q .clamp d.nt)).busEvent q 0x0142 v

/-- VBUS_SAMPLE (R196, R197): the 1 us average, which is the one sample of that microsecond; undervoltage, the clamp, the time below
its release threshold. -/
def execVbusSample (q v : Nat) (s : State) : Host.Outcome State Fault Refusal := gated s <|
  onDev s fun d =>
    if ¬ d.hasQuarter q ∨ ¬ d.fab.ready then d
    else
      let r := d.quarter q
      let ov := d.effQ q (K.VBUS_OV q)
      let below := if v + 100 < ov then some (r.belowOv.getD d.now) else none
      let d := d.setQuarter q { r with vbus := v, belowOv := below }
      let d := d.setBit (K.BUS_FLAGS q) 2 (8000 ≤ v)
      let uv := d.bit (K.BUS_FLAGS q) 0
      let low := d.effQ q (K.VBUS_UV q)
      let d := if v < low ∧ ¬ uv then
          ((d.setBit (K.BUS_FLAGS q) 0 true).busEvent q 0x0140 v).raiseOn (0x140 + 0x10 * q) d.nt
        else if uv ∧ low + 50 < v then ((d.setBit (K.BUS_FLAGS q) 0 false).busEvent q 0x0141 v).raiseOff (0x140 + 0x10 * q)
        else d
      let d := if d.bit (K.BUS_FLAGS q) 0 then (quarterAxes q).foldl (fun d n => d.identFail n 6) d else d
      if ov < v then d.clampOn q v else d

/-- OV_CLAMP_RELEASE (R197): at a period boundary of coil c, once VBUS has stayed below VBUS_OV - 1.0 V for 100 us. A coil whose periods
do not run has no boundary to wait for. The legs of a coil that is not regulated go off again. -/
def execOvClampRelease (c : Nat) (s : State) : Host.Outcome State Fault Refusal := gated s <|
  onDev s fun d =>
    let q := c / 8
    let x := d.quarter q
    let r := d.coil c
    match x.belowOv with
    | some t =>
      if d.hasCoil c ∧ x.clamp.testBit (c % 8) ∧ t + 100000 ≤ d.now + 7 ∧ (¬ r.running ∨ r.nextAt = d.ticks ∨ r.start = d.ticks) then
        let x := { x with clamp := withBit x.clamp (c % 8) false }
        let d := d.setQuarter q x
        let d := if d.regulates (c / 2) then d else (d.legOff (2 * c)).legOff (2 * c + 1)
        if x.clamp = 0 then ((d.showClamp q false).raiseOff (0x141 + 0x10 * q)).busEvent q 0x0143 x.vbus else d
      else d
    | none => d

/-! ## What has been executed (R188) -/

/-- The executed schedules of a coil from an instant to an end, with the reported refreshes as slow decay; `took` is the time that a
refresh of each leg takes. -/
def ranFrom (took : Nat → Nat) (refreshes : List (Nat × Nat)) (from_ to_ : Nat) : List Ran → Sched
  | [] => []
  | r :: rest =>
    let s := refreshes.foldl (fun (s : Sched) (e : Nat × Nat) =>
      if r.at_ ≤ e.2 ∧ e.2 < r.at_ + s.len then s.blank (e.2 - r.at_) (took e.1) else s) r.sched
    let older := if from_ < r.at_ then ranFrom took refreshes from_ (min to_ r.at_) rest else []
    if to_ ≤ r.at_ then older else older ++ s.window (from_ - r.at_) (to_ - max from_ r.at_)

/-- The keep-out windows of a coil in a period, from its start, 1/4 ns: those of its own samples and of the neighbouring periods'. -/
def Dev.keepOuts (d : Dev) (c : Nat) : List (Int × Int) :=
  let q := c / 8
  let p : Int := 32 * d.rd (K.PERIOD q)
  let settle : Int := 4 * d.rd (K.SETTLE q)
  (d.spos q).flatMap fun t => [-p, 0, p].map fun o => ((32 * t : Nat) + o - settle, (32 * t : Nat) + o + 80)

/-- A sample at an instant is disturbed: an edge posted for the coil or a refresh lies in its keep-out window (R186). -/
def disturbed (settle : Int) (edges : List Int) (refreshes : List (Int × Int)) (t : Int) : Bool :=
  edges.any (fun e => t - settle < e && e < t + 80) || refreshes.any fun e => t - settle < e.2 && e.1 < t + 80

/-- The samples of a coil that wait for its job: those that can be used as (current, code, instant), and of the unusable ones how many and
whether one was overrange or disturbed. -/
structure Samples where
  ok : List (Rat × Int × Nat)
  unused : Nat
  over_ : Bool
  dist : Bool
  deriving DecidableEq, Repr

/-- The instants of the edges of coil c: those of the running period's patterns, and where its earlier schedules turn (device time,
1/4 ns). -/
def Dev.edgeTimes (d : Dev) (c : Nat) : List Int :=
  let r := d.coil c
  let mine : List Int := (coilLegs c).flatMap fun l => (edgesOf (d.leg l).pattern).map fun e => ((32 * r.start + e.1 : Nat) : Int)
  let older : List Int := (r.ran.drop 1).flatMap fun x => (Sched.turns ((x.sched.head?.map (·.2)).getD 0) 0 x.sched).map fun e => e.1 + x.at_
  mine ++ older

/-- The samples waiting for the job of coil c, judged (R187). -/
def Dev.judgeSamples (d : Dev) (c : Nat) : Samples :=
  let r := d.coil c
  let settle : Int := 4 * d.rd (K.SETTLE (c / 8))
  let edges := d.edgeTimes c
  let refs : List (Int × Int) := r.refreshes.map fun e => ((e.2 : Int), ((e.2 + (d.legCfg e.1).took : Nat) : Int))
  r.samples.foldl (fun (x : Samples) e =>
    if e.1 = -8192 ∨ e.1 = 8191 then { x with unused := x.unused + 1, over_ := true }
    else if disturbed settle edges refs e.2 then { x with unused := x.unused + 1, dist := true }
    else { x with ok := x.ok ++ [(d.codeAmps c e.1, e.1, e.2)] }) { ok := [], unused := 0, over_ := false, dist := false }

/-! ## Projection (R34) -/

/-- The commanded velocity of axis n, ust/s. -/
def Dev.vCmd (d : Dev) (n : Nat) : Rat := ((d.mot n).vel : Rat) / 16000000000000

/-- The commanded position at a later instant of device time (1/4 ns), 2^-32 ust: from the rate multiplier, velocity and acceleration in
force now. -/
def Dev.posProject (d : Dev) (n t : Nat) : Rat :=
  let m := d.mot n
  let dt : Rat := (((t : Int) - d.nowQ : Int) : Rat) / 4000000000
  let v : Rat := (m.vOut : Rat) / 16
  let a : Rat := (m.acc : Rat) / 16000000
  (m.p : Rat) + 4294967296 * (v * dt + a * dt * dt / 2)

/-- NT in ns of a device time in 1/4 ns. -/
def Dev.qToNt (d : Dev) (t : Nat) : Nat := d.nt + t / 4 - d.now

/-- The commanded position at a later instant (device time, 1/4 ns): the running play's, else projected. -/
def Dev.cmdAt (d : Dev) (mem : List Host.Cell) (n t : Nat) : Rat :=
  match (d.mot n).play with
  | some r => playPos r (d.playPoints mem r) (65536 * d.qToNt t)
  | none => d.posProject n t

/-- The play whose timeline a period follows that reaches the instant t (NT, ns; R173): the one of a start that waits in the inbox and acts
or preempts by then, else the running one. -/
def Dev.playFor (d : Dev) (mem : List Host.Cell) (n t : Nat) : Option PlayRt :=
  let coming := if (d.mot n).goWait.isSome then none
    else ((d.axis n).inbox.find? fun l => l.action = 4 && !l.queued && decide (l.due ≤ t)).bind fun l =>
      match d.meetsNow n l with
      | .acts | .preempts =>
        some { d.playOf l false with start := 65536 * l.due, pos0 := rfloor (d.cmdAt mem n (d.ntToQ (4 * l.due))) }
      | _ => none
  coming.orElse fun _ => (d.mot n).play.filter fun r => r.start ≤ 65536 * t

/-- The electrical angle aimed at for an instant (device time, 1/4 ns). -/
def Dev.angleAt (d : Dev) (mem : List Host.Cell) (n t : Nat) : Nat :=
  let p : Rat := match d.playFor mem n (d.qToNt t) with
    | some r => playPos r (d.playPoints mem r) (65536 * d.qToNt t)
    | none => d.posProject n t
  ((rfloor (p / 4294967296)) % 4096).toNat

/-! ## Amplitude (Table 7-2, R219 to R224) -/

/-- A slew toward a goal (R220). -/
def slew (up down x goal : Nat) (mayRise : Bool := true) : Nat :=
  if x < goal then (if mayRise then min goal (x + up) else x) else max goal (x - down)

/-- The amplitude of a play at the cadence of the job's start, or at its start where that lies later (R163). -/
def Dev.ampOfPlay (d : Dev) (mem : List Host.Cell) (n : Nat) (r : PlayRt) : Nat :=
  let at_ := max r.start (65536 * (d.nt - d.nt % 1000))
  let a := (rfloor (playAmp r (d.playPoints mem r) (d.rd (K.I_STR n)) at_)).toNat
  min (min a 16383) (d.rd (K.I_MAX n))

/-- The run amplitude I_STR, one period of coil A on (R219, R220); frozen in Faulted (R337). -/
def Dev.stretch (d : Dev) (n : Nat) : Dev :=
  let st := d.axState n
  let iRun := d.eff n (K.I_RUN n)
  let iMax := d.rd (K.I_MAX n)
  let now := d.rd (K.I_STR n)
  let goal :=
    if st = axHolding ∨ st = axResting then iRun
    else if st ≠ axMoving then now
    else if d.eff n (K.STR_EN n) = 0 then iRun
    else if ¬ d.bit (K.OBS_STATUS n) 1 then now
    else
      let t0 : Int := d.eff n (K.STR_T0 n)
      let span : Int := d.eff n (K.STR_T1 n) - t0
      let over_ : Rat := rmax 0 (rmin span (rabs (d.axis n).eng.thetaF - t0))
      let low : Int := d.eff n (K.I_RUN_MIN n)
      (low + rfloor ((iMax - low : Int) * over_ / span)).toNat
  let new := slew (d.eff n (K.STR_UP n)) (d.eff n (K.STR_DOWN n)) now goal (4096 ≤ d.rd (K.AMP_FACTOR n))
  let d := d.wr (K.I_STR n) new
  if new ≠ iMax ∨ st = axIdentifying then d
  else
    let d := d.count (K.STR_MAXED n)
    if now = iMax ∨ (d.axis n).eng.maxed then d
    else
      let d := d.setAxis n { d.axis n with eng := { (d.axis n).eng with maxed := true } }
      let d := d.setBit (K.LOAD_EVENTS n) 3 true
      if d.bit (K.LOAD_EVT_EN n) 3 then
        d.axisEvent n 0x0153 0x4410 d.nt (le 2 (d.rd (K.LOAD_FILT n)) ++ le 2 iMax ++ le 4 (d.rd (K.CMD_VEL n)))
      else d

/-- A wake that lies ahead reaches the period that starts at t (NT, ns): the earliest motion letter of the inbox has its wake instant by
then (R224). -/
def Dev.wakeAhead (d : Dev) (n t : Nat) : Bool :=
  d.axState n = axResting && match (d.axis n).inbox.find? startsMotion with
    | some l => decide (l.due ≤ t + 1000 * d.eff n (K.REST_WAKE n))
    | none => false

/-- The amplitude for the period of a coil that starts at t (device time, ns), with its source (Table 7-1) and the engine's ramp after
it. Coil A's jobs move the slews, which never rise below an AMP_FACTOR of 4,096 (R220); coil B's take what coil A's last job left. -/
def Dev.ampFor (d : Dev) (mem : List Host.Cell) (n t : Nat) (isA : Bool) : Nat × Nat × EngineRt :=
  let e := (d.axis n).eng
  let st := d.axState n
  let last := d.rd (K.I_AMP n)
  let up := d.eff n (K.STR_UP n)
  let down := d.eff n (K.STR_DOWN n)
  let may : Bool := 4096 ≤ d.rd (K.AMP_FACTOR n)
  let go (goal : Nat) : Nat := if isA then slew up down last goal may else last
  let woken : Bool := d.wakeAhead n (d.nt + t - d.now) || match e.wake with
    | some w => decide (w ≤ t)
    | none => false
  match d.playFor mem n (d.nt + t - d.now) with
  | some r => (d.ampOfPlay mem n r, 5, e)
  | none =>
    if woken ∧ (st = axResting ∨ st = axMoving) then (d.eff n (K.I_RUN n), 7, if st = axResting then e else { e with wake := none })
    else if st = axFaulted then (last, if d.regulates n then 8 else 0, e)
    else if st = axHolding then (go (d.eff n (K.I_RUN n)), 2, { e with ramp := none, wake := none })
    else if st = axMoving then
      let src := if d.eff n (K.STR_EN n) = 1 ∧ ¬ d.bit (K.OBS_STATUS n) 1 then 4 else 3
      (go (d.rd (K.I_STR n)), src, { e with ramp := none })
    else
      match e.ramp with
      | some (i0, rest, t0) =>
        let len := 1000000 * d.eff n (K.T_REST_RAMP n)
        if t - t0 < len then
          let x : Int := (i0 : Int) - ((i0 : Int) - rest) * (t - t0 : Nat) / len
          (x.toNat, 6, e)
        else if isA then (slew up down rest (d.eff n (K.I_REST n)) may, 6, { e with ramp := none })
        else (rest, 6, e)
      | none => (go (d.eff n (K.I_REST n)), 6, e)

/-! ## Identification inside a job (R198 to R200) -/

/-- What a job aims at: legs off, a test period in a sign, a target in counts that no factor scales, or the held vector at an amplitude, to
which the factor of R194 applies (R210). -/
inductive Aim where
  | off
  | test (sign : Int)
  | counts (i : Int)
  | held (amp : Rat)
  deriving DecidableEq, Repr

/-- The held vector of identification for an amplitude (R106): coil c's target, without trims (R178). -/
def Dev.heldTarget (d : Dev) (c : Nat) (amp : Rat) : Int :=
  let angle := ((d.mot (c / 2)).p / 4294967296 % 4096).toNat
  let (a, b) := coilTargets angle amp 0 4096
  if c % 2 = 0 then a else b

/-- The sign and the current of point k (1 to 16) of coil c, counts. -/
def Dev.pointSign (d : Dev) (c : Nat) : Int := if d.heldTarget c (d.axis (c / 2)).ident.iRun < 0 then -1 else 1
def pointCounts (iMax k : Nat) : Int := rround ((iMax * k : Nat) / 16)

/-- The measurements of a test period (R199): inductance, resistance and mean current along the point, from four samples. -/
def testMeasure (vbus p : Rat) (s : Rat) (i : List Rat) : Option (Rat × Rat × Rat) :=
  match i with
  | [a, b, c, e] =>
    let sD := s * (b - a) / (p / 8)
    let sF := s * (e - c) / (p / 8)
    let mean := s * (a + b + c + e) / 4
    let l := Config.engineRound (2 * vbus / (sD - sF))
    some (l, Config.engineRound (-(l * (sD + sF)) / (2 * mean)), mean)
  | _ => none

/-- The next point, or the end of a coil's points. -/
def Dev.nextPoint (d : Dev) (c : Nat) (i : IdentRt) : Aim × Dev :=
  let n := c / 2
  let i := { i with point := i.point + 1, approach := 0, testing := false }
  if (i.point - 1) / 16 ≠ c % 2 then (.held i.iRun, d.setAxis n { d.axis n with ident := i })
  else
    let i := { i with approach := 1, spent := i.spent + 1 }
    (.counts (d.pointSign c * pointCounts i.iMax ((i.point - 1) % 16 + 1)), d.setAxis n { d.axis n with ident := i })

/-- The stepping coil's job (R198, R199): i0 is the current at the end of the period that runs, `used` the samples of it. -/
def Dev.pointJob (d : Dev) (c : Nat) (i0 vbus : Rat) (used : List Rat) : Aim × Dev :=
  let n := c / 2
  let i := (d.axis n).ident
  let k := (i.point - 1) % 16 + 1
  let sg := d.pointSign c
  let goal := sg * pointCounts i.iMax k
  let goalA := d.toAmps (c / 8) goal
  let set (x : IdentRt) : Dev := d.setAxis n { d.axis n with ident := { x with spent := x.spent + 1 } }
  if i.testing ∧ ¬ (d.coil c).testNow then (.counts goal, set { i with testing := false, approach := 1 })
  else if i.testing then
    match testMeasure vbus ((8 * d.rd (K.PERIOD (c / 8)) : Nat) / 1000000000) sg used with
    | some (l, r, mean) =>
      let i := { i with ls := i.ls ++ [l] }
      let i := if c % 2 = 0 then { i with sumA := i.sumA + mean * mean * r, sumA2 := i.sumA2 + mean * mean }
        else { i with sumB := i.sumB + mean * mean * r, sumB2 := i.sumB2 + mean * mean }
      d.nextPoint c i
    | none => (.counts goal, set { i with testing := false, approach := 1 })
  else if i.approach = 0 then (.counts goal, set { i with approach := 1 })
  else if d.toAmps (c / 8) ((i.iMax : Rat) / 50) < rabs (i0 - goalA) ∧ i.approach ≤ 8 then
    (.counts goal, set { i with approach := i.approach + 1 })
  else if i0 * sg < goalA * sg / 10 then (.off, d.identFail n (2 + c % 2))
  else (.test sg, set { i with testing := true })

/-- The targets of coil c in test step m, and before it: the held vector at I_run before the first. -/
def Dev.stepTarget (d : Dev) (c m : Nat) : Int :=
  let n := c / 2
  if m = 0 then d.heldTarget c (d.axis n).ident.iRun
  else
    let w := d.rd (K.TEST_TGT_m n (m - 1))
    sext 16 (if c % 2 = 0 then w % 65536 else w / 65536)

/-- The time for which a test step holds, ns (R206). -/
def Dev.stepHold (d : Dev) (n : Nat) : Nat := d.rd (K.TEST_HOLD n) * 8 * d.rd (K.PERIOD (n / 4))

/-- The test step of a period that starts at t (device time, ns): the next one once the hold of the present one is over. -/
def Dev.stepAt (d : Dev) (n t : Nat) : Nat :=
  let i := (d.axis n).ident
  if i.stepStart ≠ 0 ∧ i.stepStart + d.stepHold n ≤ d.nt + t - d.now then i.step + 1 else i.step

/-- The amplitude of the held vector in a period of identification that starts at t (Table 6-8), device time in ns. -/
def IdentRt.ramp (i : IdentRt) (t : Nat) : Rat := (i.iRun : Rat) * (min 200000 (t - (8 * i.began + 100000)) : Nat) / 200000

/-- What the job of an axis in Identifying aims at, for the period that starts at t (device time, ns). -/
def Dev.identAim (d : Dev) (c t : Nat) (i0 vbus : Rat) (used : List Rat) : Aim × Dev :=
  let n := c / 2
  let i := (d.axis n).ident
  if (d.axis n).faultReq.isSome ∨ i.row = 0 ∨ t < 8 * i.began + 100000 then (.off, d)
  else if 8 * i.began + 20000000 < d.now ∧ i.row < 7 then (.off, d.identFail n 7)
  else if i.row < 6 ∧ 8 * i.began + 400000 ≤ t ∧ (i.point - 1) / 16 = c % 2 then d.pointJob c i0 vbus used
  else if i.row = 7 ∧ 1 ≤ d.stepAt n t ∧ d.stepAt n t ≤ d.rd (K.TEST_STEPS n) then (.counts (d.stepTarget c (d.stepAt n t)), d)
  else (.held (i.ramp t), d)

end Sys2Proof.Machine
end

