-- ==== Sys2Proof/Machine/Observer.lean ====
section
/-! DEFINITION. The load-angle observer, stall detection and the end-stop detector (chapter 07, R211 to R217; chapter 10, R294).
Conventions of the model: DEDUCED: log 7, 41; DESIGN CHOICE: log 90. -/

namespace Sys2Proof.Machine

/-- Pi. -/
def piRat : Rat := (twoPi96 : Rat) / (2 ^ 97 : Nat)

/-- The angle of commanded motion over a time in seconds, radians. -/
def Dev.phi (d : Dev) (n : Nat) (dt : Rat) : Rat := 2 * piRat * d.vCmd n * dt / 4096

/-- A vector turned by an angle in the sense of R191: component A and component B. -/
def turnA (a b phi : Rat) : Rat := Config.engineRound (a * Config.engineCos phi - b * Config.engineSin phi)
def turnB (a b phi : Rat) : Rat := Config.engineRound (b * Config.engineCos phi + a * Config.engineSin phi)

/-- An angle in 1/64 degree wrapped to (-180 deg, 180 deg]. -/
def wrapAngle (x : Int) : Int :=
  let y := x % 23040
  if 11520 < y then y - 23040 else y

/-- An angle in radians, in 1/64 degree. -/
def toAngle (x : Rat) : Int := rround (x * 11520 / piRat)

/-- The reconstructed period of a coil that contains an instant. -/
def CoilRt.periodOf (r : CoilRt) (t : Nat) : Option PeriodRec := r.past.find? fun x => x.t0 < t && t ≤ x.t1

/-- The current of coil c at an instant inside a reconstructed period (R188), A. -/
def Dev.currentAt (d : Dev) (c t : Nat) : Rat :=
  let r := d.coil c
  match r.periodOf t with
  | some x =>
    (d.coilModel c).project (d.busVolts (c / 8)) x.hat (ranFrom (fun l => (d.legCfg l).took) r.refreshes x.t0 t r.ran) x.iS
  | none => r.iEnd

/-- One observation of axis n (R211): the load angle in 1/64 degree, the back-EMF magnitude, V; blind where a period it uses is. -/
structure Observation where
  theta : Int
  mag : Rat
  blind : Bool
  deriving DecidableEq, Repr

/-- The observation of the period of coil A reconstructed last (R211). -/
def Dev.observation (d : Dev) (n : Nat) : Observation :=
  let a := d.coil (2 * n)
  let b := d.coil (2 * n + 1)
  match a.past, b.past with
  | x :: _, y :: _ =>
    let bal : Rat := (d.rd (K.BAL_TRIM n) : Nat) / 4096
    let off := d.phi n ((((x.t1 : Int) - y.t1 : Int) : Rat) / 4000000000)
    let eAt := ((a.periodOf y.t1).map (·.e)).getD x.e
    let iB := turnB (d.currentAt (2 * n) ((y.t0 + y.t1) / 2)) ((y.iS + y.iE) / 2 / bal) off
    let eB := turnB eAt (y.e / bal) off
    let gi := toAngle (Config.engineAtan2 iB ((x.iS + x.iE) / 2))
    let ge := toAngle (Config.engineAtan2 eB x.e)
    let sv : Int := if 0 < d.vCmd n then 1 else if d.vCmd n < 0 then -1 else 0
    { theta := wrapAngle (sv * wrapAngle (gi - ge) + 5760), mag := Config.engineSqrt (x.e * x.e + eB * eB), blind := x.blind || y.blind }
  | _, _ => { theta := 0, mag := 0, blind := true }

/-- The first condition of R212 that fails (INVALID_CAUSE 1 to 7), or 0. -/
def Dev.disqualified (d : Dev) (n : Nat) (blind : Bool) : Nat :=
  let e := (d.axis n).eng
  let v := d.vCmd n
  let qual := field (d.rd (K.OBS_STATUS n)) 11 8
  if d.axState n ≠ axMoving then 1
  else if 16 * rabs v < (d.eff n (K.V_OBS n) : Nat) then 2
  else if qual ≠ 0 ∧ rsign v ≠ (e.qualSign : Rat) then 3
  else if blind then 4
  else if d.bit (K.BUS_FLAGS (n / 4)) 1 then 5
  else if d.rd (K.I_AMP n) < 820 then 6
  else if d.modelDefault n then 7
  else 0

/-- k_e learns (R214). -/
def Dev.learnKe (d : Dev) (n : Nat) (theta : Int) (mag : Rat) : Dev :=
  let a := d.axis n
  let e := a.eng
  let v := rabs (d.vCmd n)
  if 16 * v < (4 * d.eff n (K.V_OBS n) : Nat) ∨ d.eff n (K.THETA_STALL n) ≤ 2 * theta.natAbs then d
  else
    let x := mag / v
    let ke := if e.keCount = 0 then Config.engineRound x else Config.engineRound (e.ke + (x - e.ke) / 64)
    let d := d.setAxis n { a with eng := { e with ke := ke, keCount := min 64 (e.keCount + 1) } }
    let d := d.wr (K.KE n) (clampI 0 (2 ^ 32 - 1) (rround (ke * 1000000000))).toNat
    if 63 ≤ e.keCount then d.setBit (K.OBS_STATUS n) 2 true else d

/-- The observer of R212 and R213 for one period: validity, angle, filter, k_e. EMF_MAG shows E of a period that was measured
(`measured`: the legs carried current in it). -/
def Dev.observe (d : Dev) (n : Nat) (measured : Bool) : Dev :=
  let o := d.observation n
  let d := if measured then d.wr (K.EMF_MAG n) (clampI 0 65535 (rround (o.mag * 256))).toNat else d
  let st := d.rd (K.OBS_STATUS n)
  let valid := st.testBit 1
  let bad := d.disqualified n o.blind
  if bad ≠ 0 then
    let d := d.wr (K.OBS_STATUS n) (withField (withField (withBit st 1 false) 7 4 bad) 11 8 0)
    let d := d.setAxis n { d.axis n with eng := { (d.axis n).eng with qualSign := 0 } }
    if valid then
      d.loadEvent n 1 (le 4 (d.rd (K.CMD_VEL n)) ++ le 1 bad ++ le 1 0 ++ le 2 (d.rd (K.I_STR n)))
    else d
  else
    let qual := min 8 (field st 11 8 + 1)
    let a := d.axis n
    let sg : Int := if 0 < d.vCmd n then 1 else -1
    let now := qual = 8
    let filt : Rat := (d.eff n (K.OBS_FILT n) : Nat) / 256
    let f : Rat := if valid then Config.engineRound (a.eng.thetaF + filt * (o.theta - a.eng.thetaF)) else o.theta
    let st := withField (withField (withBit st 1 now) 7 4 (if now then 0 else 8)) 11 8 qual
    let d := d.setAxis n { a with eng := { a.eng with qualSign := sg, thetaF := if now then f else a.eng.thetaF } }
    if ¬ now then d.wr (K.OBS_STATUS n) st
    else
      let d := d.wrs [(K.OBS_STATUS n, withBit st 0 false), (K.LOAD_ANGLE n, enc 16 o.theta), (K.LOAD_FILT n, enc 16 (rround f)),
        (K.LA_MAX n, max (d.rd (K.LA_MAX n)) o.theta.natAbs)]
      let d := d.learnKe n o.theta o.mag
      if valid then d
      else d.loadEvent n 0 (le 4 (d.rd (K.CMD_VEL n)) ++ le 2 (enc 16 o.theta) ++ le 2 (d.rd (K.I_AMP n)))

/-- The end-stop detector runs: homing by methods 12 and 13 (R294). -/
def Dev.endStop (d : Dev) (n : Nat) : Bool := (d.home n).running && 12 ≤ d.rd (K.METHOD n)

/-- The commanded position at the end of a period (device time, 1/4 ns), 1/65,536 ust. -/
def Dev.posAtEnd (d : Dev) (n t : Nat) : Int := rfloor (d.posProject n t / 65536)

/-- The end-stop detector for one period that ends at t (R294). -/
def Dev.endStopStep (d : Dev) (n t : Nat) : Dev :=
  let h := d.home n
  if ¬ d.endStop n ∨ h.found.isSome ∨ h.phase ≠ 3 then d
  else if ¬ d.bit (K.OBS_STATUS n) 1 then d.setHome n { h with count := 0 }
  else
    let theta := d.rdI 16 (K.LOAD_ANGLE n)
    let count := if d.eff n (K.THETA_STALL n) < theta.natAbs then h.count + 1 else 0
    let sg : Int := if 0 < d.vCmd n then 1 else -1
    if d.eff n (K.N_STALL n) ≤ count then
      let p := d.posAtEnd n t - rfloor (((sg * theta * 65536 * 8 : Int) : Rat) / 45)
      d.setHome n { h with count := count, found := some (p, d.encPosOf n (d.encCnt n)) }
    else d.setHome n { h with count := count }

/-- Stall detection is armed (R216). -/
def Dev.stallArmed (d : Dev) (n : Nat) : Bool :=
  let mode := field (d.rd (K.STATUS n)) 7 5
  d.eff n (K.STALL_EN n) = 1 && d.bit (K.OBS_STATUS n) 1 && d.axState n = axMoving && !(d.mot n).stallSeen && !d.endStop n &&
    (mode = 1 || mode = 2 || mode = 3 || mode = 5 || (mode = 4 && d.eff n (K.PLAY_STALL n) = 1))

/-- STALL_DECLARED (R217): for the period that ends at t (device time, 1/4 ns). -/
def Dev.declareStall (d : Dev) (n t cause : Nat) : Dev :=
  let pos := enc 64 (d.posAtEnd n t)
  let react := d.eff n (K.STALL_REACT n)
  let d := d.wrs [(K.STALL_NT n, d.qToNt t), (K.STALL_POS n, pos), (K.POS_DOUBT n, 1)]
  let d := (d.count (K.STALLS n)).raise (0x184 + 0x10 * n) d.nt
  let d := d.setMot n { d.mot n with stallSeen := true, stallReact := some react }
  d.loadEvent n 2 (le 1 cause ++ le 1 react ++ le 2 (d.rd (K.LOAD_ANGLE n)) ++ le 8 pos)

/-- Stall detection for one period that ends at t (R215 to R217). -/
def Dev.stallStep (d : Dev) (n t : Nat) (mag : Rat) : Dev :=
  if ¬ d.stallArmed n then d.wr (K.STALL_RUN n) 0
  else
    let e := (d.axis n).eng
    let angle := decide (d.eff n (K.THETA_STALL n) < (d.rdI 16 (K.LOAD_ANGLE n)).natAbs)
    let low : Rat := (d.eff n (K.KE_LOW n) : Nat)
    let collapse := d.bit (K.OBS_STATUS n) 2 && low ≠ 0 && decide (mag < low / 256 * e.ke * rabs (d.vCmd n))
    if angle ∨ collapse then
      let run := d.rd (K.STALL_RUN n) + 1
      let d := d.wr (K.STALL_RUN n) run
      if d.eff n (K.N_STALL n) ≤ run then d.declareStall n t (angle.toNat + 2 * collapse.toNat) else d
    else d.wr (K.STALL_RUN n) 0

/-- What the job of coil A does with the load angle of the period that ends at t (device time, 1/4 ns). DESIGN CHOICE: k_e is learned
(R214) before the collapse criterion of the same period reads it (R215, log 90). -/
def Dev.loadStep (d : Dev) (n t : Nat) (measured : Bool) : Dev :=
  let d := d.observe n measured
  let mag := (d.observation n).mag
  (d.endStopStep n t).stallStep n t mag

end Sys2Proof.Machine
end

