-- ==== Sys2Proof/Machine/Job.lean ====
section
/-! DEFINITION. The job of a coil and its completion (R34, R35, R47 to R49, R58, R170, R177 to R195, R207, R404), identification's timed
rows, rest and wake.
Conventions of the model: DEDUCED: log 7, 33, 38, 40, 41, 43, 44, 52; DESIGN CHOICE: log 84, 85. -/

namespace Sys2Proof.Machine

/-! ## Reconstruction (R188, R191, R192) -/

/-- What a job knows of the period that runs: its executed schedule, the current at its start and end, the samples used with the instant of
the last one (device time, 1/4 ns), refreshes seen. -/
structure Recon where
  sched : Sched
  iS : Rat
  iE : Rat
  used : List Rat
  lastAt : Option Nat
  refreshed : Bool
  deriving DecidableEq, Repr

/-- The legs of the axis carry current under a schedule: it regulates, beyond the first row of Table 6-8. -/
def Dev.driven (d : Dev) (n : Nat) : Bool := d.regulates n && !(d.axState n = axIdentifying && (d.axis n).ident.row ≤ 1)

/-- The start current of the next period of coil c: the mean of the samples' projections, or in a blind period the last one projected
through the period (R188); SENSE_CNT, blind runs and "current sense lost" (R187). -/
def Dev.reconstruct (d : Dev) (c : Nat) : Recon × Dev :=
  let n := c / 2
  let r := d.coil c
  let at_ := 32 * r.start
  let tEnd := 32 * r.nextAt
  let ran (t : Nat) : Sched := ranFrom (fun l => (d.legCfg l).took) r.refreshes t tEnd r.ran
  let sched := ran at_
  let x := d.judgeSamples c
  let model := d.coilModel c
  let vbus := d.busVolts (c / 8)
  let blind := x.ok.isEmpty
  let iE : Rat :=
    if ¬ d.driven n then 0
    else if blind then model.project vbus r.emfHat sched r.iEnd
    else Config.engineRound ((x.ok.foldl (fun s e => s + model.project vbus r.emfHat (ran e.2.2) e.1) (0 : Rat)) / (x.ok.length : Nat))
  let over_ := if blind then r.sawOverrange || x.over_ else false
  let dist := if blind then r.sawDisturbed || x.dist || !x.over_ else false
  let run := if blind then r.blindRun + 1 else 0
  let keep := r.refreshes.filter fun e => at_ ≤ e.2
  let offs : Int := x.ok.foldl (fun s e => s + e.2.1) 0
  let averaging := d.axState n = axIdentifying && (d.axis n).ident.row = 1
  let r := { r with samples := [], refreshes := keep, iStart := r.iEnd, iEnd := iE, blind := blind, blindRun := run,
                    sawOverrange := over_, sawDisturbed := dist, sampled := r.sampled || (!blind && d.driven n),
                    offSum := if averaging then r.offSum + offs else r.offSum,
                    offCount := if averaging then r.offCount + x.ok.length else r.offCount }
  let d := (d.setCoil c r).setBit (K.CC_STATUS n) (2 + c % 2) blind
  let d := if x.unused = 0 then d else d.count (K.SENSE_CNT n) x.unused
  let d := if run = 8 then
      (d.axisEvent n 0x0132 0x4400 d.nt (le 1 (c % 2) ++ le 1 (if over_ ∧ ¬ dist then 1 else 2) ++ le 2 8 ++ le 8 d.nt)).raise
        (0x182 + 0x10 * n) d.nt
    else d
  ({ sched := sched, iS := r.iStart, iE := iE, used := x.ok.map (·.1), lastAt := (x.ok.map (·.2.2)).max?,
     refreshed := sched ≠ (r.ran.head?.map (·.sched)).getD [] }, d)

/-- The other coil of the axis. -/
def partner (c : Nat) : Nat := if c % 2 = 0 then c + 1 else c - 1

/-- R_TRACK shows that R_live of either coil is tracked. -/
def Dev.showTrack (d : Dev) (c : Nat) (on : Bool) : Dev :=
  (d.setCoil c { d.coil c with tracks := on }).setBit (K.CC_STATUS (c / 2)) 7 (on || (d.coil (partner c)).tracks)

/-- R_live learns at standstill (R192), within half and twice the identified resistance. -/
def Dev.trackR (d : Dev) (c : Nat) (eMeas i0 : Rat) : Dev :=
  let n := c / 2
  let st := d.axState n
  let on := (st = axHolding || st = axResting) && decide (d.ifs (c / 8) / 10 ≤ rabs i0) && !d.modelDefault n
  let d := d.showTrack c on
  if on then
    let r := d.coil c
    let base : Rat := (d.rd (if c % 2 = 0 then K.R_A n else K.R_B n) : Nat) / 1000000
    let x := rmax (base / 2) (rmin (2 * base) (Config.engineRound (r.rLive + eMeas / (256 * i0))))
    (d.setCoil c { r with rLive := x }).wr (if c % 2 = 0 then K.R_LIVE_A n else K.R_LIVE_B n) (rround (x * 1000000)).toNat
  else d

/-- The back-EMF of the period that runs, updated and predicted (R191); held at 0 at standstill, and 0 before eight periods of motion
(Table 6-4). -/
def Dev.emfStep (d : Dev) (c : Nat) (x : Recon) : Dev :=
  let n := c / 2
  let r := d.coil c
  let model := d.coilModel c
  let p : Rat := (8 * d.rd (K.PERIOD (c / 8)) : Nat) / 1000000000
  let lam := x.sched.volts (d.busVolts (c / 8))
  let eMeas := Config.engineRound ((lam - (model.psi x.iE - model.psi x.iS)) / p - model.r * (x.iS + x.iE) / 2)
  let moving := d.vCmd n ≠ 0
  let still := if moving then 0 else min 8 (r.stillRun + 1)
  let moved := if moving then min 8 (r.moveRun + 1) else if still = 8 then 0 else r.moveRun
  let gain : Rat := (d.eff n (K.EMF_GAIN n) : Nat) / 256
  let e : Rat := if still = 8 then 0 else Config.engineRound (r.emf + gain * (eMeas - r.emf))
  let phi := d.phi n p
  let o := (d.coil (partner c)).emf
  let hat : Rat := if moved < 8 then 0 else if c % 2 = 0 then turnA e o phi else turnB o e phi
  let rec_ : PeriodRec := { t0 := 32 * r.start, t1 := 32 * r.nextAt, iS := x.iS, iE := x.iE, e := e, hat := r.emfHat, blind := r.blind }
  let d := d.setCoil c { r with emf := e, emfHat := hat, stillRun := still, moveRun := moved,
                                past := rec_ :: r.past.take 3 }
  if still = 8 then d.trackR c eMeas x.iE else d.showTrack c false

/-! ## Planning a period (R189, R190, R194, R195) -/

/-- The current direction s of a period from i0 to i1 (R182). -/
def driveSign (i0 i1 : Rat) : Int := if 0 < i1 then 1 else if i1 < 0 then -1 else if i0 < 0 then -1 else 1

/-- The net drive time x of a period of coil c from i0 to i1 (R189), 1/4 ns, signed along s. -/
def Dev.driveTime (d : Dev) (c : Nat) (i0 i1 : Rat) : Int :=
  let q := c / 8
  let model := d.coilModel c
  let p4 := 32 * d.rd (K.PERIOD q)
  let p : Rat := (p4 : Nat) / 4000000000
  let lam := Config.engineRound (model.psi i1 - model.psi i0 + (model.r * (i0 + i1) / 2 + (d.coil c).emfHat) * p)
  netDrive lam (d.busVolts q) (driveSign i0 i1) p4

/-- How the transitions of coil c are placed in a length of p (1/4 ns); a go set begins at an open instant and has no windows to keep out
of. -/
def Dev.placing (d : Dev) (c p : Nat) (windows : Bool) : Placing :=
  let q := c / 8
  let vbus := d.busVolts q
  { cfg := d.coilCfg c, diode := if vbus = 0 then 0 else (d.rd (K.V_DIODE (c / 2)) : Nat) / 1000 / vbus, iFs := d.ifs q,
    wins := if windows then d.keepOuts c else [], minInt := 4 * d.rd (K.MIN_INT q), p := p }

/-- The bridge state with which a schedule begins, where it is not the last one before it. -/
def firstState (prev : Option Int) (s : Sched) : Option Int := if prev.isSome then none else some ((s.head?.map (·.2)).getD 0)

/-- The transitions of a schedule of coil c from i0, posted; `prev` is the bridge state before it (none: legs off, or a go set). The coil
current at each is i0 projected through the schedule, before the first usable sample the target (R184). -/
def Dev.place (d : Dev) (c : Nat) (s : Sched) (prev : Option Int) (i0 iTgt : Rat) (windows : Bool) : List Moved :=
  let model := d.coilModel c
  let vbus := d.busVolts (c / 8)
  let r := d.coil c
  let b0 := prev.getD ((s.head?.map (·.2)).getD 0)
  let at_ (t : Int) : Rat := if r.sampled then model.project vbus r.emfHat (s.window 0 t.toNat) i0 else iTgt
  (d.placing c s.len windows).place 0 0 0 ((Sched.turns b0 0 s).map fun e => (e, at_ e.1))

/-- The edges of both legs that transitions post. -/
def postedEdges (first : Option Int) (l : List Moved) : Legs (List (Nat × Bool)) :=
  let side (left : Bool) : List (Nat × Bool) :=
    ((first.map fun b => (0, legHigh left b)).toList) ++ (legMoves left l).map fun e => (e.1, e.2.1)
  (side true, side false)

/-- The plan of a period of coil c from i0 to i1 (A), with the mirrored counters at its start; limited where |x| exceeds t_av. -/
def Dev.planPeriod (d : Dev) (c : Nat) (i0 i1 : Rat) (m : Legs Mirror) (prev : Option Int) (windows : Bool) : PlanOut :=
  let q := c / 8
  let s := driveSign i0 i1
  let x := d.driveTime c i0 i1
  let edges (sc : Sched) := postedEdges (firstState prev sc) (d.place c sc prev i0 i1 windows)
  planFrom (d.coilCfg c) m edges x.natAbs (4 * d.rd (K.MIN_INT q)) (32 * d.rd (K.PERIOD q)) (if x < 0 then -s else s) 4 0 0

/-- x itself exceeds t_av in the period: the target lies farther from zero than the voltage reaches. -/
def Dev.tooFar (d : Dev) (c : Nat) (i0 i1 : Rat) (m : Legs Mirror) (prev : Option Int) : Bool :=
  decide (0 < d.driveTime c i0 i1) && (d.planPeriod c i0 i1 m prev true).limited

/-- The target of R177 for coil c at an angle and an amplitude, counts. -/
def Dev.target (d : Dev) (c angle : Nat) (amp : Rat) : Int :=
  let n := c / 2
  let (a, b) := coilTargets angle amp (d.rdI 16 (K.PHASE_TRIM n)) (d.rd (K.BAL_TRIM n))
  if c % 2 = 0 then a else b

/-- What R194 takes of a coil's period: its start current (none: the target, Table 6-4), the mirrored counters at its start, the bridge state
before it. -/
structure Begin where
  i0 : Option Rat
  m : Legs Mirror
  prev : Option Int
  deriving DecidableEq, Repr

/-- The partner's next period for R194, from its latest estimated current through its posted schedule, and the end of that period (device
time, 1/4 ns). -/
def Dev.partnerNext (d : Dev) (c : Nat) : Begin × Nat :=
  let r := d.coil c
  let p4 := 32 * d.rd (K.PERIOD (c / 8))
  match r.jobFor with
  | some k =>
    ({ i0 := some ((d.coilModel c).project (d.busVolts (c / 8)) r.emfHat r.planned r.iEnd), m := (r.aheadL, r.aheadR), prev := r.planned.last },
      d.periodAt c (k + 1) + p4)
  | none => ({ i0 := none, m := (r.mirrorL, r.mirrorR), prev := none }, 32 * r.nextAt + p4)

/-- R194 for coil c: whether a fraction f of the amplitude is too large for either coil; `own` and `part` give the targets in counts at a
fraction. Where -x exceeds t_av the target lies nearer to zero than the voltage reaches: no fraction of the amplitude brings it into reach,
and the coil alone saturates (log 41). -/
def Dev.tooMuch (d : Dev) (c : Nat) (own part : Rat → Int) (x y : Begin) (f : Rat) : Bool :=
  let far (c : Nat) (x : Begin) (tgt : Int) : Bool :=
    let i1 := d.toAmps (c / 8) tgt
    d.tooFar c (x.i0.getD i1) i1 x.m x.prev
  far c x (own f) || far (partner c) y (part f)

/-- The factor of R194: eight steps of bisection. -/
def bisect (bad : Rat → Bool) : Rat :=
  if ¬ bad 1 then 1
  else ((List.range 8).foldl (fun (x : Rat × Rat) _ =>
    let m := (x.1 + x.2) / 2
    if bad m then (x.1, m) else (m, x.2)) (0, 1)).1

/-- The factor of R194 where LIMIT_MODE asks for angle priority. -/
def Dev.limitFactor (d : Dev) (c : Nat) (own part : Rat → Int) (x y : Begin) : Rat :=
  if d.eff (c / 2) (K.LIMIT_MODE (c / 2)) = 0 then bisect (d.tooMuch c own part x y) else 1

/-! ## Go sets (R170) -/

/-- The prime of axis n asks for go sets (R169). -/
def Dev.primeLive (d : Dev) (n : Nat) : Bool :=
  match (d.mot n).prime with
  | some r => (d.axState n = axHolding || d.axState n = axResting) && !d.bit (K.STATUS n) 8 && d.rd (K.STATE_3100 r.pat) = 1
  | none => false

/-- The go set of coil c: two periods from g, as if the play started there, chosen as the job chooses, with the factor of R194 for each
(both coils begin at g), with its schedule. -/
def Dev.goJob (d : Dev) (mem : List Host.Cell) (c tag : Nat) (i0 : Rat) (m : Legs Mirror) : List EdgeLet × List EdgeLet × Sched :=
  let n := c / 2
  let cp := partner c
  match (d.mot n).prime with
  | none => ([], [], [])
  | some x =>
    let r : PlayRt := { pat := x.pat, first := d.rd (K.FIRST x.pat), count := d.rd (K.COUNT_3100 x.pat), scale := x.scale,
                        swing := x.swing, amp := x.amp, repeats := 1, tag := 0, primed := true, start := 0, pos0 := (d.mot n).p }
    let ps := d.playPoints mem r
    let p := 8 * d.rd (K.PERIOD (c / 8))
    let tgt (coil k : Nat) (f : Rat) : Int :=
      let t := 65536 * (k * p)
      let amp := min (min (rfloor (playAmp r ps (d.rd (K.I_STR n)) t)).toNat 16383) (d.rd (K.I_MAX n))
      d.target coil ((rfloor (playPos r ps t / 4294967296)) % 4096).toNat (f * amp)
    let y := (d.partnerNext cp).1
    let x1 : Begin := { i0 := some i0, m := m, prev := none }
    let f1 := d.limitFactor c (tgt c 1) (tgt cp 1) x1 y
    let i1 := d.toAmps (c / 8) (tgt c 1 f1)
    let a := d.planPeriod c i0 i1 m none false
    let x2 : Begin := { i0 := some i1, m := a.ends, prev := a.sched.last }
    let y2 : Begin := { y with i0 := some (d.toAmps (c / 8) (tgt cp 1 f1)) }
    let i2 := d.toAmps (c / 8) (tgt c 2 (d.limitFactor c (tgt c 2) (tgt cp 2) x2 y2))
    let s := a.sched ++ (d.planPeriod c i1 i2 a.ends a.sched.last false).sched
    let moves := d.place c s none i0 i1 false
    let gen := ((d.axis n).goGen + 1) % 4
    let first := firstState none s
    (legLetters true gen tag first moves, legLetters false gen tag first moves, s)

/-! ## Capture (R207) -/

/-- The capture record of the period of coil A that runs (Table 6-14), as it stood before the job that writes it, with the blind bits that
this job has found (`blind`, CC_STATUS [3:2]). DUTY is signed along s (R182): where the target is 0, along the start current. VBUS8 is the
bus voltage at the start of the job that writes the record (DESIGN CHOICE, log 85). -/
def Dev.captureRecord (d : Dev) (n : Nat) (refreshed : Bool) (blind : Nat) : Bytes :=
  let a := d.coil (2 * n)
  let b := d.coil (2 * n + 1)
  let q := n / 4
  let cc := d.rd (K.CC_STATUS n)
  let duty (r : CoilRt) : Nat :=
    let s := (r.ran.head?.map (·.sched)).getD []
    let sg := driveSign r.iEnd r.tgt
    let net : Int := s.foldl (fun x e => x + e.2 * e.1) 0
    enc 8 (clampI (-127) 127 (rround ((sg * net * 127 : Int) / ((32 * d.rd (K.PERIOD q) : Nat) : Rat))))
  let flags := cc % 4 + 4 * a.heldNow.toNat + 8 * blind + 32 * refreshed.toNat + 64 * (cc / 64 % 2)
  le 4 (d.qToNt (32 * a.start) / 8 % 2 ^ 32) ++ le 2 (enc 16 a.tgt) ++ le 2 (enc 16 (d.toCounts q a.iEnd)) ++
    le 2 (enc 16 b.tgt) ++ le 2 (enc 16 (d.toCounts q b.iEnd)) ++ le 1 (min 255 (d.rd (K.VBUS q) / 50)) ++ le 1 flags ++
    le 1 (duty a) ++ le 1 (duty b)

/-- The record goes into the axis's capture bank, where capture runs and the capture unit owns the bank. -/
def State.capture (s : State) (n : Nat) (b : Bytes) : State :=
  let d := s.dev
  let bank := 4 + n
  if d.rd (K.CAP_EN n) = 1 ∧ d.eff n (K.CAP_EN n) = 1 ∧ d.rd (K.OWNER bank) = 0x23 ∧ d.rd (K.STATE_2810 bank) = 0 then
    let i := d.rd (K.CAP_NEXT n)
    let mem := memWrites s.mem (d.physAddr bank (16 * i)) b
    let d := d.cleanWords bank (16 * i) 16
    let full := 16383 ≤ i
    let d := d.wr (K.CAP_NEXT n) ((i + 1) % 16384)
    let d := if ¬ full then d else if d.eff n (K.CAP_STOP n) = 1 then d.wr (K.CAP_EN n) 0 else d.count (K.CAP_WRAPS n)
    { s with mem := mem, dev := d }
  else s

/-! ## The job (R34) -/

/-- The last computed targets, estimates and back-EMF: both halves from the same period. -/
def Dev.showHalves (d : Dev) (c k : Nat) : Dev :=
  let n := c / 2
  let a := d.coil (2 * n)
  let b := d.coil (2 * n + 1)
  if a.jobFor = some k ∧ b.jobFor = some k then
    let q := n / 4
    let two (x y : Int) : Nat := enc 16 (clampI (-32768) 32767 x) + 65536 * enc 16 (clampI (-32768) 32767 y)
    d.wrs [(K.I_TGT n, two a.tgt b.tgt), (K.I_EST n, two (d.toCounts q a.iEnd) (d.toCounts q b.iEnd)),
      (K.EMF n, two (rround (256 * a.emfHat)) (rround (256 * b.emfHat)))]
  else d

/-- The amplitude that the job of coil c takes (R210), stored where it is coil A's. -/
def Dev.takeAmp (d : Dev) (mem : List Host.Cell) (c : Nat) : Nat × Dev :=
  let n := c / 2
  let isA := c % 2 = 0
  if d.axState n = axIdentifying then
    let i := (d.axis n).ident
    let amp := if i.row = 0 then 0 else (rfloor (i.ramp (8 * (d.coil c).nextAt))).toNat
    (amp, if isA then d.wrs [(K.I_AMP n, amp), (K.AMP_SRC n, 1)] else d)
  else
    let d := if isA then d.stretch n else d
    let (amp, src, e) := d.ampFor mem n (8 * (d.coil c).nextAt) isA
    if isA then
      let d := (d.setAxis n { d.axis n with eng := e }).wrs [(K.I_AMP n, amp), (K.AMP_SRC n, src)]
      let rest := d.axState n = axResting
      let d := (d.setBit (K.REST_FLAGS n) 0 (rest && e.ramp.isSome && src = 6)).setBit (K.REST_FLAGS n) 1 (rest && e.ramp.isNone && src = 6)
      (amp, d)
    else (amp, d)

/-- The mirrored counters of coil c at the end of the running period, through the edges that its legs have (R243). -/
def Dev.nextMirror (d : Dev) (c : Nat) : Legs Mirror :=
  let r := d.coil c
  (refreshesOf (d.coilCfg c) (r.mirrorL, r.mirrorR) (32 * (r.nextAt - r.start))
    (edgesOf (d.leg (2 * c)).pattern, edgesOf (d.leg (2 * c + 1)).pattern)).2

/-- The bridge state in which the running period of coil c ends. -/
def CoilRt.endState (r : CoilRt) : Option Int := r.ran.head?.bind (·.sched.last)

/-- The target of the job in counts and the factor of R194, in 1/4,096. -/
def Dev.aimCounts (d : Dev) (mem : List Host.Cell) (c amp : Nat) (x : Begin) : Int × Nat :=
  let n := c / 2
  let cp := partner c
  let angle := d.angleAt mem n (32 * ((d.coil c).nextAt + d.rd (K.PERIOD (c / 8))))
  let (y, endP) := d.partnerNext cp
  let angleP := d.angleAt mem n endP
  let f := d.limitFactor c (fun f => d.target c angle (f * amp)) (fun f => d.target cp angleP (f * amp)) x y
  (d.target c angle (f * amp), (rfloor (f * 4096)).toNat)

/-- The target of the held vector at an amplitude and the factor of R194, in 1/4,096. -/
def Dev.heldCounts (d : Dev) (c : Nat) (amp : Rat) (x : Begin) : Int × Nat :=
  let cp := partner c
  let f := d.limitFactor c (fun f => d.heldTarget c (f * amp)) (fun f => d.heldTarget cp (f * amp)) x (d.partnerNext cp).1
  (d.heldTarget c (f * amp), (rfloor (f * 4096)).toNat)

/-- The slice that serves coil c: after a takeover coil B stays with the old slice until its first period boundary (R20). -/
def Dev.coilSlice (d : Dev) (c : Nat) : Nat :=
  let now := d.sliceOf (c / 2)
  if c % 2 = 0 then now else (d.axis (c / 2)).oldSlice.getD now

/-- The schedule, the flags and the letters of a job that aims at a target (R189 to R195); `lastAt` is the instant of the last sample that
it used, from which its window runs (R47). -/
def Dev.finishJob (d : Dev) (mem : List Host.Cell) (c : Nat) (aim : Aim) (x : Begin) (lastAt : Option Nat) : Dev :=
  let n := c / 2
  let q := c / 8
  let r := d.coil c
  let p := d.rd (K.PERIOD q)
  let tag := r.next % 16
  let gen := (d.axis n).goGen % 4
  let i0 := x.i0.getD 0
  let counts : Int := match aim with
    | .counts i => i
    | _ => 0
  let i1 := d.toAmps q counts
  let (plan, limited, duty) : Sched × Bool × Bool := match aim with
    | .counts _ =>
      let o := d.planPeriod c i0 i1 x.m x.prev true
      (o.sched, o.limited, !o.refreshes.isEmpty)
    | .test sg => ([(8 * p, sg), (8 * p, -sg), (16 * p, 0)], false, false)
    | _ => ([], false, false)
  let moves := if aim = .off then [] else d.place c plan x.prev i0 i1 (match aim with
    | .counts _ => true
    | _ => false)
  let first := if aim = .off then none else firstState x.prev plan
  let sched := if aim = .off then [] else
    Sched.ofTurns (32 * p : Nat) 0 (x.prev.getD ((plan.head?.map (·.2)).getD 0)) (moves.map fun e => (e.t, e.before, e.after))
  let left := legLetters true gen tag first moves
  let right := legLetters false gen tag first moves
  let ahead := (refreshesOf (d.coilCfg c) x.m (32 * p) (postedEdges first moves)).2
  let (goLeft, goRight, goSched) := if d.primeLive n ∧ aim ≠ .off then d.goJob mem c tag i0 x.m else ([], [], [])
  let deadline := r.nextAt - d.rd K.GUARD
  let lastPos := (lastAt.map (· / 32)).getD (r.start + (d.samplePos c).foldl max 0)
  let job : JobRt := { k := r.next, left := left, right := right, goLeft := goLeft, goRight := goRight, sched := sched,
                       goSched := goSched, deadline := deadline, window := deadline - lastPos, slice := d.coilSlice c }
  let beyond := !d.modelDefault n && decide (d.rd (K.I_MAX n) < counts.natAbs)
  let d := d.setCoil c { r with job := some job, jobFor := some r.next, planned := sched, mirrorL := x.m.1, mirrorR := x.m.2,
                                aheadL := ahead.1, aheadR := ahead.2, tgt := counts,
                                amp := d.rd (K.I_AMP n), beyond := beyond, dutyLim := duty }
  let o := d.coil (partner c)
  let d := ((d.setBit (K.CC_STATUS n) (c % 2) limited).setBit (K.CC_STATUS n) 5 (beyond || o.beyond)).setBit (K.CC_STATUS n) 8 (duty || o.dutyLim)
  (if limited then d.count (K.VLIM_CNT n) else d).showHalves c r.next

/-- The coil with the larger change of target in test step m. -/
def Dev.stepCoil (d : Dev) (n m : Nat) : Nat :=
  let change (c : Nat) : Nat := (d.stepTarget c m - d.stepTarget c (m - 1)).natAbs
  if change (2 * n) < change (2 * n + 1) then 2 * n + 1 else 2 * n

/-- The ripple reference of the steady periods of coil c at a current (R202), A. -/
def Dev.rippleRef (d : Dev) (c : Nat) (i : Rat) : Rat :=
  let model := d.coilModel c
  let vbus := d.busVolts (c / 8)
  let p : Rat := (8 * d.rd (K.PERIOD (c / 8)) : Nat) / 1000000000
  let minInt : Rat := (d.rd (K.MIN_INT (c / 8)) : Nat) / 1000000000
  let vm := rabs (model.r * i + (d.coil c).emf)
  let x := vm * p / vbus
  (vbus - vm) * (if minInt ≤ x then x else minInt + x) / model.l i

/-- The current of coil c in test step m, and the band of R204 about it, A. -/
def Dev.stepAmps (d : Dev) (c m : Nat) : Rat := d.toAmps (c / 8) (d.stepTarget c m)
def Dev.stepBand (d : Dev) (c m : Nat) : Rat := d.rippleRef c (d.stepAmps c m) * 3 / 4 + d.ifs (c / 8) / 400

/-- A test step's first period for its coil begins with the period of this job (R204). -/
def Dev.noteStep (d : Dev) (c : Nat) : Dev :=
  let n := c / 2
  let i := (d.axis n).ident
  let m := d.stepAt n (8 * (d.coil c).nextAt)
  let t0 := d.qToNt (32 * (d.coil c).nextAt)
  if d.axState n ≠ axIdentifying ∨ i.row ≠ 7 ∨ m = 0 ∨ d.rd (K.TEST_STEPS n) < m ∨ c ≠ d.stepCoil n m then d
  else if m = i.step ∧ i.stepStart = 0 then d.setAxis n { d.axis n with ident := { i with stepStart := t0 } }
  else if m ≠ i.step ∧ i.nextStart = 0 then d.setAxis n { d.axis n with ident := { i with nextStart := t0 } }
  else d

/-- The last instant of the reconstructed period at which the current of the stepping coil lies outside the band of the step, as R188
computes it from the executed schedule (R204, R206); e is the back-EMF with which that period is projected. -/
def Dev.noteOut (d : Dev) (c : Nat) (x : Recon) (e : Rat) : Dev :=
  let n := c / 2
  let i := (d.axis n).ident
  let start := d.qToNt (32 * (d.coil c).start)
  if d.axState n ≠ axIdentifying ∨ i.row ≠ 7 ∨ i.stepStart = 0 ∨ c ≠ d.stepCoil n i.step ∨ start < i.stepStart ∨
      i.stepStart + d.stepHold n ≤ start then d
  else
    match (d.coilModel c).lastOut (d.busVolts (c / 8)) e (d.stepAmps c i.step) (d.stepBand c i.step) x.sched 0 x.iS none with
    | some t => d.setAxis n { d.axis n with ident := { i with outAt := 4 * start + (-rfloor (-t)).toNat } }
    | none => d

/-- The job of coil c for its next period, with the capture record where it is coil A's. -/
def Dev.runJob (d : Dev) (mem : List Host.Cell) (c : Nat) : Option Bytes × Dev :=
  let n := c / 2
  let before := d
  let (x, d) := d.reconstruct c
  let blind := d.rd (K.CC_STATUS n) / 4 % 4
  let driven := d.driven n
  let hat := (d.coil c).emfHat
  let d := (if driven then d.emfStep c x else d).noteOut c x hat
  let isA := c % 2 = 0
  let d := if isA then d.loadStep n (32 * (d.coil c).nextAt) driven else d
  let (amp, d) := d.takeAmp mem c
  let r := d.coil c
  let start : Begin := { i0 := some x.iE, m := d.nextMirror c, prev := r.endState }
  let (aim, d) : Aim × Dev :=
    if ¬ d.regulates n then (.off, d)
    else if d.axState n = axIdentifying then
      match d.identAim c (8 * r.nextAt) x.iE (d.busVolts (c / 8)) x.used with
      | (.held a, d) =>
        let (i, f) := d.heldCounts c a start
        (.counts i, d.wr (K.AMP_FACTOR n) f)
      | y => y
    else
      let (i, f) := d.aimCounts mem c amp start
      (.counts i, d.wr (K.AMP_FACTOR n) f)
  let d := (d.noteStep c).finishJob mem c aim start x.lastAt
  (if isA then some (before.captureRecord n x.refreshed blind) else none, d)

/-- ENGINE_JOB (R34, R35): the job of coil c for its next period starts, once the last sample of the running one has been taken. -/
def execEngineJob (c : Nat) (s : State) : Host.Outcome State Fault Refusal := gated s <|
  .next <|
    let d := s.dev
    let r := d.coil c
    let last := (d.samplePos c).foldl max 0
    if d.hasCoil c ∧ r.running ∧ r.begun ∧ r.job = none ∧ r.jobFor ≠ some r.next ∧ r.start + last ≤ d.ticks then
      let (b, d) := d.runJob s.mem c
      match b with
      | some b => ({ s with dev := d }).capture (c / 2) b
      | none => { s with dev := d }
    else s

/-! ## Completion (R48, R49, R52) -/

/-- Slack against its floor: MIN_SLACK, BELOW_FLOOR, the loop minimum of a slice (R49, R52, R53). -/
def Dev.slackOf (d : Dev) (slice window : Nat) (slack : Int) : Dev :=
  let floor := d.rd K.FLOOR_PCT * window / 100
  let d := d.wrI 16 (K.MIN_SLACK slice) (clampI (-32768) 32767 (min (d.rdI 16 (K.MIN_SLACK slice)) slack))
  let d := if slack < floor then d.count (K.BELOW_FLOOR slice) else d
  let v := d.vcore
  let less : Bool := match Tab.find v.loopMin slice with
    | some (m, _, _) => decide (slack < m)
    | none => true
  let mins := if less then Tab.put v.loopMin slice (slack, floor, window) else v.loopMin
  let part := if window = 0 then 1023 else (clampI 0 1023 (slack * 1024 / (window : Int))).toNat
  let d := { d with fray := { d.fray with slack := Tab.put d.fray.slack slice (min part (Tab.get 1023 d.fray.slack slice)) } }
  { d with vcore := { v with loopMin := mins, busy := v.busy || decide (slack < 2 * floor) } }

/-- The letters of a leg sent by the seam interface over the lanes of quarter q in service (R33): letters that name a leg of a coil outside
the quarter are refused and reported as a device fault; a quarter to which the controller does not send gets none (R256). -/
def Dev.sendLetters (d : Dev) (q l : Nat) (letters : List EdgeLet) : Dev :=
  let lanes := ([0, 1, 2].filter fun i => d.bit (K.LANES q) i)
  if letters = [] then d
  else if l / 16 ≠ q then d.raise 0x288 d.nt
  else if ¬ d.sends q then d
  else letters.zipIdx.foldl (fun d (e, i) =>
    match lanes[i % lanes.length]? with
    | some lane =>
      let r := d.quarter q
      let x := r.lane false lane
      let d := d.setQuarter q (r.setLane false lane { x with errPending := false })
      d.emit (.flit q true lane (edgeFlit x.errPending l e))
    | none => d) d

/-- What a job has computed for coil c goes to its quarter. -/
def Dev.sendJob (d : Dev) (c : Nat) (j : JobRt) : Dev :=
  let q := c / 8
  (((d.sendLetters q (2 * c) j.left).sendLetters q (2 * c + 1) j.right).sendLetters q (2 * c) j.goLeft).sendLetters q (2 * c + 1) j.goRight

/-- A job has completed late (R48, R53, R58): its letters are discarded, the period will be held, HELD of the slice counts and the late-edge
fault of the axis is raised (Table 2-8). The core-voltage loop knows of the held period now, unless its start has told it already. -/
def Dev.lateJob (d : Dev) (c : Nat) (j : JobRt) : Dev :=
  let r := d.coil c
  let d := if j.k = r.next then
      { d.setCoil c { r with lateJob := some j.k } with vcore := { d.vcore with held := true } }
    else d
  (d.count (K.HELD j.slice)).raise (0x180 + 0x10 * (c / 2)) d.nt

/-- JOB_COMPLETE (R48, R58): on time, its letters pass the seam interface; late, they are discarded. -/
def execJobComplete (c : Nat) (agree : Bool) (s : State) : Host.Outcome State Fault Refusal := gated s <|
  onDev s fun d =>
    let r := d.coil c
    match r.job with
    | none => d
    | some j =>
      if ¬ d.hasCoil c then d
      else
        let slack : Int := (j.deadline : Int) - d.ticks
        let onTime := decide (0 ≤ slack)
        let d := d.slackOf j.slice j.window slack
        let d := match d.fray.slice with
          | some p => if p.axis = c / 2 ∧ p.loaded then d.slackOf p.spare j.window slack else d
          | none => d
        let d := d.setCoil c { r with job := none, posted := if onTime then some (j.k, j.sched) else r.posted,
                                      goPosted := if onTime ∧ j.goSched ≠ [] then j.goSched else r.goPosted }
        let d := if onTime then d.sendJob c j else d.lateJob c j
        d.patchCompare c onTime agree

/-! ## Identification's timed rows (Table 6-8) -/

/-- Coil c is at a period boundary. -/
def Dev.atBoundary (d : Dev) (c : Nat) : Bool :=
  let r := d.coil c
  r.running && (r.nextAt = d.ticks || (r.begun && r.start = d.ticks))

/-- The identified resistances and inductances of axis n, in uohm and nH: coil A, coil B. -/
def IdentRt.model (i : IdentRt) : (Nat × List Nat) × (Nat × List Nat) :=
  let nH (x : Rat) : Nat := (clampI 0 (2 ^ 32 - 1) (rround (x * 1000000000))).toNat
  let uOhm (a b : Rat) : Nat := (clampI 0 (2 ^ 32 - 1) (rround (a / b * 1000000))).toNat
  ((uOhm i.sumA i.sumA2, (i.ls.take 16).map nH), (uOhm i.sumB i.sumB2, (i.ls.drop 16).map nH))

/-- A value lies within 1/range to range times a default (R200). -/
def inRange (range dflt x : Nat) : Bool := decide (dflt ≤ x * range) && decide (x ≤ dflt * range)

/-- The identified model comes in force (Table 6-8, R192). -/
def Dev.useModel (d : Dev) (n : Nat) : Dev :=
  let i := (d.axis n).ident
  let ((ra, la), (rb, lb)) := i.model
  let d := d.wrs [(K.R_A n, ra), (K.R_B n, rb), (K.R_LIVE_A n, ra), (K.R_LIVE_B n, rb),
    (K.ISTEP n, (rround ((i.iMax : Rat) * (d.rd (K.IFS (n / 4)) : Nat) / (16383 * 16))).toNat)]
  let d := d.wrs (la.zipIdx.map fun (x, k) => (K.L_A n k, x))
  let d := d.wrs (lb.zipIdx.map fun (x, k) => (K.L_B n k, x))
  let d := d.setCoil (2 * n) { d.coil (2 * n) with rLive := (ra : Rat) / 1000000 }
  let d := d.setCoil (2 * n + 1) { d.coil (2 * n + 1) with rLive := (rb : Rat) / 1000000 }
  d.setBit (K.CC_STATUS n) 4 false

/-- The row of Table 6-8 that comes next for axis n, where its time is here; t_e is the first period boundary of coil A at least 2 us
after the axis entered Identifying (R198). -/
def Dev.idRow (d : Dev) (n : Nat) : Dev :=
  let i := (d.axis n).ident
  let t := d.now
  let te := 8 * i.began
  let set (x : IdentRt) : Dev := d.setAxis n { d.axis n with ident := { x with rowAt := t } }
  if d.bit (K.BUS_FLAGS (n / 4)) 0 then d.identFail n 6
  else if 1 ≤ i.row ∧ i.row < 7 ∧ te + 20000000 < t then d.identFail n 7
  else if i.row = 0 then
    if d.atBoundary (2 * n) ∧ i.entered + 2000 ≤ t then
      set { i with row := 1, began := d.ticks, point := 1, iRun := d.rd (K.I_RUN n), iMax := d.rd (K.I_MAX n) }
    else d
  else if i.row = 1 then
    if te + 100000 ≤ t + 7 then
      let d := set { i with row := 2 }
      [2 * n, 2 * n + 1].foldl (fun d c =>
        let r := d.coil c
        d.setCoil c { r with offset := if r.offCount = 0 then 0 else (r.offSum : Rat) / r.offCount }) d
    else d
  else if i.row = 2 then (if te + 300000 ≤ t + 7 then set { i with row := 3 } else d)
  else if i.row = 3 then (if te + 400000 ≤ t + 7 then set { i with row := 4 } else d)
  else if i.row = 4 then (if 17 ≤ i.point then set { i with row := 5 } else d)
  else if i.row = 5 then
    if i.point = 33 ∧ te + 400000 + i.spent * (8 * d.rd (K.PERIOD (n / 4))) ≤ t + 7 then
      let ((ra, la), (rb, lb)) := i.model
      let range := d.rd (K.ID_RANGE n)
      let rOk := inRange range (d.rd (K.R_DEF n))
      let lOk := inRange range (d.rd (K.L_DEF n))
      if ¬ (rOk ra ∧ la.all lOk) then d.identFail n 4
      else if ¬ (rOk rb ∧ lb.all lOk) then d.identFail n 5
      else set { i with row := 6 }
    else d
  else if i.row = 6 ∧ d.rd (K.TEST_EN n) = 1 ∧ i.rowAt + 100000 ≤ t + 7 ∧ d.atBoundary (2 * n) then
    (set { i with row := 7, step := 1, stepStart := 0 }).useModel n
  else d

/-- ID_PHASE (R198): the next timed row of Table 6-8. -/
def execIdPhase (n : Nat) (s : State) : Host.Outcome State Fault Refusal := gated s <|
  onDev s fun d => if d.hasAxis n ∧ d.axState n = axIdentifying ∧ (d.axis n).faultReq = none then d.idRow n else d

/-- IDENTIFICATION_COMPLETE (R198, R206): the identified model in force, I_STR = I_RUN, event 0x0130, Holding. -/
def execIdentificationComplete (n : Nat) (s : State) : Host.Outcome State Fault Refusal := gated s <|
  onDev s fun d =>
    let i := (d.axis n).ident
    let plain := i.row = 6 && d.rd (K.TEST_EN n) = 0 && decide (i.rowAt + 100000 ≤ d.now + 7)
    let tested := i.row = 7 && decide (d.rd (K.TEST_STEPS n) < i.step)
    if d.hasAxis n ∧ d.axState n = axIdentifying ∧ (d.axis n).faultReq = none ∧ (plain ∨ tested) ∧ d.atBoundary (2 * n) then
      let d := if plain then d.useModel n else d
      let d := d.wrs [(K.ID_RESULT n, 1), (K.ID_NT n, d.nt), (K.ID_TIME n, i.lasted d.now),
        (K.I_STR n, d.rd (K.I_RUN n))]
      let d := d.setAxis n { d.axis n with ident := {} }
      (d.axisEvent n 0x0130 0x4400 d.nt (le 4 (d.rd (K.R_A n)) ++ le 4 (d.rd (K.R_B n)) ++ le 1 1)).toHolding n
    else d

/-! ## Test steps (R202 to R206) -/

/-- The physical minimum time of a step (R203), ns: the target switching time (1/4 ns in T_SW) of the leg that switches first, and the
integral as the engine forms it. -/
def Dev.stepMin (d : Dev) (c : Nat) (i0 i1 : Rat) : Rat :=
  let model := d.coilModel c
  let s := rsign (i1 - i0)
  let leg := if 0 < s then 2 * c else 2 * c + 1
  let f (i : Rat) : Rat := model.l i / (s * d.busVolts (c / 8) - model.r * i - (d.coil c).emf)
  (d.rd (K.T_SW leg) : Rat) / 4 + rabs (Config.engineIntegral f i0 i1) * 1000000000

/-- t_c - t0 of a test step that began at t0 (NT, ns) and held for `hold`: up to the last instant outside the band, 1/4 ns; none where the
step did not complete within its hold (R204, R206). -/
def IdentRt.took (i : IdentRt) (hold : Nat) : Option Nat :=
  if 4 * (i.stepStart + hold) ≤ i.outAt then none else some (i.outAt - 4 * i.stepStart)

/-- TEST_STEP_END (R206): the step's hold is over; its ratio and event 0x0131, then the next step or the held angle again. The manual gives
the event no t_c - t0 for a step that did not complete: a free value (log 84). -/
def execTestStepEnd (n : Nat) (s : State) : Host.Outcome State Fault Refusal := gated s <|
  onDev s fun d =>
    let i := (d.axis n).ident
    if d.hasAxis n ∧ d.axState n = axIdentifying ∧ (d.axis n).faultReq = none ∧ i.row = 7 ∧ 1 ≤ i.step ∧ i.step ≤ d.rd (K.TEST_STEPS n) ∧
        i.stepStart ≠ 0 ∧ i.stepStart + d.stepHold n ≤ d.nt + 7 then
      let c := d.stepCoil n i.step
      let i0 := d.stepAmps c (i.step - 1)
      let i1 := d.stepAmps c i.step
      let tMin := d.stepMin c i0 i1
      let small := decide (rabs (i1 - i0) ≤ d.stepBand c i.step)
      let (ratio, took, d) : Nat × Nat × Dev := match i.took (d.stepHold n) with
        | some t => (if small then 0 else (clampI 0 0xFFFE (rfloor (1024 * t / tMin))).toNat, (rround ((t : Rat) / 4)).toNat, d)
        | none => let (x, d) := d.draw 32; (if small then 0 else 0xFFFF, x, d)
      let d := d.wr (K.STEP_RATIO_m n (i.step - 1)) ratio
      let d := d.axisEvent n 0x0131 0x4400 d.nt
        (le 1 i.step ++ le 1 (c % 2) ++ le 2 ratio ++ le 4 ((rround tMin).toNat % 2 ^ 32) ++ le 4 (took % 2 ^ 32))
      d.setAxis n { d.axis n with ident := { i with step := i.step + 1, stepStart := i.nextStart, nextStart := 0, outAt := 0 } }
    else d

/-! ## Rest and wake (R222 to R224) -/

/-- REST_ENTER (R222, R223): the rest timer has reached T_REST at the profile cadence that has just run, no motion action takes effect at it
and none waits in the inbox; the ramp begins. -/
def execRestEnter (n : Nat) (s : State) : Host.Outcome State Fault Refusal := gated s <|
  onDev s fun d =>
    let t := d.eff n (K.T_REST n)
    if d.hasAxis n ∧ d.axState n = axHolding ∧ ¬ (d.mot n).follow.engaged ∧ t ≠ 0 ∧ 1000 * t ≤ (d.mot n).restUs ∧
        (d.mot n).cadence = some (d.nt - d.nt % 1000) ∧ d.nt % 1000 < 8 ∧ (d.mot n).move = .idle ∧ ¬ (d.mot n).playing ∧
        ¬ (d.axis n).inbox.any startsMotion then
      let rest := d.eff n (K.I_REST n)
      let e := (d.axis n).eng
      let d := d.setAxis n { d.axis n with eng := { e with ramp := some (d.rd (K.I_AMP n), rest, d.now), wake := none } }
      let d := (d.setAxState n axResting).wr (K.REST_FLAGS n) 1
      d.loadEvent n 4 (le 2 rest ++ le 2 (d.eff n (K.T_REST_RAMP n)) ++ le 8 (d.rd (K.CMD_POS n)))
    else d

/-- AXIS_WAKE (R224): the earliest motion letter of the inbox is REST_WAKE or less from its due time, or a follow source is about to
engage; where the letter has gone again, the wake ends with a new ramp. -/
def execAxisWake (n : Nat) (s : State) : Host.Outcome State Fault Refusal := gated s <|
  onDev s fun d =>
    if ¬ d.hasAxis n ∨ d.axState n ≠ axResting then d
    else
      let woken := (d.axis n).eng.wake.isSome
      match (d.axis n).inbox.find? startsMotion with
      | some l =>
        if ¬ woken ∧ l.due ≤ d.nt + 7 + 1000 * d.eff n (K.REST_WAKE n) then d.wakeAxis n l.tag (l.due % 2 ^ 48) else d
      | none => if ¬ woken ∧ d.followComes n then d.wakeAxis n 0xFFFF 0 else d.wakeCheck n

end Sys2Proof.Machine
end

