-- ==== Sys2Proof/Machine/Postmaster.lean ====
section
/-! DEFINITION. The Postmaster's lockstep pair (chapter 01, R29 to R31), and the loss reactions that it applies (R442).
Conventions of the model: DEDUCED: log 35. -/

namespace Sys2Proof.Machine

/-- The reaction of a loss (0 host, 1 ring) on every axis of LOSS_AXES outside Disabled (R442, R443): HALT, or HALT and QSTOP, set by an
indivisible read-modify-write of CONTROL. -/
def Dev.lossReact (d : Dev) (kind : Nat) : Dev :=
  let r := d.rd (if kind = 0 then K.HOST_REACT else K.RING_REACT)
  if r = 0 then d
  else
    (d.axisList.filter fun n => d.bit K.LOSS_AXES n && d.axState n ≠ axDisabled).foldl (fun d n =>
      if d.bit (K.CONTROL n) 1 ∧ d.bit K.LOSS_FLAGS (1 - kind) then d
      else
        let d := d.wrCfg (K.CONTROL n) (withBit (d.rd (K.CONTROL n)) 1 true)
        if r = 2 then d.setBit (K.CONTROL n) 3 true else d) d

/-- The pair halts (R30): source 0x281 is raised for a lockstep mismatch (a poisoned word has raised 0x284 in its place, Table 11-1), a
patch before its takeover is abandoned, homing ends with result 8 and its axis brakes at D_LIMSW (R296). -/
def Dev.haltPostmaster (d : Dev) (lockstep : Bool) : Dev :=
  let p := d.post
  let d := { d with post := { p with halted := some d.now, restarted := false, mismatch := if lockstep then some d.now else p.mismatch } }
  let d := (if lockstep then d.raise 0x281 d.nt else d).patchAbandon 3
  (d.axisList.filter fun n => (d.home n).running).foldl (fun d n => (d.homeEnd n 8).addStop n .homing 4) d

/-- A lockstep mismatch: a second one within 1 s takes the device to Safe at once (R31). -/
def State.mismatch (s : State) : State :=
  let again : Bool := match s.dev.post.mismatch with
    | some t => decide (s.dev.now < t + 1000000000)
    | none => false
  let s := s.onDev fun d => d.haltPostmaster true
  if again ∧ s.pow.devState ≠ .off then s.enterSafe 2 else s

/-- The Postmaster runs: started from ROM and neither halted nor restarting. -/
def Dev.postRuns (d : Dev) : Bool := 4 ≤ d.start.stage && d.post.halted.isNone

/-- LOCKSTEP_MISMATCH (R30, R31): at a pair that runs, or that has been restarted. -/
def execLockstepMismatch (s : State) : Host.Outcome State Fault Refusal :=
  .next (if 4 ≤ s.dev.start.stage ∧ (s.dev.post.halted.isNone ∨ s.dev.post.restarted) then s.mismatch else s)

/-- POSTMASTER_RESTART (R30): 100 us after the halt hardware restarts the pair from ROM. -/
def execPostmasterRestart (s : State) : Host.Outcome State Fault Refusal :=
  onDev s fun d =>
    match d.post.halted with
    | some t => if t + 100000 ≤ d.now + 7 then { d with post := { d.post with restarted := true } } else d
    | none => d

/-- The ECC check of pigeonholes 28 and 29 before the pair resumes (R30): the first poisoned word in them. -/
def Dev.badPostWord (d : Dev) : Option (Nat × Nat) :=
  (d.memu.poison.flatMap fun w => ([28, 29].filter fun b => d.wordNo b (w % 32768) = w).map fun b => (b, w % 32768)).head?

/-- POSTMASTER_RESUME (R30): the pair checks the ECC of pigeonholes 28 and 29; a poisoned word halts it again (Table 11-1). Else it resumes
its roles within 2 ms of the halt, and applies the reactions that waited (R442). -/
def execPostmasterResume (s : State) : Host.Outcome State Fault Refusal :=
  onDev s fun d =>
    if ¬ (d.post.halted.isSome ∧ d.post.restarted) then d
    else match d.badPostWord with
    | some (b, w) => (d.uncorrectable ownerPostmaster b w false).haltPostmaster false
    | none =>
      let todo := d.post.react
      let d := { d with post := { d.post with halted := none, restarted := false, react := [] } }
      todo.foldl (fun d k => d.lossReact k) d

end Sys2Proof.Machine
end

