-- ==== Sys2Proof/Machine/Memory.lean ====
section
/-! DEFINITION. The pigeonholes (chapter 11): reads and writes of the two ports, error correction, handover, test and repair, the BAR2
window; bit-line, row and bank patches (R412, R413).
Conventions of the model: DESIGN CHOICE: log 9; DEDUCED: log 57, 58, 59. -/

namespace Sys2Proof.Machine

/-! ## Ports (R304, R305, R317) -/

/-- A bank runs a test; a destructive one. -/
def Dev.tested (d : Dev) (b : Nat) : Bool := (Tab.find d.memu.tests b).isSome
def Dev.destroyed (d : Dev) (b : Nat) : Bool := ((Tab.find d.memu.tests b).map fun t => t.reserve.isNone).getD false

/-- A bank out of service: both ports refuse every request (R317). -/
def Dev.deadBank (d : Dev) (b : Nat) : Bool := d.memu.dead.contains b

/-- The owner port of a bank takes the writes of a unit: its owner in state Owned (R304); a destructive test refuses every request
(R314). -/
def Dev.ownerWrites (d : Dev) (unit b : Nat) : Bool :=
  d.rd (K.OWNER b) = unit && d.rd (K.STATE_2810 b) = 0 && !d.destroyed b && !d.deadBank b

/-- A request at the owner port refused (R304). -/
def Dev.refusePort (d : Dev) (b : Nat) : Dev := d.count (K.REFUSED_2810 b)

/-- A reader of a unit is served (R304): by the observer port, by the owner port where the owner reads. -/
def Dev.portReads (d : Dev) (unit b : Nat) : Bool :=
  !d.deadBank b && !(d.destroyed b && d.rd (K.OWNER b) = unit && d.rd (K.STATE_2810 b) = 0)

/-- Bytes written by a unit from an offset on, word by word; a part of a poisoned word is discarded (R304, Table 11-1). -/
def State.storeWords (unit b : Nat) : Nat → State → Nat → Bytes → State
  | 0, s, _, _ => s
  | _, s, _, [] => s
  | fuel + 1, s, ofs, data =>
    let n := min (8 - ofs % 8) data.length
    let put (s : State) : State := { s with mem := memWrites s.mem (s.dev.physAddr b ofs) (data.take n) }
    let s := if n = 8 then put (s.onDev fun d => d.cleanWords b ofs 8)
      else
        let (bad, d) := s.dev.readWord unit b (ofs / 8) 0
        if bad then { s with dev := d } else put { s with dev := d }
    State.storeWords unit b fuel s (ofs + n) (data.drop n)

/-- A write that lands, and what it does to patterns (R159). -/
def State.bankStore (s : State) (unit b ofs : Nat) (data : Bytes) : State :=
  if data = [] then s
  else (State.storeWords unit b data.length s ofs data).onDev fun d => if b < 4 then d.pointsWritten b ofs data.length else d

/-- Bytes read by a unit, word by word: 0xFF in every byte of a poisoned word (Table 11-1). -/
def State.loadWords (unit b : Nat) : Nat → State → Nat → Nat → Bytes × State
  | 0, s, _, _ => ([], s)
  | fuel + 1, s, ofs, n =>
    if n = 0 then ([], s)
    else
      let k := min (8 - ofs % 8) n
      let (bad, d) := s.dev.readWord unit b (ofs / 8) 0
      let s := { s with dev := d }
      let here := if bad then List.replicate k 0xFF else memReads s.mem (s.dev.physAddr b ofs) k
      let (rest, s) := State.loadWords unit b fuel s (ofs + k) (n - k)
      (here ++ rest, s)

/-- A read of a bank by a unit; what a refused read carries is not stated, nor what a bank holds while a destructive test writes it (free,
log 8). -/
def State.bankLoad (s : State) (unit b ofs n : Nat) : Bytes × State :=
  if s.dev.portReads unit b ∧ ¬ s.dev.destroyed b then State.loadWords unit b n s ofs n
  else ((List.range n).map (Config.freeByte s.dev.drawn), s.onDev fun d => { d with drawn := d.drawn + 1 })

/-! ## Readers and writers inside the device (R301 to R305) -/

/-- Word w of bank b is a point of the pattern that an axis plays, or is about to play (R155). -/
def Dev.playsPoint (d : Dev) (n b w : Nat) : Bool :=
  match (d.mot n).play.orElse fun _ => (d.mot n).goWait with
  | some r => b < 4 && decide (r.first ≤ b * 32768 + w) && decide (b * 32768 + w < r.first + r.count)
  | none => false

/-- What a consumer does with a poisoned word w of bank b (Table 11-1); the records and letters of banks 20 to 27 are those that come first
(log 9). -/
def State.consumePoison (s : State) (unit b w : Nat) : State :=
  if unit < 0x12 then s.onDev fun d =>
    match d.axisList.find? fun n => d.sliceOf n = unit && d.playsPoint n b w with
    | some n => d.addStop n .lost 4
    | none => d
  else if unit = ownerDespatch ∧ 20 ≤ b ∧ b < 24 then s.onDev fun d => d.setTable (d.desp.table.drop 1)
  else if (unit = ownerMailbag ∨ unit = ownerDma) ∧ 24 ≤ b ∧ b < 28 then s.onDev fun d =>
    match d.mail.staging with
    | r :: rest => { d with mail := { d.mail with staging := rest } }.dropRecord r.rcd
    | [] => d
  else if unit = ownerPostmaster ∧ s.dev.postRuns then s.onDev fun d => d.haltPostmaster false
  else s

/-- BANK_READ (R301): one word read by a unit, with the bit errors met. -/
def execBankRead (unit bank word ecc : Nat) (s : State) : Host.Outcome State Fault Refusal :=
  .next <|
    if ¬ (bank < 32 ∧ word < 32768 ∧ s.dev.portReads unit bank) then s
    else
      let (bad, d) := s.dev.readWord unit bank word ecc
      if bad then { s with dev := d }.consumePoison unit bank word else { s with dev := d }

/-- BANK_WRITE (R304, R305): a write of a unit; in maintenance the observer port takes the Postmaster's, lost where the owner port writes
the same word in the same arbitration. -/
def execBankWrite (unit bank ofs : Nat) (data : Bytes) (clash : Bool) (s : State) : Host.Outcome State Fault Refusal :=
  .next <|
    if ¬ (bank < 32 ∧ ofs + data.length ≤ bankSize) then s
    else if s.dev.ownerWrites unit bank then s.bankStore unit bank ofs data
    else if unit = ownerPostmaster ∧ s.dev.bit K.MAINT_MAP bank ∧ ¬ s.dev.deadBank bank then
      if clash then s.onDev fun d =>
        (d.count K.WRITE_LOST).bankEvent bank 0x0194 (le 1 bank ++ le 1 unit ++ le 2 (ofs / 8) ++ le 8 d.nt)
      else s.bankStore unit bank ofs data
    else s.onDev fun d => d.refusePort bank

/-- PATROL_SCRUB (R302): the next word; the last one of the last bank ends the pass. -/
def execPatrolScrub (ecc : Nat) (s : State) : Host.Outcome State Fault Refusal :=
  onDev s fun d =>
    let w := d.memu.scrubAt
    let (_, d) := if d.deadBank (w / 32768) then (false, d) else d.readWord ownerNone (w / 32768) (w % 32768) ecc
    let next := (w + 1) % (32 * 32768)
    let d := { d with memu := { d.memu with scrubAt := next } }
    if next = 0 then d.wr K.SCRUB_NT d.nt else d

/-! ## Handover (R306 to R310) -/

/-- A handover of bank b begins toward an owner: the capture unit stops (Table 11-4). -/
def Dev.handTo (d : Dev) (b new : Nat) : Dev :=
  let old := d.rd (K.OWNER b)
  let d := { d with memu := { d.memu with hands := Tab.put d.memu.hands b (old, new, d.now) } }
  let d := d.wr (K.STATE_2810 b) 1
  if old = ownerCapture ∧ 4 ≤ b ∧ b < 20 then d.wr (K.CAP_EN (b - 4)) 0 else d

/-- HAND refused (R309). -/
def Dev.handRefused (d : Dev) (b : Nat) : Bool :=
  let new := d.rd (K.NEXT_OWNER b)
  d.rd (K.STATE_2810 b) ≠ 0 || new = d.rd (K.OWNER b) || !(new = ownerHost || new = ownerDma || new = ownerCapture) || 20 ≤ b ||
    d.bit K.MAINT_MAP b || (new = ownerCapture && !(4 ≤ b && b < 20)) || (new = ownerHost && !d.part.full)

/-- HAND's effect. -/
def Dev.handBegin (d : Dev) (b : Nat) : Dev := (d.wr (K.HAND b) 1).handTo b (d.rd (K.NEXT_OWNER b))

/-- A handover ends with a result: its event, and the bank Owned again. -/
def Dev.handEnd (d : Dev) (b result : Nat) : Dev :=
  match Tab.find d.memu.hands b with
  | some (old, new, _) =>
    let d := { d with memu := { d.memu with hands := Tab.del d.memu.hands b } }
    let d := d.wrs [(K.STATE_2810 b, 0), (K.HAND b, 0), (K.HAND_RESULT b, result), (K.OWNER b, if result = 1 then new else old)]
    let payload := le 1 b ++ le 1 old ++ le 1 new ++ le 1 result ++ le 8 d.nt
    if result = 1 then d.bankEvent b 0x0190 payload else (d.raise 0x287 d.nt).bankEvent b 0x0191 payload
  | none => d

/-- TRANSIT_COMPLETE (R306): every granted request has completed; OWNER shows the new owner. -/
def execTransitComplete (b : Nat) (s : State) : Host.Outcome State Fault Refusal :=
  onDev s fun d =>
    match Tab.find d.memu.hands b with
    | some (_, new, _) => if d.rd (K.STATE_2810 b) = 1 then d.wrs [(K.STATE_2810 b, 2), (K.OWNER b, new)] else d
    | none => d

/-- The new owner accepts by a write of ACCEPT: the host or Qorush DMA (R309). -/
def Dev.mayAccept (d : Dev) (b : Nat) : Bool :=
  d.rd (K.STATE_2810 b) = 2 && (d.rd (K.OWNER b) = ownerHost || d.rd (K.OWNER b) = ownerDma)

/-- UNIT_ACCEPT (R306): a hardware unit accepts. -/
def execUnitAccept (b : Nat) (s : State) : Host.Outcome State Fault Refusal :=
  onDev s fun d => if d.rd (K.STATE_2810 b) = 2 ∧ ¬ d.mayAccept b then d.handEnd b 1 else d

/-- HAND_TIMEOUT (R310). -/
def execHandTimeout (b : Nat) (s : State) : Host.Outcome State Fault Refusal :=
  onDev s fun d =>
    match Tab.find d.memu.hands b with
    | some (_, _, t) => if t + 1000000 * d.rd (K.HAND_TO b) ≤ d.now + 7 then d.handEnd b 2 else d
    | none => d

/-! ## Tests (R312 to R317) -/

/-- A pattern in use has points in the bank. -/
def Dev.pointsInUse (d : Dev) (b : Nat) : Bool :=
  (List.range 256).any fun p =>
    d.rd (K.USE p) ≠ 0 && decide (d.rd (K.FIRST p) < (b + 1) * 32768) && decide (b * 32768 < d.rd (K.FIRST p) + d.rd (K.COUNT_3100 p))

/-- The lowest free reserve bank (R315). -/
def Dev.freeReserve (d : Dev) : Option Nat := [30, 31].find? fun r => d.bit K.SPARES_2900 (r - 14)
def Dev.takeReserve (d : Dev) (r : Nat) (free : Bool) : Dev := d.setBit K.SPARES_2900 (r - 14) free

/-- A test of a mode refused (R314). -/
def Dev.testRefused (d : Dev) (b mode : Nat) : Bool :=
  d.tested b || d.bit K.MAINT_MAP b ||
    (if mode = 0 then !(d.rd (K.OWNER b) = ownerHost || d.rd (K.OWNER b) = ownerDma) || d.pointsInUse b
     else d.freeReserve.isNone || 30 ≤ b)

/-- A test begins; a preserving one claims a reserve, and may name a bit line to be patched (R412). -/
def Dev.testBegin (d : Dev) (b mode : Nat) (line : Option (Nat × Nat × Nat)) : Dev :=
  let reserve := if mode = 0 then none else d.freeReserve
  let d := (reserve.map fun r => d.takeReserve r false).getD d
  let d := { d with memu := { d.memu with tests := Tab.put d.memu.tests b { reserve := reserve, line := line } } }
  (d.setBit K.MAINT_MAP b true).wrs [(K.TEST b, 1), (K.TEST_RESULT b, 1)]

/-- Bit-line patches that wait begin their tests where they may; one whose bank takes no preserving test is abandoned (R412). -/
def Dev.startBitLine (d : Dev) : Dev :=
  match d.fray.asks.find? (·.kind = 4) with
  | some a =>
    let took : Dev := { d with fray := { d.fray with asks := d.fray.asks.filter (· ≠ a) } }
    if 30 ≤ a.inst then took.requestEnd a.cause 2
    else if d.testRefused a.inst 1 ∨ d.memu.tests.any (fun t => t.2.line.isSome) then d
    else took.testBegin a.inst 1 (some (a.cause, field a.sub 13 12, field a.sub 11 0))
  | none => d

/-- Spares of a sub-array in use: rows or bit lines. -/
def sparesIn (v sub : Nat) (row : Bool) : Nat := if row then field v (6 * sub + 2) (6 * sub) else field v (6 * sub + 5) (6 * sub + 3)

/-- SPARES of a bank from its repairs. -/
def Dev.showRepairs (d : Dev) (b : Nat) : Dev :=
  let count (sub : Nat) (row : Bool) : Nat := (d.memu.repairs.filter fun r => r.bank = b && r.sub = sub && r.row = row).length
  d.wr (K.SPARES_2810 b) ((List.range 4).foldl (fun v s => v + (count s true + 8 * count s false) * 64 ^ s) 0)

/-- A free spare of a sub-array that is not itself marked. -/
def Dev.freeSpare (d : Dev) (b sub : Nat) (row : Bool) (bad : List Nat) : Option Nat :=
  (List.range 4).find? fun i =>
    !(bad.contains i) && !(d.memu.repairs.any fun r => r.bank = b && r.sub = sub && r.row = row && r.index = i)

/-- A spare takes the place of a row or a bit line, with its patch record (R316, R412). -/
def Dev.useSpare (d : Dev) (b sub : Nat) (row : Bool) (from_ index cause : Nat) : Dev :=
  let new : Repair := { bank := b, sub := sub, row := row, index := index, from_ := from_ }
  let d := { d with memu := { d.memu with repairs := d.memu.repairs ++ [new] } }.showRepairs b
  let place := if row then 0x8000 + 0x1000 * sub + from_ else 0x1000 * sub + from_
  d.patchComplete d.nt 4 cause b place index (sparesIn (d.rd (K.SPARES_2810 b)) sub row = 4)

/-- The marked cells of a sub-array still to be replaced, and the spares that are themselves marked. -/
def liveMarks (sub : Nat) (marks : List MarkedCell) : List MarkedCell :=
  marks.filter fun m => m.sub = sub && m.row < 256 && m.line < 2304
def badSpares (sub : Nat) (row : Bool) (marks : List MarkedCell) : List Nat :=
  (marks.filter fun m => m.sub = sub && (if row then 256 ≤ m.row else 2304 ≤ m.line)).map fun m => if row then m.row - 256 else m.line - 2304

/-- Spares given to lines or rows in turn while free ones remain; the cells that stay marked. -/
def Dev.spareEach (d : Dev) (b sub : Nat) (row : Bool) (bad : List Nat) : List Nat → List MarkedCell → Bool → Dev × List MarkedCell × Bool
  | [], marks, used => (d, marks, used)
  | x :: rest, marks, used =>
    if ¬ marks.any (fun m => (if row then m.row else m.line) = x) then Dev.spareEach d b sub row bad rest marks used
    else match d.freeSpare b sub row bad with
      | some i =>
        Dev.spareEach (d.useSpare b sub row x i 4) b sub row bad rest (marks.filter fun m => (if row then m.row else m.line) ≠ x) true
      | none => Dev.spareEach d b sub row bad rest marks used

/-- The allocation of R316 in one sub-array: lines with marks in more than one row, rows, then lines. -/
def Dev.repairSub (d : Dev) (b sub : Nat) (all : List MarkedCell) : Dev × Bool × Bool :=
  let marks := liveMarks sub all
  let lines := (marks.map (·.line)).mergeSort (· ≤ ·) |>.eraseDups
  let wide := lines.filter fun l => 1 < ((marks.filter (·.line = l)).map (·.row)).eraseDups.length
  let (d, marks, u1) := d.spareEach b sub false (badSpares sub false all) wide marks false
  let rows := (marks.map (·.row)).mergeSort (· ≤ ·) |>.eraseDups
  let (d, marks, u2) := d.spareEach b sub true (badSpares sub true all) rows marks u1
  let left := (marks.map (·.line)).mergeSort (· ≤ ·) |>.eraseDups
  let (d, marks, u3) := d.spareEach b sub false (badSpares sub false all) left marks u2
  (d, u3, !marks.isEmpty)

/-- The allocation over the four sub-arrays: whether a spare was used, whether a marked cell is left over. -/
def Dev.repairBank (d : Dev) (b : Nat) (marks : List MarkedCell) : Dev × Bool × Bool :=
  (List.range 4).foldl (fun (d, used, left) sub =>
    let (d, u, l) := d.repairSub b sub marks
    (d, used || u, left || l)) (d, false, false)

/-- Every byte of a physical bank 0, with valid check bits (R311, R312). -/
def State.clearBank (s : State) (phys : Nat) : State :=
  let lo := phys * bankSize
  { s with mem := s.mem.filter fun c => c.1 < lo || lo + bankSize ≤ c.1,
           dev := { s.dev with memu := { s.dev.memu with
             poison := s.dev.memu.poison.filter fun w => w < phys * 32768 || (phys + 1) * 32768 ≤ w } } }

/-- A physical bank copied onto another, poisoned words with it. -/
def State.copyBank (s : State) (src dst : Nat) : State :=
  let s := s.clearBank dst
  let cells := s.mem.filter fun c => src * bankSize ≤ c.1 && c.1 < (src + 1) * bankSize
  let bad := s.dev.memu.poison.filter fun w => src * 32768 ≤ w && w < (src + 1) * 32768
  { s with mem := cells.foldl (fun m c => memWrite m (c.1 - src * bankSize + dst * bankSize) c.2) s.mem,
           dev := { s.dev with memu := { s.dev.memu with
             poison := s.dev.memu.poison ++ bad.map fun w => w - src * 32768 + dst * 32768 } } }

/-! ## Bank patches (R413) -/

/-- A reserve is consumed: it serves logical bank b for good; its own logical bank leaves service. -/
def Dev.consume (d : Dev) (b r cause : Nat) : Dev :=
  let old := d.rd (K.PHYS b)
  let m := d.memu
  let d := { d with memu := { m with remap := Tab.del m.remap b, dead := (m.dead.filter (· ≠ b)) ++ [r] } }
  let d := (d.takeReserve r false).wrs [(K.PHYS b, r), (K.PHYS r, 0xFF)]
  d.patchComplete d.nt 5 cause b old r (d.rd (K.PHYS 30) = 0xFF && d.rd (K.PHYS 31) = 0xFF)

/-- The patch of logical bank b: the remap in place becomes permanent; a bank out of service comes back holding zeros, its patterns
invalid (R159); a bank in service is copied first (R300). -/
def State.bankPatch (s : State) (b cause : Nat) : State :=
  match Tab.find s.dev.memu.remap b, s.dev.freeReserve with
  | some r, _ => s.onDev fun d => d.consume b r cause
  | none, some r =>
    if s.dev.deadBank b then
      (s.clearBank r).onDev fun d =>
        let d := d.consume b r cause
        if b < 4 then d.pointsWritten b 0 bankSize else d
    else (s.copyBank (s.dev.servedBy b) r).onDev fun d => d.consume b r cause
  | none, none => s.onDev fun d => (d.noSpareEvent 5 b).requestEnd cause 3

/-- A bank left unrepairable decides its patch at once, under the policy of its kind (R399, R400). -/
def State.decideBank (s : State) (b : Nat) : State :=
  if field (s.dev.rd K.POLICY_2900) 11 10 = 1 then s.bankPatch b 5 else s

/-- The bank is unrepairable (R317): out of service, or served by the reserve that its preserving test claimed. -/
def State.unrepairable (s : State) (b : Nat) (reserve : Option Nat) : State :=
  let s := match reserve with
    | some r => (s.copyBank (s.dev.servedBy b) r).onDev fun d => { d with memu := { d.memu with remap := Tab.put d.memu.remap b r } }
    | none => s.onDev fun d => { d with memu := { d.memu with dead := d.memu.dead ++ [b] } }
  s.onDev fun d => d.raise 0x286 d.nt

/-- TEST_END (R316, R317, R412): the named bit line first, then the marked cells. -/
def execTestEnd (b : Nat) (marks : List MarkedCell) (s : State) : Host.Outcome State Fault Refusal :=
  .next <|
    match Tab.find s.dev.memu.tests b with
    | none => s
    | some t =>
      let s := s.onDev fun d => { d with memu := { d.memu with tests := Tab.del d.memu.tests b } }
      let s := s.onDev fun d => match t.line with
        | some (cause, sub, line) =>
          match d.freeSpare b sub false (badSpares sub false marks) with
          | some i => d.useSpare b sub false line i cause
          | none => (d.noSpareEvent 4 b).requestEnd cause 3
        | none => d
      let (d, used, left) := s.dev.repairBank b marks
      let s := { s with dev := d }
      let s := if t.reserve.isSome then s
        else (s.clearBank (s.dev.servedBy b)).onDev fun d => if b < 4 then d.pointsWritten b 0 bankSize else d
      let result := if left then 4 else if used ∨ t.line.isSome then 3 else 2
      let s := if left then s.unrepairable b t.reserve
        else s.onDev fun d => (t.reserve.map fun r => d.takeReserve r true).getD d
      let s := s.onDev fun d =>
        let d := (d.setBit K.MAINT_MAP b false).wrs [(K.TEST b, 0), (K.TEST_RESULT b, result)]
        d.bankEvent b 0x0193 (le 1 b ++ le 1 (if t.reserve.isSome then 1 else 0) ++ le 1 result ++ le 1 0 ++
          le 4 (d.rd (K.SPARES_2810 b)) ++ le 4 0)
      (if left then s.decideBank b else s).onDev Dev.startBitLine

/-! ## The BAR2 window (R319, R320) -/

/-- Where the part of a TLP from an offset on ends: at a bank boundary, or at the end of its region (Table 11-8). -/
def bar2Bound (ofs : Nat) : Nat :=
  if ofs < 0x1000000 then (ofs / bankSize + 1) * bankSize else if ofs < 0x1010000 then 0x1010000 else 0x2000000

/-- A read, part by part: a bank, or zeros of a reserved region and of the submission window (R140). -/
def State.bar2Load : Nat → State → Nat → Nat → Bytes × State
  | 0, s, _, _ => ([], s)
  | fuel + 1, s, ofs, n =>
    if n = 0 then ([], s)
    else
      let k := min n (bar2Bound ofs - ofs)
      let (here, s) := if ofs < 0x800000 then s.bankLoad ownerHost (ofs / bankSize) (ofs % bankSize) k else (List.replicate k 0, s)
      let (rest, s) := State.bar2Load fuel s (ofs + k) (n - k)
      (here ++ rest, s)

/-- BAR2_READ (R320). -/
def execBar2Read (ofs len : Nat) (s : State) : Host.Outcome State Fault Refusal :=
  .next <|
    if ¬ s.dev.hostUp then s
    else
      let (b, s) := State.bar2Load 4 s ofs len
      s.onDev fun d => d.emit (.completion b)

/-- One part of a write: a bank that the host owns, else discarded and counted; a submission of letters (R140, R320, Table 11-4). -/
def State.bar2Part (s : State) (ofs : Nat) (data : Bytes) : State :=
  if ofs < 0x800000 then
    let b := ofs / bankSize
    if s.dev.ownerWrites ownerHost b then s.bankStore ownerHost b (ofs % bankSize) data
    else s.onDev fun d => (d.count K.BAR2_DROP).refusePort b
  else if 0x1000000 ≤ ofs ∧ ofs < 0x1010000 then s.onDev fun d =>
    if ofs % 32 ≠ 0 then d.refuseLetter (letterOf [] d.nt 0) 1 else d.arriveAll s.mem data d.nt
  else s.onDev fun d => d.count K.BAR2_DROP

/-- A write, part by part. -/
def State.bar2Store : Nat → State → Nat → Bytes → State
  | 0, s, _, _ => s
  | fuel + 1, s, ofs, data =>
    if data = [] then s
    else
      let k := min data.length (bar2Bound ofs - ofs)
      State.bar2Store fuel (s.bar2Part ofs (data.take k)) (ofs + k) (data.drop k)

/-- BAR2_WRITE (R320). -/
def execBar2Write (ofs : Nat) (data : Bytes) (s : State) : Host.Outcome State Fault Refusal :=
  .next (if s.dev.hostUp then State.bar2Store 4 s ofs data else s)

end Sys2Proof.Machine
end

