-- ==== Sys2Proof/Machine/Fray.lean ====
section
/-! DEFINITION. Fray monitoring and patching of spares (chapter 15): samples, fits, decisions, requests, and the patches of slices, ADC
channels, gate segments and seam lanes.
Conventions of the model: DEDUCED: log 33, 59, 69. -/

namespace Sys2Proof.Machine

/-! ## Samples and fits (R397 to R399) -/

/-- How a measure lies beyond a threshold (Table 15-2). -/
inductive Beyond where
  | below
  | above
  | magnitude
  deriving DecidableEq, Repr

/-- A value lies beyond a threshold. -/
def Beyond.of : Beyond → Int → Nat → Bool
  | .below, v, th => v < th
  | .above, v, th => (th : Int) < v
  | .magnitude, v, th => th < v.natAbs

/-- The least-squares line through samples (device time in ns, value): its value at an instant and its slope per ns. -/
def fitLine (l : List (Nat × Int)) (now : Nat) : Rat × Rat :=
  let n : Rat := (l.length : Nat)
  let x (e : Nat × Int) : Rat := ((e.1 : Int) - now : Int)
  let sx := l.foldl (fun s e => s + x e) (0 : Rat)
  let sy := l.foldl (fun s e => s + (e.2 : Rat)) (0 : Rat)
  let sxx := l.foldl (fun s e => s + x e * x e) (0 : Rat)
  let sxy := l.foldl (fun s e => s + x e * (e.2 : Rat)) (0 : Rat)
  let den := n * sxx - sx * sx
  let b := if den = 0 then 0 else (n * sxy - sx * sy) / den
  (if n = 0 then 0 else (sy - b * sx) / n, b)

/-- HOURS (R398): powered time until the line crosses the patch threshold; 0 where it has crossed it. -/
def hoursTo (l : List (Nat × Int)) (now : Nat) (by_ : Beyond) (th : Nat) : Nat :=
  if l.length < 4 then 0xFFFF
  else
    let (y, b) := fitLine l now
    let goal : Rat := if by_ = .magnitude ∧ b < 0 then -(th : Nat) else (th : Nat)
    let toward : Bool := match by_ with
      | .below => b < 0
      | .above => 0 < b
      | .magnitude => b ≠ 0
    if ¬ toward then 0xFFFF
    else
      let h := rfloor ((goal - y) / b / 3600000000000)
      if h < 0 then 0 else if 65534 < h then 0xFFFF else h.toNat

/-- A resource sampled: measure (row of Table 15-2), its key, kind and instance for events, how it lies beyond, thresholds, and the
request form of its patch, where it has one. -/
structure Measured where
  row : Nat
  key : Nat
  kind : Nat
  inst : Nat
  by_ : Beyond
  warn : Nat
  patch : Nat
  ask : Option (Nat × Nat) := none

def Measured.slot (m : Measured) : Nat := m.row * 2 ^ 24 + m.key

/-- HOURS of a measure now. -/
def Dev.hoursOf (d : Dev) (m : Measured) : Nat := hoursTo (Tab.get [] d.fray.hist m.slot) d.now m.by_ m.patch

/-- One sample (R397, R399): history, the warning once per resource and wake, and after three in a row a decision. -/
def Dev.frayTake (d : Dev) (m : Measured) (v : Int) : Dev :=
  let f := d.fray
  let past := m.by_.of v m.patch
  let run := if past then Tab.get 0 f.runs m.slot + 1 else 0
  let warns := m.by_.of v m.warn && !f.warned.contains m.slot
  let d := { d with fray := { f with hist := Tab.put f.hist m.slot (((d.now, v) :: Tab.get [] f.hist m.slot).take 16),
                                     runs := Tab.put f.runs m.slot (if 3 ≤ run then 0 else run),
                                     warned := if warns then m.slot :: f.warned else f.warned } }
  let d := if warns then
      d.frayEvent 0x01C0 (le 1 m.kind ++ le 1 m.row ++ le 2 m.inst ++ le 4 (enc 32 v) ++ le 2 (d.hoursOf m))
    else d
  match m.ask with
  | some (inst, sub) => if 3 ≤ run then d.decidePatch m.kind inst sub 1 else d
  | none => d

/-! ## The resources -/

/-- A slice is fitted and not retired; its axis while it is in service. -/
def Dev.sliceAlive (d : Dev) (s : Nat) : Bool := d.rd (K.SLICE_STATUS s) % 8 < 3
def Dev.sliceAxis (d : Dev) (s : Nat) : Option Nat :=
  let v := d.rd (K.SLICE_STATUS s)
  if v % 8 = 0 then some (field v 12 8) else none

def Dev.slackMeasure (d : Dev) (s : Nat) : Measured :=
  { row := 0, key := s, kind := 0, inst := field (d.rd (K.SLICE_STATUS s)) 12 8, by_ := .below, warn := d.rd K.SLK_WARN,
    patch := d.rd K.SLK_PATCH, ask := (d.sliceAxis s).map fun n => (n, 0) }
def Dev.roMeasure (d : Dev) (s : Nat) : Measured :=
  { row := 1, key := s, kind := 0, inst := field (d.rd (K.SLICE_STATUS s)) 12 8, by_ := .below, warn := d.rd K.RO_WARN,
    patch := d.rd K.RO_PATCH, ask := (d.sliceAxis s).map fun n => (n, 0) }

/-- HOURS of a slice: the nearer of its two measures (Table 15-8). -/
def Dev.showHours (d : Dev) (s : Nat) : Dev := d.wr (K.HOURS s) (min (d.hoursOf (d.slackMeasure s)) (d.hoursOf (d.roMeasure s)))

/-- SLACK_M of a slice sampled: its interval ends. -/
def Dev.sampleSlack (d : Dev) (s v : Nat) : Dev :=
  let d := (d.frayTake (d.slackMeasure s) v).wr (K.SLACK_M s) v
  { d with fray := { d.fray with slack := Tab.del d.fray.slack s } }.showHours s

/-- Bytes of signed values, each saturated to an INT8. -/
def signedBytes (l : List Int) : Nat := ofLe (l.map fun v => BitVec.ofInt 8 (clampI (-128) 127 v))

/-- One sample of every measure (R397). -/
def Dev.sampleSlices (d : Dev) (m : FrayMeasures) : Dev :=
  ((List.range 18).filter d.sliceAlive).foldl (fun d s =>
    let d := d.sampleSlack s (Tab.get 1023 d.fray.slack s)
    match m.roSlice[s]? with
    | some v => ((d.frayTake (d.roMeasure s) v).wr (K.RO_WEAR_2910 s) (v % 65536)).showHours s
    | none => d) d

/-- A byte of a slot, as signed or not. -/
def byteOf (v i : Nat) : Nat := v / 256 ^ i % 256

/-- ADC_DRIFT of channel j of quarter q (Table 15-2), codes to the nearest whole one: against the spare channel over the coil's last turn; once
that channel is assigned, from the offset that identification has measured. None where there is no such value yet. -/
def Dev.adcDriftOf (d : Dev) (q j : Nat) : Option Int :=
  let c := 8 * q + j
  if (d.channelCoil q j).isNone then none
  else if d.rd (K.ADC_MAP q) % 16 < 8 then
    (if (d.coil c).offCount = 0 then none else some (rround ((d.coil c).offset - Config.adcOffset c)))
  else (Tab.find d.fray.turnMean c).map fun m => rround (m - Config.adcDifference c)

/-- LANE_CRC of a lane: flits discarded for CRC since the last sample at `since`, scaled to per hour. -/
def Dev.laneRate (d : Dev) (since k : Nat) : Nat := Tab.get 0 d.fray.laneErr k * 3600000000000 / max 1 (d.now - since)

/-- One sample of a quarter's channels, lanes and ring oscillator; the byte of a channel without a value stays. -/
def Dev.sampleQuarter (d : Dev) (m : FrayMeasures) (since q : Nat) : Dev :=
  let d := match m.roQuarter[q]? with
    | some v =>
      (d.frayTake { row := 1, key := 0x100 + q, kind := 0xFF, inst := q, by_ := .below, warn := d.rd K.RO_WARN, patch := d.rd K.RO_PATCH }
        v).wr (K.RO_WEAR_2930 q) (v % 65536)
    | none => d
  let d := d.closeTurn q (spareTurn d.nowQ)
  let old := d.rd (K.ADC_DRIFT q)
  let adc := (List.range 8).map fun j => (d.adcDriftOf q j).getD (sext 8 (byteOf old j))
  let d := ((List.range 8).filter fun j => (d.adcDriftOf q j).isSome).foldl (fun d j =>
    d.frayTake { row := 2, key := 8 * q + j, kind := 1, inst := q, by_ := .magnitude, warn := d.rd K.ADC_WARN, patch := d.rd K.ADC_PATCH,
                 ask := some (8 * q + j, 0) } (adc[j]?.getD 0)) d
  let d := d.wr (K.ADC_DRIFT q) (signedBytes adc)
  let lanes := (List.range 3).map fun i => d.laneRate since (3 * q + i)
  let d := (List.range 3).foldl (fun d i =>
    d.frayTake { row := 4, key := 3 * q + i, kind := 3, inst := q, by_ := .above, warn := d.rd K.LANE_WARN, patch := d.rd K.LANE_PATCH,
                 ask := if i < 2 ∧ d.bit (K.LANES q) i then some (q, i) else none } (lanes[i]?.getD 0)) d
  d.wr (K.LANE_CRC q) (ofLe (lanes.map fun v => BitVec.ofNat 8 (min 255 v)))

/-- SEG_DRIFT of output o of leg l (Table 15-2): the settled code less the one at the first convergence; none while the output converges, or
VBUS or TJ lie too far from their values there. -/
def Dev.segDriftOf (d : Dev) (l o : Nat) : Option Int :=
  let q := l / 16
  match Tab.find d.fray.firstCode (4 * l + o) with
  | some (c0, v0, t0) =>
    let v : Int := d.rd (K.VBUS q)
    if ¬ d.bit (K.TAIL_FLAGS l) o ∧ 20 * (v - v0).natAbs ≤ v0 ∧ (d.rdI 16 (K.TDIE q) - t0).natAbs ≤ 160 then
      some ((field (d.rd (K.CODES l)) (8 * o + 4) (8 * o) : Int) - c0)
    else none
  | none => none

/-- One sample of a leg's outputs; the byte of one that gives none stays. -/
def Dev.sampleLeg (d : Dev) (l : Nat) : Dev :=
  let old := d.rd (K.SEG_DRIFT l)
  let seg := (List.range 4).map fun o => (d.segDriftOf l o).getD (sext 8 (byteOf old o))
  let d := ((List.range 4).filter fun o => (d.segDriftOf l o).isSome).foldl (fun d o =>
    d.frayTake { row := 3, key := 4 * l + o, kind := 2, inst := l, by_ := .above, warn := d.rd K.SEG_WARN, patch := d.rd K.SEG_PATCH,
                 ask := some (l, 256 * o) } (seg[o]?.getD 0)) d
  d.wr (K.SEG_DRIFT l) (signedBytes seg)

/-- Corrected errors of a bit line (its key: bank * 2^14 and the layout of FROM) over the last 24 h. -/
def Dev.colCount (d : Dev) (key : Nat) : Nat := (d.fray.colErr.filter fun e => e.1 = key && d.now < e.2 + 86400000000000).length

/-- One sample of the bit lines of bank b on which errors have been corrected; COL_CE and COL_ID show the worst, the lowest of equal ones. -/
def Dev.sampleBank (d : Dev) (b : Nat) : Dev :=
  let known := d.fray.hist.filterMap fun e => if e.1 / 2 ^ 24 = 5 then some (e.1 % 2 ^ 24) else none
  let keys := ((known ++ d.fray.colErr.map (·.1)).filter fun k => k / 2 ^ 14 = b).mergeSort (· ≤ ·) |>.eraseDups
  let d := keys.foldl (fun d k =>
    d.frayTake { row := 5, key := k, kind := 4, inst := b, by_ := .above, warn := d.rd K.COL_WARN, patch := d.rd K.COL_PATCH,
                 ask := some (b, k % 2 ^ 14) } (d.colCount k)) d
  let (n, k) := keys.foldl (fun (x : Nat × Nat) k => if x.1 < d.colCount k then (d.colCount k, k) else x) (0, 0)
  d.wrs [(K.COL_CE b, min 65535 n), (K.COL_ID b, k % 2 ^ 14)]

/-! ## ADC patches (R409) -/

/-- Channel 8 serves a coil: its offset, ADC_MAP, the record. -/
def Dev.adcServe (d : Dev) (c cause : Nat) (diff : Rat) : Dev :=
  let q := c / 8
  let d := d.setCoil c { d.coil c with offset := (d.coil c).offset + diff }
  let d := (d.wr (K.ADC_MAP q) (c % 8)).setBit K.SPARES_2900 (8 + q) false
  d.patchComplete d.nt 1 cause q (c % 8) 8 true

/-- The first ADC patch that waits begins, where none runs: 64 periods beside channel j, or at once where the quarter is not enabled. -/
def Dev.startAdc (d : Dev) : Dev :=
  match d.fray.asks.find? (·.kind = 1) with
  | some a =>
    if d.fray.adc ≠ [] then d
    else
      let d := { d with fray := { d.fray with asks := d.fray.asks.filter (· ≠ a) } }
      let q := a.inst / 8
      if ¬ d.spareFor 1 a.inst 0 then (d.noSpareEvent 1 q).requestEnd a.cause 3
      else
        let d := d.frayEvent 0x01C1 (le 1 1 ++ le 1 a.cause ++ le 2 q ++ le 2 8 ++ le 2 0 ++ le 4 d.nt)
        if ¬ (quarterAxes q).any d.regulates ∨ ¬ (d.coil a.inst).running then d.adcServe a.inst a.cause 0
        else { d with fray := { d.fray with adc := Tab.put d.fray.adc q (a.inst, a.cause, (d.coil a.inst).next),
                                            adcSum := Tab.del d.fray.adcSum q, spareAdc := Tab.del d.fray.spareAdc q } }
  | none => d

/-- The mean difference of channel 8 from channel j over an ADC patch, codes (R409); 0 where no pair of samples came. -/
def Dev.meanDiff (d : Dev) (q : Nat) : Rat :=
  match Tab.find d.fray.adcSum q with
  | some (sum, n) => if n = 0 then 0 else (sum : Rat) / n
  | none => 0

/-- ADC_PATCH_SWITCH (R409): after 64 periods, at a period boundary of the coil; at once where its periods have stopped. -/
def execAdcPatchSwitch (q : Nat) (s : State) : Host.Outcome State Fault Refusal := gated s <|
  onDev s fun d =>
    match Tab.find d.fray.adc q with
    | some (c, cause, k0) =>
      if ¬ (d.coil c).running ∨ (d.atBoundary c ∧ k0 + 64 ≤ (d.coil c).next) then
        ({ d with fray := { d.fray with adc := Tab.del d.fray.adc q } }.adcServe c cause (d.meanDiff q)).startAdc
      else d
    | none => d

/-- FRAY_SAMPLE (R397): every FRAY_INT of powered time, where the monitor is on, the Postmaster runs and the device is not Stowed. -/
def execFraySample (m : FrayMeasures) (s : State) : Host.Outcome State Fault Refusal := gated s <|
  .next <|
    if s.pow.devState = .stowed then s
    else s.onDev fun d =>
      if d.rd K.FRAY_EN = 1 ∧ d.postRuns ∧ d.fray.lastAt + 60000000000 * d.rd K.FRAY_INT ≤ d.now + 7 then
        let since := d.fray.lastAt
        let d := { d with fray := { d.fray with lastAt := d.now } }.count K.SAMPLES
        let d := d.sampleSlices m
        let d := d.quarterList.foldl (fun d q => d.sampleQuarter m since q) d
        let d := { d with fray := { d.fray with laneErr := [] } }
        let d := ((List.range 64).filter d.hasLeg).foldl (fun d l => d.sampleLeg l) d
        let d := (List.range 32).foldl (fun d b => d.sampleBank b) d
        d.startBitLine.startAdc
      else d

/-! ## Requests (R401) -/

/-- A patch of a kind runs. -/
def Dev.patchRuns (d : Dev) (kind : Nat) : Bool :=
  match kind with
  | 0 => d.fray.slice.isSome
  | 1 => d.fray.adc ≠ []
  | 4 => d.memu.tests.any fun t => t.2.line.isSome
  | _ => false

/-- The resource of a request is absent, retired or already a spare. -/
def Dev.noResource (d : Dev) (kind inst sub : Nat) : Bool :=
  match kind with
  | 0 => !d.hasAxis inst
  | 1 => !d.hasCoil inst || decide (d.rd (K.ADC_MAP (inst / 8)) % 16 = inst % 8)
  | 2 => !d.hasLeg inst
  | 3 => !d.hasQuarter inst || decide (1 < sub)
  | 4 => 32 ≤ inst || d.deadBank inst || sub.testBit 15 || 2304 ≤ sub % 4096 ||
      d.memu.repairs.any fun r => r.bank = inst && r.sub = field sub 13 12 && !r.row && r.from_ = sub % 4096
  | _ => 30 ≤ inst

/-- REQ_GO refused (R401). -/
def Dev.reqRefused (d : Dev) : Bool :=
  let k := d.rd K.REQ_KIND
  let i := d.rd K.REQ_INST
  let sub := d.rd K.REQ_SUB
  field (d.rd K.POLICY_2900) (2 * k + 1) (2 * k) = 0 || d.noResource k i sub || !d.spareFor k i sub || d.patchRuns k ||
    (k = 0 && (d.axState i = axIdentifying || d.axState i = axFaulted))

/-- REQ_GO's effect. -/
def State.reqBegin (s : State) : State :=
  let k := s.dev.rd K.REQ_KIND
  let i := s.dev.rd K.REQ_INST
  let s := s.onDev fun d => d.wr K.REQ_GO 1
  if k = 5 then s.bankPatch i 2
  else s.onDev fun d =>
    let sub := if k = 2 then d.rd K.REQ_SUB / 256 % 4 * 256 else d.rd K.REQ_SUB
    let a : PatchAsk := { kind := k, inst := i, sub := sub, cause := 2 }
    ({ d with fray := { d.fray with asks := d.fray.asks ++ [a] } }.startBitLine).startAdc

/-! ## Slice patches (R403 to R408) -/

/-- The axis of a slice patch is where it may begin: at a boundary of coil A, or Disabled. -/
def Dev.mayShadow (d : Dev) (n : Nat) : Bool :=
  d.axState n = axDisabled || (d.axLive n && d.atBoundary (2 * n))

/-- PATCH_START (R403): the first slice patch that waits and may begin; the lowest spare shadows its axis from B0. -/
def execPatchStart (s : State) : Host.Outcome State Fault Refusal := gated s <|
  onDev s fun d =>
    match d.fray.slice, d.fray.asks.find? fun a => a.kind = 0 && d.mayShadow a.inst with
    | none, some a =>
      let d := { d with fray := { d.fray with asks := d.fray.asks.filter (· ≠ a) } }
      match d.spareSlices with
      | [] => (d.noSpareEvent 0 a.inst).requestEnd a.cause 3
      | sp :: _ =>
        let p : PatchRt := { axis := a.inst, spare := sp, cause := a.cause, started := true, b0 := d.now }
        let d := { d with fray := { d.fray with slice := some p } }
        let d := ((d.setSlice sp 2 a.inst).setBit (K.SLICE_MAP a.inst) 6 true).showSpares
        let d := d.wrs [(K.P_STATE, 1), (K.P_AXIS, a.inst), (K.P_SPARE, sp), (K.MATCHED, 0), (K.P_CAUSE, 0), (K.P_START_NT, d.nt)]
        d.frayEvent 0x01C1 (le 1 0 ++ le 1 a.cause ++ le 2 a.inst ++ le 2 sp ++ le 2 0 ++ le 4 d.nt)
    | _, _ => d

/-- LOADING_COMPLETE (R403): the copier has loaded the spare, which applies the inputs since B0. -/
def execLoadingComplete (s : State) : Host.Outcome State Fault Refusal := gated s <|
  onDev s fun d =>
    match d.fray.slice with
    | some p => if p.loaded then d else { d with fray := { d.fray with slice := some { p with loaded := true } } }.wr K.P_STATE 2
    | none => d

/-- An instant lies in the span g to g + 2P of a go of the axis (R405). -/
def Dev.inGoSpan (d : Dev) (n : Nat) : Bool :=
  match (d.coil (2 * n)).goFrom with
  | some g => g ≤ d.nowQ && decide (d.nowQ < g + 64 * d.rd (K.PERIOD (n / 4)))
  | none => false

/-- TAKEOVER (R405, R408): at the start of the 64th matched period of coil A, or of a later one outside every go span; at once for an
axis in Disabled. -/
def execTakeover (s : State) : Host.Outcome State Fault Refusal := gated s <|
  onDev s fun d =>
    match d.fray.slice with
    | some p =>
      let n := p.axis
      let r := d.coil (2 * n)
      let at64 := 64 ≤ p.matched + (if p.cur = some true then 1 else 0) && p.cur = some true && r.begun && r.start = d.ticks && !d.inGoSpan n
      if p.loaded ∧ (d.axState n = axDisabled ∨ at64) then
        let old := d.sliceOf n
        let d := { d with fray := { d.fray with slice := none } }
        let b := d.coil (2 * n + 1)
        let later := b.running && !(b.begun && b.start = d.ticks)
        let d := d.setAxis n { d.axis n with oldSlice := if later then some old else none }
        let d := ((d.setSlice old 3 0x1F).setSlice p.spare 0 n).wr (K.SLICE_MAP n) p.spare
        let d := d.showSpares.wrs [(K.P_STATE, 3), (K.P_END_NT, d.nt)]
        d.patchComplete d.nt 0 p.cause n old p.spare (d.spareSlices = [])
      else d
    | none => d

/-! ## Segments and lanes (R410, R411) -/

/-- The segment whose substitution shortens the mean switching time most, by at least 0.25 ns. -/
def wornSegment (gains : List Int) : Option Nat :=
  let best := gains.foldl max 0
  if best < 1 then none else gains.findIdx? fun g => g = best

/-- SEGMENT_PATCH (R410): the worn segment of an output located, and a free spare mapped in its place. -/
def execSegmentPatch (leg output : Nat) (gains : List Int) (s : State) : Host.Outcome State Fault Refusal := gated s <|
  onDev s fun d =>
    match d.fray.asks.find? fun a => a.kind = 2 && a.inst = leg && a.sub = 256 * output with
    | some a =>
      let d := { d with fray := { d.fray with asks := d.fray.asks.filter (· ≠ a) } }
      let map := d.rd (K.SEGMAP leg output)
      match wornSegment gains, (List.range 4).find? fun i => !map.testBit (8 * i + 7) with
      | some g, some i =>
        let d := d.frayEvent 0x01C1 (le 1 2 ++ le 1 a.cause ++ le 2 leg ++ le 2 (32 + i) ++ le 2 0 ++ le 4 d.nt)
        let d := d.setField (K.SEGMAP leg output) (8 * i + 7) (8 * i) (0x80 + g)
        let d := d.emit (.mode (leg / 16) (.segmentMap (leg % 16) output i g))
        d.patchComplete d.nt 2 a.cause leg (256 * output + g) (32 + i) (!d.spareFor 2 leg a.sub)
      | none, some _ =>
        let d := d.raise 0x28F d.nt
        (d.frayEvent 0x01C3 (le 1 2 ++ le 1 5 ++ le 2 leg ++ le 4 0 ++ le 4 d.nt)).requestEnd a.cause 2
      | _, none => (d.noSpareEvent 2 leg).requestEnd a.cause 3
    | none => d

/-- LANE_PATCH (R411): lane 2 enters service before the worn lane leaves it. -/
def execLanePatch (q : Nat) (s : State) : Host.Outcome State Fault Refusal := gated s <|
  onDev s fun d =>
    match d.fray.asks.find? fun a => a.kind = 3 && a.inst = q with
    | some a =>
      let d := { d with fray := { d.fray with asks := d.fray.asks.filter (· ≠ a) } }
      if ¬ d.spareFor 3 q a.sub then (d.noSpareEvent 3 q).requestEnd a.cause 3
      else
        let d := d.frayEvent 0x01C1 (le 1 3 ++ le 1 a.cause ++ le 2 q ++ le 2 2 ++ le 2 0 ++ le 4 d.nt)
        let d := (d.setBit (K.LANES q) 2 true).emit (.mode q (.laneSelect 2 true))
        let d := (d.setBit (K.LANES q) a.sub false).emit (.mode q (.laneSelect a.sub false))
        (d.setBit K.SPARES_2900 (12 + q) false).patchComplete d.nt 3 a.cause q a.sub 2 true
    | none => d

end Sys2Proof.Machine
end

