-- ==== Sys2Proof/Machine/Vcore.lean ====
section
/-! DEFINITION. The core-voltage loop and its PMBus master (chapter 02, R53 to R57).
Conventions of the model: PRESUMED: log 19; DEDUCED: log 33, 34. -/

namespace Sys2Proof.Machine

/-- AT_CEIL and AT_MIN follow V_SET (Table 2-7). -/
def Dev.showVolts (d : Dev) : Dev :=
  let v := d.rd K.V_SET
  (d.setBit K.V_STATUS 0 (v = d.rd K.V_MAX)).setBit K.V_STATUS 1 (v = d.rd K.V_MIN)

/-- VOUT_COMMAND with a value in mV: V_SET, and 500 us of settling (R53). -/
def Dev.commandVolts (d : Dev) (v : Nat) : Dev :=
  let d := { d with vcore := { d.vcore with settleEnd := some (d.now + 500000) } }
  ((d.wr K.V_SET v).setBit K.V_STATUS 6 true).showVolts.emit (.pmbus .voutCommand v)

/-- The fabric is short at a slice: its loop minimum lies below the floor of the job that produced it (R53). -/
def Dev.shortSlices (d : Dev) : List Nat :=
  (d.vcore.loopMin.filter fun e => (d.rd (K.SLICE_STATUS e.1) % 8 = 0 || d.rd (K.SLICE_STATUS e.1) % 8 = 2) && decide (e.2.1 < e.2.2.1)).map (·.1)

/-- AT_CEIL_SHORT (R57): source 0x283, and a fray sample of every slice below its floor (R397). -/
def Dev.ceilShort (d : Dev) (short : List Nat) : Dev :=
  let d := (d.setBit K.V_STATUS 2 true).raise 0x283 d.nt
  if d.rd K.FRAY_EN = 1 ∧ d.postRuns then short.foldl (fun d s => d.sampleSlack s 0) d else d

/-- The next value of the loop and of its quiet count (R53). -/
def nextVolts (v lo hi quiet : Nat) (bad calm : Bool) : Nat × Nat :=
  if bad then (if v < hi then min (v + 10) hi else v, 0)
  else
    let q := if calm then quiet + 1 else 0
    if 100 ≤ q ∧ lo < v then (max (v - 5) lo, 0) else (v, q)

/-- One evaluation of the loop (R53, R57); in fixed mode it writes nothing. -/
def Dev.evalVolts (d : Dev) (fsi : Nat) : Dev :=
  let c := d.vcore
  let short := d.shortSlices
  let v := d.rd K.V_SET
  let bad := c.held || short ≠ [] || decide (fsi < 3414)
  let (new, quiet) := nextVolts v (d.rd K.V_MIN) (d.rd K.V_MAX) c.quiet bad (!c.busy && decide (3600 ≤ fsi))
  let d := { d with vcore := { c with loopMin := [], held := false, busy := false, quiet := quiet, last := d.now } }
  let d := if bad ∧ v = d.rd K.V_MAX then d.ceilShort short else d.setBit K.V_STATUS 2 false
  if d.rd K.V_MODE = 0 ∧ new ≠ v then d.commandVolts new else d

/-- VCORE_LOOP (R53): every millisecond, and at once after a held period; never during settling or while PMB_FAIL stops the loop. -/
def execVcoreLoop (fsi : Nat) (s : State) : Host.Outcome State Fault Refusal :=
  onDev s fun d =>
    let due := d.vcore.held || decide (d.vcore.last + 1000000 ≤ d.now + 7)
    if 1 ≤ d.start.stage ∧ due ∧ d.vcore.settleEnd.isNone then
      let d := (d.wr K.FSI fsi).setBit K.V_STATUS 3 (fsi < 3414)
      if d.bit K.V_STATUS 4 then d else d.evalVolts fsi
    else d

/-- SETTLED (R53): 500 us after a VOUT_COMMAND. -/
def execSettled (s : State) : Host.Outcome State Fault Refusal :=
  onDev s fun d =>
    match d.vcore.settleEnd with
    | some t =>
      if t ≤ d.now + 7 then { d with vcore := { d.vcore with settleEnd := none } }.setBit K.V_STATUS 6 false else d
    | none => d

/-- The loop stops (R56). -/
def Dev.pmbFail (d : Dev) : Dev := if d.bit K.V_STATUS 4 then d else (d.setBit K.V_STATUS 4 true).raise 0x282 d.nt

/-- STATUS_WORD reports a fault: any bit but BUSY, bit 7 (PRESUMED, log 19). -/
def statusFault (data : Nat) : Bool := (withBit (data % 65536) 7 false) ≠ 0

/-- PMBUS_TRANSACTION (R54, R56): the third failed one in a row, or a fault that STATUS_WORD reports, stops the loop; after PMB_RETRY the
first one that succeeds lets it go on. STATUS_WORD is read after every VOUT_COMMAND, a failed one too. -/
def execPmbusTransaction (cmd : PmbCommand) (ok : Bool) (data : Nat) (s : State) : Host.Outcome State Fault Refusal :=
  onDev s fun d =>
    if d.start.stage < 1 then d
    else
      let c := d.vcore
      let d := d.wr K.PMB_RETRY 0
      let d := if cmd = .voutCommand then d.emit (.pmbus .statusWord 0) else d
      if ¬ ok then
        let d := { d with vcore := { c with fails := c.fails + 1 } }
        if 3 ≤ c.fails + 1 then d.pmbFail else d
      else
        let d := { d with vcore := { c with fails := 0, retry := false } }
        let d := if c.retry then d.setBit K.V_STATUS 4 false else d
        match cmd with
        | .readVout => d.wr K.V_READ data
        | .statusWord => if statusFault data then d.pmbFail else d
        | .voutCommand | .voutMode | .clearFaults => d

/-- PMB_ALERT (R54): the level of PMB_ALERT_N; asserted, STATUS_WORD is read. -/
def execPmbAlert (asserted : Bool) (s : State) : Host.Outcome State Fault Refusal :=
  onDev s fun d =>
    let d := d.setBit K.V_STATUS 5 asserted
    if asserted ∧ 1 ≤ d.start.stage then d.emit (.pmbus .statusWord 0) else d

/-- PMB_RETRY's effect (R56): the faults are cleared at the regulator, and that transaction decides. -/
def Dev.pmbRetry (d : Dev) : Dev :=
  ({ d with vcore := { d.vcore with retry := true } }.wr K.PMB_RETRY 1).emit (.pmbus .clearFaults 0)

end Sys2Proof.Machine
end

