-- ==== Sys2Proof/Machine/Ports.lean ====
section
/-! DEFINITION. The ports of the Qorush switch and the envelope header (chapter 14, R366 to R382): frames, output queues, routes, and
what this device originates.
Conventions of the model: DEDUCED: log 64, 65, 67. -/

namespace Sys2Proof.Machine

/-! ## Ports -/

def Dev.port (d : Dev) (p : Nat) : PortRt := Tab.get {} d.ring.ports p
def Dev.setPort (d : Dev) (p : Nat) (r : PortRt) : Dev := { d with ring := { d.ring with ports := Tab.put d.ring.ports p r } }

/-- Port p exists: 0 A, 1 B, 2 C (Table 0-2). -/
def Dev.hasPort (d : Dev) (p : Nat) : Bool := p < 2 || (p = 2 && d.part.full)

/-- The ring ports have started, 1 ms after t_p (Table 16-3). -/
def Dev.ringLive (d : Dev) : Bool := d.start.up && d.start.tp + 1000000 ≤ d.now + 7

/-- Port p runs: started, not off by PMODE, and for port C not off by PORTC_MODE (R366, Table 14-10). -/
def Dev.portOn (d : Dev) (p : Nat) : Bool :=
  d.ringLive && d.hasPort p && d.rd (K.PMODE p) ≠ 3 && (p ≠ 2 || d.rd K.PORTC_MODE ≠ 0)

/-- Port p is synchronised, with auto-negotiation complete where it is enabled: frames pass (R366, R367). -/
def Dev.portReady (d : Dev) (p : Nat) : Bool :=
  d.portOn p && (d.port p).synced && ((d.port p).an || d.rd (K.AN_EN p) = 0)

/-- Port p is up (Table 14-9). -/
def Dev.portUp (d : Dev) (p : Nat) : Bool := d.rd (K.PLINK p) = 1 || d.rd (K.PLINK p) = 2

/-- A port that meets the conditions of R367 is held from now on for LINK_HOLD. -/
def Dev.portCheck (d : Dev) (p : Nat) : Dev :=
  let r := d.port p
  if d.portReady p ∧ r.hello ∧ d.rd (K.PLINK p) = 0 then (d.setPort p { r with stable := some d.now }).wr (K.PLINK p) 3 else d

/-! ## The envelope header (Table 14-1) -/

def hdrByte (h : Bytes) (i : Nat) : Nat := (h.getD i 0).toNat
def hdrVersion (h : Bytes) : Nat := hdrByte h 0 % 16
def hdrType (h : Bytes) : Nat := hdrByte h 0 / 16
def hdrWraps (h : Bytes) : Nat := field (hdrByte h 1) 2 1
def hdrDest (h : Bytes) : Nat := ofLe (slice h 2 2)
def hdrSrc (h : Bytes) : Nat := ofLe (slice h 4 2)
def hdrSeq (h : Bytes) : Nat := ofLe (slice h 6 2)
def hdrHops (h : Bytes) : Nat := hdrByte h 8
def hdrEntry (h : Bytes) : Nat := hdrByte h 9 % 128
def hdrLength (h : Bytes) : Nat := ofLe (slice h 10 2)
def hdrSubtype (h : Bytes) : Nat := hdrByte h 12

/-- One bit of the header CRC: polynomial 0x1021, not reflected (Table 14-1). -/
def crc16Bit (r : Nat) (b : Bool) : Nat :=
  let top := r.testBit 15 != b
  Nat.xor (r * 2 % 65536) (if top then 0x1021 else 0)

/-- HCRC over a byte string: initial value 0xFFFF, no final inversion. -/
def crc16 (b : Bytes) : Nat :=
  b.foldl (fun r x => (List.range 8).foldl (fun r i => crc16Bit r (x.toNat.testBit (7 - i))) r) 0xFFFF

/-- Bytes 0 to 13 with their HCRC. -/
def withHcrc (h : Bytes) : Bytes := padTo 14 h ++ le 2 (crc16 (padTo 14 h))

/-- HCRC holds. -/
def hcrcOk (h : Bytes) : Bool := h.length = 16 && withHcrc h = h

/-- A header built (R370): VERSION 1, WRAPS 0. -/
def mkHeader (type sub dest src seq hops entry len : Nat) (dual : Bool) : Bytes :=
  withHcrc (le 1 (1 + 16 * type) ++ le 1 dual.toNat ++ le 2 dest ++ le 2 src ++ le 2 seq ++ le 1 hops ++ le 1 entry ++ le 2 len ++
    le 1 sub ++ le 1 0)

/-- HOPS, WRAPS and ENTRY changed, HCRC recomputed (R370). -/
def withHops (h : Bytes) (hops wraps entry : Nat) : Bytes :=
  withHcrc (slice h 0 1 ++ le 1 (withField (hdrByte h 1) 2 1 wraps) ++ slice h 2 6 ++ le 1 hops ++
    le 1 (withField (hdrByte h 9) 6 0 entry) ++ slice h 10 4)

/-- DUAL set (R375). -/
def withDual (h : Bytes) : Bytes := withHcrc (slice h 0 1 ++ le 1 (withBit (hdrByte h 1) 0 true) ++ slice h 2 12)

/-- A hello (Table 14-5). -/
def isHello (h : Bytes) : Bool := hdrType h = 5 && hdrSubtype h = 0

/-- VERSION 1 and a TYPE that is not reserved (R371). -/
def hdrKnown (h : Bytes) : Bool := hdrVersion h = 1 && 1 ≤ hdrType h && hdrType h ≤ 6

/-- The class of an envelope (Table 14-2). -/
def hdrClass (h : Bytes) : Nat :=
  match hdrType h with
  | 1 => 0
  | 2 => 1
  | 3 => 1
  | 4 => 2
  | 5 => if hdrSubtype h = 0 then 0 else 1
  | 6 => 1
  | _ => 2

/-- Bytes of a frame from destination address to FCS (R368). -/
def frameSize (len : Nat) : Nat := max 64 (34 + len)

/-! ## Own address, groups, routes (R372, R377) -/

/-- The device has no address (R373). -/
def Dev.passive (d : Dev) : Bool := d.bit K.ADDR 15
def Dev.station (d : Dev) : Nat := if d.passive then 0 else d.rd K.ADDR % 128
def Dev.ownSegment (d : Dev) : Nat := if d.passive then d.ring.segment else d.rd K.ADDR / 128 % 128

/-- A multicast destination, its SCOPE and GROUP. -/
def destMulticast (x : Nat) : Bool := x.testBit 15
def destScope (x : Nat) : Nat := x / 256 % 128
def destGroup (x : Nat) : Nat := x % 256
def destSegment (x : Nat) : Nat := x / 128 % 128

/-- Segment g lies within the scope of a multicast destination. -/
def scopeHas (x g : Nat) : Bool := destScope x = 0x7F || destScope x = g

/-- Membership of a group; group 255 cannot be left. -/
def Dev.inGroup (d : Dev) (g : Nat) : Bool := g = 255 || d.bit (K.MCAST (g / 64)) (g % 64)

/-- The segment to which this device's branch leads (R388): by the system map, for a branch to a segment head. -/
def Dev.branchSegment (d : Dev) : Option Nat :=
  if d.passive ∨ d.ownSegment ≠ 0 ∨ d.rd K.PORTC_MODE ≠ 2 then none
  else (d.ring.sysmap.find? fun e => e.2 = d.station).map (·.1)

/-- The device is the head of a segment whose way out is port C. -/
def Dev.segmentHead (d : Dev) : Bool := d.rd K.ROLE = 1

/-- The station of this ring to which a unicast destination leads: itself, the trunk station of its segment, or the head. -/
def Dev.stationToward (d : Dev) (dest : Nat) : Nat :=
  if destSegment dest = d.ownSegment then dest % 128
  else if d.ownSegment = 0 then ((d.ring.sysmap.find? fun e => e.1 = destSegment dest).map (·.2)).getD 0
  else 0

/-- The place of a station in the map, and this device's. -/
def Dev.placeOf (d : Dev) (station : Nat) : Option Nat := d.ring.map.findIdx? fun e => e.station = station

/-- Own serial number. -/
def Dev.serial (d : Dev) : Nat := d.rd K.SERIAL

/-- The port toward the next device in ring order (from the head's port A): the one whose neighbour the map names next. -/
def Dev.forwardPort (d : Dev) (i : Nat) : Nat :=
  if i = 0 then 0
  else
    let n := d.ring.map.length
    let next := ((d.ring.map[(i + 1) % n]?).map (·.serial)).getD 0
    if d.rd (K.NBR 0) % 2 ^ 48 = next then 0 else 1

/-- The ring port of the shorter path to a station, port A on a tie (R377); a path across the break of the map is none. -/
def Dev.shorterPort (d : Dev) (station : Nat) : Nat :=
  match d.placeOf d.station, d.placeOf station with
  | some i, some j =>
    let n := d.ring.map.length
    let fwd := (j + n - i) % n
    let back := (i + n - j) % n
    let f := d.forwardPort i
    match d.placeOf (d.rd K.BREAK) with
    | some b =>
      let crosses := (b + n - i) % n < fwd
      if crosses then 1 - f else f
    | none => if fwd < back then f else if back < fwd then 1 - f else 0
  | _, _ => 0

/-! ## Output ports (R378) -/

/-- Bytes that a class holds in a port's buffer. -/
def PortRt.used (r : PortRt) (c : Nat) : Nat :=
  ((r.sending.toList ++ r.queue).filter fun f => f.cls = c).foldl (fun s f => s + f.size) 0

/-- The buffer of 64 KiB has room for a frame, 8 KiB being reserved for each class. -/
def PortRt.hasRoom (r : PortRt) (f : QFrame) : Bool :=
  ([0, 1, 2].foldl (fun s c => s + max 8192 (r.used c + if c = f.cls then f.size else 0)) 0) ≤ 65536

/-- Present NT in ps, at the 250 ps of a timestamp (R391). -/
def Dev.ntPs (d : Dev) : Int := 1000 * (d.nt : Int) + (d.ntFrac * 4 / 65536 * 250 : Nat)

/-- What a frame carries of the instant at which it begins to leave: the timestamps of PTP messages (R391) and of an echo reply
(R383). A two-step Pdelay_Resp carries the arrival of its request; its follow-up (kind 5) has its departure already. -/
def Dev.stamp (d : Dev) (f : QFrame) : QFrame :=
  match f.what with
  | .ptp p k t1 t2 => { f with what := if k = 3 ∨ k = 5 then .ptp p k t1 t2 else .ptp p k d.ntPs t2 }
  | .frame p h b ok =>
    if hdrType h = 6 ∧ hdrSubtype h = 1 ∧ f.open_ = none ∧ hdrSrc h = d.rd K.ADDR then { f with what := .frame p h (slice b 0 16 ++ le 8 d.nt) ok }
    else f
  | _ => f

/-- The first frame of the lowest class that waits, and the others. -/
def nextFrame (q : List QFrame) : Option (QFrame × List QFrame) :=
  match [0, 1, 2].find? fun c => q.any fun f => f.cls = c with
  | some c => match q.find? fun f => f.cls = c with
    | some f => some (f, q.erase f)
    | none => none
  | none => none

/-- The second step of a Pdelay_Resp that begins to leave: its follow-up, with the instant of its departure (R391). -/
def Dev.followUp (d : Dev) (f : QFrame) : List QFrame :=
  match f.what with
  | .ptp p k _ _ => if k = 3 then [{ cls := 0, size := 72, what := .ptp p 5 d.ntPs 0 }] else []
  | _ => []

/-- The port begins the next frame. -/
def Dev.beginFrame (d : Dev) (p : Nat) : Dev :=
  let r := d.port p
  match r.sending, nextFrame r.queue with
  | none, some (f, rest) => d.setPort p { r with sending := some (d.stamp f), queue := rest ++ d.followUp f }
  | _, _ => d

/-- A frame for an output port: begun at once where the port is idle, discarded where the buffer has no room. -/
def Dev.enqueue (d : Dev) (p : Nat) (f : QFrame) : Dev :=
  let r := d.port p
  if r.hasRoom f then (d.setPort p { r with queue := r.queue ++ [f] }).beginFrame p else d.count (K.DROPPED_1310 p)

/-- The Ethernet header of an envelope frame (R368): the multicast destination, 02 with the low 40 bits of the serial number as source,
and ETYPE. -/
def Dev.ethernet (d : Dev) : Bytes :=
  [0x03, 0x5A, 0x4B, 0, 0, 0, 0x02] ++ (le 5 d.serial).reverse ++ (le 2 (d.rd K.ETYPE)).reverse

/-- A frame as it stands on the wire: an envelope behind its Ethernet header, padded after the body to 64 bytes with its FCS (R368). -/
def Dev.onWire (d : Dev) (o : Out) : Out :=
  match o with
  | .frame p h b ok => .frame p (d.ethernet ++ h) (padTo (max 30 b.length) b) ok
  | o => o

/-- OUTPUT_FRAME_BOUNDARY (R378): the frame being sent has ended; the next begins. -/
def execOutputFrameBoundary (p : Nat) (s : State) : Host.Outcome State Fault Refusal :=
  onDev s fun d =>
    if ¬ d.portReady p then d
    else
      let r := d.port p
      match r.sending with
      | none => d.beginFrame p
      | some f => if f.open_.isSome then d else ((d.setPort p { r with sending := none }).emit (d.onWire f.what)).beginFrame p

/-- An envelope for an output port; `open_` is the port on which its body still arrives. -/
def Dev.putFrame (d : Dev) (p : Nat) (h body : Bytes) (open_ : Option Nat) : Dev :=
  d.enqueue p { cls := hdrClass h, size := frameSize (hdrLength h), what := .frame p h body true, open_ := open_ }

/-- An envelope sent out of a ring port, wrapped where that port is down (R381); `at_` is the port that counts a discard. -/
def Dev.sendRing (d : Dev) (at_ out : Nat) (h body : Bytes) (open_ : Option Nat) : Dev :=
  if d.portUp out then d.putFrame out h body open_
  else if ¬ d.portUp (1 - out) ∨ 2 ≤ hdrWraps h then d.count (K.DROPPED_1310 at_)
  else d.putFrame (1 - out) (withHops h (hdrHops h) (hdrWraps h + 1) (hdrEntry h)) body open_

/-- An envelope sent out of port C (R375). -/
def Dev.sendC (d : Dev) (at_ : Nat) (h body : Bytes) (open_ : Option Nat) : Dev :=
  if d.portUp 2 then d.putFrame 2 h body open_ else d.count (K.DROPPED_1310 at_)

/-- The next value of the envelope counter (R370). -/
def Dev.nextSeq (d : Dev) : Nat × Dev := (d.ring.seq, { d with ring := { d.ring with seq := (d.ring.seq + 1) % 2 ^ 16 } })

/-- An envelope originated by this device (R370, R377): a unicast one on the port of the shorter path, or on both with DUAL; a
multicast one on both with DUAL; across port C where its way leads there (R374). A passive device sends beacons alone (R373). -/
def Dev.originate (d : Dev) (type sub dest : Nat) (body : Bytes) : Dev :=
  if d.passive ∧ type ≠ 5 then d
  else
    let (seq, d) := d.nextSeq
    let src := if d.passive then 0x8000 else d.rd K.ADDR
    let h := mkHeader type sub dest src seq 255 d.station body.length (destMulticast dest)
    if destMulticast dest then
      let d := (d.sendRing 0 0 h body none).sendRing 1 1 h body none
      let up : Bool := d.segmentHead && destScope dest ≠ d.ownSegment
      let down : Bool := match d.branchSegment with
        | some g => scopeHas dest g
        | none => false
      if up || down then d.sendC 2 h body none else d
    else if ¬ d.passive ∧ destSegment dest ≠ d.ownSegment ∧ (d.segmentHead ∨ d.branchSegment = some (destSegment dest)) then d.sendC 2 h body none
    else
      let out := d.shorterPort (d.stationToward dest)
      d.sendRing out out h body none

end Sys2Proof.Machine
end

