-- ==== Sys2Proof/Machine/Time.lean ====
section
/-! DEFINITION. Network time (chapter 02, R38 to R42; chapter 14, R390 to R394; chapter 17, R459, R460): the time state, the time
source, the servo, NT steps, PTP messages, PPS and SYNC_IN.
Conventions of the model: DEDUCED: log 12, 67, 68. -/

namespace Sys2Proof.Machine

/-! ## Membership and the time state -/

/-- MEMBER (R389): 0 without an address, 2 in Locked or Holdover, else 1; a fall from 2 to 0 is a loss of the ring (R441). -/
def Dev.showMember (d : Dev) : Dev :=
  let m := if d.passive then 0 else if 2 ≤ d.rd K.TSTATE then 2 else 1
  let fell : Bool := d.rd K.MEMBER = 2 && m = 0
  let l := d.loss
  let d := { d with loss := { l with listed := l.listed || m ≠ 0, ring := if fell then withBit l.ring 1 true else if m = 0 then l.ring else withBit l.ring 1 false } }
  d.wr K.MEMBER m

/-- An event of the time unit (R396). -/
def Dev.timeEvent (d : Dev) (type : Nat) (payload : Bytes) : Dev := d.event 0x33 type 0x1200 d.nt payload

/-- Event 0x01B8. -/
def Dev.stateEvent (d : Dev) (old new : Nat) : Dev :=
  d.timeEvent 0x01B8 (le 1 old ++ le 1 new ++ le 1 (d.rd K.TFLAGS) ++ le 1 (d.rd K.TIME_PORT) ++ le 4 (d.rd K.OFFSET))

/-- The time state changes (R40, R393): the event, source 0x28A on leaving Locked, the steering 0 in Free-running and frozen in Holdover. -/
def Dev.setTState (d : Dev) (new : Nat) : Dev :=
  let old := d.rd K.TSTATE
  if old = new then d
  else
    let d := { d with time := { d.time with lockRun := 0, badRun := 0, trefSince := none } }
    let d := d.wr K.TSTATE new
    let d := if new = 0 then (d.wr K.RATE 0).aimRate 0 else if new = 3 then d.aimRate (d.rdI 32 K.RATE) else d
    let d := if new = 3 then d else d.setBit K.TFLAGS 0 false
    let d := d.stateEvent old new
    (if old = 2 then d.raise 0x28A d.nt else d).showMember

/-! ## The time source (Table 14-6) -/

/-- The device heads a ring that has no uplink: it takes time from TREF, or runs free. -/
def Dev.rootRole (d : Dev) : Bool := d.rd K.ROLE = 2 || (d.rd K.ROLE = 1 && d.rd K.PORTC_MODE ≠ 1)

/-- The source by TSOURCE, or by the role, for TREF present or not: 0 free oscillator, 1 TREF, 2 to 4 port A to C. -/
def Dev.wantedSource (d : Dev) (tref : Bool) : Nat :=
  let forced := d.rd K.TSOURCE
  if forced = 1 then tref.toNat
  else if forced ≠ 0 then (if d.hasPort (forced - 2) then forced else 0)
  else if d.rootRole then (if d.rd K.PORTC_MODE = 4 ∧ d.time.best.isSome then 4 else tref.toNat)
  else if d.rd K.ROLE = 1 then 4
  else
    match d.placeOf d.station with
    | some i => if d.passive then 0 else 2 + ((d.ring.map[i]?).map (·.tport)).getD 0
    | none => 0

/-- A root (R394): TREF or the free oscillator serves it. -/
def Dev.isRoot (d : Dev) : Bool := d.rootRole && d.rd K.TIME_PORT ≤ 1

/-- The time port changes (R393): Locked becomes Holdover; Acquiring, where no source is left, Free-running (R40); event 0x01B9 waits for the first measurement of the new source. -/
def Dev.setTimePort (d : Dev) (new : Nat) : Dev :=
  let old := d.rd K.TIME_PORT
  if old = new then d
  else
    let d := { d with time := { d.time with oldPort := some (d.time.oldPort.getD old), lockRun := 0, badRun := 0, trefSince := none, lastSync := d.now } }
    let d := d.wr K.TIME_PORT new
    if d.rd K.TSTATE = 2 then d.setTState 3
    else if new = 0 ∧ d.rd K.TSTATE = 1 then (d.setBit K.TFLAGS 1 false).setTState 0
    else d

/-- The time port follows TSOURCE, the role and the map (R390). -/
def Dev.retime (d : Dev) : Dev := d.setTimePort (d.wantedSource d.time.tref)

/-- The source is lost (R40, R393): Acquiring returns to Free-running, Locked goes to Holdover. -/
def Dev.sourceLost (d : Dev) : Dev :=
  let d := d.setBit K.TFLAGS 1 false
  if d.rd K.TSTATE = 1 then d.setTState 0 else if d.rd K.TSTATE = 2 then d.setTState 3 else d

/-- Event 0x01B9 at the first measurement of a new source; none where the source is the old one again. -/
def Dev.portChanged (d : Dev) : Dev :=
  match d.time.oldPort with
  | some old =>
    let d := { d with time := { d.time with oldPort := none } }
    if old = d.rd K.TIME_PORT then d
    else d.timeEvent 0x01B9 (le 1 old ++ le 1 (d.rd K.TIME_PORT) ++ le 2 0 ++ le 4 (d.rd K.OFFSET))
  | none => d

/-- TIME_SOURCE_FOUND (R40): the source that the role or TSOURCE names is present; Free-running becomes Acquiring. -/
def execTimeSourceFound (s : State) : Host.Outcome State Fault Refusal :=
  onDev s fun d =>
    let w := d.wantedSource true
    if w = 0 ∨ d.bit K.TFLAGS 1 ∨ (2 ≤ w ∧ ¬ d.portReady (w - 2)) then d
    else
      let d := if w = 1 then { d with time := { d.time with tref := true } } else d
      let d := (d.setTimePort w).setBit K.TFLAGS 1 true
      if d.rd K.TSTATE = 0 then d.setTState 1 else d

/-- TIME_SOURCE_LOST (R40). -/
def execTimeSourceLost (s : State) : Host.Outcome State Fault Refusal :=
  onDev s fun d =>
    if ¬ d.bit K.TFLAGS 1 then d
    else
      let p := d.rd K.TIME_PORT
      let d := if p = 1 then { d with time := { d.time with tref := false } }
        else if p = 4 ∧ d.rd K.PORTC_MODE = 4 then { d with time := { d.time with masters := [], best := none } } else d
      (d.setBit K.TFLAGS 1 false).retime.sourceLost

/-! ## The servo (R392, R393) -/

/-- The filtered offset follows a measurement. -/
def Dev.showOffset (d : Dev) (theta : Int) : Dev := d.wrI 32 K.OFFSET (clampI (-(2 ^ 31)) (2 ^ 31 - 1) (Config.servoFilter (d.rdI 32 K.OFFSET) theta))

/-- The servo steers: within 200 ppm, toward what its law asks for (log 12). -/
def Dev.steer (d : Dev) (theta : Int) : Dev :=
  d.aimRate (clampI (-13107200) 13107200 (Config.servoSteer (d.rdI 32 K.RATE) theta))

/-- A measurement in Holdover (R41): within STEP_LIM the unit returns to Locked; beyond it a step is pending, and PENDING_OFS follows. -/
def Dev.leaveHoldover (d : Dev) (theta : Int) : Dev :=
  if theta.natAbs ≤ 1000 * d.rd K.STEP_LIM then ((d.wr K.PENDING_OFS 0).setTState 2).steer theta
  else
    let was := d.bit K.TFLAGS 0
    let d := (d.wrI 64 K.PENDING_OFS ((-theta).tdiv 1000)).setBit K.TFLAGS 0 true
    if was then d else d.stateEvent 3 3

/-- Consecutive measurements beyond UNLOCK_TH: at four the servo has left its limits. -/
def Dev.watchLock (d : Dev) (theta : Int) : Dev :=
  let bad : Bool := 1000 * d.rd K.UNLOCK_TH < (d.rdI 32 K.OFFSET).natAbs
  let run := if bad then d.time.badRun + 1 else 0
  let d := { d with time := { d.time with badRun := run } }
  if 4 ≤ run then d.setTState 3 else d.steer theta

/-- The parent on port p shows Locked or Holdover; a plant port's master is taken at its Sync. -/
def Dev.parentGood (d : Dev) (p : Nat) : Bool := (p = 2 && d.rd K.PORTC_MODE = 4) || 2 ≤ (d.port p).nbrState

/-- A measurement of a ring or plant source (R392, R393). -/
def Dev.syncTheta (d : Dev) (p : Nat) (theta : Int) : Dev :=
  let d := (d.showOffset theta).portChanged
  let st := d.rd K.TSTATE
  if st ≤ 1 ∧ 1000000 < theta.natAbs then
    { d with time := { d.time with step := some (-(theta * 65536 / 1000)), lockRun := 0 } }
  else if st = 0 then d
  else if st = 1 then
    let ok : Bool := (d.rdI 32 K.OFFSET).natAbs ≤ 1000 * d.rd K.LOCK_TH && d.parentGood p
    let run := if ok then d.time.lockRun + 1 else 0
    let d := { d with time := { d.time with lockRun := run } }.steer theta
    if d.rd K.LOCK_N ≤ run then d.setTState 2 else d
  else if st = 2 then
    if d.parentGood p then d.watchLock theta else d.setTState 3
  else if d.parentGood p then d.leaveHoldover theta
  else d

/-- SYNC (R392): a Sync on the time port; on another port it changes nothing. -/
def execSync (p : Nat) (t1 t2 : Int) (s : State) : Host.Outcome State Fault Refusal :=
  onDev s fun d =>
    if ¬ d.portReady p then d
    else
      let d := d.setPort p { d.port p with last := d.now }
      if d.rd K.TIME_PORT ≠ p + 2 then d
      else
        let d := { d with time := { d.time with lastSync := d.now } }
        d.syncTheta p (t2 - t1 - d.rd (K.MEAN_DELAY p) - d.rdI 32 (K.ASYM p))

/-- TREF_COMPARISON (R393): the tick against TREF, at a device whose source is TREF. -/
def execTrefComparison (offset : Int) (s : State) : Host.Outcome State Fault Refusal :=
  onDev s fun d =>
    if d.rd K.TIME_PORT ≠ 1 ∨ ¬ d.time.tref then d
    else
      let d := (d.showOffset offset).portChanged
      match d.rd K.TSTATE with
      | 1 =>
        let since := if offset.natAbs ≤ 1000 then some (d.time.trefSince.getD d.now) else none
        let d := { d with time := { d.time with trefSince := since } }.steer offset
        match since with
        | some t => if t + 100000000 ≤ d.now + 7 ∧ (d.rd K.PPS_EN = 0 ∨ d.time.ppsSet) then d.setTState 2 else d
        | none => d
      | 2 => d.watchLock offset
      | 3 => d.leaveHoldover offset
      | _ => d

/-- 2^x seconds in ns, for x at most 0. -/
def logInterval (x : Int) : Nat := 1000000000 / 2 ^ (-x).toNat

/-- SYNC_TIMEOUT (R393): no valid Sync for HOLD_N intervals. -/
def execSyncTimeout (s : State) : Host.Outcome State Fault Refusal :=
  onDev s fun d =>
    if d.rd K.TSTATE = 2 ∧ 2 ≤ d.rd K.TIME_PORT ∧ d.time.lastSync + d.rd K.HOLD_N * logInterval (d.rdI 16 K.LOG_SYNC) ≤ d.now + 7 then d.setTState 3
    else d

/-! ## NT steps (R41, R42, R394) -/

/-- The letters of the inboxes whose due time has fallen into the past leave them and are late (R42, R151), those of one arrival number
together; a letter that waits under the conflict policy has met its due time already, and an immediate one has none. -/
def Dev.lateInboxes (d : Dev) (mem : List Host.Cell) : Dev :=
  let past (l : Letter) : Bool := decide (l.due < d.nt) && !l.queued && !l.immediate
  let boxed := (d.axisList.flatMap fun n => (d.axis n).inbox).filter past
  let ks := (boxed.map (·.k)).eraseDups
  ks.foldl (fun d k =>
    match boxed.find? (·.k = k) with
    | some l => (d.unbox k).lateLetter mem l (d.nt - l.due) false
    | none => d) d

/-- NT takes another value (1/65,536 ns): the quarters' copies keep theirs until their next heartbeats (R39); STEPPED is set, a pending
step is done, and letters whose due times have passed are late (R42). A whole second on which the step lands gives no PPS rise (R459). -/
def Dev.stepNt (d : Dev) (mem : List Host.Cell) (total : Nat) : Dev :=
  let nt := total / 65536 % 2 ^ 64
  let shift : Int := (d.nt / 8 : Nat) - (nt / 8 : Nat)
  let d := d.quarterList.foldl (fun d q => let r := d.quarter q; d.setQuarter q { r with ntOfs := r.ntOfs + shift }) d
  let landed := if nt % 1000000000 = 0 then some d.ticks else d.time.ppsRise
  let d := { d with nt := nt, ntFrac := total % 65536, time := { d.time with step := none, ppsRise := landed } }
  let d := ((d.setBit K.TFLAGS 2 true).setBit K.TFLAGS 0 false).wrs [(K.STEP_1200, 0), (K.PENDING_OFS, 0)]
  let late := d.desp.table.filter fun l => l.due < nt
  let d := d.setTable (d.desp.table.filter fun l => !decide (l.due < nt))
  (late.foldl (fun d l => d.lateLetter mem l (nt - l.due) false) d).lateInboxes mem

/-- The whole second of NT that lies within the present tick. -/
def Dev.secondNow (d : Dev) : Option Nat :=
  let t := ceilDiv d.nt 1000000000 * 1000000000
  if t ≤ d.nt + 7 then some t else none

/-- A waiting step may be applied (Table 2-1): in Free-running and Acquiring, in Holdover one that was commanded; in Locked none. -/
def Dev.mayStep (d : Dev) : Bool := d.rd K.TSTATE ≤ 1 || (d.rd K.TSTATE = 3 && d.rd K.STEP_1200 = 1)

/-- NT_STEP (R42): the step that waits takes effect at this tick; seconds written to TOD_SEC, at a whole second where PPS_EN is clear. What
waits where the time state allows no step any more is dropped. -/
def execNtStep (s : State) : Host.Outcome State Fault Refusal :=
  .next <| s.onDev fun d =>
    match d.time.step with
    | some x =>
      if d.mayStep then d.stepNt s.mem ((d.nt * 65536 + d.ntFrac : Nat) + x).toNat
      else { d with time := { d.time with step := none } }.wr K.STEP_1200 0
    | none =>
      match d.time.tod, d.secondNow with
      | some v, some t =>
        if d.rd K.PPS_EN = 1 then d
        else
          let d := { d with time := { d.time with tod := none } }
          if d.rd K.TSTATE ≤ 1 then d.stepNt s.mem ((d.nt + v * 1000000000 - t) * 65536 + d.ntFrac) else d
      | _, _ => d

/-- PPS_IN (R394): at a root with PPS_EN, an edge takes the seconds that wait, or steps NT to the nearest whole second, or steers. -/
def execPpsIn (ts : Nat) (s : State) : Host.Outcome State Fault Refusal :=
  onDev s fun d =>
    if d.rd K.PPS_EN = 0 ∨ ¬ d.isRoot then d
    else
      let t := d.time
      let near := (ts + 500000000) / 1000000000 * 1000000000
      if t.tod.isSome ∧ d.rd K.TSTATE ≤ 1 then
        { d with time := { t with tod := none, ppsSet := true, step := some ((((t.tod.getD 0) * 1000000000 : Nat) - (ts : Int)) * 65536) } }
      else if d.rd K.TSTATE ≤ 1 ∧ ¬ t.ppsSet then { d with time := { t with ppsSet := true, step := some (((near : Int) - ts) * 65536) } }
      else if d.rd K.TSTATE = 1 ∨ d.rd K.TSTATE = 2 then d.steer (1000 * ((ts : Int) - near))
      else d

/-! ## PTP messages (R391) -/

/-- A PTP message for a port, in class 0 (R378). -/
def Dev.sendPtp (d : Dev) (p kind size : Nat) (t1 : Int) : Dev := d.enqueue p { cls := 0, size := size, what := .ptp p kind t1 0 }

/-- SYNC_SEND (R391): every 2^LOG_SYNC s, on every up port but the time port (Table 14-6). -/
def execSyncSend (s : State) : Host.Outcome State Fault Refusal :=
  onDev s fun d =>
    if d.now + 7 < d.time.lastSyncSend + logInterval (d.rdI 16 K.LOG_SYNC) then d
    else
      let d := { d with time := { d.time with lastSyncSend := d.now } }
      let ports := if d.rd K.PORTC_MODE = 2 ∨ d.rd K.PORTC_MODE = 3 then [0, 1, 2] else [0, 1]
      (ports.filter fun p => d.portUp p && d.rd K.TIME_PORT ≠ p + 2).foldl (fun d p => d.sendPtp p 1 64 0) d

/-- The port measures delay by peer delay: all but a plant port set to the end-to-end mechanism. -/
def Dev.peerDelay (d : Dev) (p : Nat) : Bool := !(p = 2 && d.rd K.PORTC_MODE = 4 && d.rd K.PLANT_DELAY = 1)

/-- PDELAY_REQ (R391): answered with the arrival timestamp; a plant port with the end-to-end mechanism answers none. -/
def execPdelayReq (p tIn : Nat) (s : State) : Host.Outcome State Fault Refusal :=
  onDev s fun d =>
    if ¬ d.portReady p then d
    else
      let d := d.setPort p { d.port p with last := d.now }
      if d.peerDelay p then d.sendPtp p 3 72 tIn else d

/-- PDELAY_REQ_SEND (R391): every 2^LOG_PDELAY s on a port; a plant port with the end-to-end mechanism sends Delay_Req (kind 6). -/
def execPdelayReqSend (p : Nat) (s : State) : Host.Outcome State Fault Refusal :=
  onDev s fun d =>
    let r := d.port p
    if ¬ d.portReady p ∨ d.now + 7 < r.lastPd + logInterval (d.rdI 16 K.LOG_PDELAY) then d
    else (d.setPort p { r with lastPd := d.now }).sendPtp p (if d.peerDelay p then 2 else 6) 72 0

/-- PDELAY_RESP (R391): the mean link delay, half of the round trip less the turnaround. -/
def execPdelayResp (p : Nat) (t1 t2 t3 t4 : Int) (s : State) : Host.Outcome State Fault Refusal :=
  onDev s fun d =>
    if ¬ d.portReady p then d
    else
      let mean := clampI 0 (2 ^ 32 - 1) (((t4 - t1) - (t3 - t2)) / 2)
      (d.setPort p { d.port p with last := d.now }).wr (K.MEAN_DELAY p) mean.toNat

/-- The comparison of two data sets (IEEE 1588-2019): whether a is better than b. -/
def announceBetter (a b : AnnounceData) : Bool :=
  let key (x : AnnounceData) : List Nat := [x.priority1, x.clockClass, x.accuracy, x.variance, x.priority2, x.identity, x.steps]
  decide (key a < key b)

/-- The best master heard. -/
def bestMaster (t : Tab AnnounceData) : Option Nat :=
  (t.foldl (fun (b : Option (Nat × AnnounceData)) e =>
    match b with
    | some x => if announceBetter e.2 x.2 then some e else some x
    | none => some e) none).map (·.1)

/-- ANNOUNCE (R391): a master heard at a plant port; the best one serves. -/
def execAnnounce (master : Nat) (data : AnnounceData) (s : State) : Host.Outcome State Fault Refusal :=
  onDev s fun d =>
    if ¬ d.portReady 2 ∨ d.rd K.PORTC_MODE ≠ 4 then d
    else
      let d := d.setPort 2 { d.port 2 with last := d.now }
      let m := Tab.put d.time.masters master data
      { d with time := { d.time with masters := m, best := bestMaster m } }.retime

/-- ANNOUNCE_SEND (R391): a branch in end-station mode sends one every second. -/
def execAnnounceSend (s : State) : Host.Outcome State Fault Refusal :=
  onDev s fun d =>
    if d.rd K.PORTC_MODE = 3 ∧ d.portUp 2 ∧ d.time.lastAnnounce + 1000000000 ≤ d.now + 7 then
      { d with time := { d.time with lastAnnounce := d.now } }.sendPtp 2 4 82 0
    else d

/-! ## PPS_OUT and SYNC_IN (R459, R460) -/

/-- PPS_OUT_RISE (R459): at every whole second of local NT. -/
def execPpsOutRise (s : State) : Host.Outcome State Fault Refusal :=
  onDev s fun d =>
    match d.secondNow with
    | some t =>
      if ¬ d.start.up ∨ d.time.ppsRise = some d.ticks then d
      else { d with time := { d.time with ppsRise := some d.ticks, ppsFall := d.time.ppsFall ++ [d.ticks + 1250000] } }.emit (.ppsOut true t)
    | none => d

/-- PPS_OUT_FALL (R459): 1,250,000 ticks after the rise. -/
def execPpsOutFall (s : State) : Host.Outcome State Fault Refusal :=
  onDev s fun d =>
    match d.time.ppsFall with
    | t :: rest => if t ≤ d.ticks then { d with time := { d.time with ppsFall := rest } }.emit (.ppsOut false d.nt) else d
    | [] => d

/-- SYNC_IN (R460): an accepted rising edge; a pulse shorter than 100 ns is discarded. -/
def execSyncIn (ts width : Nat) (s : State) : Host.Outcome State Fault Refusal :=
  onDev s fun d => if width < 100 ∨ ¬ d.start.up then d else (d.wr K.SYNC_NT ts).count K.SYNC_CNT

end Sys2Proof.Machine
end

