-- ==== Sys2Proof/Machine/Ring.lean ====
section
/-! DEFINITION. The Qorush ring (chapter 14, R366 to R389): ports coming up and going down, forwarding, the duplicate filter, hellos,
reports, roles, maps, echoes.
Conventions of the model: DEDUCED: log 64, 65, 66, 77. -/

namespace Sys2Proof.Machine

/-- An event of the Qorush switch (R396). -/
def Dev.ringEvent (d : Dev) (type : Nat) (payload : Bytes) : Dev := d.event 0x32 type 0x1300 d.nt payload

/-! ## Ports come and go (R366, R367, R381) -/

/-- Since when neither ring port is up (R441). -/
def Dev.watchPorts (d : Dev) : Dev :=
  if d.portUp 0 ∨ d.portUp 1 then { d with loss := { d.loss with portsDown := none } }
  else { d with loss := { d.loss with portsDown := some (d.loss.portsDown.getD d.now) } }

/-- PCS_SYNCHRONISATION (R366, R367): a port that runs gains synchronisation in a mode that PMODE allows and, in PMODE 0, now tries. -/
def execPcsSynchronisation (p : Nat) (fast : Bool) (s : State) : Host.Outcome State Fault Refusal :=
  onDev s fun d =>
    let r := d.port p
    let mode := d.rd (K.PMODE p)
    let fits : Bool := if mode = 0 then fast = r.trying else if mode = 1 then fast else !fast
    if ¬ d.portOn p ∨ r.synced ∨ ¬ fits then d
    else (d.setPort p { r with synced := true, fast := fast, an := false, hello := false, last := d.now }).portCheck p

/-- AUTO_NEGOTIATION_COMPLETE (R366). -/
def execAutoNegotiationComplete (p : Nat) (s : State) : Host.Outcome State Fault Refusal :=
  onDev s fun d =>
    let r := d.port p
    if d.portOn p ∧ r.synced ∧ d.rd (K.AN_EN p) = 1 then (d.setPort p { r with an := true, last := d.now }).portCheck p else d

/-- LINE_RATE_FALLBACK (R366): in PMODE 0 the other mode is tried after 50 ms without synchronisation. -/
def execLineRateFallback (p : Nat) (s : State) : Host.Outcome State Fault Refusal :=
  onDev s fun d =>
    let r := d.port p
    if d.portOn p ∧ d.rd (K.PMODE p) = 0 ∧ ¬ r.synced ∧ max r.tryAt (d.start.tp + 1000000) + 50000000 ≤ d.now + 7 then
      d.setPort p { r with trying := !r.trying, tryAt := d.now }
    else d

/-- PORT_UP (R367): a port that has met the conditions without a break for LINK_HOLD; event 0x01B0, and the wrap ends (R381). -/
def execPortUp (p : Nat) (s : State) : Host.Outcome State Fault Refusal :=
  onDev s fun d =>
    let r := d.port p
    match r.stable with
    | some t =>
      if d.rd (K.PLINK p) ≠ 3 ∨ d.now + 7 < t + 1000000 * d.rd K.LINK_HOLD then d
      else
        let link := if r.fast then 2 else 1
        let body := le 1 p ++ le 1 link ++ le 2 0 ++ le 8 d.nt
        let d := (d.wr (K.PLINK p) link).ringEvent 0x01B0 body
        let d := if d.rd (K.WRAPPING p) = 1 then (d.wr (K.WRAPPING p) 0).ringEvent 0x01B3 body else d
        d.watchPorts
    | none => d

/-- A frame that was still arriving on a port ends at the outputs that forward it, with an inverted FCS (R378). -/
def Dev.cutFrames (d : Dev) (p : Nat) : Dev :=
  let cut (f : QFrame) : QFrame :=
    if f.open_ ≠ some p then f
    else { f with open_ := none, what := match f.what with | .frame q h b _ => .frame q h b false | o => o }
  [0, 1, 2].foldl (fun d q =>
    let r := d.port q
    if r.sending.isNone ∧ r.queue = [] then d else d.setPort q { r with sending := r.sending.map cut, queue := r.queue.map cut }) d

/-- PORT_DOWN (R367): by loss of synchronisation (1), a restart of auto-negotiation (2), or silence for LINK_TO (3). -/
def execPortDown (p cause : Nat) (s : State) : Host.Outcome State Fault Refusal :=
  onDev s fun d =>
    let r := d.port p
    let holds : Bool := match cause with
      | 1 => r.synced
      | 2 => r.synced && d.rd (K.AN_EN p) = 1
      | 3 => r.synced && decide (r.last + 1000 * d.rd K.LINK_TO ≤ d.now + 7)
      | _ => false
    if ¬ d.hasPort p ∨ ¬ holds then d
    else
      let was := d.portUp p
      let d := d.cutFrames p
      let d := d.setPort p
        { r with synced := cause ≠ 1, an := cause = 3 && r.an, hello := false, stable := none, tryAt := if cause = 1 then d.now else r.tryAt,
                 nbrState := 0, nbrOffer := 0xFF, inHdr := none, sending := none, queue := [] }
      let d := (d.wr (K.PLINK p) 0).wr (K.NBR p) 0
      let d := { d with ring := { d.ring with reportNow := true, dirty := true } }
      if ¬ was then d
      else
        let body := le 1 p ++ le 1 cause ++ le 2 0 ++ le 8 d.nt
        let d := ((d.count (K.LINK_DOWNS_1310 p)).raise 0x28B d.nt).ringEvent 0x01B1 body
        let d := if p < 2 then (d.wr (K.WRAPPING p) 1).ringEvent 0x01B2 body else d
        let d := if d.rd K.TIME_PORT = p + 2 then d.sourceLost else d
        d.watchPorts

/-! ## Envelopes arrive (R374 to R376) -/

/-- The device is the head of its ring and the envelope is the report of a device without an address, addressed to station 0 (R386). -/
def Dev.takesReport (d : Dev) (h : Bytes) : Bool :=
  d.rd K.ROLE ≠ 0 && hdrType h = 5 && hdrSubtype h = 1 && (hdrSrc h).testBit 15 && !destMulticast (hdrDest h) && hdrDest h % 128 = 0

/-- The envelope is for this device (R372, R373). -/
def Dev.forMe (d : Dev) (h : Bytes) : Bool :=
  if d.passive then hdrType h = 5
  else if destMulticast (hdrDest h) then scopeHas (hdrDest h) d.ownSegment && d.inGroup (destGroup (hdrDest h))
  else hdrDest h = d.rd K.ADDR || d.takesReport h

/-- A unicast envelope ends at this device. -/
def Dev.consumes (d : Dev) (h : Bytes) : Bool := !d.passive && !destMulticast (hdrDest h) && d.forMe h

/-- An envelope crosses port C (R375): out of it, with this device as the entry. -/
def Dev.reinjectC (d : Dev) (p : Nat) (h : Bytes) : Dev := d.sendC p (withHops h 255 0 d.station) [] (some p)

/-- The route of an envelope that arrives on a ring port (R374). -/
def Dev.routeRing (d : Dev) (p : Nat) (h : Bytes) : Dev :=
  let dest := hdrDest h
  let multi := destMulticast dest
  if d.consumes h then d
  else if ¬ multi ∧ ¬ d.passive ∧ destSegment dest ≠ d.ownSegment ∧ (d.segmentHead ∨ d.branchSegment = some (destSegment dest)) then d.reinjectC p h
  else
    let up : Bool := multi && d.segmentHead && destScope dest ≠ d.ownSegment
    let down : Bool := match d.branchSegment with
      | some g => multi && scopeHas dest g
      | none => false
    let d := if up || down then d.reinjectC p h else d
    if hdrHops h = 0 then d.count (K.DROPPED_1310 p)
    else d.sendRing p (1 - p) (withHops h (hdrHops h - 1) (hdrWraps h) (hdrEntry h)) [] (some p)

/-- The route of an envelope that arrives on port C (R375): into the ring, never back out of port C. -/
def Dev.routeC (d : Dev) (h : Bytes) : Dev :=
  let dest := hdrDest h
  if d.consumes h ∨ d.passive then d
  else
    let h := withHops h 255 0 d.station
    if destMulticast dest then
      let h := withDual h
      (d.sendRing 2 0 h [] (some 2)).sendRing 2 1 h [] (some 2)
    else d.sendRing 2 (d.shorterPort (d.stationToward dest)) h [] (some 2)

/-- ENVELOPE_HEADER (R374): judged when its header has arrived; a port that is not up takes only hellos. A frame of another EtherType is
discarded and counted (R368), but for PTP (R391). -/
def execEnvelopeHeader (p etype : Nat) (header : Bytes) (s : State) : Host.Outcome State Fault Refusal :=
  onDev s fun d =>
    let r := d.port p
    if ¬ d.portReady p ∨ header.length ≠ 16 ∨ r.inHdr.isSome then d
    else if etype ≠ d.rd K.ETYPE then (if etype = 0x88F7 then d else d.count (K.DROPPED_1310 p))
    else if ¬ hcrcOk header then d.count (K.HCRC_ERR p)
    else if ¬ d.portUp p ∧ ¬ isHello header then d
    else if isHello header then d.setPort p { r with inHdr := some header }
    else if p < 2 ∧ ¬ d.passive ∧ hdrEntry header = d.station ∧ hdrWraps header ≠ 1 then d
    else
      let d := d.setPort p { r with inHdr := some header }
      let d := if hdrKnown header then d else d.count (K.DROPPED_1310 p)
      if p = 2 then d.routeC header else d.routeRing p header

/-- One SEQ of a source judged by the duplicate filter (R376): whether it has been delivered or lies too far below. -/
def SeenRt.judge (e : SeenRt) (seq now : Nat) : Bool × SeenRt :=
  let ahead := (seq + 65536 - e.high) % 65536
  let back := (e.high + 65536 - seq) % 65536
  let e := { e with at_ := now }
  if ahead = 0 then (true, e)
  else if ahead < 32768 then (false, { e with high := seq, below := (e.below * 2 ^ ahead + 2 ^ (ahead - 1)) % 2 ^ 64 })
  else if 64 < back ∨ e.below.testBit (back - 1) then (true, e)
  else (false, { e with below := withBit e.below (back - 1) true })

/-- The duplicate filter (R376): sources seen within 10 ms, at most 1,024; the one seen least recently gives way. -/
def Dev.duplicate (d : Dev) (src seq : Nat) : Bool × Dev :=
  let put (l : List SeenRt) (d : Dev) : Dev := { d with ring := { d.ring with seen := l } }
  let live := d.ring.seen.filter fun e => d.now ≤ e.at_ + 10000000
  match live.find? fun e => e.src = src with
  | some e =>
    let (dup, e) := e.judge seq d.now
    (dup, put (live.map fun x => if x.src = src then e else x) d)
  | none =>
    let full := decide (1024 ≤ live.length)
    let oldest := live.foldl (fun t e => min t e.at_) d.now
    let gone := (live.find? fun e => e.at_ = oldest).map (·.src)
    let live := if full then live.filter fun e => some e.src ≠ gone else live
    (false, put (live ++ [{ src := src, high := seq, below := 0, at_ := d.now }]) (if full then d.count K.DUP_EVICT else d))

/-- The body of a frame has arrived: outputs that forward it hold the whole of it. -/
def Dev.fillFrames (d : Dev) (p : Nat) (body : Bytes) (ok : Bool) : Dev :=
  let fill (f : QFrame) : QFrame :=
    if f.open_ ≠ some p then f
    else { f with open_ := none, what := match f.what with | .frame q h _ _ => .frame q h body ok | o => o }
  [0, 1, 2].foldl (fun d q =>
    let r := d.port q
    if r.sending.isNone ∧ r.queue = [] then d else d.setPort q { r with sending := r.sending.map fill, queue := r.queue.map fill }) d

/-- The end of a frame (R376, R378): a bad FCS is counted and passed on inverted; an envelope for this device that is no duplicate is
delivered, and its header answered. -/
def Dev.envelopeEnd (d : Dev) (p : Nat) (fcsOk : Bool) (body : Bytes) : Option Bytes × Dev :=
  if ¬ d.portReady p then (none, d)
  else
    let (inverted, d) := d.injCheck 5 fun i => i = p
    let ok := fcsOk != inverted
    let r := d.port p
    let d := d.setPort p { r with inHdr := none, last := if ok then d.now else r.last }
    let d := d.fillFrames p body ok
    let d := if ok then d else d.count (K.FCS_ERR p)
    match r.inHdr with
    | some h =>
      if ¬ ok ∨ ¬ hdrKnown h ∨ ¬ d.forMe h then (none, d)
      else if isHello h ∨ (hdrSrc h).testBit 15 then (some h, d.emit (.delivered p h body))
      else
        let (dup, d) := d.duplicate (hdrSrc h) (hdrSeq h)
        if dup then (none, d.count (K.DUPS p)) else (some h, d.emit (.delivered p h body))
    | none => (none, d)

/-! ## Hellos (R380) -/

/-- The segment that a hello on port p offers: the one of this device's branch; on an uplink, the one that it requests (R388). -/
def Dev.offerOn (d : Dev) (p : Nat) : Nat :=
  if p = 2 ∧ d.rd K.PORTC_MODE = 1 then d.rd K.REQ_SEGMENT else d.branchSegment.getD 0xFF

/-- HELLO_SEND (R380): every 100 us on every port that passes frames; a halted Postmaster sends none (R30). -/
def execHelloSend (s : State) : Host.Outcome State Fault Refusal :=
  onDev s fun d =>
    if ¬ d.ringLive ∨ d.post.halted.isSome ∨ d.now + 7 < d.ring.lastHello + 100000 then d
    else
      let d := { d with ring := { d.ring with lastHello := d.now } }
      let addr := if d.passive then 0x8000 else d.rd K.ADDR
      ([0, 1, 2].filter d.portReady).foldl (fun d p =>
        let body := le 8 d.serial ++ le 2 addr ++ le 1 (d.rd K.TSTATE) ++ le 1 (d.rd K.ROLE) ++ le 1 (d.offerOn p) ++ le 1 p ++ le 2 0
        d.putFrame p (mkHeader 5 0 0xFFFF addr 0 0 d.station 16 false) body none) d

/-- HELLO (R367, R380): the neighbour's serial number, time state, role and segment offer. -/
def execHello (p : Nat) (body : Bytes) (s : State) : Host.Outcome State Fault Refusal :=
  onDev s fun d =>
    if ¬ d.portReady p ∨ body.length ≠ 16 then d
    else
      let r := d.port p
      let serial := ofLe (slice body 0 8)
      let offer := hdrByte body 12
      let changed : Bool := d.rd (K.NBR p) ≠ serial
      let offers : Bool := p = 2 && r.nbrOffer ≠ offer
      let d := d.setPort p { r with hello := true, last := d.now, nbrState := hdrByte body 10, nbrOffer := offer }
      let d := d.wr (K.NBR p) serial
      let d := { d with ring := { d.ring with reportNow := d.ring.reportNow || changed || offers, dirty := d.ring.dirty || changed || offers } }
      let d := if d.rd K.TSTATE = 2 ∧ d.rd K.TIME_PORT = p + 2 ∧ ¬ d.parentGood p then d.setTState 3 else d
      d.portCheck p

/-! ## Reports and the election (R385, R386) -/

/-- This device as its own report shows it. -/
def Dev.ownReport (d : Dev) : ReportRt :=
  let links := maskOf ([0, 1, 2].filter d.portUp)
  let segment := if d.rd K.PORTC_MODE = 2 then (d.port 2).nbrOffer else d.rd K.REQ_SEGMENT
  { serial := d.serial, addr := if d.passive then 0x8000 else d.rd K.ADDR, role := d.rd K.ROLE_CFG, station := d.rd K.REQ_STATION,
    nbr := (d.rd (K.NBR 0), d.rd (K.NBR 1), d.rd (K.NBR 2)), links := links, tstate := d.rd K.TSTATE,
    portc := if d.part.full then d.rd K.PORTC_MODE else 0, segment := segment }

/-- The body of a report (Table 14-5). -/
def reportBody (r : ReportRt) : Bytes :=
  le 8 r.serial ++ le 2 r.addr ++ le 1 r.role ++ le 1 r.station ++ le 8 r.nbr.1 ++ le 8 r.nbr.2.1 ++ le 8 r.nbr.2.2 ++ le 1 r.links ++
    le 1 r.tstate ++ le 1 r.portc ++ le 1 r.segment

/-- A report as its body shows it. -/
def reportOf (b : Bytes) : ReportRt :=
  { serial := ofLe (slice b 0 8), addr := ofLe (slice b 8 2), role := hdrByte b 10, station := hdrByte b 11,
    nbr := (ofLe (slice b 12 8), ofLe (slice b 20 8), ofLe (slice b 28 8)), links := hdrByte b 36, tstate := hdrByte b 37,
    portc := hdrByte b 38, segment := hdrByte b 39 }

/-- The reports of the ring with this device's own. -/
def Dev.allReports (d : Dev) : List ReportRt :=
  let own := d.ownReport
  own :: (d.ring.reports.map (·.2)).filter fun r => r.serial ≠ own.serial

/-- The head of the ring by its reports (R385): the lowest serial number that asks for it, else among the candidates; where a report
shows an uplink, only devices with one take part. -/
def electHead (l : List ReportRt) : Option ReportRt :=
  let l := if l.any fun r => r.portc = 1 then l.filter fun r => r.portc = 1 else l
  let least (l : List ReportRt) : Option ReportRt := l.find? fun r => l.all fun x => r.serial ≤ x.serial
  match least (l.filter fun r => r.role = 1 || r.role = 2) with
  | some r => some r
  | none => least (l.filter fun r => r.role = 3)

/-- REPORT_SEND (R386): every 10 ms, and at once when a neighbour has changed. -/
def execReportSend (s : State) : Host.Outcome State Fault Refusal :=
  onDev s fun d =>
    if ¬ d.postRuns ∨ ¬ (d.portUp 0 || d.portUp 1) ∨ (¬ d.ring.reportNow ∧ d.now + 7 < d.ring.lastReport + 10000000) then d
    else
      let d := { d with ring := { d.ring with lastReport := d.now, reportNow := false } }
      if d.rd K.ROLE ≠ 0 then d else d.originate 5 1 (d.ownSegment * 128) (reportBody d.ownReport)

/-- A head posts event 0x01B7 for a device of its segment that becomes joined (R389). -/
def Dev.noteJoined (d : Dev) (r : ReportRt) : Dev :=
  let listed : Bool := d.ring.map.any fun e => e.serial = r.serial % 2 ^ 48
  let joined : Bool := listed && !r.addr.testBit 15 && 2 ≤ r.tstate
  let had := d.ring.joined.contains r.serial
  if joined && !had then
    { d with ring := { d.ring with joined := r.serial :: d.ring.joined } }.ringEvent 0x01B7 (le 2 r.addr ++ le 2 0 ++ le 8 r.serial)
  else if !joined && had then { d with ring := { d.ring with joined := d.ring.joined.filter (· ≠ r.serial) } }
  else d

/-- REPORT (R385, R386): a delivered report; a head notes what changes, and a device that may become one counts it in the election. -/
def execReport (body : Bytes) (s : State) : Host.Outcome State Fault Refusal :=
  onDev s fun d =>
    if ¬ d.postRuns ∨ body.length ≠ 40 then d
    else
      let r := reportOf body
      let old := Tab.find d.ring.reports r.serial
      let same : Bool := old = some { r with tstate := (old.map (·.tstate)).getD 0, addr := (old.map (·.addr)).getD 0 }
      let d := { d with ring := { d.ring with reports := Tab.put d.ring.reports r.serial r, dirty := d.ring.dirty || !same } }
      if d.rd K.ROLE ≠ 0 then d.noteJoined r else d

/-! ## Maps (R384, R386 to R389) -/

/-- The map names the holder of the head role: a device that asked for it and does not hold it is a node, with event 0x01B6 once. -/
def Dev.noteConflict (d : Dev) (holder : Nat) : Dev :=
  let cfg := d.rd K.ROLE_CFG
  if (cfg = 1 ∨ cfg = 2) ∧ d.ring.conflict ≠ some holder then
    { d with ring := { d.ring with conflict := some holder } }.ringEvent 0x01B6 (le 1 cfg ++ le 3 0 ++ le 8 holder)
  else d

/-- A segment map applied (R386, R389): address, epoch, time port; events 0x01B4 where the device becomes listed and 0x01B5. -/
def Dev.applyMap (d : Dev) (epoch segment brk : Nat) (entries : List MapEntry) (overflow : Bool) : Dev :=
  let me := d.serial % 2 ^ 48
  let first : Bool := !d.ring.mapped
  let was := d.passive
  let d := { d with ring := { d.ring with map := entries, segment := segment, mapped := true } }
  let d := d.wrs [(K.EPOCH, epoch), (K.SEG_COUNT, entries.length), (K.BREAK, brk)]
  let mine := entries.find? fun e => e.serial = me
  let addr : Nat := match mine with
    | some e => segment * 128 + e.station
    | none => 0x8000
  let d := d.wr K.ADDR addr
  let d := if was ∧ mine.isSome then d.ringEvent 0x01B4 (le 2 addr ++ le 2 epoch ++ le 8 d.nt) else d
  let d := d.ringEvent 0x01B5 (le 2 epoch ++ le 1 entries.length ++ le 1 brk ++ le 1 overflow.toNat ++ le 7 0)
  let d : Dev := d.showMember.retime
  if first ∧ d.isRoot ∧ d.rd K.TIME_PORT = 0 ∧ d.rd K.FREE_ROOT = 1 ∧ d.rd K.TSTATE = 0 then d.setTState 2 else d

/-- The entries of a map body. -/
def mapEntries : Nat → Bytes → List MapEntry
  | 0, _ => []
  | n + 1, b => { serial := ofLe (slice b 0 6), station := hdrByte b 6, tport := hdrByte b 7 % 2 } :: mapEntries n (b.drop 8)

/-- SEGMENT_MAP (R386): a delivered map with a newer epoch is applied; its station 0 holds the head role. -/
def execSegmentMap (body : Bytes) (s : State) : Host.Outcome State Fault Refusal :=
  onDev s fun d =>
    let epoch := ofLe (slice body 0 2)
    let count := hdrByte body 2
    let ahead := (epoch + 65536 - d.rd K.EPOCH) % 65536
    if body.length ≠ 8 + 8 * count ∨ (d.ring.mapped ∧ ¬ (1 ≤ ahead ∧ ahead < 32768)) then d
    else
      let entries := mapEntries count (body.drop 8)
      let head := (entries.find? fun e => e.station = 0).map (·.serial)
      let me := d.serial % 2 ^ 48
      let d := if head ≠ some me then d.wr K.ROLE 0 else d
      let full (x : Nat) : Nat := ((d.ring.reports.find? fun r => r.1 % 2 ^ 48 = x).map (·.1)).getD x
      let d : Dev := match head with
        | some x => if x ≠ me then d.noteConflict (full x) else d
        | none => d
      d.applyMap epoch (hdrByte body 3 % 128) (hdrByte body 4) entries false

/-- The pairs of a system map body. -/
def systemPairs : Nat → Bytes → List (Nat × Nat)
  | 0, _ => []
  | n + 1, b => (hdrByte b 0, hdrByte b 1) :: systemPairs n (b.drop 2)

/-- SYSTEM_MAP (R388): a delivered system map with a newer epoch. -/
def execSystemMap (body : Bytes) (s : State) : Host.Outcome State Fault Refusal :=
  onDev s fun d =>
    let epoch := ofLe (slice body 0 2)
    let count := hdrByte body 2
    let newer : Bool := match d.ring.sysEpoch with
      | some e => 1 ≤ (epoch + 65536 - e) % 65536 && (epoch + 65536 - e) % 65536 < 32768
      | none => true
    if body.length ≠ 8 + 2 * count ∨ ¬ newer then d
    else { d with ring := { d.ring with sysEpoch := some epoch, sysmap := systemPairs count (body.drop 8) } }

/-- A walk round the ring by the neighbours that reports name: the reports met from `at_` on, coming from `came`, until the head or a
link that leads nowhere. -/
def ringWalk (l : List ReportRt) (head : Nat) : Nat → Nat → Nat → List ReportRt × Bool
  | 0, _, _ => ([], false)
  | n + 1, came, at_ =>
    if at_ = head then ([], true)
    else
      match l.find? fun r => r.serial = at_ with
      | some r =>
        let next := if r.nbr.1 = came then r.nbr.2.1 else r.nbr.1
        let rest := ringWalk l head n at_ next
        (r :: rest.1, rest.2)
      | none => ([], false)

/-- The devices of the ring in order from the head's port A, and how many of them lie before the break, where there is one. -/
def ringOrder (own : ReportRt) (l : List ReportRt) : List ReportRt × Option Nat :=
  let fuel := l.length + 1
  let walkA := ringWalk l own.serial fuel own.serial own.nbr.1
  if walkA.2 then (own :: walkA.1, none)
  else
    let walkB := ringWalk l own.serial fuel own.serial own.nbr.2.1
    let all := own :: walkA.1 ++ walkB.1.reverse
    (all, if all.length = 1 then none else some walkA.1.length)

/-- The station of a device (R387): the one that it requests where free, else the one that it has or is kept for it, else the lowest
free. -/
def Dev.stationFor (d : Dev) (r : ReportRt) (given : Tab Nat) : Nat :=
  let taken := ((d.ring.stations.filter fun e => e.1 ≠ r.serial).map (·.2)) ++ given.map (·.2)
  if 1 ≤ r.station ∧ r.station ≤ 127 ∧ ¬ taken.contains r.station then r.station
  else
    match Tab.find d.ring.stations r.serial with
    | some x => x
    | none => (((List.range 128).drop 1).find? fun x => !taken.contains x).getD 127

/-- The time port of a device (Table 14-6): of the shorter hop path to the head, port A on a tie; never across the break. -/
def mapPort (order : List ReportRt) (brk : Option Nat) (i : Nat) (r : ReportRt) : Nat :=
  let n := order.length
  let prev := ((order[i - 1]?).map (·.serial)).getD 0
  let back := if r.nbr.1 = prev then 0 else 1
  match brk with
  | some b => if i ≤ b then back else 1 - back
  | none => if 2 * i < n then back else if n < 2 * i then 1 - back else 0

/-- The segment numbers that the trunk head gives (R388): each trunk station whose branch leads to a head gets the one requested where
free, else keeps its segment, else gets the lowest free. -/
def segmentPairs (old : List (Nat × Nat)) (members : List (Nat × ReportRt)) : List (Nat × Nat) :=
  let branches := members.filter fun m => m.2.portc = 2 && m.2.nbr.2.2 ≠ 0
  branches.foldl (fun given m =>
    let kept := old.filter fun e => branches.any fun b => b.1 = e.2
    let taken := ((kept.filter fun e => e.2 ≠ m.1).map (·.1)) ++ given.map (·.1)
    let want := m.2.segment
    let g := if 1 ≤ want ∧ want ≤ 126 ∧ ¬ taken.contains want then want
      else match kept.find? fun e => e.2 = m.1 with
      | some e => e.1
      | none => (((List.range 127).drop 1).find? fun x => !taken.contains x).getD 126
    given ++ [(g, m.1)]) []

/-- The system map published by a trunk head, where it has changed (R388). -/
def Dev.publishSystem (d : Dev) (members : List (Nat × ReportRt)) : Dev :=
  let pairs := segmentPairs d.ring.sysmap members
  if pairs = d.ring.sysmap then d
  else
    let epoch := (d.ring.sysEpoch.getD 0 + 1) % 65536
    let d := { d with ring := { d.ring with sysEpoch := some epoch, sysmap := pairs } }
    d.originate 5 3 0xFFFF (le 2 epoch ++ le 1 pairs.length ++ le 5 0 ++ pairs.foldr (fun e b => le 1 e.1 ++ le 1 e.2 ++ b) [])

/-- The segment of the head's own ring: offered over the uplink, else segment 0; none while an uplink offers none (R388). -/
def Dev.headSegment (d : Dev) : Option Nat :=
  if d.rd K.PORTC_MODE ≠ 1 then some 0
  else if (d.port 2).nbrOffer = 0xFF then none else some (d.port 2).nbrOffer

/-- The map that this device publishes as head of a segment. -/
def Dev.publish_ (d : Dev) (segment : Nat) : Dev :=
  let own := d.ownReport
  let (order, brk) := ringOrder own d.allReports
  let overflow : Bool := 128 < order.length
  let order := if overflow then order.take 128 else order
  let brk := match brk with
    | some b => if b < order.length then some b else none
    | none => none
  -- stations of devices that have left are held for ADDR_HOLD
  let gone := d.ring.stations.filter fun e => !(order.any fun r => r.serial = e.1) && !(d.ring.held.any fun h => h.1 = e.1)
  let held := gone.foldl (fun t e => Tab.put t e.1 (e.2, d.now)) (d.ring.held.filter fun h => !(order.any fun r => r.serial = h.1))
  let members := (order.drop 1).foldl (fun (g : Tab Nat × List (Nat × ReportRt)) r =>
    let x := d.stationFor r g.1
    (Tab.put g.1 r.serial x, g.2 ++ [(x, r)])) (([] : Tab Nat), [(0, own)])
  let stations := members.1.foldl (fun t e => Tab.put t e.1 e.2) d.ring.stations
  let d := { d with ring := { d.ring with stations := stations, held := held, dirty := false, conflict := none } }
  let entries := members.2.zipIdx.map fun m =>
    ({ serial := m.1.2.serial % 2 ^ 48, station := m.1.1, tport := if m.2 = 0 then 0 else mapPort order brk m.2 m.1.2 } : MapEntry)
  let brkStation := match brk with
    | some b => ((members.2[b]?).map (·.1)).getD 0xFF
    | none => 0xFF
  let epoch := (d.rd K.EPOCH + 1) % 65536
  let d := (d.wr K.ROLE (if d.rd K.ROLE_CFG = 2 then 2 else 1)).applyMap epoch segment brkStation entries overflow
  let body := le 2 epoch ++ le 1 entries.length ++ le 1 segment ++ le 1 brkStation ++ le 3 0 ++
    entries.foldr (fun e b => le 6 e.serial ++ le 1 e.station ++ le 1 e.tport ++ b) []
  let d := d.originate 5 2 (0x8000 + segment * 256 + 255) body
  let d : Dev := d.allReports.foldl (fun d r => d.noteJoined r) d
  if d.rd K.ROLE = 2 then d.publishSystem members.2 else d

/-- MAP_PUBLISH (R385 to R387): the head elected among the devices that the ring's reports lead to publishes what has changed, with the next epoch; 127 devices besides it at most. -/
def execMapPublish (s : State) : Host.Outcome State Fault Refusal :=
  onDev s fun d =>
    let me : Bool := match electHead (ringOrder d.ownReport d.allReports).1 with
      | some r => r.serial = d.serial
      | none => false
    match d.headSegment with
    | some g => if d.postRuns ∧ d.ring.dirty ∧ me then d.publish_ g else d
    | none => d

/-- ADDR_HOLD_EXPIRY (R387): a station held for a departed device becomes free. -/
def execAddrHoldExpiry (station : Nat) (s : State) : Host.Outcome State Fault Refusal :=
  onDev s fun d =>
    match d.ring.held.find? fun h => h.2.1 = station with
    | some h =>
      if d.postRuns ∧ h.2.2 + 1000000000 * d.rd K.ADDR_HOLD ≤ d.now + 7 then
        { d with ring := { d.ring with held := Tab.del d.ring.held h.1, stations := Tab.del d.ring.stations h.1 } }
      else d
    | none => d

/-- ECHO_REQUEST (R383): answered with its 8 bytes and two instants of NT; the second is stamped as the reply begins to leave. -/
def execEchoRequest (p src : Nat) (data : Bytes) (tIn : Nat) (s : State) : Host.Outcome State Fault Refusal :=
  onDev s fun d => if ¬ d.portUp p ∨ data.length ≠ 8 ∨ src.testBit 15 then d else d.originate 6 1 src (data ++ le 8 tIn ++ le 8 d.nt)

end Sys2Proof.Machine
end

