-- ==== Sys2Proof/Machine/Mailbag.lean ====
section
/-! DEFINITION. The host link and the mailbag (chapter 13): bursts, interrupt moderation, link resets, forwarding.
Conventions of the model: DEDUCED: log 62, 63. -/

namespace Sys2Proof.Machine

def Dev.queueRt (d : Dev) (j : Nat) : QueueRt := Tab.get {} d.mail.queues j
def Dev.setQueueRt (d : Dev) (j : Nat) (r : QueueRt) : Dev := { d with mail := { d.mail with queues := Tab.put d.mail.queues j r } }

/-- The mailbag may write to host memory: link up, Bus Master Enable, not D3hot (R349). -/
def Dev.mayWrite (d : Dev) : Bool := d.hostUp && d.bit K.LINK_FLAGS 0 && !d.bit K.LINK_FLAGS 3

/-! ## Records -/

/-- A record as it leaves (Table 13-3). -/
def recBytes (r : EventRec) : Bytes :=
  le 4 (r.src + 256 * r.seq) ++ le 8 r.nt ++ le 2 r.type ++ le 2 r.obj ++ le 2 r.addr ++ le 2 r.lost ++ padTo 12 r.payload

/-- A record as it arrives. -/
def recOf (b : Bytes) : EventRec :=
  { src := hdrByte b 0, seq := ofLe (slice b 1 3), nt := ofLe (slice b 4 8), type := ofLe (slice b 12 2), obj := ofLe (slice b 14 2),
    addr := ofLe (slice b 16 2), lost := ofLe (slice b 18 2), payload := slice b 20 12 }

/-- A SEQ lies after the last one, counting modulo 2^24. -/
def seqAfter (last seq : Nat) : Bool := (seq + 2 ^ 25 - last - 1) % 2 ^ 24 < 2 ^ 23

/-- Records missing between two SEQ values of a source; none where the record does not lie after the last one. -/
def seqGap (last seq : Nat) : Nat := if seqAfter last seq then (seq + 2 ^ 25 - last - 1) % 2 ^ 24 else 0

/-- LOST of a record at its delivery (R353): an own one from the last SEQ of its source, from wake on; a forwarded one from the last SEQ of
its pair, where it is known (R365). -/
def Dev.deliver (d : Dev) (r : EventRec) : EventRec × Dev :=
  let m := d.mail
  if r.addr.testBit 14 then
    let key := r.addr % 2 ^ 14 * 256 + r.src + (if r.addr.testBit 15 then 2 ^ 22 else 0)
    match Tab.find m.pairs key with
    | some last =>
      let gap := seqGap last r.seq
      ({ r with lost := min gap 0xFFFF }, { d with mail := { m with pairs := Tab.put m.pairs key r.seq } }.count K.FWD_GAPS gap)
    | none => (r, if m.pairs.length < 8192 then { d with mail := { m with pairs := Tab.put m.pairs key r.seq } } else d)
  else
    let (gap, last) := match Tab.find m.lastSeq r.src with
      | some last => (seqGap last r.seq, if seqAfter last r.seq then r.seq else last)
      | none => (r.seq, r.seq)
    ({ r with lost := min gap 0xFFFF }, { d with mail := { m with lastSeq := Tab.put m.lastSeq r.src last } })

/-- Records delivered in order, as they leave. -/
def Dev.deliverAll (d : Dev) : List EventRec → List Bytes × Dev
  | [] => ([], d)
  | r :: rest =>
    let (r, d) := d.deliver r
    let (l, d) := d.deliverAll rest
    (recBytes r :: l, d)

/-! ## MSI-X (R362) -/

/-- The message of a vector: sent, or pending while the vector or the function is masked; none without MSI-X enabled. -/
def Dev.msix (d : Dev) (v : Nat) : Dev :=
  let e : MsixEntry := Tab.get { addr := 0, data := 0, masked := true } d.mail.msix v
  if ¬ d.bit K.LINK_FLAGS 1 then d
  else if e.masked ∨ d.bit K.LINK_FLAGS 2 then { d with mail := { d.mail with msixPending := withBit d.mail.msixPending v true } }
  else d.emit (.msix v e.addr e.data)

/-- Messages that waited for their vectors to be unmasked are sent. -/
def Dev.msixDrain (d : Dev) : Dev :=
  if ¬ d.mayWrite then d
  else (List.range 32).foldl (fun d v =>
    let e : MsixEntry := Tab.get { addr := 0, data := 0, masked := true } d.mail.msix v
    if d.mail.msixPending.testBit v ∧ d.bit K.LINK_FLAGS 1 ∧ ¬ e.masked ∧ ¬ d.bit K.LINK_FLAGS 2 then
      { d with mail := { d.mail with msixPending := withBit d.mail.msixPending v false } }.msix v
    else d) d

/-- The queue's interrupt: the count and the timer restart at the message. -/
def Dev.interrupt (d : Dev) (j : Nat) : Dev :=
  if ¬ d.bit K.LINK_FLAGS 1 then d else (d.setQueueRt j { d.queueRt j with modCount := 0 }).msix (d.rd (K.VECTOR j))

/-- The timer of queue j has reached MOD_TIME. -/
def Dev.modExpired (d : Dev) (j : Nat) : Bool :=
  let r := d.queueRt j
  d.rd (K.MOD_TIME j) ≠ 0 && r.modCount ≠ 0 && r.modStart + 1000 * d.rd (K.MOD_TIME j) ≤ d.now + 7

/-! ## Bursts (R354, R359) -/

/-- Records in queue j, and its size. -/
def Dev.queueFill (d : Dev) (j : Nat) : Nat := (d.rd (K.PROD j) + 2 ^ 32 - d.rd (K.CONS j)) % 2 ^ 32
def Dev.queueSize (d : Dev) (j : Nat) : Nat := 2 ^ d.rd (K.LOG2SIZE j)

/-- Records of the next burst of queue j: up to 8, as room, waiting records and the ring's end allow. -/
def Dev.burstLen (d : Dev) (j : Nat) : Nat :=
  if ¬ d.mayWrite ∨ d.forwarding ∨ d.rd (K.Q_EN j) = 0 then 0
  else
    let size := d.queueSize j
    let waiting := (d.mail.staging.filter fun r => r.queue = j).length
    min 8 (min waiting (min (size - d.queueFill j) (size - d.rd (K.PROD j) % size)))

/-- The first n staged records of a queue, and the others. -/
def takeStaged (j : Nat) : Nat → List Staged → List EventRec × List Staged
  | _, [] => ([], [])
  | n, r :: rest =>
    if n ≠ 0 ∧ r.queue = j then
      let x := takeStaged j (n - 1) rest
      (r.rcd :: x.1, x.2)
    else
      let x := takeStaged j n rest
      (x.1, r :: x.2)

/-- Writes of consecutive records, as many to a TLP as MPS holds (R359). -/
def Dev.writeRecords (d : Dev) (addr per : Nat) : Nat → List Bytes → Dev
  | 0, _ => d
  | n + 1, l =>
    if l = [] then d
    else (d.emit (.hostWrite addr ((l.take per).foldr (· ++ ·) []))).writeRecords (addr + 32 * per) per n (l.drop per)

/-- MAILBAG_BURST (R359): records, then the shadow, then the interrupt where it is due. -/
def execMailbagBurst (j : Nat) (s : State) : Host.Outcome State Fault Refusal :=
  onDev s fun d =>
    let n := d.burstLen j
    if 8 ≤ j ∨ n = 0 then d
    else
      let shadow := d.rd (K.SHADOW j)
      let r := d.queueRt j
      let d := if r.zeroShadow then (d.setQueueRt j { r with zeroShadow := false }).emit (.hostWrite shadow (le 4 0)) else d
      let (recs, rest) := takeStaged j n d.mail.staging
      let (bytes, d) := { d with mail := { d.mail with staging := rest } }.deliverAll recs
      let prod := d.rd (K.PROD j)
      let d := d.writeRecords (d.rd (K.BASE j) + 32 * (prod % d.queueSize j)) (d.rd K.MPS / 32) n bytes
      let prod := (prod + n) % 2 ^ 32
      let d := ((d.wr (K.PROD j) prod).count (K.DELIVERED j) n).emit (.hostWrite shadow (le 4 prod))
      let r := d.queueRt j
      let d := d.setQueueRt j { r with modCount := r.modCount + n, modStart := if r.modCount = 0 then d.now else r.modStart }
      if d.rd (K.MOD_COUNT j) ≤ r.modCount + n ∨ d.modExpired j then d.interrupt j else d

/-- MOD_TIME_EXPIRY (R362): the timer is reached; a write that is pending brings the message itself. -/
def execModTimeExpiry (j : Nat) (s : State) : Host.Outcome State Fault Refusal :=
  onDev s fun d => if 8 ≤ j ∨ ¬ d.modExpired j ∨ ¬ d.mayWrite ∨ d.burstLen j ≠ 0 then d else d.interrupt j

/-- BAR4_WRITE (R362): a table entry; unmasking sends what is pending. -/
def execBar4Write (vector : Nat) (entry : MsixEntry) (s : State) : Host.Outcome State Fault Refusal :=
  onDev s fun d =>
    if ¬ d.hostUp ∨ 32 ≤ vector then d else { d with mail := { d.mail with msix := Tab.put d.mail.msix vector entry } }.msixDrain

/-- CONFIGURATION_WRITE (R349): what acts on the mailbag. -/
def execConfigurationWrite (item : ConfigItem) (s : State) : Host.Outcome State Fault Refusal :=
  onDev s fun d =>
    if ¬ d.hostUp then d
    else
      match item with
      | .busMaster on => (d.setBit K.LINK_FLAGS 0 on).msixDrain
      | .msixEnable on => (d.setBit K.LINK_FLAGS 1 on).msixDrain
      | .msixMask on => (d.setBit K.LINK_FLAGS 2 on).msixDrain
      | .d3hot on => (d.setBit K.LINK_FLAGS 3 on).msixDrain
      | .maxPayload n => if n = 128 ∨ n = 256 ∨ n = 512 then d.wr K.MPS n else d

/-! ## Link resets (R350, R438) -/

/-- The objects of a range of indices at their defaults. -/
def Dev.defaults (d : Dev) (lo hi : Nat) : Dev := { d with objs := d.objs.filter fun e => e.1 < lo * 256 || (hi + 1) * 256 ≤ e.1 }

/-- Configuration space and the queue objects at their defaults; records stay in staging. -/
def Dev.linkDefaults (d : Dev) : Dev :=
  let d := { d with mail := { d.mail with queues := [], msix := [], msixPending := 0 } }
  (d.defaults 0x1410 0x1417).wrs [(K.LINK_FLAGS, 0), (K.MPS, 128)]

/-- The link as it stands: down 1 or training 2. -/
def Dev.linkTo (d : Dev) (x : Nat) : Dev := d.wrs [(K.LINK_STATE, x), (K.SPEED, 0), (K.WIDTH, 0)]

/-- The link goes down: LINK_DOWNS and source 0x28C. -/
def Dev.linkDown (d : Dev) : Dev := ((d.linkDefaults.linkTo 1).count K.LINK_DOWNS_1400).raise 0x28C d.nt

/-- HOST_LINK_RESET (R350): forwarding begins where FWD_MODE is 0 and the link has left up. -/
def execHostLinkReset (kind : LinkReset) (s : State) : Host.Outcome State Fault Refusal :=
  onDev s fun d =>
    if ¬ d.hostUp then d
    else
      match kind with
      | .functionLevel => d.linkDefaults
      | .hotReset => (d.linkDefaults.linkTo 2).fwdFill
      | .linkDown => d.linkDown.fwdFill
      | .surpriseRemoval => d.linkDown.fwdFill

/-- PE_PERST_N (R438): its assertion resets the host link alone; its release lets the link train. -/
def execPePerstN (level : Bool) (s : State) : Host.Outcome State Fault Refusal :=
  onDev s fun d =>
    if ¬ d.part.full ∨ d.mail.perst = level then d
    else
      let d := { d with mail := { d.mail with perst := level } }
      if level then (if d.ringLive then d.linkTo 2 else d)
      else if d.hostUp then d.linkDown.fwdFill
      else d.linkTo 1

/-! ## Forwarding (R363 to R365) -/

/-- FORWARD_ENVELOPE_SEND (R363): the envelope holds 8 records, or 20 us have passed since its first. -/
def execForwardEnvelopeSend (s : State) : Host.Outcome State Fault Refusal :=
  onDev s fun d =>
    let d := d.fwdFill
    let m := d.mail
    match d.fwdHead with
    | some head =>
      if d.passive ∨ m.fwd = [] ∨ (m.fwd.length < 8 ∧ d.now + 7 < m.fwdStart + 20000) then d
      else
        let (bytes, d) := { d with mail := { m with fwd := [] } }.deliverAll m.fwd
        ((d.originate 4 0 head (bytes.foldr (· ++ ·) [])).count K.FWD_SENT).fwdFill
    | none => d

/-- The 32-byte records of a body. -/
def recordsOf : Nat → Bytes → List Bytes
  | 0, _ => []
  | n + 1, b => b.take 32 :: recordsOf n (b.drop 32)

/-- EVENT_FORWARD (R364): the records of a received envelope enter staging with FORWARDED set, for FWD_QUEUE or by the own source map. -/
def execEventForward (body : Bytes) (s : State) : Host.Outcome State Fault Refusal :=
  onDev s fun d =>
    let n := body.length / 32
    if d.passive ∨ body.length % 32 ≠ 0 ∨ n = 0 ∨ 8 < n then d
    else (recordsOf n body).foldl (fun d b =>
      let r := recOf b
      let q := if d.rd K.FWD_QUEUE = 0xFF then d.rd (K.QUEUE r.src) else d.rd K.FWD_QUEUE
      let d := d.count K.FWD_RCVD
      if q = 0xFF then d else d.stage q { r with addr := withBit r.addr 14 true }) d

end Sys2Proof.Machine
end

