-- ==== Sys2Proof/Machine/Power.lean ====
section
/-! DEFINITION. Power-up, the device states, firmware updates, loss of the host and of the ring (chapter 16).
Conventions of the model: DEDUCED: log 25, 57, 61, 70, 71, 72. -/

namespace Sys2Proof.Machine

/-! ## Off (R420, R422, R430) -/

/-- What survives Off: the burnt wake cells, and over RESET_N the dead-letter log (R342, R431). -/
def keptSlots (log : Bool) (t : Tab Slot) : Tab Slot :=
  t.filter fun e => e.1 = K.WAKES || (log && e.1 / 256 = 0x2020)

/-- A leg at Off: turned off under R229 by the supervisor, nothing held for it. -/
def offLeg (r : LegRt) : LegRt := { pos := .off, since := r.since, softEnd := r.softEnd, hold31 := r.hold31 }

/-- The device in Off: the legs off, every unit at its state before power-on reset, the patch store kept; a record being written fails its
CHECK (R414). -/
def Dev.toOff (d : Dev) (log : Bool) : Dev :=
  let d := (List.range (16 * d.part.quarters)).foldl (fun d l => d.legOff l) d
  { part := d.part, objs := keptSlots log d.objs, nt := d.nt, ntFrac := d.ntFrac, ticks := d.ticks, drawn := d.drawn, out := d.out,
    legs := d.legs.map fun e => (e.1, offLeg e.2),
    fray := { store := d.fray.store ++ (d.fray.writing.take 1).map fun b => (false, b) },
    mail := { perst := d.mail.perst } }

/-- The device goes to Off (Table 16-2); the start lock clears (R92). -/
def State.off (s : State) (log : Bool) : State := { s with pow := {}, dev := s.dev.toOff log }

/-- SUPPLY_LOSS (R422). -/
def execSupplyLoss (s : State) : Host.Outcome State Fault Refusal := .next (s.off false)

/-- RESET_N (R430): asserted for 10 us; its release is the next release of power-on reset. -/
def execResetN (s : State) : Host.Outcome State Fault Refusal := .next (s.off true)

/-! ## Start-up (R427 to R431) -/

/-- A record of the patch store takes effect at start-up (R415). -/
def Dev.applyRecord (d : Dev) (b : Bytes) : Dev :=
  let inst := ofLe (slice b 10 2)
  let from_ := ofLe (slice b 12 2)
  let to_ := hdrByte b 14
  match hdrByte b 8 with
  | 0 =>
    if to_ = 0xFF then (d.setSlice (from_ % 32) 3 0x1F).showSpares
    else (((d.setSlice (from_ % 32) 3 0x1F).setSlice (to_ % 32) 0 inst).wr (K.SLICE_MAP inst) (to_ % 32)).showSpares
  | 1 => (d.setField (K.ADC_MAP inst) 3 0 from_).setBit K.SPARES_2900 (8 + inst) false
  | 2 => let i := to_ - 32
    d.setField (K.SEGMAP inst (field from_ 9 8)) (8 * i + 7) (8 * i) (0x80 + from_ % 64)
  | 3 => ((d.setBit (K.LANES inst) 2 true).setBit (K.LANES inst) (from_ % 4) false).setBit K.SPARES_2900 (12 + inst) false
  | 4 =>
    let row := from_.testBit 15
    let r : Repair := { bank := inst, sub := field from_ 13 12, row := row, index := to_ % 4, from_ := if row then from_ % 512 else from_ % 4096 }
    { d with memu := { d.memu with repairs := d.memu.repairs ++ [r] } }.showRepairs inst
  | 5 =>
    let m := d.memu
    (({ d with memu := { m with dead := (m.dead.filter (· ≠ inst)) ++ [to_] } }.wrs [(K.PHYS inst, to_), (K.PHYS to_, 0xFF)]).takeReserve to_ false)
  | _ => d

/-- A record whose CHECK holds (R414). -/
def recordOk (e : Bool × Bytes) : Bool := e.1 && hdrByte e.2 15 = crc8 120 (beNat (e.2.take 15))

/-- The patch store read and applied in slot order (R415). -/
def Dev.applyStore (d : Dev) : Dev :=
  let d := d.fray.store.zipIdx.foldl (fun d e =>
    d.wrs [(K.RECORD (2 * e.2), ofLe (e.1.2.take 8)), (K.RECORD (2 * e.2 + 1), ofLe (e.1.2.drop 8))]) d
  let d := d.wrs [(K.STORE_USED, d.fray.store.length), (K.STORE_BAD, (d.fray.store.filter fun e => !recordOk e).length)]
  (d.fray.store.filter recordOk).foldl (fun d e => d.applyRecord e.2) d

/-- POWER_ON_RESET_RELEASE (R420): t_p. NT starts at 0; ERR_N is asserted (R341); the start-up hold stands on every quarter (R424). -/
def execPowerOnResetRelease (s : State) : Host.Outcome State Fault Refusal :=
  .next <|
    if s.pow.devState ≠ .off ∨ s.dev.start.up then s
    else s.onDev fun d =>
      let d := { d with nt := 0, ntFrac := 0, start := { up := true, tp := d.now, at_ := d.now }, loss := { kick := d.now, portsDown := some d.now } }
      d.errUpdate

/-- START_RESULT keeps the first failure (R429). -/
def Dev.startFailure (d : Dev) (code : Nat) : Dev := if d.rd K.START_RESULT = 0 then d.wr K.START_RESULT code else d

/-- A failure that ends in Safe with cause 3 (Table 16-4); objects are served from then on. -/
def State.startSafe (s : State) (code : Nat) : State :=
  let s := s.onDev fun d => { d with fab := { d.fab with ready := true } }.startFailure code
  s.enterSafe 3

/-- Fuse load (Table 16-3): a wake cell burnt and counted (R431), 0.80 V commanded (R55), the patch store applied. -/
def Dev.fuseLoad (d : Dev) : Dev := ((d.wr K.WAKES (min 65536 (d.rd K.WAKES + 1))).commandVolts 800).applyStore

/-- A bank fails the start-up test (R317, Table 16-4). -/
def Dev.startBank (d : Dev) (b : Nat) : Dev :=
  let m := d.memu
  ({ d with memu := { m with dead := if m.dead.contains b then m.dead else m.dead ++ [b] } }.startFailure 1).raise 0x286 d.nt

/-- The host link trains once it has started (Table 16-3). -/
def Dev.trainLink (d : Dev) : Dev :=
  if d.part.full ∧ d.mail.perst ∧ d.ringLive ∧ d.rd K.LINK_STATE = 1 then d.wr K.LINK_STATE 2 else d

/-- Seam training (Table 16-3): the quarters whose seams train; one that fails stays in its safe state with cause 1. -/
def Dev.trainSeams (d : Dev) (failed : Option Nat) : Dev :=
  d.quarterList.foldl (fun d q =>
    if failed = some q then ((d.startFailure 4).safeEnter q 1).raise (0x145 + 0x10 * q) d.nt
    else
      let lanes (t : Tab LaneRt) : Tab LaneRt := [0, 1, 2].foldl (fun t i => Tab.put t i { Tab.get {} t i with lastValid := d.now }) t
      let r := d.quarter q
      d.setQuarter q { r with trained := true, takeNt := true, rxQ := lanes r.rxQ, rxC := lanes r.rxC }) d

/-- The step of Table 16-3 after those completed: fuses, clearing, March test, firmware, defaults, seams. -/
def State.startStep (s : State) (fail : StartFail) : State :=
  let mark (s : State) : State := s.onDev fun d => { d with start := { d.start with stage := d.start.stage + 1, at_ := d.now } }.trainLink
  match s.dev.start.stage, fail with
  | 0, .fuse => s.startSafe 2
  | 0, _ => mark (s.onDev Dev.fuseLoad)
  | 1, _ => mark { s with mem := [], dev := { s.dev with memu := { s.dev.memu with poison := [] } } }
  | 2, f => mark (s.onDev fun d =>
      let d := match f with
        | .bank b => if b < 32 then d.startBank b else d
        | _ => d
      d.wrs [(K.MAINT_MAP, 0), (K.START_PASS, maskOf ((List.range 32).filter fun b => !d.memu.dead.contains b))])
  | 3, .postmaster => s.startSafe 3
  | 3, _ => mark (s.onDev fun d => d.axisList.foldl Dev.sliceStart d)
  | 4, _ => mark (s.onDev fun d => { d with fab := { d.fab with ready := true } }.errUpdate)
  | 5, f =>
    let s := mark (s.onDev fun d => d.trainSeams (match f with | .seam q => some q | _ => none))
    (s.dev.memu.dead.filter fun b => b < 30 && s.dev.rd (K.PHYS b) < 32).foldl (fun s b => s.decideBank b) s
  | _, _ => s

/-- START_UP_STEP (R427, R429). -/
def execStartUpStep (fail : StartFail) (s : State) : Host.Outcome State Fault Refusal :=
  .next (if s.pow.devState = .off ∧ s.dev.start.up then s.startStep fail else s)

/-- A port is up and carries hellos that show Locked or Holdover (R428). -/
def Dev.lockedHello (d : Dev) : Bool := [0, 1, 2].any fun p => d.portUp p && 2 ≤ (d.port p).nbrState

/-- TIME_SEARCH_END (R428, R429): TREF has been valid for 1 ms (the operand), a neighbour's hellos show Locked or Holdover, or 16 ms have
passed; the device is Ready. -/
def execTimeSearchEnd (tref : Bool) (s : State) : Host.Outcome State Fault Refusal :=
  .next <|
    let st := s.dev.start
    let found : Bool := tref || s.dev.lockedHello
    if s.pow.devState ≠ .off ∨ st.stage ≠ 6 ∨ (¬ found ∧ s.dev.now + 7 < st.at_ + 16000000) then s
    else
      let s := s.onDev fun d => (if found then d else d.startFailure 5).wr K.START_TIME ((d.now - st.tp) / 1000)
      s.changeState .ready

/-! ## Requests (R423 to R426, R432 to R435) -/

/-- A request of 0x1100 refused with Inconsistent (Table 16-2). -/
def State.requestRefused (s : State) (k : Nat) : Bool :=
  let disabled := s.dev.allDisabled s.dev.axisList
  if k = K.RUN then !(s.pow.devState = .ready && s.pow.locked)
  else if k = K.STOP then !(s.pow.devState = .operating && disabled)
  else if k = K.STOW then !(s.pow.devState = .ready && s.dev.fw.isNone)
  else if k = K.WAKE then s.pow.devState ≠ .stowed
  else !(s.pow.devState = .safe && !s.dev.incOpen && disabled && s.dev.rd K.SAFE_CAUSE ≠ 3)

/-- Slices and quarters stop (R432): what the slices hold is lost; the codes of every leg start at 8 at the next wake (R433). -/
def Dev.stowUnits (d : Dev) : Dev :=
  let d := { d with axes := [], coils := [] }
  (List.range (16 * d.part.quarters)).foldl (fun d l => d.tailorReset l) d

/-- The transition that a request makes. -/
def State.request (s : State) (k : Nat) : State :=
  if k = K.RUN then (s.onDev fun d => d.safeAll 5 false).changeState .operating
  else if k = K.STOP then (s.onDev fun d => d.safeAll 5 true).changeState .ready
  else if k = K.STOW then (s.onDev Dev.stowUnits).changeState .stowed
  else if k = K.WAKE then (s.onDev fun d => (d.axisList.foldl Dev.sliceStart d).trainSeams none).changeState .ready
  else
    let s := s.onDev fun d =>
      let d := { d with flt := { d.flt with stepSafe := 0 } }.safeAll 4 false
      (d.setBit K.ERR_STATE 2 false).errUpdate
    s.changeState .ready

/-! ## Firmware (R436) -/

/-- FW_GO refused: outside Ready, or the bank is not the host's or Qorush DMA's in state Owned. -/
def State.fwRefused (s : State) : Bool :=
  let b := s.dev.rd K.FW_BANK
  let o := s.dev.rd (K.OWNER b)
  !(s.pow.devState = .ready && (o = ownerHost || o = ownerDma) && s.dev.rd (K.STATE_2810 b) = 0)

/-- FW_GO's effect: the Postmaster takes the bank by handover. -/
def Dev.fwBegin (d : Dev) : Dev :=
  let b := d.rd K.FW_BANK
  { d with fw := some (b, d.rd (K.OWNER b)) }.handTo b ownerPostmaster |>.wr K.FW_GO 1

/-- FW_UPDATE_ENDED (R436): a good image is copied into bank 29 and runs; the bank goes back to its owner. -/
def execFwUpdateEnded (result version : Nat) (s : State) : Host.Outcome State Fault Refusal :=
  .next <|
    match s.dev.fw with
    | none => s
    | some (b, owner) =>
      if ¬ (1 ≤ result ∧ result ≤ 5) ∨ ¬ s.dev.postRuns then s
      else
        let result := if result = 1 ∧ version < s.dev.rd K.FW_FLOOR then 3 else result
        let s := if result = 1 then s.copyBank (s.dev.servedBy b) (s.dev.servedBy 29) else s
        s.onDev fun d =>
          let d := { d with fw := none, fwImage := d.fwImage || result = 1, memu := { d.memu with hands := Tab.del d.memu.hands b } }
          let d := d.wrs [(K.OWNER b, owner), (K.STATE_2810 b, 0), (K.FW_GO, 0), (K.FW_RESULT, result)]
          let d := if result = 1 then d.wr K.FW_ACTIVE (version % 2 ^ 32) else d
          d.event 0x35 0x01D6 0x1100 d.nt (le 1 result ++ le 3 0 ++ le 4 (d.rd K.FW_ACTIVE) ++ le 4 0)

/-! ## Loss of the host and of the ring (R441 to R443) -/

/-- The axes on which the reaction of a loss acts (0 host, 1 ring). -/
def State.reacting (s : State) (kind : Nat) : Nat :=
  let d := s.dev
  if s.pow.devState ≠ .operating ∨ d.rd (if kind = 0 then K.HOST_REACT else K.RING_REACT) = 0 then 0
  else maskOf (d.axisList.filter fun n => d.bit K.LOSS_AXES n && d.axState n ≠ axDisabled)

/-- An event of a loss or its end (Table 16-8). -/
def State.lossEvent (s : State) (kind type cause : Nat) : State :=
  let axes := s.reacting kind
  s.onDev fun d => d.event 0x35 type 0x1100 d.nt
    (le 1 cause ++ le 1 (d.rd (if kind = 0 then K.HOST_REACT else K.RING_REACT)) ++ le 2 axes ++ le 8 d.nt)

/-- A loss detected once per episode: its flag, count, event and reaction, which waits for a halted Postmaster (R442). -/
def State.lose (s : State) (kind cause : Nat) : State :=
  if s.dev.bit K.LOSS_FLAGS kind then s
  else
    let s := (s.onDev fun d => (d.setBit K.LOSS_FLAGS kind true).count K.LOSSES).lossEvent kind (if kind = 0 then 0x01D2 else 0x01D4) cause
    if s.pow.devState ≠ .operating then s
    else if s.dev.post.halted.isSome then s.onDev fun d => { d with post := { d.post with react := d.post.react ++ [kind] } }
    else s.onDev fun d => d.lossReact kind

/-- The condition of a loss has ended. -/
def State.regain (s : State) (kind cause : Nat) : State :=
  if ¬ s.dev.bit K.LOSS_FLAGS kind then s
  else (s.onDev fun d => d.setBit K.LOSS_FLAGS kind false).lossEvent kind (if kind = 0 then 0x01D3 else 0x01D5) cause

/-- A cause of the host loss begins or ends: bit 0 the link, bit 1 the watchdog. -/
def State.hostCause (s : State) (i : Nat) (on : Bool) : State :=
  let causes := withBit s.dev.loss.host i on
  let s := s.onDev fun d => { d with loss := { d.loss with host := causes } }
  if on then s.lose 0 (i + 1) else if causes = 0 then s.regain 0 (i + 1) else s

/-- HOST_LOST (R441): LINK_STATE has left 3 after it has been 3 since wake. -/
def execHostLost (s : State) : Host.Outcome State Fault Refusal :=
  .next (if s.dev.part.full ∧ s.dev.loss.linked ∧ s.dev.rd K.LINK_STATE ≠ 3 ∧ ¬ s.dev.loss.host.testBit 0 then s.hostCause 0 true else s)

/-- HOST_WD (R441): no write of WD_KICK for HOST_WD ms. -/
def execHostWd (s : State) : Host.Outcome State Fault Refusal :=
  .next <|
    let w := s.dev.rd K.HOST_WD
    if w ≠ 0 ∧ s.dev.loss.kick + 1000000 * w ≤ s.dev.now + 7 ∧ ¬ s.dev.loss.host.testBit 1 then s.hostCause 1 true else s

/-- A write of WD_KICK lands. -/
def State.kick (s : State) : State :=
  let s := s.onDev fun d => { d with loss := { d.loss with kick := d.now } }
  if s.dev.loss.host.testBit 1 then s.hostCause 1 false else s

/-- HOST_LINK_UP (R347, R441): the link has trained; a host loss by the link ends. -/
def execHostLinkUp (speed width mps : Nat) (s : State) : Host.Outcome State Fault Refusal :=
  .next <|
    let d := s.dev
    let fits : Bool := 1 ≤ speed && speed ≤ 4 && (width = 1 || width = 2 || width = 4) && (mps = 128 || mps = 256 || mps = 512)
    if ¬ (d.part.full && d.mail.perst && d.ringLive && d.rd K.LINK_STATE ≠ 3) ∨ ¬ fits then s
    else
      let s := s.onDev fun d =>
        { d with loss := { d.loss with linked := true } }.wrs [(K.LINK_STATE, 3), (K.SPEED, speed), (K.WIDTH, width), (K.MPS, mps)]
      if s.dev.loss.host.testBit 0 then s.hostCause 0 false else s

/-- RING_LOST (R441): neither ring port has been up for RING_TO ms, after the device has been listed; or MEMBER has fallen from 2 to 0. -/
def execRingLost (s : State) : Host.Outcome State Fault Refusal :=
  .next <|
    let l := s.dev.loss
    let ports : Bool := match l.portsDown with
      | some t => l.listed && decide (t + 1000000 * s.dev.rd K.RING_TO ≤ s.dev.now + 7)
      | none => false
    if ports then (s.onDev fun d => { d with loss := { d.loss with ring := withBit d.loss.ring 0 true } }).lose 1 1
    else if l.ring.testBit 1 then s.lose 1 2
    else s

/-- RING_RESTORED (R441): a ring port is up, and the address is back where it had been lost. -/
def execRingRestored (s : State) : Host.Outcome State Fault Refusal :=
  .next <|
    let l := s.dev.loss
    if l.portsDown.isNone ∧ ¬ l.ring.testBit 1 then
      (s.onDev fun d => { d with loss := { d.loss with ring := 0 } }).regain 1 (if l.ring.testBit 0 then 1 else 2)
    else s

end Sys2Proof.Machine
end

