-- ==== Sys2Proof/Machine/Thermal.lean ====
section
/-! DEFINITION. Die temperatures (chapter 17, R463) and the boundary-scan chain (R12).
Conventions of the model: PRESUMED: log 11; DEDUCED: log 73. -/

namespace Sys2Proof.Machine

/-! ## Temperatures -/

/-- The dies of the part: the controller and its quarters. -/
def Dev.dies (d : Dev) : Nat := 1 + d.part.quarters

/-- OVER_TEMPERATURE (R463): a die exceeds 140 degC. -/
def execOverTemperature (die : Nat) (temp : Int) (s : State) : Host.Outcome State Fault Refusal :=
  onDev s fun d =>
    if ¬ d.start.up ∨ d.dies ≤ die ∨ temp ≤ 2240 then d else d.dieTemp die temp

/-- OVER_TEMPERATURE_END (R463): every die lies below 130 degC. -/
def execOverTemperatureEnd (temps : List Int) (s : State) : Host.Outcome State Fault Refusal :=
  onDev s fun d =>
    let l := temps.take d.dies
    if l.length < d.dies ∨ ¬ l.all (fun t => t < 2080) ∨ ¬ d.bit (K.SRC_STATUS 0x289) 0 then d
    else
      let d := l.zipIdx.foldl (fun d e => d.dieTemp e.2 e.1) d
      (d.wr K.OT_FLAGS 0).raiseOff 0x289

/-! ## Boundary scan -/

/-- The next state of a test access port (IEEE 1149.1). -/
def TapState.next : TapState → Bool → TapState
  | .reset, tms => if tms then .reset else .idle
  | .idle, tms => if tms then .selectDr else .idle
  | .selectDr, tms => if tms then .selectIr else .captureDr
  | .captureDr, tms => if tms then .exit1Dr else .shiftDr
  | .shiftDr, tms => if tms then .exit1Dr else .shiftDr
  | .exit1Dr, tms => if tms then .updateDr else .pauseDr
  | .pauseDr, tms => if tms then .exit2Dr else .pauseDr
  | .exit2Dr, tms => if tms then .updateDr else .shiftDr
  | .updateDr, tms => if tms then .selectDr else .idle
  | .selectIr, tms => if tms then .reset else .captureIr
  | .captureIr, tms => if tms then .exit1Ir else .shiftIr
  | .shiftIr, tms => if tms then .exit1Ir else .shiftIr
  | .exit1Ir, tms => if tms then .updateIr else .pauseIr
  | .pauseIr, tms => if tms then .exit2Ir else .pauseIr
  | .exit2Ir, tms => if tms then .updateIr else .shiftIr
  | .updateIr, tms => if tms then .selectDr else .idle

/-- The instruction bits of the chain, all ones (BYPASS) in every die. DESIGN CHOICE (log 11): the manual does not say which instruction a
die's port holds after Test-Logic-Reset or TRST_N low; the model loads BYPASS. -/
def Dev.bypassAll (d : Dev) : List Bool := (List.range d.dies).flatMap fun i => List.replicate (Config.irLength i) true

/-- What the chain captures in its instruction registers: the two bits that the standard fixes, lowest 1 and then 0; the others free. -/
def Dev.captureIr (d : Dev) : List Bool :=
  ((List.range d.dies).reverse).flatMap fun i =>
    (List.range (Config.irLength i)).map fun j => if j = 0 then true else if j = 1 then false else (Config.freeByte d.drawn (256 * i + j)).toNat.testBit 0

/-- Every die holds BYPASS. -/
def Dev.allBypass (d : Dev) : Bool := d.tap.ir = d.bypassAll

/-- A chain shifted by one bit toward TDO. -/
def shiftIn (l : List Bool) (tdi : Bool) : List Bool := l.drop 1 ++ [tdi]

/-- The action of the chain's state on a rising edge of TCK. -/
def Dev.tapRise (d : Dev) (tms tdi : Bool) : Dev :=
  let t := d.tap
  let next := t.st.next tms
  let t : TapRt := match t.st with
    | .captureIr => { t with shift := d.captureIr }
    | .shiftIr => { t with shift := shiftIn t.shift tdi }
    | .captureDr => { t with data := List.replicate d.dies false }
    | .shiftDr => { t with data := shiftIn t.data tdi }
    | .reset | .idle | .selectDr | .exit1Dr | .pauseDr | .exit2Dr | .updateDr | .selectIr | .exit1Ir | .pauseIr | .exit2Ir | .updateIr => t
  let d := if t.st = .captureIr then { d with drawn := d.drawn + 1 } else d
  { d with tap := { t with st := next, ir := if next = .reset then d.bypassAll else t.ir } }

/-- On a falling edge: an instruction takes effect, and TDO shows the chain's last bit; with another instruction than BYPASS in a die its
data register is not given, and the bit is free. -/
def Dev.tapFall (d : Dev) : Dev :=
  match d.tap.st with
  | .updateIr => { d with tap := { d.tap with ir := d.tap.shift } }
  | .shiftIr => d.emit (.tdo ((d.tap.shift.head?).getD false))
  | .shiftDr =>
    if d.allBypass then d.emit (.tdo ((d.tap.data.head?).getD false))
    else
      let (v, d) := d.draw 1
      d.emit (.tdo (v = 1))
  | .exit1Dr | .exit1Ir => d.emit .tdoOff
  | .reset | .idle | .selectDr | .captureDr | .pauseDr | .exit2Dr | .updateDr | .selectIr | .captureIr | .pauseIr | .exit2Ir => d

/-- TCK_EDGE (R12): the controller die first, then the quarters in order; TRST_N low resets the ports. DESIGN CHOICE: every die's TAP holds
BYPASS after Test-Logic-Reset or TRST_N low (log 11). -/
def execTckEdge (rising tms tdi trstN : Bool) (s : State) : Host.Outcome State Fault Refusal :=
  onDev s fun d =>
    if ¬ trstN then { d with tap := { st := .reset, tck := rising, ir := d.bypassAll } }
    else if d.tap.tck = rising then d
    else
      let d := if rising then d.tapRise tms tdi else d.tapFall
      { d with tap := { d.tap with tck := rising } }

end Sys2Proof.Machine
end

