-- ==== Sys2Proof/Machine/Returns.lean ====
section
/-! DEFINITION. Field returns and the return envelope (chapter 18).
Conventions of the model: DESIGN CHOICE: log 8; DEDUCED: log 61, 74. -/

namespace Sys2Proof.Machine

/-- Sixteen samples of a measure, oldest first, those not held as a fixed value: from their history, latest first. -/
def sampleRow (size blank : Nat) (l : List (Nat × Int)) : Bytes :=
  let held := (l.take 16).reverse.map fun e => le size (enc (8 * size) e.2)
  (held ++ List.replicate (16 - held.length) (le size blank)).foldr (· ++ ·) []

/-- The history of a measure (row of Table 15-2) of a resource. -/
def Dev.history (d : Dev) (row key : Nat) : List (Nat × Int) := Tab.get [] d.fray.hist (row * 2 ^ 24 + key)

/-- The samples of a bank's worst bit lines, latest first. -/
def Dev.bankHistory (d : Dev) (b : Nat) : List (Nat × Int) :=
  ((d.fray.hist.filter fun e => e.1 / 2 ^ 24 = 5 && e.1 % 2 ^ 24 / 2 ^ 14 = b).flatMap (·.2)).mergeSort fun x y => y.1 ≤ x.1

/-- The fray sections (Table 18-2). -/
def Dev.frayBytes (d : Dev) : Bytes :=
  let rows (size blank : Nat) (l : List (List (Nat × Int))) : Bytes := (l.map (sampleRow size blank)).foldr (· ++ ·) []
  let measure (row : Nat) (keys : List Nat) : List (List (Nat × Int)) := keys.map (d.history row)
  rows 2 0xFFFF ((List.range 18).flatMap fun s => [d.history 0 s, d.history 1 s]) ++
    rows 2 0xFFFF (measure 1 ((List.range 4).map (0x100 + ·))) ++
    rows 1 0x80 (measure 2 (List.range 32)) ++
    rows 2 0xFFFF (measure 4 (List.range 12)) ++
    rows 1 0x80 (measure 3 (List.range 256)) ++
    rows 2 0xFFFF ((List.range 32).map d.bankHistory)

/-- NT of the oldest fray sample held; 0 where none is. -/
def Dev.oldestSample (d : Dev) : Nat :=
  match (d.fray.hist.flatMap (·.2)).map (·.1) with
  | [] => 0
  | t :: l => d.nt - (d.now - l.foldl min t)

/-- The header (Table 18-3). -/
def State.envHeader (s : State) (startNt endNt : Nat) : Bytes :=
  let d := s.dev
  le 4 0x5445525A ++ le 1 1 ++ le 2 (d.rd K.VARIANT) ++ le 1 0 ++ le 8 d.serial ++ le 8 startNt ++ le 8 endNt ++ le 4 (d.rd K.WAKES) ++
    le 1 s.pow.devState.code ++ le 1 (d.rd K.SAFE_CAUSE) ++ le 1 (d.rd K.START_RESULT) ++ le 1 (d.rd K.TSTATE) ++
    le 4 (if s.pow.locked then d.rd K.LOCK_CRC else 0) ++ le 4 (d.rd K.LOG_TOTAL) ++ le 4 (d.rd K.SAMPLES) ++ le 2 (d.rd K.INC_NO) ++ le 2 0 ++
    le 8 d.oldestSample

/-- A free byte string of n bytes (log 8). -/
def Dev.drawBytes (d : Dev) (n : Nat) : Bytes × Dev := ((List.range n).map (Config.freeByte d.drawn), { d with drawn := d.drawn + 1 })

/-- The firmware section: versions, result, and the SHA-384 of an active image, whose extent the manual does not give. -/
def Dev.firmwareBytes (d : Dev) : Bytes × Dev :=
  let head := le 4 (d.rd K.FW_ROM) ++ le 4 (d.rd K.FW_ACTIVE) ++ le 4 (d.rd K.FW_FLOOR) ++ le 1 (d.rd K.FW_RESULT) ++ le 3 0
  if d.fwImage then
    let (h, d) := d.drawBytes 48
    (head ++ h, d)
  else (head ++ le 48 0, d)

/-- The patch store, slots 0 to 63 as stored. -/
def Dev.storeBytes (d : Dev) : Bytes := padTo 1024 ((d.fray.store.map fun e => padTo 16 e.2).foldr (· ++ ·) [])

/-- BUILD's effect (R465): the build begins. -/
def Dev.buildBegin (d : Dev) : Dev := { d with buildNt := d.nt }.wrs [(K.BUILD, 1), (K.ENV_STATE, 1)]

/-- The sections copied and sealed: the envelope, whether a poisoned word of pigeonhole 28 was met, and the state. -/
def State.buildEnvelope (s : State) : Bytes × Bool × State :=
  let d := s.dev
  let log := (List.range 64).foldr (fun i b => le 8 (d.rd (K.ENTRY i)) ++ b) []
  let bad : Bool := d.memu.poison.any fun w => w / 32768 = d.servedBy 28
  let (fray, d) := if bad then d.drawBytes 7296 else (d.frayBytes, d)
  let (fw, d) := d.firmwareBytes
  let (signed, d) := d.drawBytes 96
  let fuses := (List.range 256).map Config.fuseByte
  (s.envHeader d.buildNt d.nt ++ log ++ d.storeBytes ++ fray ++ fuses ++ fw ++ signed, bad, { s with dev := d })

/-- BUILD_COMPLETE (R466, R468): the new envelope replaces the previous one in one step; the payload of event 0x01D8 is not given. -/
def execBuildComplete (s : State) : Host.Outcome State Fault Refusal :=
  .next <|
    if s.dev.rd K.BUILD ≠ 1 ∨ ¬ s.dev.postRuns then s
    else
      let (b, bad, s) := s.buildEnvelope
      let result := if bad then 3 else 2
      s.onDev fun d =>
        let d := { d with env := b }.wrs [(K.BUILD, 0), (K.ENV_STATE, result), (K.BUILD_NT, d.buildNt), (K.ENV_CRC, crc32 b)]
        let (payload, d) := d.drawBytes 12
        (d.count K.BUILDS).event 0x35 0x01D8 0x2F00 d.nt payload

/-- A slot of the envelope (R467): 8 bytes from offset o; bytes beyond its end read 0. -/
def Dev.envSlot (d : Dev) (index sub : Nat) : Nat := ofLe (slice d.env ((index - 0x2F10) * 1024 + (sub - 1) * 8) 8)

end Sys2Proof.Machine
end

