-- ==== Sys2Proof/Machine/Access.lean ====
section
/-! DEFINITION. Reads of the object dictionary (chapter 03): abort codes, the order in which they are judged, live values and path
latches, clearing on read.
Conventions of the model: DEDUCED: log 13, 26, 27, 28, 36. -/

namespace Sys2Proof.Machine

/-! ## Abort codes (Table 3-4) -/

abbrev abNone : Nat := 0x0000
abbrev abNotReady : Nat := 0x0403
abbrev abAbsent : Nat := 0x0101
abbrev abNoObject : Nat := 0x0102
abbrev abSize : Nat := 0x0302
abbrev abReadOnly : Nat := 0x0201
abbrev abWriteOnly : Nat := 0x0202
abbrev abLocked : Nat := 0x0203
abbrev abNotDisabled : Nat := 0x0204
abbrev abReserved : Nat := 0x0303
abbrev abRange : Nat := 0x0301
abbrev abInconsistent : Nat := 0x0304
abbrev abBusy : Nat := 0x0402
abbrev abQueueFull : Nat := 0x0502

/-- An abort recorded on its path (R76, R77): its code and object together, and the count. -/
def Dev.abort (d : Dev) (p : Path) (code key : Nat) : Dev :=
  (d.wrs [(statKey p K.LAST_ABORT, code), (statKey p K.LAST_OBJ, key * 256)]).count (statKey p K.ABORTS)

/-- The unit of an index is powered down in Stowed (R432, Table 16-1): slices, quarters and legs. -/
def stowedIndex (idx : Nat) : Bool :=
  (0x4000 ≤ idx && idx < 0x4C00) || (0x5000 ≤ idx && idx < 0x5100) || (0x5400 ≤ idx && idx < 0x5800)

/-- The first three orders of Table 3-4: the row of a slot, or the code that refuses every access to it. -/
def State.object (s : State) (key : Nat) : Except Nat Dict.Row :=
  let idx := key / 256
  let sub := key % 256
  let loc := Dict.locate idx
  if ¬ s.dev.fab.ready ∨ (s.pow.devState = .stowed ∧ stowedIndex idx) then .error abNotReady
  else if ¬ loc.owner.present s.dev.part ∨ Dict.subAbsent s.dev.part loc.tmpl sub then .error abAbsent
  else match Dict.row idx sub with
    | some r => .ok r
    | none => .error abNoObject

/-- A path on which software reaches the device: BAR0 while the host link is up, the ring unless the device is passive (R373). -/
def State.reachable (s : State) : Path → Bool
  | .bar0 => s.dev.hostUp
  | .ring _ => !s.dev.passive

/-! ## Live values -/

/-- Records in staging for a queue (Table 13-5). -/
def Dev.stagedFor (d : Dev) (j : Nat) : Nat := (d.mail.staging.filter fun r => r.queue = j).length

/-- Q_STATUS (Table 13-5): FULL, WAITING, BLOCKED (R349). -/
def Dev.queueStatus (d : Dev) (j : Nat) : Nat :=
  (decide (d.queueSize j ≤ d.queueFill j)).toNat + 2 * (decide (d.stagedFor j ≠ 0)).toNat + 4 * (!d.mayWrite).toNat

/-- SRC_STATUS (Table 12-4): the stored bits, IN_INCIDENT, and WIN_FILL of a counting source (0 of any other class). -/
def Dev.sourceStatus (d : Dev) (id : Nat) : Nat :=
  let fill := if d.rd (K.CFG id) % 4 = 1 then (d.window id d.nt).length else 0
  withField (withBit (d.rd (K.SRC_STATUS id)) 1 (d.incOpen && d.inMap id)) 15 8 (min fill 255)

/-- The value of a slot now, path latches honoured: what a peek read returns (R73). -/
def State.valueOf (s : State) (p : Path) (key : Nat) : Nat :=
  let d := s.dev
  let idx := key / 256
  let sub := key % 256
  let loc := Dict.locate idx
  let i := loc.inst
  let held {α : Type} (t : Tab α) (f : α → Nat) : Nat := ((Tab.find t p.idx).map f).getD (d.rd key)
  match loc.tmpl, sub with
  | 0x1100, 1 => s.pow.devState.code
  | 0x1110, 2 => s.pow.locked.toNat
  | 0x1200, 1 => d.nt
  | 0x1200, 2 => Tab.get 0 d.fab.ntFrac p.idx
  | 0x1410, 10 => d.queueStatus i
  | 0x1410, 11 => d.stagedFor i
  | 0x1440, 1 => d.mail.staging.length
  | 0x1440, 4 => (decide (stagingSize ≤ d.mail.staging.length)).toNat
  | 0x1450, 3 => d.forwarding.toNat
  | 0x1450, 8 => d.mail.pairs.length
  | 0x2400, 7 => d.sourceStatus i
  | 0x2F10, k + 1 => d.envSlot idx (k + 1)
  | 0x4020, 4 => held (d.mot i).latch (·.1)
  | 0x4020, 5 => held (d.mot i).latch (·.2.1)
  | 0x4020, 6 => held (d.mot i).latch (·.2.2)
  | 0x4801, 2 => ((Tab.find (d.encRt i).latchCnt p.idx).map (·.1)).getD (enc 64 (d.encPosOf i (d.encCnt i)))
  | 0x4801, 4 => held (d.encRt i).latchCnt (·.2)
  | 0x4803, 2 => held (d.encRt i).latchVel (·.1)
  | 0x4803, 3 => held (d.encRt i).latchVel (·.2.1)
  | 0x4803, 5 => held (d.encRt i).latchVel (·.2.2)
  | 0x4805, k + 1 =>
    match Tab.find (d.sw i).latch (p.idx * 4 + k / 4), k % 4 with
    | some x, 1 => x.1
    | some x, 2 => x.2.1
    | some x, 3 => x.2.2
    | _, _ => d.rd key
  | _, _ => d.rd key

/-! ## What a read does (R43, R82, R105, R267, R291, R321) -/

/-- The latches that a normal read of their leading object sets for its path. -/
def Dev.latchGroup (d : Dev) (p : Path) (key : Nat) : Dev :=
  let loc := Dict.locate (key / 256)
  let n := loc.inst
  match loc.tmpl, key % 256 with
  | 0x4020, 3 =>
    d.setMot n { d.mot n with latch := Tab.put (d.mot n).latch p.idx (d.rd (K.CMD_VEL n), d.rd (K.CMD_ACC n), d.rd (K.CMD_NT n)) }
  | 0x4801, 1 =>
    d.setEnc n { d.encRt n with
      latchCnt := Tab.put (d.encRt n).latchCnt p.idx (enc 64 (d.encPosOf n (d.encCnt n)), d.rd (K.ENC_FLAGS n)) }
  | 0x4803, 1 =>
    d.setEnc n { d.encRt n with
      latchVel := Tab.put (d.encRt n).latchVel p.idx (d.rd (K.ENC_CPS n), d.rd (K.SPD_METHOD n), d.rd (K.SPD_NT n)) }
  | 0x4805, k + 1 =>
    if k % 4 ≠ 0 then d
    else
      let x := (d.rd (K.LATCH_CMD n (k / 4)), d.rd (K.LATCH_ENC n (k / 4)), d.rd (K.LATCH_FLAGS n (k / 4)))
      d.setSw n { d.sw n with latch := Tab.put (d.sw n).latch (p.idx * 4 + k / 4) x }
  | _, _ => d

/-- The NT_FRAC latch of a path, set by every read of NT (R43, R73). -/
def Dev.latchFrac (d : Dev) (p : Path) : Dev := { d with fab := { d.fab with ntFrac := Tab.put d.fab.ntFrac p.idx d.ntFrac } }

/-- What a normal read that returned v clears (R82): the bits returned as 1 of an RC bit field (those in the mask), the STEPPED flag of
TFLAGS; an extremum returns to its idle value, any other RC value to its default. -/
def Dev.readClear (d : Dev) (key v mask : Nat) (r : Dict.Row) : Dev :=
  let got := Nat.land v mask
  match (Dict.locate (key / 256)).tmpl, key % 256 with
  | 0x1200, 8 => if got.testBit 2 then d.setBit key 2 false else d
  | 0x4000, 4 => d.wr key (d.rd key - Nat.land (d.rd key) got)
  | 0x4415, 1 => d.wr key (d.rd key - Nat.land (d.rd key) got)
  | 0x1440, 2 => if mask % 65536 = 0 then d else d.wr key d.mail.staging.length
  | 0x3000, 2 => if mask % 65536 = 0 then d else d.wr key (d.rd K.FILL)
  | _, _ => if r.acc = .rc ∧ mask % 2 ^ (8 * r.ty.size) ≠ 0 then d.wr key r.dflt else d

/-- The word of the ring window at WIN_OFS + 8 i (R321). -/
def State.winLoad (s : State) (i : Nat) : Nat × State :=
  let (b, s) := s.bankLoad ownerDma (s.dev.rd K.WIN_BANK) ((s.dev.rd K.WIN_OFS + 8 * i) % bankSize) 8
  (ofLe b, s)

/-- WIN_OFS past the word just served (R321). -/
def Dev.winAdvance (d : Dev) : Dev := d.wr K.WIN_OFS ((d.rd K.WIN_OFS + 8) % bankSize)

/-- One atomic read of a slot by a path: the value, or the code that refuses it; `mask` the bits that the access returns. -/
def State.readSlot (s : State) (p : Path) (peek : Bool) (key mask : Nat) : Except Nat Nat × State :=
  match s.object key with
  | .error e => (.error e, s)
  | .ok r =>
    if r.acc = .wo then (.error abWriteOnly, s)
    else if key = K.WIN_DATA then
      let (v, s) := s.winLoad 0
      (.ok v, if peek then s else s.onDev Dev.winAdvance)
    else if K.WIN_BLOCK 0 ≤ key ∧ key ≤ K.WIN_BLOCK 127 then
      let (v, s) := s.winLoad (key - K.WIN_BLOCK 0)
      (.ok v, s)
    else
      let v := s.valueOf p key % 2 ^ (8 * r.ty.size)
      let s := if key = K.NT then s.onDev fun d => d.latchFrac p else s
      (.ok v, if peek then s else s.onDev fun d => (d.latchGroup p key).readClear key v mask r)

/-! ## Reads through BAR0 (R72 to R77) -/

/-- The bits of a slot that n bytes from byte b on cover. -/
def byteMask (b n : Nat) : Nat := (2 ^ (8 * n) - 1) * 2 ^ (8 * b)

/-- The slot holds an 8-byte object (R75). -/
def State.wide (s : State) (key : Nat) : Bool :=
  match s.object key with
  | .ok r => r.ty.size = 8
  | .error _ => false

/-- An access to another slot empties the read latch (R75). -/
def Dev.dropLatch (d : Dev) (key : Nat) : Dev :=
  match d.fab.readLatch with
  | some (k, _) => if k = key then d else { d with fab := { d.fab with readLatch := none } }
  | none => d

/-- A BAR0 read of n bytes from byte b of one slot that the read latch does not serve (R74 to R76). -/
def State.bar0Plain (s : State) (peek : Bool) (key b n : Nat) (wide : Bool) : Bytes × State :=
  let low := wide && n = 4 && b = 0
  match s.readSlot .bar0 peek key (if low then 2 ^ 64 - 1 else byteMask b n) with
  | (.error e, s) => (List.replicate n (if e = abWriteOnly then 0 else 0xFF), s.onDev fun d => d.abort .bar0 e key)
  | (.ok v, s) =>
    let s := if low ∧ ¬ peek then s.onDev fun d => { d with fab := { d.fab with readLatch := some (key, v / 2 ^ 32) } } else s
    (slice (le 8 v) b n, s)

/-- n bytes from byte b of one slot, read through BAR0: an upper half follows its latch (R75). -/
def State.bar0ReadSlot (s : State) (peek : Bool) (key b n : Nat) : Bytes × State :=
  let s := if peek then s else s.onDev fun d => d.dropLatch key
  let wide := s.wide key
  match s.dev.fab.readLatch with
  | some (k, hi) => if wide ∧ n = 4 ∧ b = 4 ∧ k = key then (le 4 hi, s) else s.bar0Plain peek key b n wide
  | none => s.bar0Plain peek key b n wide

/-- The slots of a TLP in ascending order (R74): key, byte and length of each part; none where its shape fits no access. -/
def tlpParts (ofs len : Nat) : Option (List (Nat × Nat × Nat)) :=
  let key := ofs / 8
  let b := ofs % 8
  if (len = 1 ∨ len = 2 ∨ len = 4 ∨ len = 8) ∧ ofs % len = 0 then some [(key, b, len)]
  else if b = 0 ∧ 8 ≤ len ∧ len ≤ 64 ∧ len % 8 = 0 ∧ key % 256 + len / 8 ≤ 256 then
    some ((List.range (len / 8)).map fun i => (key + i, 0, 8))
  else none

/-- Bytes of BAR0, and where its peek alias begins (R72). -/
abbrev bar0Size : Nat := 0x10000000
abbrev peekBase : Nat := 0x08000000

/-- The code of an access whose shape fits no slot: what refuses the slot itself, else Size mismatch (R71). -/
def State.shapeCode (s : State) (key : Nat) : Nat :=
  match s.object key with
  | .error e => e
  | .ok _ => abSize

/-- BAR0_READ (R74 to R77): the TLP slot by slot, or refused as a whole where its shape fits none. -/
def execBar0Read (ofs len : Nat) (s : State) : Host.Outcome State Fault Refusal :=
  .next <|
    if ¬ s.dev.hostUp ∨ bar0Size < ofs + len then s
    else
      let peek : Bool := peekBase ≤ ofs
      let at_ := ofs % peekBase
      match tlpParts at_ len with
      | none =>
        s.onDev fun d => (d.abort .bar0 (s.shapeCode (at_ / 8)) (at_ / 8)).emit (.completion (List.replicate len 0xFF))
      | some parts =>
        let (b, s) := parts.foldl (fun (acc : Bytes × State) x =>
          let (here, s) := acc.2.bar0ReadSlot peek x.1 x.2.1 x.2.2
          (acc.1 ++ here, s)) ([], s)
        s.onDev fun d => d.emit (.completion b)

/-! ## Reads of one object by a path -/

/-- A whole-object normal read by a path: the value leaves on it; a refused one is recorded, and through BAR0 returns ones (R76). -/
def softRead (p : Path) (key : Nat) (s : State) : Host.Outcome State Fault Refusal :=
  .next <|
    if ¬ s.reachable p then s
    else
      match s.readSlot p false key (2 ^ 64 - 1) with
      | (.ok v, s) => s.onDev fun d => d.emit (.value p key v)
      | (.error e, s) =>
        s.onDev fun d =>
          let d := d.abort p e key
          match p with
          | .bar0 => d.emit (.value p key (2 ^ 64 - 1))
          | .ring _ => d

/-- NT_READ (R43). -/
def execNtRead (path : Path) (s : State) : Host.Outcome State Fault Refusal := softRead path K.NT s

/-- CMD_POS_READ (R105). -/
def execCmdPosRead (path : Path) (n : Nat) (s : State) : Host.Outcome State Fault Refusal := if n < 16 then softRead path (K.CMD_POS n) s else .next s

/-- ENC_CNT_READ (R267, Table 9-3). -/
def execEncCntRead (path : Path) (n : Nat) (s : State) : Host.Outcome State Fault Refusal := if n < 16 then softRead path (K.ENC_CNT n) s else .next s

/-- LATCH_NT_READ (R291): input 0 LIMP, 1 LIMN, 2 HOME. -/
def execLatchNtRead (path : Path) (n input : Nat) (s : State) : Host.Outcome State Fault Refusal :=
  if n < 16 ∧ input < 3 then softRead path (K.LATCH_NT n input) s else .next s

/-- WIN_DATA_READ (R321). -/
def execWinDataRead (path : Path) (s : State) : Host.Outcome State Fault Refusal := softRead path K.WIN_DATA s

end Sys2Proof.Machine
end

