-- ==== Sys2Proof/Machine/Writes.lean ====
section
/-! DEFINITION. Writes of the object dictionary (chapter 03): ranges, relations between objects, W1 requests, what a landed write does.
Conventions of the model: DEDUCED: log 26, 28, 29, 30, 61; DESIGN CHOICE: log 78. -/

namespace Sys2Proof.Machine

/-! ## Scopes and ranges -/

/-- The axes in the scope of an RWS object (R70). -/
def Dev.scopeOf (d : Dev) : Dict.Owner → List Nat
  | .axis n => [n]
  | .leg l => [l / 4]
  | .quarter q => quarterAxes q
  | _ => d.axisList

/-- The shortest window W of a quarter's coils with its present settings is long enough (R47, R50). -/
def Dev.windowOk (d : Dev) (q : Nat) : Bool := decide (250 + d.rd K.GUARD + (d.spos q).getLast?.getD 0 ≤ d.rd (K.PERIOD q))

/-- The used sampling positions rise by at least 13 ticks, and SETTLE and MIN_INT fit the period (R185). -/
def risingBy (gap : Nat) : List Nat → Bool
  | [] => true
  | [_] => true
  | a :: b :: t => decide (a + gap ≤ b) && risingBy gap (b :: t)

def Dev.samplingOk (d : Dev) (q sub : Nat) : Bool :=
  let p := 8 * d.rd (K.PERIOD q)
  let rise := risingBy 13 (d.spos q)
  let settle : Bool := d.rd (K.SETTLE q) * 16 ≤ p
  let minInt : Bool := d.rd (K.MIN_INT q) * 4 ≤ p
  match sub with
  | 1 => rise && settle && minInt
  | 8 => settle
  | 9 => minInt
  | _ => rise

/-- The value lies outside the fixed range of its field map (R68), or is one that the map refuses. -/
def Dev.rangeBad (d : Dev) (tmpl sub : Nat) (r : Dict.Row) (v : Nat) : Bool :=
  let x : Int := if r.ty.signed then sext (8 * r.ty.size) v else v
  let fixed : Bool := (r.ty = .bool && decide (1 < v)) || (decide (r.lo ≤ r.hi) && (decide (x < r.lo) || decide (r.hi < x)))
  let half (h : Nat) : Bool := decide (16383 < (sext 16 h).natAbs)
  fixed ||
    match tmpl, sub with
    | 0x1300, 5 | 0x1300, 6 => 127 < v && v ≠ 255
    | 0x1320, 1 => v = 0x88F7
    | 0x1410, 2 => v % 4096 ≠ 0
    | 0x1410, 4 => v % 8 ≠ 0
    | 0x1420, _ => 7 < v && v ≠ 255
    | 0x1450, 5 => 7 < v && v ≠ 255
    | 0x2400, 1 => v % 4 = 3
    | 0x2880, 2 => v % 8 ≠ 0
    | 0x2900, 3 => (List.range 6).any fun k => field v (2 * k + 1) (2 * k) = 3
    | 0x4030, 2 => !d.hasAxis v
    | 0x4030, 6 => v % 4 = 3
    | 0x4404, k => 4 ≤ k && k ≤ 11 && (half (v % 65536) || half (v / 65536))
    | 0x4C00, 2 => !d.hasAxis v
    | 0x4C00, 7 => v % 4 ≠ 0
    | _, _ => false

/-! ## Relations between objects (Inconsistent, Table 3-4) -/

/-- The gearing chain from axis m through the masters of engaged or engaging axes comes to axis n (R120). -/
def Dev.gearedTo (d : Dev) (n : Nat) : Nat → Nat → Bool
  | 0, _ => false
  | fuel + 1, m =>
    m = n ||
      (d.rd (K.SRC m) = 3 && ((d.mot m).follow.engaged || d.bit (K.CONTROL m) 2 || (d.mot m).follow.armed) &&
        Dev.gearedTo d n fuel (d.rd (K.MASTER m)))

/-- A write of FOLLOW_EN = 1 refused (R120). -/
def Dev.followRefused (d : Dev) (n : Nat) : Bool :=
  let src := d.rd (K.SRC n)
  let m := d.rd (K.MASTER n)
  ((src = 3 || src = 4) && m = n) || (src = 3 && d.gearedTo n 16 m)

/-- An enable of axis n refused (R130, R340, R425): braking toward Disabled, Faulted, an open incident, outside Operating. -/
def State.enableRefused (s : State) (n : Nat) : Bool :=
  s.dev.axState n = axMoving || s.dev.axState n = axFaulted || s.dev.blocksEnable n || s.pow.devState ≠ .operating

/-- A write of CONTROL refused with Inconsistent: its enable, or its FOLLOW_EN. -/
def State.controlRefused (s : State) (n v : Nat) : Bool :=
  let old := s.dev.rd (K.CONTROL n)
  (v.testBit 0 && !old.testBit 0 && s.enableRefused n) || (v.testBit 2 && !old.testBit 2 && s.dev.followRefused n)

/-- PORTC_MODE does not fit ROLE_CFG (Table 14-10). -/
def Dev.portCBad (d : Dev) : Bool :=
  let role := d.rd K.ROLE_CFG
  (d.rd K.PORTC_MODE = 1 && !(role = 1 || role = 3)) || (d.rd K.PORTC_MODE = 4 && role ≠ 2)

/-- CONS would pass PROD or leave more than the queue's size unread (R356). -/
def Dev.consBad (d : Dev) (j v : Nat) : Bool := decide (d.queueSize j < (d.rd (K.PROD j) + 2 ^ 32 - v) % 2 ^ 32)

/-- The current levels of an axis keep their order (R209). -/
def Dev.levelsBad (d : Dev) (n : Nat) : Bool :=
  !(decide (d.rd (K.I_REST n) ≤ d.rd (K.I_RUN n)) && decide (d.rd (K.I_RUN_MIN n) ≤ d.rd (K.I_RUN n)) && decide (d.rd (K.I_RUN n) ≤ d.rd (K.I_MAX n)))

/-- A relation of Table 15-3 broken. -/
def Dev.thresholdsBad (d : Dev) : Bool :=
  decide (d.rd K.SLK_WARN < d.rd K.SLK_PATCH) || decide (d.rd K.RO_WARN < d.rd K.RO_PATCH) || decide (d.rd K.ADC_PATCH < d.rd K.ADC_WARN) ||
    decide (d.rd K.SEG_PATCH < d.rd K.SEG_WARN) || decide (d.rd K.LANE_PATCH < d.rd K.LANE_WARN) || decide (d.rd K.COL_PATCH < d.rd K.COL_WARN)

/-- A write refused with Inconsistent: `d` the units before it, `d'` with the value stored. -/
def State.inconsistent (s : State) (tmpl i sub v : Nat) (d' : Dev) : Bool :=
  let d := s.dev
  match tmpl, sub with
  | 0x1150, 1 => v ≠ 0 && !d.part.full
  | 0x1220, 4 | 0x1220, 5 => decide (d'.rd K.V_MAX < d'.rd K.V_MIN)
  | 0x1300, 1 | 0x1313, 1 => d'.portCBad
  | 0x1330, 4 | 0x1330, 6 => decide (d'.rd K.UNLOCK_TH < d'.rd K.LOCK_TH)
  | 0x1330, 10 => !(d.isRoot && decide (d.rd K.TSTATE ≤ 1))
  | 0x1410, 2 | 0x1410, 4 => d.rd (K.Q_EN i) = 1
  | 0x1410, 3 => d.rd (K.Q_EN i) = 1 || decide (d'.queueSize i < d'.rd (K.MOD_COUNT i))
  | 0x1410, 8 => decide (d'.queueSize i < d'.rd (K.MOD_COUNT i))
  | 0x1410, 5 => d.consBad i v
  | 0x1450, 1 => v = 1 && !d.part.full
  | 0x2030, 1 | 0x2030, 2 | 0x2030, 3 => d.rd K.INJ_GO = 1
  | 0x2908, _ => d'.thresholdsBad
  | 0x3100, 2 | 0x3100, 3 => d.rd (K.USE i) ≠ 0
  | 0x4000, 1 => s.controlRefused i v
  | 0x4030, k => (decide (k ≤ 6) && (d.mot i).follow.engaged) || (k = 1 && d'.rd (K.SRC i) = 1 && decide (8 < d'.rd (K.FILT i)))
  | 0x4800, 3 => d'.rd (K.SRC i) = 1 && decide (8 < d'.rd (K.FILT i))
  | 0x4410, _ => d'.levelsBad i
  | 0x4413, 2 | 0x4413, 3 => decide (d'.rd (K.STR_T1 i) ≤ d'.rd (K.STR_T0 i))
  | 0x4C00, k => 2 ≤ k && k ≤ 7 && d.rd (K.EMU_EN i) = 1
  | 0x5000, k => (k = 1 || (3 ≤ k && k ≤ 9)) && !d'.samplingOk i k
  | 0x5001, 2 | 0x5001, 3 => decide (d'.rd (K.VBUS_OV i) < d'.rd (K.VBUS_UV i) + 100)
  | 0x5400, 7 | 0x5400, 8 => decide (d'.rd (K.T_BSMAX i) * 1000 < d'.rd (K.T_REFRESH i) * 4)
  | _, _ => false

/-- A write refused with Value out of range because a window W would be too short (R50). -/
def windowBad (tmpl i sub : Nat) (d' : Dev) : Bool :=
  match tmpl, sub with
  | 0x1201, 2 => d'.quarterList.any fun q => !d'.windowOk q
  | 0x5000, k => k ≤ 7 && !d'.windowOk i
  | _, _ => false

/-! ## W1 requests (Table 3-3, Table 3-8) -/

/-- INJ_GO refused (R346). -/
def State.injRefused (s : State) : Bool :=
  let d := s.dev
  let i := d.rd K.INJ_INST
  d.rd K.INJ_GO = 1 || s.pow.devState = .safe ||
    match d.rd K.INJ_TARGET with
    | 1 => false
    | 2 | 3 => 32 ≤ i || d.deadBank i
    | 4 => i % 16 / 4 ≠ 0 || 32 ≤ i || !d.hasQuarter (i % 4)
    | 5 => !d.hasPort i
    | _ => true

/-- HOME_START refused (R292). -/
def Dev.homeRefused (d : Dev) (n : Nat) : Bool :=
  !(d.axState n = axHolding || d.axState n = axResting) || d.bit (K.CONTROL n) 1 || (d.mot n).follow.engaged || !d.homeNeeds n

/-- A write of 1 that a rule ignores and counts: LOCK (R90), STEP (Table 2-2), ACCEPT (R309). -/
def State.w1Ignored (s : State) (tmpl i sub : Nat) : Bool :=
  let d := s.dev
  match tmpl, sub with
  | 0x1110, 1 => s.pow.devState ≠ .ready || s.pow.locked
  | 0x1200, 6 => !(d.rd K.TSTATE = 3 && d.bit K.TFLAGS 0)
  | 0x2810, 5 => !d.mayAccept i
  | _, _ => false

/-- The code that refuses a write of 1, before Busy; 0 where none does. -/
def State.w1Code (s : State) (tmpl i sub : Nat) : Nat :=
  let d := s.dev
  let bad : Bool := match tmpl, sub with
    | 0x1100, _ => s.requestRefused (0x1100 * 256 + sub)
    | 0x1140, 4 => s.fwRefused
    | 0x2030, 4 => s.injRefused
    | 0x2810, 4 => d.handRefused i
    | 0x2810, 12 => d.testRefused i (d.rd (K.TEST_MODE i))
    | 0x2902, 4 => d.reqRefused
    | 0x4806, 7 => d.homeRefused i
    | _, _ => false
  if tmpl = 0x2F00 ∧ s.pow.devState = .off then abNotReady
  else if bad then abInconsistent else abNone

/-- The request that a write of 1 starts. -/
def State.w1Start (s : State) (tmpl i sub : Nat) : State :=
  match tmpl, sub with
  | 0x1100, _ => s.request (0x1100 * 256 + sub)
  | 0x1110, 1 => s.onDev fun d => d.wr K.LOCK 1
  | 0x1140, 4 => s.onDev Dev.fwBegin
  | 0x1200, 6 =>
    s.onDev fun d => { d with time := { d.time with step := some (d.rdI 64 K.PENDING_OFS * 65536) } }.wr K.STEP_1200 1
  | 0x1220, 9 => s.onDev Dev.pmbRetry
  | 0x2020, 3 => s.onDev Dev.logClear
  | 0x2030, 4 => s.onDev fun d => { d with flt := { d.flt with injFed := 0 } }.wrs [(K.INJ_GO, 1), (K.INJ_LEFT, d.rd K.INJ_N)]
  | 0x2030, 6 => if s.dev.rd K.INJ_GO = 1 then s.onDev Dev.injEnd else s
  | 0x2810, 4 => s.onDev fun d => d.handBegin i
  | 0x2810, 5 => s.onDev fun d => d.handEnd i 1
  | 0x2810, 12 => s.onDev fun d => d.testBegin i (d.rd (K.TEST_MODE i)) none
  | 0x2902, 4 => s.reqBegin
  | 0x2F00, 1 => s.onDev Dev.buildBegin
  | 0x3000, 9 => s.onDev Dev.cancelTag
  | 0x3100, 4 => s.onDev fun d => d.wr (K.VALIDATE i) 1
  | 0x4806, 7 => s.onDev fun d => d.homeBegin i
  | _, _ => s

/-! ## What a landed write does at once -/

/-- POS_SET (R106, R218): the position register takes the value with zero fraction and r = 0; POS_DOUBT clears. -/
def Dev.posSet (d : Dev) (n v : Nat) : Dev :=
  let m := (d.mot n).setPos (65536 * sext 64 v)
  (d.setMot n { m with path := (d.nt, m.p, 0, m.vOut) :: m.path, lastPos := m.p }).wr (K.POS_DOUBT n) 0

/-- I_FS in uA (R179). -/
def Dev.showIfs (d : Dev) (q : Nat) : Dev := d.wr (K.IFS q) (200000000000 / (d.gain q * d.rd (K.RSHUNT q)))

/-- A change of the follow source (R265, R277): STEPDIR, and POS_VALID at a change to or from step/direction. -/
def Dev.srcWritten (d : Dev) (n old new : Nat) : Dev :=
  let d := d.setBit (K.ENC_FLAGS n) 5 (new = 1)
  if (old = 1) ≠ (new = 1) then d.encInvalid n 5 d.nt else d

/-- Q_EN written (R355). -/
def Dev.queueEnable (d : Dev) (j v : Nat) : Dev :=
  if v = 0 then d else (d.setQueueRt j { d.queueRt j with zeroShadow := true }).wrs [(K.PROD j, 0), (K.CONS j, 0)]

/-- In fixed mode VCORE is V_FIXED (Table 2-6). -/
def Dev.fixedVolts (d : Dev) : Dev := if d.rd K.V_MODE = 1 ∧ d.rd K.V_SET ≠ d.rd K.V_FIXED then d.commandVolts (d.rd K.V_FIXED) else d

/-- A role, port or request that other devices learn of has changed (R386, R390). -/
def Dev.roleWritten (d : Dev) : Dev := { d with ring := { d.ring with reportNow := true, dirty := true } }.retime

/-- A setting object written reaches its quarter die as a setting flit (R10, Table 8-9), over a seam on which the controller sends. -/
def Dev.sendSetting (d : Dev) (key value : Nat) : Dev :=
  match settingAddr key with
  | some (q, a) => if d.sends q then d.emit (.setting q a value) else d
  | none => d

/-- What a write that has landed does at once, beside the stored value; everything else follows R86. -/
def State.landed (s : State) (p : Path) (tmpl i sub old new : Nat) : State :=
  let both (f : Dev → Dev) : State := s.onDev f
  match tmpl, sub with
  | 0x1150, 4 => both fun d => { d with loss := { d.loss with kick := d.now } }
  | 0x1150, 5 => s.kick
  | 0x1200, 4 => both Dev.retime
  | 0x1220, 2 | 0x1220, 3 => both Dev.fixedVolts
  | 0x1220, 4 | 0x1220, 5 => both Dev.showVolts
  | 0x1300, 1 | 0x1300, 5 | 0x1300, 6 | 0x1313, 1 => both Dev.roleWritten
  | 0x1310, 1 | 0x1310, 2 => both fun d => d.portCheck i
  | 0x1330, 10 => both fun d => { d with time := { d.time with tod := some new } }
  | 0x1410, 1 => both fun d => d.queueEnable i new
  | 0x1450, 1 | 0x1450, 2 => both Dev.fwdFill
  | 0x2000, 4 => both Dev.errUpdate
  | 0x2010, 9 => s.ack p new
  | 0x2400, 1 | 0x2400, 2 | 0x2400, 3 => both fun d => { d with flt := { d.flt with windows := Tab.del d.flt.windows i } }
  | 0x3100, 2 | 0x3100, 3 => both fun d => d.wr (K.STATE_3100 i) 0
  | 0x4000, 1 => if old.testBit 2 ∧ ¬ new.testBit 2 then both fun d => d.followOff i else s
  | 0x4020, 7 => both fun d => d.posSet i new
  | 0x4030, 1 => both fun d => d.srcWritten i old new
  | 0x4405, 1 => if new = 1 then both fun d => d.wr (K.CAP_WRAPS i) 0 else s
  | 0x4800, 1 | 0x4800, 3 | 0x4800, 7 | 0x4800, 8 => if old = new then s else both fun d => d.encInvalid i 5 d.nt
  | 0x4800, 5 => both fun d => d.setBit (K.ENC_FLAGS i) 6 false
  | 0x4801, 3 => both fun d => (d.takeZ i).encPreset i 1 (sext 64 new)
  | 0x4804, 1 => both fun d => d.switchState i false
  | 0x4C00, 1 => both fun d => if new = 1 then d.emuOn i else d.emuOff i
  | 0x5000, 10 | 0x5000, 11 => both fun d => d.showIfs i
  | _, _ => s

/-! ## One write -/

/-- A write into the word at WIN_OFS + 8 i: Qorush DMA must own the bank in state Owned; WIN_DATA advances WIN_OFS (R321). -/
def State.winStore (s : State) (i v : Nat) (advance : Bool) : Nat × State :=
  let b := s.dev.rd K.WIN_BANK
  if s.dev.ownerWrites ownerDma b then
    let s := s.bankStore ownerDma b ((s.dev.rd K.WIN_OFS + 8 * i) % bankSize) (le 8 v)
    (abNone, if advance then s.onDev Dev.winAdvance else s)
  else (abInconsistent, s)

/-- The codes of a write from Size mismatch on to Reserved bits (R71). -/
def State.writeCode (s : State) (owner : Dict.Owner) (r : Dict.Row) (v : Nat) (fits : Bool) : Nat :=
  let lockPending := s.pow.locked || s.dev.rd K.LOCK = 1
  if ¬ fits then abSize
  else if r.acc = .ro ∨ r.acc = .rc then abReadOnly
  else if r.acc = .rwl ∧ lockPending then abLocked
  else if r.acc = .rws ∧ ¬ s.dev.allDisabled (s.dev.scopeOf owner) then abNotDisabled
  else if Nat.land v r.rsv ≠ 0 then abReserved
  else abNone

/-- The slot's next value: hardware-owned bits stay, and the QSTOP request of CONTROL stands until it completes (R84). -/
def mergedValue (tmpl sub old v : Nat) (r : Dict.Row) : Nat :=
  let own := Nat.lor (v - Nat.land v r.hw) (Nat.land old r.hw)
  if tmpl = 0x4000 ∧ sub = 1 then withBit own 3 (own.testBit 3 || old.testBit 3) else own

/-- A write of a W1 object (Table 3-8). -/
def State.writeW1 (s : State) (p : Path) (tmpl i sub key v : Nat) : Nat × State :=
  if v = 0 ∨ s.w1Ignored tmpl i sub then (abNone, s.onDev fun d => d.ignored p)
  else
    let code := s.w1Code tmpl i sub
    if code ≠ abNone then (code, s)
    else if s.dev.rd key = 1 then (abBusy, s)
    else (abNone, s.w1Start tmpl i sub)

/-- A value that its row and its relations allow is stored, and acts. -/
def State.store (s : State) (p : Path) (tmpl i sub key v : Nat) (r : Dict.Row) : Nat × State :=
  let old := s.dev.rd key
  let new := mergedValue tmpl sub old v r
  let d' := s.dev.wr key new
  if windowBad tmpl i sub d' then (abRange, s)
  else if s.inconsistent tmpl i sub v d' then (abInconsistent, s)
  else if tmpl = 0x4000 ∧ sub = 1 ∧ v.testBit 3 ∧ old.testBit 3 then (abBusy, s)
  else
    let d' := { d' with fab := { d'.fab with upset := Tab.del d'.fab.upset key } }
    let d' := if Nat.land v r.hw = Nat.land old r.hw then d' else d'.ignored p
    (abNone, ({ s with dev := d' }.landed p tmpl i sub old new).onDev fun d => d.sendSetting key new)

/-- A write of a slot by a path, with its code; `fits`: the access covers the object as R74, R75 and R79 ask. -/
def State.writeSlot (s : State) (p : Path) (key value : Nat) (fits : Bool) : Nat × State :=
  let loc := Dict.locate (key / 256)
  let sub := key % 256
  match s.object key with
  | .error e => (e, s)
  | .ok r =>
    let v := value % 2 ^ (8 * r.ty.size)
    let code := s.writeCode loc.owner r v fits
    if code ≠ abNone then (code, s)
    else if s.dev.rangeBad loc.tmpl sub r v then (abRange, s)
    else if r.acc = .w1 then s.writeW1 p loc.tmpl loc.inst sub key v
    else if key = K.WIN_DATA then s.winStore 0 v true
    else if K.WIN_BLOCK 0 ≤ key ∧ key ≤ K.WIN_BLOCK 127 then s.winStore (key - K.WIN_BLOCK 0) v false
    else s.store p loc.tmpl loc.inst sub key v r

/-- The same, its abort recorded on the path (R76). -/
def State.write (s : State) (p : Path) (key value : Nat) (fits : Bool) : Nat × State :=
  let (code, s) := s.writeSlot p key value fits
  (code, if code = abNone then s else s.onDev fun d => d.abort p code key)

/-! ## Writes through BAR0 (R74, R75) -/

/-- One slot of a BAR0 write: bytes from byte b on. -/
def State.bar0WriteSlot (s : State) (key b : Nat) (data : Bytes) : State :=
  let s := s.onDev fun d => d.dropLatch key
  let buf := s.dev.fab.writeBuf
  let s := s.onDev fun d => { d with fab := { d.fab with writeBuf := none } }
  let n := data.length
  match s.object key with
  | .error _ => (s.write .bar0 key 0 false).2
  | .ok r =>
    if r.ty.size ≤ b then s
    else if r.ty.size = 8 ∧ n = 4 ∧ b = 0 then
      s.onDev fun d => { d with fab := { d.fab with writeBuf := some (key, ofLe data) } }
    else
      match buf, decide (r.ty.size = 8 ∧ n = 4 ∧ b = 4) with
      | some (k, lo), true =>
        if k = key then (s.write .bar0 key (lo + 2 ^ 32 * ofLe data) true).2 else (s.write .bar0 key 0 false).2
      | _, _ => (s.write .bar0 key (ofLe data) (b = 0 && decide (r.ty.size ≤ n))).2

/-- BAR0_WRITE (R74 to R77). -/
def execBar0Write (ofs : Nat) (data : Bytes) (s : State) : Host.Outcome State Fault Refusal :=
  .next <|
    if ¬ s.dev.hostUp ∨ bar0Size < ofs + data.length then s
    else
      let at_ := ofs % peekBase
      match tlpParts at_ data.length with
      | none =>
        s.onDev fun d => { d with fab := { d.fab with writeBuf := none } }.abort .bar0 (s.shapeCode (at_ / 8)) (at_ / 8)
      | some parts =>
        (parts.foldl (fun (acc : State × Bytes) x => (acc.1.bar0WriteSlot x.1 x.2.1 (acc.2.take x.2.2), acc.2.drop x.2.2)) (s, data)).1

end Sys2Proof.Machine
end

