-- ==== Sys2Proof/Machine/Software.lean ====
section
/-! DEFINITION. The commands of software: object writes by a path, object requests of the ring with the reply store (R78 to R81), the
parity scrubber (R89) and the start lock (R90 to R94).
Conventions of the model: DESIGN CHOICE: log 8; DEDUCED: log 10, 25, 28, 31, 32, 77. -/

namespace Sys2Proof.Machine

/-- A whole-object write by a path. -/
def softWrite (p : Path) (key value : Nat) (s : State) : Host.Outcome State Fault Refusal :=
  .next (if s.reachable p then (s.write p key value true).2 else s)

/-- OBJECT_WRITE (R84): key = index * 256 + subindex. -/
def execObjectWrite (path : Path) (key value : Nat) (s : State) : Host.Outcome State Fault Refusal :=
  if key < 0x1000000 then softWrite path key value s else .next s

/-! ## CONTROL (Table 4-3) -/

/-- A write of CONTROL of axis n with one field changed, the others as stored; QSTOP is not written again. -/
def controlWrite (p : Path) (n i : Nat) (on : Bool) (s : State) : Host.Outcome State Fault Refusal :=
  if n < 16 then softWrite p (K.CONTROL n) (withBit (withBit (s.dev.rd (K.CONTROL n)) 3 false) i on) s else .next s

/-- ENABLE (R130). -/
def execEnable (path : Path) (n : Nat) (on : Bool) (s : State) : Host.Outcome State Fault Refusal := controlWrite path n 0 on s

/-- HALT (R116). -/
def execHalt (path : Path) (n : Nat) (on : Bool) (s : State) : Host.Outcome State Fault Refusal := controlWrite path n 1 on s

/-- FOLLOW_EN (R118). -/
def execFollowEn (path : Path) (n : Nat) (on : Bool) (s : State) : Host.Outcome State Fault Refusal := controlWrite path n 2 on s

/-- QSTOP (R117). -/
def execQstop (path : Path) (n : Nat) (s : State) : Host.Outcome State Fault Refusal := controlWrite path n 3 true s

/-! ## Writes of one object -/

/-- POS_SET (R106). -/
def execPosSet (path : Path) (n : Nat) (value : Int) (s : State) : Host.Outcome State Fault Refusal :=
  if n < 16 then softWrite path (K.POS_SET n) (enc 64 value) s else .next s

/-- CANCEL (R152). -/
def execCancel (path : Path) (s : State) : Host.Outcome State Fault Refusal := softWrite path K.CANCEL 1 s

/-- VALIDATE (R158). -/
def execValidate (path : Path) (p : Nat) (s : State) : Host.Outcome State Fault Refusal :=
  if p < 256 then softWrite path (K.VALIDATE p) 1 s else .next s

/-- ENC_PRESET (R266). -/
def execEncPreset (path : Path) (n : Nat) (value : Int) (s : State) : Host.Outcome State Fault Refusal :=
  if n < 16 then softWrite path (K.ENC_PRESET n) (enc 64 value) s else .next s

/-- EMU_EN (R278). -/
def execEmuEn (path : Path) (m : Nat) (on : Bool) (s : State) : Host.Outcome State Fault Refusal :=
  if m < 4 then softWrite path (K.EMU_EN m) on.toNat s else .next s

/-- HOME_START (R292). -/
def execHomeStart (path : Path) (n : Nat) (s : State) : Host.Outcome State Fault Refusal :=
  if n < 16 then softWrite path (K.HOME_START n) 1 s else .next s

/-- HAND (R306). -/
def execHand (path : Path) (b : Nat) (s : State) : Host.Outcome State Fault Refusal :=
  if b < 32 then softWrite path (K.HAND b) 1 s else .next s

/-- ACCEPT (R306). -/
def execAccept (path : Path) (b : Nat) (s : State) : Host.Outcome State Fault Refusal :=
  if b < 32 then softWrite path (K.ACCEPT b) 1 s else .next s

/-- TEST (R314). -/
def execTest (path : Path) (b : Nat) (s : State) : Host.Outcome State Fault Refusal :=
  if b < 32 then softWrite path (K.TEST b) 1 s else .next s

/-- WIN_DATA_WRITE (R321). -/
def execWinDataWrite (path : Path) (value : Nat) (s : State) : Host.Outcome State Fault Refusal := softWrite path K.WIN_DATA value s

/-- ACK (R338). -/
def execAck (path : Path) (value : Nat) (s : State) : Host.Outcome State Fault Refusal := softWrite path K.ACK value s

/-- ERR_SW (R341). -/
def execErrSw (path : Path) (on : Bool) (s : State) : Host.Outcome State Fault Refusal := softWrite path K.ERR_SW on.toNat s

/-- LOG_CLEAR (R342). -/
def execLogClear (path : Path) (s : State) : Host.Outcome State Fault Refusal := softWrite path K.LOG_CLEAR 1 s

/-- INJ_GO (R345). -/
def execInjGo (path : Path) (s : State) : Host.Outcome State Fault Refusal := softWrite path K.INJ_GO 1 s

/-- INJ_STOP (R345). -/
def execInjStop (path : Path) (s : State) : Host.Outcome State Fault Refusal := softWrite path K.INJ_STOP 1 s

/-- Q_EN (R355). -/
def execQEn (path : Path) (j : Nat) (on : Bool) (s : State) : Host.Outcome State Fault Refusal :=
  if j < 8 then softWrite path (K.Q_EN j) on.toNat s else .next s

/-- CONS (R356). -/
def execCons (path : Path) (j value : Nat) (s : State) : Host.Outcome State Fault Refusal :=
  if j < 8 then softWrite path (K.CONS j) value s else .next s

/-- STEP (R41). -/
def execStep (path : Path) (s : State) : Host.Outcome State Fault Refusal := softWrite path K.STEP_1200 1 s

/-- TOD_SEC (R394). -/
def execTodSec (path : Path) (value : Nat) (s : State) : Host.Outcome State Fault Refusal := softWrite path K.TOD_SEC value s

/-- PMB_RETRY (R56). -/
def execPmbRetry (path : Path) (s : State) : Host.Outcome State Fault Refusal := softWrite path K.PMB_RETRY 1 s

/-- REQ_GO (R401). -/
def execReqGo (path : Path) (s : State) : Host.Outcome State Fault Refusal := softWrite path K.REQ_GO 1 s

/-- RUN (R423). -/
def execRun (path : Path) (s : State) : Host.Outcome State Fault Refusal := softWrite path K.RUN 1 s

/-- STOP (R423). -/
def execStop (path : Path) (s : State) : Host.Outcome State Fault Refusal := softWrite path K.STOP 1 s

/-- STOW (R432). -/
def execStow (path : Path) (s : State) : Host.Outcome State Fault Refusal := softWrite path K.STOW 1 s

/-- WAKE (R433). -/
def execWake (path : Path) (s : State) : Host.Outcome State Fault Refusal := softWrite path K.WAKE 1 s

/-- SAFE_EXIT (R435). -/
def execSafeExit (path : Path) (s : State) : Host.Outcome State Fault Refusal := softWrite path K.SAFE_EXIT 1 s

/-- FW_GO (R436). -/
def execFwGo (path : Path) (s : State) : Host.Outcome State Fault Refusal := softWrite path K.FW_GO 1 s

/-- WD_KICK (R441). -/
def execWdKick (path : Path) (value : Nat) (s : State) : Host.Outcome State Fault Refusal := softWrite path K.WD_KICK value s

/-- BUILD (R465). -/
def execBuild (path : Path) (s : State) : Host.Outcome State Fault Refusal := softWrite path K.BUILD 1 s

/-- LOCK (R90). -/
def execLock (path : Path) (s : State) : Host.Outcome State Fault Refusal := softWrite path K.LOCK 1 s

/-! ## Object requests of the ring (R78 to R81) -/

/-- The head of a response (Table 3-7). -/
def responseHead (op : Nat) (r : ObjRequest) (code : Nat) : Bytes :=
  le 1 (op % 128 + 128) ++ le 1 r.size ++ le 2 r.index ++ le 1 r.sub ++ le 1 0 ++ le 2 r.tag ++ le 2 code ++ le 6 0

/-- The slot that a request names. -/
def reqKey (r : ObjRequest) : Nat := r.index % 65536 * 256 + r.sub % 256

/-- A value that the manual does not state: the DATA of a response to a request that was not carried out (log 8). -/
def State.freeData (s : State) : Bytes × State :=
  let (v, d) := s.dev.draw 64
  (le 8 v, { s with dev := d })

/-- A read by the ring (R79): SIZE must be the object's. -/
def State.ringRead (s : State) (r : ObjRequest) (peek : Bool) : Nat × Bytes × State :=
  let p := Path.ring r.src
  let (res, t) : Except Nat Nat × State := match s.object (reqKey r) with
    | .ok row => if row.ringSize ≠ r.size then (.error abSize, s) else s.readSlot p peek (reqKey r) (2 ^ 64 - 1)
    | .error e => (.error e, s)
  match res with
  | .ok v => (abNone, le 8 v, t)
  | .error e =>
    let (b, t) := (t.onDev fun d => d.abort p e (reqKey r)).freeData
    (e, b, t)

/-- A write by the ring: DATA of the response is the value now stored (Table 3-7). -/
def State.ringWrite (s : State) (r : ObjRequest) : Nat × Bytes × State :=
  let p := Path.ring r.src
  match s.object (reqKey r) with
  | .ok row =>
    let (code, t) := s.write p (reqKey r) r.data (row.ringSize = r.size)
    let window : Bool := K.WIN_DATA ≤ (reqKey r) && (reqKey r) ≤ K.WIN_BLOCK 127
    if window ∧ code ≠ abNone then
      let (b, t) := t.freeData
      (code, b, t)
    else (code, le 8 (if window then r.data else t.valueOf p (reqKey r) % 2 ^ (8 * row.ty.size)), t)
  | .error e =>
    let (b, t) := (s.onDev fun d => d.abort p e (reqKey r)).freeData
    (e, b, t)

/-- The slots of a block read from one on, ascending: ABSENT_MAP bits and values (R79). -/
def State.blockSlots (p : Path) (peek : Bool) : Nat → State → Nat → List (Bool × Nat) × State
  | 0, s, _ => ([], s)
  | n + 1, s, key =>
    let (v, s) := s.readSlot p peek key (2 ^ 64 - 1)
    let here : Bool × Nat := match v with
      | .ok v => (false, v)
      | .error _ => (true, 0)
    let (rest, s) := State.blockSlots p peek n s (key + 1)
    (here :: rest, s)

/-- The bits of ABSENT_MAP. -/
def absentMap (l : List Bool) : Nat := ofBits 0 l
where
  ofBits (i : Nat) : List Bool → Nat
    | [] => 0
    | b :: t => b.toNat * 2 ^ i + ofBits (i + 1) t

/-- A block read (R79): refused as a whole only with the code of its first slot, or where its slots pass the index. -/
def State.ringBlock (s : State) (r : ObjRequest) (peek : Bool) : Nat × Bytes × State :=
  let p := Path.ring r.src
  let fits : Bool := 1 ≤ r.size && r.size ≤ 128 && r.sub + r.size ≤ 256
  let code : Nat := match s.object (reqKey r) with
    | .error e => e
    | .ok row => if ¬ fits then abSize else if row.acc = .wo then abWriteOnly else abNone
  if code ≠ abNone then (code, [], s.onDev fun d => d.abort p code (reqKey r))
  else
    let (l, t) := State.blockSlots p peek r.size s (reqKey r)
    (abNone, le 16 (absentMap (l.map (·.1))) ++ l.flatMap fun x => le 8 x.2, t)

/-- A response kept for its source, most recently served first, of 64 sources (R80). -/
def Dev.keepReply (d : Dev) (r : Reply) : Dev :=
  { d with fab := { d.fab with replies := (r :: d.fab.replies.filter fun x => x.src ≠ r.src).take 64 } }

/-- A response sent to its requester (object response, type 3). -/
def Dev.respond (d : Dev) (src : Nat) (body : Bytes) : Dev := d.originate 3 0 src body

/-- When a request that begins now ends (R81): within 2 us, and 20 ns per slot of a block, at FSI >= 3,414 (log 10). -/
def Dev.requestEnds (d : Dev) (slots : Nat) : Nat :=
  let t := Config.ringExecNs d.fab.execCount
  d.now + if 3414 ≤ d.rd K.FSI then min t (2000 + 20 * slots) else t

/-- An object request (R78 to R81): answered from the reply store, refused with Queue full where 32 are in execution and nothing refuses
it before, or executed. -/
def ringRequest (op : Nat) (r : ObjRequest) (slots : Nat) (run : State → Nat × Bytes × State) (s : State) : State :=
  if s.dev.passive ∨ ¬ s.dev.hasPort r.port then s
  else
    match s.dev.fab.replies.find? fun x => x.src = r.src ∧ x.tag = r.tag with
    | some x => s.onDev fun d => ((d.count (statKey (.ring r.src) K.REPLAYED)).keepReply x).respond r.src x.body
    | none =>
      let s := s.onDev fun d => { d with fab := { d.fab with executing := d.fab.executing.filter (d.now < ·) } }
      let (code, data, t) := run s
      if 32 ≤ s.dev.fab.executing.length then
        let full := if code = abNone then abQueueFull else code
        let (b, t) := if op < 4 then s.freeData else ([], s)
        let body := responseHead op r full ++ b
        t.onDev fun d => ((d.abort (.ring r.src) full (reqKey r)).keepReply { src := r.src, tag := r.tag, body := body }).respond r.src body
      else
        let body := responseHead op r code ++ data
        t.onDev fun d =>
          let fab := d.fab
          let d := { d with fab := { fab with executing := fab.executing ++ [d.requestEnds slots], execCount := fab.execCount + 1 } }
          (d.keepReply { src := r.src, tag := r.tag, body := body }).respond r.src body

/-- RING_READ (R79). -/
def execRingRead (req : ObjRequest) (s : State) : Host.Outcome State Fault Refusal :=
  .next (ringRequest 1 req 0 (fun s => s.ringRead req false) s)

/-- RING_PEEK_READ (R79). -/
def execRingPeekRead (req : ObjRequest) (s : State) : Host.Outcome State Fault Refusal :=
  .next (ringRequest 2 req 0 (fun s => s.ringRead req true) s)

/-- RING_WRITE (R79). -/
def execRingWrite (req : ObjRequest) (s : State) : Host.Outcome State Fault Refusal :=
  .next (ringRequest 3 req 0 (fun s => s.ringWrite req) s)

/-- BLOCK_READ (R79). -/
def execBlockRead (req : ObjRequest) (s : State) : Host.Outcome State Fault Refusal :=
  .next (ringRequest 4 req req.size (fun s => s.ringBlock req false) s)

/-- BLOCK_PEEK_READ (R79). -/
def execBlockPeekRead (req : ObjRequest) (s : State) : Host.Outcome State Fault Refusal :=
  .next (ringRequest 5 req req.size (fun s => s.ringBlock req true) s)

/-- The object request of a delivered envelope whose OP is none of Table 3-6: the requests with an OP of the table are commands of their
own. -/
def oddRequest (p : Nat) (h body : Bytes) : Option (Nat × ObjRequest) :=
  if hdrType h = 2 ∧ body.length = 16 ∧ ¬ (1 ≤ hdrByte body 0 ∧ hdrByte body 0 ≤ 5) then
    some (hdrByte body 0, { port := p, src := hdrSrc h, size := hdrByte body 1, index := ofLe (slice body 2 2), sub := hdrByte body 4,
                            tag := ofLe (slice body 6 2), data := ofLe (slice body 8 8) })
  else none

/-- Such a request is answered with Value out of range (Table 3-6). -/
def State.answerOdd (s : State) (p : Nat) (h body : Bytes) : State :=
  match oddRequest p h body with
  | some (op, r) =>
    ringRequest op r 0 (fun s =>
      let (b, t) := (s.onDev fun d => d.abort (.ring r.src) abRange (reqKey r)).freeData
      (abRange, b, t)) s
  | none => s

/-- ENVELOPE_END (R376, R378): a frame's last bit, and the answer to an object request without a known OP (R78). -/
def execEnvelopeEnd (p : Nat) (fcsOk : Bool) (body : Bytes) (s : State) : Host.Outcome State Fault Refusal :=
  let (got, d) := s.dev.envelopeEnd p fcsOk body
  let t := { s with dev := d }
  .next (match got with
    | some h => t.answerOdd p h body
    | none => t)

/-! ## Parity and the start lock (R88 to R94) -/

/-- The indices of the areas of Table 3-1, ascending. -/
def allIndices : List Nat :=
  [(0x1000, 0x600), (0x2000, 0x700), (0x2800, 0x200), (0x2F00, 0x100), (0x3000, 0x200), (0x4000, 0xC40), (0x5000, 0x100), (0x5400, 0x400)].flatMap
    fun a => (List.range a.2).map (a.1 + ·)

/-- The slots of present units whose row has a property, in ascending index:subindex order. -/
def Dev.slotsWhere (d : Dev) (keep : Nat → Dict.Row → Bool) : List Nat :=
  allIndices.flatMap fun idx =>
    let loc := Dict.locate idx
    if loc.owner.present d.part then
      ((Dict.rowsOf loc.tmpl).flatMap fun r => (List.range r.span).map (r.sub + ·)).filterMap fun sub =>
        match Dict.row idx sub with
        | some r => if keep (idx * 256 + sub) r && !Dict.subAbsent d.part loc.tmpl sub then some (idx * 256 + sub) else none
        | none => none
    else []

/-- A slot that carries parity (R88): an RW, RWS or RWL configuration field; not a counter, not the words of the ring window. -/
def parityRow (key : Nat) (r : Dict.Row) : Bool :=
  (r.acc = .rw || r.acc = .rws || r.acc = .rwl) && !r.counter && !(K.WIN_DATA ≤ key && key ≤ K.WIN_BLOCK 127)

/-- An upset of a slot since its write: 0 none, 1 to 64 the stored bit flip - 1, 65 to 72 the parity bit of byte flip - 65. -/
def Dev.upsetSlot (d : Dev) (k flip : Nat) : Dev :=
  let size := match Dict.row (k / 256) (k % 256) with
    | some r => r.ty.size
    | none => 0
  let byte := if flip < 65 then (flip - 1) / 8 else flip - 65
  if flip = 0 ∨ size ≤ byte then d
  else
    let d := if flip < 65 then d.wr k (Nat.xor (d.rd k) (2 ^ (flip - 1))) else d
    let bad := Nat.xor (Tab.get 0 d.fab.upset k) (2 ^ byte)
    { d with fab := { d.fab with upset := if bad = 0 then Tab.del d.fab.upset k else Tab.put d.fab.upset k bad } }

/-- PARITY_SCRUB_CHECK (R89): the next slot, with a bit of it that has flipped since its write; the last one ends the pass. -/
def execParityScrubCheck (flip : Nat) (s : State) : Host.Outcome State Fault Refusal :=
  onDev s fun d =>
    if ¬ d.fab.ready then d
    else
      let l := d.slotsWhere parityRow
      match (l.find? fun k => decide (d.fab.scrubAt < k)) with
      | none => d
      | some k =>
        let d := d.upsetSlot k flip
        let (injected, d) := d.injCheck 1 fun _ => true
        let bad := Tab.get 0 d.fab.upset k
        let d := if Nat.xor bad injected.toNat ≠ 0 then ((d.wr K.PAR_OBJ (k * 256)).count K.PAR_COUNT).raise 0x280 d.nt injected else d
        let last := l.getLast? = some k
        let d := { d with fab := { d.fab with scrubAt := if last then 0 else k } }
        if last then d.wr K.PASS_NT d.nt else d

/-- LOCK_CRC (R94): the CRC-32 of every RWL slot of every present unit, 8 bytes each. -/
def Dev.lockCrc (d : Dev) : Nat :=
  crc32 ((d.slotsWhere fun _ r => r.acc = .rwl).flatMap fun k => le 8 (d.rd k))

/-- LOCK_COMPLETE (R90): the pending request computes LOCK_CRC, sets LOCKED, stores LOCK_NT and completes. -/
def execLockComplete (s : State) : Host.Outcome State Fault Refusal :=
  .next <|
    if s.dev.rd K.LOCK = 1 then
      { s with pow := { s.pow with locked := true },
               dev := s.dev.wrs [(K.LOCK_CRC, s.dev.lockCrc), (K.LOCK_NT, s.dev.nt), (K.LOCK, 0)] }
    else s

end Sys2Proof.Machine
end

