-- ==== Sys2Proof/Machine/Dispatch.lean ====
section
/-! DEFINITION. The dispatch: one arm per command, one direct call of its meaning. -/

namespace Sys2Proof.Machine

/-- The effect of a command on everything but the queue. -/
def exec (i : Instr) (s : State) : Host.Outcome State Fault Refusal :=
  match i with
  | .bar0Read ofs len => Sys2Proof.Machine.execBar0Read ofs len s
  | .bar0Write ofs data => Sys2Proof.Machine.execBar0Write ofs data s
  | .objectWrite path key value => Sys2Proof.Machine.execObjectWrite path key value s
  | .ntRead path => Sys2Proof.Machine.execNtRead path s
  | .cmdPosRead path n => Sys2Proof.Machine.execCmdPosRead path n s
  | .encCntRead path n => Sys2Proof.Machine.execEncCntRead path n s
  | .latchNtRead path n input => Sys2Proof.Machine.execLatchNtRead path n input s
  | .ringRead req => Sys2Proof.Machine.execRingRead req s
  | .ringPeekRead req => Sys2Proof.Machine.execRingPeekRead req s
  | .ringWrite req => Sys2Proof.Machine.execRingWrite req s
  | .blockRead req => Sys2Proof.Machine.execBlockRead req s
  | .blockPeekRead req => Sys2Proof.Machine.execBlockPeekRead req s
  | .parityScrubCheck flip => Sys2Proof.Machine.execParityScrubCheck flip s
  | .lock path => Sys2Proof.Machine.execLock path s
  | .lockComplete => Sys2Proof.Machine.execLockComplete s
  | .lockstepMismatch => Sys2Proof.Machine.execLockstepMismatch s
  | .postmasterRestart => Sys2Proof.Machine.execPostmasterRestart s
  | .postmasterResume => Sys2Proof.Machine.execPostmasterResume s
  | .profileCadence n => Sys2Proof.Machine.execProfileCadence n s
  | .revDwellEnd n => Sys2Proof.Machine.execRevDwellEnd n s
  | .restEnter n => Sys2Proof.Machine.execRestEnter n s
  | .axisWake n => Sys2Proof.Machine.execAxisWake n s
  | .engineJob c => Sys2Proof.Machine.execEngineJob c s
  | .jobComplete c agree => Sys2Proof.Machine.execJobComplete c agree s
  | .periodStart c => Sys2Proof.Machine.execPeriodStart c s
  | .commitCheck c => Sys2Proof.Machine.execCommitCheck c s
  | .edgeApply leg gateLow delay => Sys2Proof.Machine.execEdgeApply leg gateLow delay s
  | .interlockTimeout leg => Sys2Proof.Machine.execInterlockTimeout leg s
  | .softOffHold leg => Sys2Proof.Machine.execSoftOffHold leg s
  | .switchingEvent leg up iPos tm => Sys2Proof.Machine.execSwitchingEvent leg up iPos tm s
  | .bootstrapRefresh leg => Sys2Proof.Machine.execBootstrapRefresh leg s
  | .sampleInstant q ch code => Sys2Proof.Machine.execSampleInstant q ch code s
  | .conversionComplete q ch => Sys2Proof.Machine.execConversionComplete q ch s
  | .vbusSample q v => Sys2Proof.Machine.execVbusSample q v s
  | .ovClampRelease c => Sys2Proof.Machine.execOvClampRelease c s
  | .idPhase n => Sys2Proof.Machine.execIdPhase n s
  | .identificationComplete n => Sys2Proof.Machine.execIdentificationComplete n s
  | .testStepEnd n => Sys2Proof.Machine.execTestStepEnd n s
  | .enable path n on => Sys2Proof.Machine.execEnable path n on s
  | .halt path n on => Sys2Proof.Machine.execHalt path n on s
  | .followEn path n on => Sys2Proof.Machine.execFollowEn path n on s
  | .qstop path n => Sys2Proof.Machine.execQstop path n s
  | .posSet path n value => Sys2Proof.Machine.execPosSet path n value s
  | .stepEdge n rising ts run => Sys2Proof.Machine.execStepEdge n rising ts run s
  | .letterEnvelope port src tArr body => Sys2Proof.Machine.execLetterEnvelope port src tArr body s
  | .letterSubmission ofs body => Sys2Proof.Machine.execLetterSubmission ofs body s
  | .postmasterLetter letter => Sys2Proof.Machine.execPostmasterLetter letter s
  | .letterRelease => Sys2Proof.Machine.execLetterRelease s
  | .allOrNoneDecision => Sys2Proof.Machine.execAllOrNoneDecision s
  | .lateLetter => Sys2Proof.Machine.execLateLetter s
  | .newTarget n => Sys2Proof.Machine.execNewTarget n s
  | .newVelocity n => Sys2Proof.Machine.execNewVelocity n s
  | .newLimits n => Sys2Proof.Machine.execNewLimits n s
  | .startPattern n => Sys2Proof.Machine.execStartPattern n s
  | .switchOutput => Sys2Proof.Machine.execSwitchOutput s
  | .arm n => Sys2Proof.Machine.execArm n s
  | .disarm n => Sys2Proof.Machine.execDisarm n s
  | .followStreamPoint n => Sys2Proof.Machine.execFollowStreamPoint n s
  | .syncPulseEnd => Sys2Proof.Machine.execSyncPulseEnd s
  | .cancel path => Sys2Proof.Machine.execCancel path s
  | .validate path p => Sys2Proof.Machine.execValidate path p s
  | .validationComplete p => Sys2Proof.Machine.execValidationComplete p s
  | .go q lane axes timed g crcOk err => Sys2Proof.Machine.execGo q lane axes timed g crcOk err s
  | .heartbeat q toQuarter lane flit => Sys2Proof.Machine.execHeartbeat q toQuarter lane flit s
  | .heartbeatSend q toQuarter => Sys2Proof.Machine.execHeartbeatSend q toQuarter s
  | .edgeLetter q lane flit => Sys2Proof.Machine.execEdgeLetter q lane flit s
  | .setting q lane addr value crcOk err => Sys2Proof.Machine.execSetting q lane addr value crcOk err s
  | .modeChange q lane change crcOk err => Sys2Proof.Machine.execModeChange q lane change crcOk err s
  | .safeRelease q => Sys2Proof.Machine.execSafeRelease q s
  | .adcSample q lane ch code ts crcOk err => Sys2Proof.Machine.execAdcSample q lane ch code ts crcOk err s
  | .legMeasurements q lane m crcOk err => Sys2Proof.Machine.execLegMeasurements q lane m crcOk err s
  | .protectionReport q lane kind nt crcOk err => Sys2Proof.Machine.execProtectionReport q lane kind nt crcOk err s
  | .refreshReport q lane leg nt crcOk err => Sys2Proof.Machine.execRefreshReport q lane leg nt crcOk err s
  | .settingAcknowledge q lane addr crcOk err => Sys2Proof.Machine.execSettingAcknowledge q lane addr crcOk err s
  | .quarterStatus q lane temp vgl crcOk err => Sys2Proof.Machine.execQuarterStatus q lane temp vgl crcOk err s
  | .laneLost q lane => Sys2Proof.Machine.execLaneLost q lane s
  | .seamTimeout q => Sys2Proof.Machine.execSeamTimeout q s
  | .seamRecovered q => Sys2Proof.Machine.execSeamRecovered q s
  | .vglUndervoltage q v => Sys2Proof.Machine.execVglUndervoltage q v s
  | .vglRestored q v held => Sys2Proof.Machine.execVglRestored q v held s
  | .bootstrapUvlo leg v => Sys2Proof.Machine.execBootstrapUvlo leg v s
  | .lsOnlyCleared leg v held => Sys2Proof.Machine.execLsOnlyCleared leg v held s
  | .vdsTrip leg hs rawHs rawLs boc => Sys2Proof.Machine.execVdsTrip leg hs rawHs rawLs boc s
  | .busCurrentTrip q rawHs rawLs => Sys2Proof.Machine.execBusCurrentTrip q rawHs rawLs s
  | .incidentClose q => Sys2Proof.Machine.execIncidentClose q s
  | .encoderTransition n lineB level ts run => Sys2Proof.Machine.execEncoderTransition n lineB level ts run s
  | .index n level ts run => Sys2Proof.Machine.execIndex n level ts run s
  | .lineFault n line held => Sys2Proof.Machine.execLineFault n line held s
  | .lineRestored n line held => Sys2Proof.Machine.execLineRestored n line held s
  | .encoderTimeout n => Sys2Proof.Machine.execEncoderTimeout n s
  | .encPreset path n value => Sys2Proof.Machine.execEncPreset path n value s
  | .emuEn path m on => Sys2Proof.Machine.execEmuEn path m on s
  | .switchTransition n input level tsFirst tsLast => Sys2Proof.Machine.execSwitchTransition n input level tsFirst tsLast s
  | .latchTimeout n input => Sys2Proof.Machine.execLatchTimeout n input s
  | .homeStart path n => Sys2Proof.Machine.execHomeStart path n s
  | .bankRead unit bank word ecc => Sys2Proof.Machine.execBankRead unit bank word ecc s
  | .bankWrite unit bank ofs data clash => Sys2Proof.Machine.execBankWrite unit bank ofs data clash s
  | .patrolScrub ecc => Sys2Proof.Machine.execPatrolScrub ecc s
  | .hand path b => Sys2Proof.Machine.execHand path b s
  | .transitComplete b => Sys2Proof.Machine.execTransitComplete b s
  | .accept path b => Sys2Proof.Machine.execAccept path b s
  | .unitAccept b => Sys2Proof.Machine.execUnitAccept b s
  | .handTimeout b => Sys2Proof.Machine.execHandTimeout b s
  | .test path b => Sys2Proof.Machine.execTest path b s
  | .testEnd b marks => Sys2Proof.Machine.execTestEnd b marks s
  | .bar2Read ofs len => Sys2Proof.Machine.execBar2Read ofs len s
  | .bar2Write ofs data => Sys2Proof.Machine.execBar2Write ofs data s
  | .winDataRead path => Sys2Proof.Machine.execWinDataRead path s
  | .winDataWrite path value => Sys2Proof.Machine.execWinDataWrite path value s
  | .faultRaise => Sys2Proof.Machine.execFaultRaise s
  | .escalationStep => Sys2Proof.Machine.execEscalationStep s
  | .safeStopTo n => Sys2Proof.Machine.execSafeStopTo n s
  | .ack path value => Sys2Proof.Machine.execAck path value s
  | .errSw path on => Sys2Proof.Machine.execErrSw path on s
  | .errPulseEnd => Sys2Proof.Machine.execErrPulseEnd s
  | .logClear path => Sys2Proof.Machine.execLogClear path s
  | .injGo path => Sys2Proof.Machine.execInjGo path s
  | .injStop path => Sys2Proof.Machine.execInjStop path s
  | .injectionEnded => Sys2Proof.Machine.execInjectionEnded s
  | .mailbagBurst j => Sys2Proof.Machine.execMailbagBurst j s
  | .modTimeExpiry j => Sys2Proof.Machine.execModTimeExpiry j s
  | .qEn path j on => Sys2Proof.Machine.execQEn path j on s
  | .cons path j value => Sys2Proof.Machine.execCons path j value s
  | .hostLinkReset kind => Sys2Proof.Machine.execHostLinkReset kind s
  | .hostLinkUp speed width mps => Sys2Proof.Machine.execHostLinkUp speed width mps s
  | .forwardEnvelopeSend => Sys2Proof.Machine.execForwardEnvelopeSend s
  | .eventForward body => Sys2Proof.Machine.execEventForward body s
  | .portUp p => Sys2Proof.Machine.execPortUp p s
  | .portDown p cause => Sys2Proof.Machine.execPortDown p cause s
  | .envelopeHeader p etype header => Sys2Proof.Machine.execEnvelopeHeader p etype header s
  | .envelopeEnd p fcsOk body => Sys2Proof.Machine.execEnvelopeEnd p fcsOk body s
  | .hello p body => Sys2Proof.Machine.execHello p body s
  | .helloSend => Sys2Proof.Machine.execHelloSend s
  | .report body => Sys2Proof.Machine.execReport body s
  | .reportSend => Sys2Proof.Machine.execReportSend s
  | .mapPublish => Sys2Proof.Machine.execMapPublish s
  | .segmentMap body => Sys2Proof.Machine.execSegmentMap body s
  | .systemMap body => Sys2Proof.Machine.execSystemMap body s
  | .addrHoldExpiry station => Sys2Proof.Machine.execAddrHoldExpiry station s
  | .echoRequest p src data tIn => Sys2Proof.Machine.execEchoRequest p src data tIn s
  | .sync p t1 t2 => Sys2Proof.Machine.execSync p t1 t2 s
  | .syncSend => Sys2Proof.Machine.execSyncSend s
  | .pdelayReq p tIn => Sys2Proof.Machine.execPdelayReq p tIn s
  | .pdelayReqSend p => Sys2Proof.Machine.execPdelayReqSend p s
  | .pdelayResp p t1 t2 t3 t4 => Sys2Proof.Machine.execPdelayResp p t1 t2 t3 t4 s
  | .announce master data => Sys2Proof.Machine.execAnnounce master data s
  | .announceSend => Sys2Proof.Machine.execAnnounceSend s
  | .syncTimeout => Sys2Proof.Machine.execSyncTimeout s
  | .timeSourceFound => Sys2Proof.Machine.execTimeSourceFound s
  | .timeSourceLost => Sys2Proof.Machine.execTimeSourceLost s
  | .trefComparison offset => Sys2Proof.Machine.execTrefComparison offset s
  | .step path => Sys2Proof.Machine.execStep path s
  | .ntStep => Sys2Proof.Machine.execNtStep s
  | .ppsIn ts => Sys2Proof.Machine.execPpsIn ts s
  | .todSec path value => Sys2Proof.Machine.execTodSec path value s
  | .ppsOutRise => Sys2Proof.Machine.execPpsOutRise s
  | .ppsOutFall => Sys2Proof.Machine.execPpsOutFall s
  | .syncIn ts width => Sys2Proof.Machine.execSyncIn ts width s
  | .vcoreLoop fsi => Sys2Proof.Machine.execVcoreLoop fsi s
  | .settled => Sys2Proof.Machine.execSettled s
  | .pmbusTransaction cmd ok data => Sys2Proof.Machine.execPmbusTransaction cmd ok data s
  | .pmbAlert asserted => Sys2Proof.Machine.execPmbAlert asserted s
  | .pmbRetry path => Sys2Proof.Machine.execPmbRetry path s
  | .fraySample m => Sys2Proof.Machine.execFraySample m s
  | .reqGo path => Sys2Proof.Machine.execReqGo path s
  | .patchStart => Sys2Proof.Machine.execPatchStart s
  | .loadingComplete => Sys2Proof.Machine.execLoadingComplete s
  | .takeover => Sys2Proof.Machine.execTakeover s
  | .adcPatchSwitch q => Sys2Proof.Machine.execAdcPatchSwitch q s
  | .segmentPatch leg output gains => Sys2Proof.Machine.execSegmentPatch leg output gains s
  | .lanePatch q => Sys2Proof.Machine.execLanePatch q s
  | .patchRecordWritten => Sys2Proof.Machine.execPatchRecordWritten s
  | .powerOnResetRelease => Sys2Proof.Machine.execPowerOnResetRelease s
  | .supplyLoss => Sys2Proof.Machine.execSupplyLoss s
  | .resetN => Sys2Proof.Machine.execResetN s
  | .startUpStep fail => Sys2Proof.Machine.execStartUpStep fail s
  | .timeSearchEnd tref => Sys2Proof.Machine.execTimeSearchEnd tref s
  | .run path => Sys2Proof.Machine.execRun path s
  | .stop path => Sys2Proof.Machine.execStop path s
  | .stow path => Sys2Proof.Machine.execStow path s
  | .wake path => Sys2Proof.Machine.execWake path s
  | .safeExit path => Sys2Proof.Machine.execSafeExit path s
  | .fwGo path => Sys2Proof.Machine.execFwGo path s
  | .fwUpdateEnded result version => Sys2Proof.Machine.execFwUpdateEnded result version s
  | .hostLost => Sys2Proof.Machine.execHostLost s
  | .hostWd => Sys2Proof.Machine.execHostWd s
  | .wdKick path value => Sys2Proof.Machine.execWdKick path value s
  | .ringLost => Sys2Proof.Machine.execRingLost s
  | .ringRestored => Sys2Proof.Machine.execRingRestored s
  | .overTemperature die temp => Sys2Proof.Machine.execOverTemperature die temp s
  | .overTemperatureEnd temps => Sys2Proof.Machine.execOverTemperatureEnd temps s
  | .build path => Sys2Proof.Machine.execBuild path s
  | .buildComplete => Sys2Proof.Machine.execBuildComplete s
  | .emulationEdge m => Sys2Proof.Machine.execEmulationEdge m s
  | .controllerSeamSilence q => Sys2Proof.Machine.execControllerSeamSilence q s
  | .pcsSynchronisation p fast => Sys2Proof.Machine.execPcsSynchronisation p fast s
  | .autoNegotiationComplete p => Sys2Proof.Machine.execAutoNegotiationComplete p s
  | .lineRateFallback p => Sys2Proof.Machine.execLineRateFallback p s
  | .outputFrameBoundary p => Sys2Proof.Machine.execOutputFrameBoundary p s
  | .pePerstN level => Sys2Proof.Machine.execPePerstN level s
  | .configurationWrite item => Sys2Proof.Machine.execConfigurationWrite item s
  | .bar4Write vector entry => Sys2Proof.Machine.execBar4Write vector entry s
  | .tckEdge rising tms tdi trstN => Sys2Proof.Machine.execTckEdge rising tms tdi trstN s

end Sys2Proof.Machine
end

