-- ==== Sys2Proof/Machine/Tick.lean ====
section
/-! DEFINITION. One tick of 8 ns (R38, R100): what passes when no command is waiting (log 2).
Conventions of the model: DESIGN CHOICE: log 2. -/

namespace Sys2Proof.Machine

/-- The rate multiplier of one axis over one tick (R100). -/
def MotionRt.advance (m : MotionRt) : MotionRt :=
  let s : Int := m.rem + m.vOut * 2 ^ 31
  { m with pos := m.pos + BitVec.ofInt 80 (s / 1000000000), rem := (s % 1000000000).toNat }

/-- One tick: the indices that wait are taken (R269), the physical clock advances, NT by exactly 8 ns (R38), every rate multiplier (R100), and
the steering on its way to its goal (R41). -/
def tick (s : State) : State :=
  s.onDev fun d =>
    let d := d.takeZs
    let d := d.axisList.foldl (fun d n => if (d.mot n).vOut = 0 then d else d.setMot n (d.mot n).advance) d
    { d with ticks := d.ticks + 1, nt := (d.nt + 8) % 2 ^ 64 }.rampRate

end Sys2Proof.Machine
end

