-- ==== Sys2Proof/Safety.lean ====
section
/-! DEFINITION. What counts as a safe state or a clean change, in the terms the statements use. -/

namespace Sys2Proof

open Sys2Proof.Machine

/-- The state that a command answers, where it answers one. -/
def answer (c : Instr) (s : State) : Option State :=
  match exec c s with
  | .next t => some t
  | .fault _ => none
  | .refused _ => none

/-- The command completes: exec answers a next state, of which P holds. -/
def Completes (c : Instr) (s : State) (P : State → Prop) : Prop := ∃ t, exec c s = .next t ∧ P t

/-- The memory holds its canonical form. -/
abbrev MemoryCanonical (s : State) : Prop := memWf s.mem = true

/-- A device in Operating is locked (R423). -/
def OperatingLocked (s : State) : Prop := s.pow.devState = .operating → s.pow.locked = true

/-- A slot that the posting of an event record writes: STAGE_HIGH and DROPPED, and NEXT_SEQ and LOST_TOTAL of a source (R352, R353,
R358). -/
def postingSlot (k : Nat) : Bool :=
  k = K.STAGE_HIGH || k = K.DROPPED_1440 || (List.range 64).any fun src => k = K.NEXT_SEQ src || k = K.LOST_TOTAL src

/-- Between two states the object store changes at most in the slots listed and in those that posting an event record writes. -/
def SlotsKept (s t : State) (keys : List Nat) : Prop := ∀ k, k ∉ keys → postingSlot k = false → t.dev.rd k = s.dev.rd k

/-- A source has a raise on its way to the fault unit with this detection time (R327). -/
def Raised (t : State) (src nt : Nat) : Prop := ∃ r ∈ t.dev.flt.raises, r.src = src ∧ r.nt = nt

/-- All sixteen legs of a quarter are off, with no letters, no turn-on to come and no go set (R240). -/
def QuarterOff (t : State) (q : Nat) : Prop :=
  ∀ l ∈ quarterLegs q, (t.dev.leg l).pos = .off ∧ (t.dev.leg l).turnOn = none ∧ (t.dev.leg l).due = [] ∧ (t.dev.leg l).held = [] ∧
    (t.dev.leg l).goSet = []

/-- The points of pattern p as its bytes hold them: DT, ANGLE, AMP and flags (Table 5-7). -/
def rawPoints (s : State) (p : Nat) : List (Nat × Int × Nat × Nat) :=
  (List.range (s.dev.rd (K.COUNT_3100 p))).map fun i =>
    let b := s.dev.poolBytes s.mem (s.dev.rd (K.FIRST p) + i)
    (ofLe (slice b 0 3), sext 16 (ofLe (slice b 3 2)), ofLe (slice b 5 2), ofLe (slice b 7 1))

/-- The bytes data stand at an address, and every other byte of memory reads as before. -/
def Stored (s t : State) (a : Nat) (data : Bytes) : Prop :=
  (∀ i, i < data.length → memRead t.mem (a + i) = data.getD i 0) ∧
    ∀ x, (x < a ∨ a + data.length ≤ x) → memRead t.mem x = memRead s.mem x

/-- No word holds an uncorrectable error, and no injection feeds a checker. -/
abbrev NoMemoryErrors (s : State) : Prop := s.dev.memu.poison = [] ∧ s.dev.rd K.INJ_GO = 0

/-- Commands that may store in the pigeonholes: writes of a unit, a capture record, clearing, copying and testing of banks (chapter 11). -/
def mayStore : Instr → Bool
  | .bankWrite _ _ _ _ _ | .bar2Write _ _ | .winDataWrite _ _ | .objectWrite _ _ _ | .bar0Write _ _ | .ringWrite _ | .engineJob _
  | .testEnd _ _ | .reqGo _ | .startUpStep _ | .fwUpdateEnded _ _ => true
  | _ => false

/-- The transitions of the device state (Table 16-2). -/
def tableTransitions : List (DevState × DevState) :=
  [(.off, .ready), (.off, .safe), (.ready, .operating), (.operating, .ready), (.ready, .stowed), (.stowed, .ready), (.ready, .safe),
    (.operating, .safe), (.stowed, .safe), (.safe, .ready), (.ready, .off), (.operating, .off), (.stowed, .off), (.safe, .off)]

/-- Software reaches the dictionary by a path: the path is up and the defaults have been loaded. -/
abbrev Reaches (s : State) (p : Path) : Prop := s.reachable p = true ∧ s.dev.fab.ready = true

end Sys2Proof
end

