-- ==== Sys2Proof/Certificates/Slice0/Obligations.lean ====
section
/-! DEFINITION. The statements for the provers. -/

open Sys2Proof Sys2Proof.Machine

/-! ## The queue, and what no command does -/

/-- A step takes the command at the front of the queue and executes it with the queue's rest. -/
def Obligations.StepRunsFrontCommand : Prop :=
  ∀ (c : Instr) (rest : List Instr) (s : State), s.pending = c :: rest → step s = exec c { s with pending := rest }

/-- On an empty queue one tick passes: NT advances by exactly 8 ns (R38), the physical clock by one tick, no byte of memory and no leg
changes; where no index waits to be taken (R269) and RATE has reached its goal (R41), no slot of the dictionary changes. The model's choice
of what an empty queue does: log 2. -/
def Obligations.EmptyQueueStepIsOneTick : Prop :=
  ∀ s : State, s.pending = [] →
    ∃ t, step s = .next t ∧ t.dev.nt = (s.dev.nt + 8) % 2 ^ 64 ∧ t.dev.ntFrac = s.dev.ntFrac ∧ t.dev.ticks = s.dev.ticks + 1 ∧
      t.dev.legs = s.dev.legs ∧ t.pending = [] ∧ t.mem = s.mem ∧ t.pow = s.pow ∧
      ((∀ e ∈ s.dev.axes, e.2.enc.zAt = none) → s.dev.rdI 32 K.RATE = s.dev.time.rateGoal → t.dev.objs = s.dev.objs)

/-- Every command completes in every state, and none touches the queue. What a command does does not depend on the commands that wait behind
it. -/
def Obligations.CommandsCompleteAndIgnoreTheQueue : Prop :=
  (∀ (c : Instr) (s : State), ∃ t, exec c s = .next t ∧ t.pending = s.pending) ∧
  (∀ (c : Instr) (s t : State) (l : List Instr), exec c s = .next t → exec c { s with pending := l } = .next { t with pending := l })

/-- Every step keeps the memory in its canonical form. -/
def Obligations.MemoryStaysCanonical : Prop :=
  ∀ s t : State, MemoryCanonical s → step s = .next t → MemoryCanonical t

/-- The memory after reset has its canonical form, nothing waits, the device is Off and unlocked. The manual gives the memory no contents
before wake: log 5. -/
def Obligations.ResetIsCanonicalAndOff : Prop :=
  MemoryCanonical State.reset ∧ OperatingLocked State.reset ∧ State.reset.pending = [] ∧ State.reset.pow.devState = .off ∧
    State.reset.pow.locked = false ∧ (∀ a, memRead State.reset.mem a = 0) ∧ ∀ l, (State.reset.dev.leg l).pos = .off

/-- Every step keeps a device in Operating locked: it never enters Operating while the start lock is clear (R93). No command clears a start
lock that is set, unless it takes the device to Off (R92). -/
def Obligations.OperatingStaysLocked : Prop :=
  (∀ s t : State, OperatingLocked s → step s = .next t → OperatingLocked t) ∧
  (∀ s t : State, s.pow.locked = false → s.pow.devState ≠ .operating → step s = .next t → t.pow.devState ≠ .operating) ∧
  (∀ (c : Instr) (s t : State), s.pow.locked = true → exec c s = .next t → t.pow.locked = true ∨ t.pow.devState = .off)

/-- The memory changes only by the commands that store in it (chapter 11): every other command leaves every byte as it was. -/
def Obligations.OnlyStoringCommandsChangeTheMemory : Prop :=
  ∀ (c : Instr) (s t : State), mayStore c = false → exec c s = .next t → ∀ a, memRead t.mem a = memRead s.mem a

/-- The device state changes only as Table 16-2 gives (R423), whatever the command. -/
def Obligations.DeviceStateMovesByItsTable : Prop :=
  ∀ (c : Instr) (s t : State), exec c s = .next t → t.pow.devState = s.pow.devState ∨ (s.pow.devState, t.pow.devState) ∈ tableTransitions

/-! ## Legs (R228 to R242) -/

/-- Edges at a leg (R44, R228, R237, R239): an edge that changes a leg between high and low turns the conducting device off at the edge's
instant and the other one on DEAD_TIME later; a change to off has no dead time; a turn-on waits until the other device's gate is below 2.0 V;
in LS_ONLY high becomes off; a turn-on whose instant has come turns the device on, not before the gate allows it; a letter that commits only
leaves the leg. -/
def Obligations.EdgesMoveALegWithItsDeadTime : Prop :=
  ∀ (s : State) (l t st ctrl delay : Nat) (gateLow : Bool) (rest : List (Nat × Nat × Nat)), s.unitsOn = true → s.dev.hasLeg l = true →
    (s.dev.leg l).refresh = none →
    let dead := s.dev.deadTime l
    let stands (p : LegPos) (on : Option (LegPos × Nat)) (u : State) : Prop := (u.dev.leg l).pos = p ∧ (u.dev.leg l).since = t ∧
      (u.dev.leg l).turnOn = on ∧ (u.dev.leg l).due = rest ∧ u.dev.objs = s.dev.objs
    ((s.dev.leg l).turnOn = none → (s.dev.leg l).due = (t, st, ctrl) :: rest → t ≤ s.dev.nowQ + 31 →
      ((s.dev.leg l).pos = .high → st = 2 → Completes (.edgeApply l gateLow delay) s (stands .off (some (.low, t + dead)))) ∧
      ((s.dev.leg l).pos = .low → st = 1 → s.dev.bit (K.LEG_FLAGS l) 1 = false →
        Completes (.edgeApply l gateLow delay) s (stands .off (some (.high, t + dead)))) ∧
      ((s.dev.leg l).pos = .low → st = 1 → s.dev.bit (K.LEG_FLAGS l) 1 = true →
        Completes (.edgeApply l gateLow delay) s (stands .off none)) ∧
      ((s.dev.leg l).pos ≠ .off → st = 0 → Completes (.edgeApply l gateLow delay) s (stands .off none)) ∧
      ((s.dev.leg l).pos = .off → st = 2 →
        Completes (.edgeApply l true delay) s (stands .low none) ∧
        Completes (.edgeApply l false delay) s fun u => (u.dev.leg l).pos = .off ∧ (u.dev.leg l).turnOn = some (.low, t) ∧
          (u.dev.leg l).giveUp = t + dead + 800 ∧ (u.dev.leg l).due = rest ∧ u.dev.objs = s.dev.objs) ∧
      (st = 3 → Completes (.edgeApply l gateLow delay) s fun u => u = s.onDev fun d => d.setLeg l { d.leg l with due := rest })) ∧
    (∀ p : LegPos, (s.dev.leg l).turnOn = some (p, t) → t ≤ s.dev.nowQ + 31 →
      (Completes (.edgeApply l true delay) s fun u => (u.dev.leg l).pos = p ∧ (u.dev.leg l).since = max t s.dev.nowQ ∧
        (u.dev.leg l).turnOn = none ∧ (u.dev.leg l).due = (s.dev.leg l).due ∧ u.dev.objs = s.dev.objs) ∧
      ((s.dev.leg l).due = [] → exec (.edgeApply l false delay) s = .next s))

/-- The end of a turn-on that waits too long, and of a soft turn-off (R228, R229): DEAD_TIME plus 200 ns after the other device's turn-off
the turn-on is abandoned, the leg goes off, leg fault kind 4 is raised; 2 us after a turn-off that no letter made the sinks hold at code 31.
A refresh begins (R241): when the high side has been on for T_BSMAX since its last low interval, it turns off at that instant and the low
side is to turn on DEAD_TIME later; the counter restarts, REFRESHES counts, the franker reports it. -/
def Obligations.TurnOnsAreAbandonedAndRefreshesBegin : Prop :=
  ((∀ (s : State) (l t : Nat) (p : LegPos), s.unitsOn = true → s.dev.hasLeg l = true → (s.dev.leg l).turnOn = some (p, t) →
    (s.dev.leg l).giveUp ≤ s.dev.nowQ + 31 →
    Completes (.interlockTimeout l) s fun u => (u.dev.leg l).pos = .off ∧ (u.dev.leg l).turnOn = none ∧ (u.dev.leg l).due = [] ∧
      u.dev.bit (K.LEG_FLAGS l) 4 = true ∧ u.dev.rd (K.INTERLOCKS l) = (s.dev.rd (K.INTERLOCKS l) + 1) % 2 ^ 32 ∧
      Raised u (0x100 + l) s.dev.nt ∧
      SlotsKept s u [K.LEG_FLAGS l, K.INTERLOCKS l, K.ID_RESULT (l / 4), K.ID_NT (l / 4), K.ID_TIME (l / 4)]) ∧
  (∀ (s : State) (l t : Nat), (s.dev.leg l).softEnd = some t → t ≤ s.dev.nowQ + 31 →
    exec (.softOffHold l) s = .next (s.onDev fun d => d.setLeg l { d.leg l with softEnd := none, hold31 := true }))) ∧
  (∀ (s : State) (l : Nat), s.unitsOn = true → s.dev.hasLeg l = true → (s.dev.leg l).pos = .high → (s.dev.leg l).refresh = none →
    4000 * s.dev.legSetting l (K.T_BSMAX l) ≤ (s.dev.leg l).onTime + (s.dev.nowQ - (s.dev.leg l).since) + 31 →
    Completes (.bootstrapRefresh l) s fun u =>
      let at_ := (s.dev.leg l).since + (4000 * s.dev.legSetting l (K.T_BSMAX l) - (s.dev.leg l).onTime)
      (u.dev.leg l).pos = .off ∧ (u.dev.leg l).since = at_ ∧ (u.dev.leg l).onTime = 0 ∧
      (u.dev.leg l).turnOn = some (.low, at_ + s.dev.deadTime l) ∧ (u.dev.leg l).refresh = some (at_, none) ∧
      u.dev.rd (K.REFRESHES l) = (s.dev.rd (K.REFRESHES l) + 1) % 2 ^ 32 ∧ SlotsKept s u [K.REFRESHES l] ∧
      u.dev.out = s.dev.out ++ [.refresh l (s.dev.nt - (s.dev.nowQ - at_) / 4)])

/-- One adjustment of tailoring (R230, R232, R235): after a switching event the controlling code of Table 8-1 moves by 4 while converging and
by 1 after that, up where the event took longer than T_SW by more than 2 units of 250 ps, down where shorter, within 0 to 31; with TAILOR = 1
the time is measured and no code moves; a transition slower than the dead time plus 500 ns changes nothing. -/
def Obligations.TailoringMovesTheControllingCode : Prop :=
  ∀ (s : State) (l tm : Nat) (up iPos : Bool), s.unitsOn = true → s.dev.hasLeg l = true →
    let c := controllingCode up iPos
    let code := field (s.dev.rd (K.CODES l)) (8 * c + 4) (8 * c)
    let e : Int := (tm : Int) - s.dev.legSetting l (K.T_SW l)
    let big := if s.dev.bit (K.TAIL_FLAGS l) c then 4 else 1
    (tm ≤ s.dev.deadTime l + 2000 → s.dev.legSetting l (K.TAILOR l) ≠ 1 →
      Completes (.switchingEvent l up iPos tm) s fun u =>
        field (u.dev.rd (K.CODES l)) (8 * c + 4) (8 * c) =
          (if 2 < e then min (code + big) 31 else if e < -2 then code - big else code) ∧
        Tab.find (u.dev.leg l).meas c = some (tm, code, up) ∧ SlotsKept s u [K.CODES l, K.TAIL_FLAGS l]) ∧
    (tm ≤ s.dev.deadTime l + 2000 → s.dev.legSetting l (K.TAILOR l) = 1 →
      exec (.switchingEvent l up iPos tm) s =
        .next (s.onDev fun d => d.setLeg l { d.leg l with meas := Tab.put (d.leg l).meas c (tm, code, up) })) ∧
    (s.dev.deadTime l + 2000 < tm → exec (.switchingEvent l up iPos tm) s = .next s)

/-! ## Gate supplies (R238, R239) -/

/-- The gate supply of a quarter (R238): below 8.5 V its flag is set and the quarter is in its safe state, all legs off, with quarter fault
kind 2 active; after 1 ms above 9.0 V the flag and the cause clear, and the safe state holds. The bootstrap supply of a leg (R239): below 7.8 V
outside Disabled the high side turns off, LS_ONLY and the flag of the undervoltage are set, BST_UV_CNT counts and leg fault kind 2 is raised;
after two whole periods above 8.4 V both flags clear at a period boundary of the leg's coil. -/
def Obligations.SupplyMonitorsAct : Prop :=
  (∀ (s : State) (q v : Nat), s.dev.hasQuarter q = true →
    (v < 850 → s.dev.bit (K.Q_FLAGS q) 0 = false → (s.dev.quarter q).causes.testBit 2 = false →
      Completes (.vglUndervoltage q v) s fun u => u.dev.bit (K.Q_FLAGS q) 0 = true ∧ u.dev.isSafe q = true ∧
        (u.dev.quarter q).causes.testBit 2 = true ∧ field (u.dev.rd (K.Q_FLAGS q)) 6 4 = 2 ∧ u.dev.rd (K.VGL q) = v ∧
        u.dev.bit (K.SRC_STATUS (0x142 + 0x10 * q)) 0 = true ∧ (s.dev.isSafe q = false → QuarterOff u q)) ∧
    (∀ held, 900 < v → v < 2 ^ 16 → s.dev.bit (K.Q_FLAGS q) 0 = true →
      (1000000 ≤ held →
        Completes (.vglRestored q v held) s fun u => u.dev.bit (K.Q_FLAGS q) 0 = false ∧ u.dev.isSafe q = s.dev.isSafe q ∧
          (u.dev.quarter q).causes.testBit 2 = false ∧ u.dev.rd (K.VGL q) = v ∧ u.dev.bit (K.SRC_STATUS (0x142 + 0x10 * q)) 0 = false ∧
          u.dev.legs = s.dev.legs ∧ SlotsKept s u [K.VGL q, K.Q_FLAGS q, K.SRC_STATUS (0x142 + 0x10 * q)]) ∧
      (held < 1000000 → exec (.vglRestored q v held) s = .next s))) ∧
  (∀ (s : State) (l v : Nat), s.unitsOn = true → s.dev.hasLeg l = true →
    (v < 780 → s.dev.axState (l / 4) ≠ axDisabled → s.dev.bit (K.LEG_FLAGS l) 1 = false →
      Completes (.bootstrapUvlo l v) s fun u => (u.dev.leg l).pos ≠ .high ∧ u.dev.bit (K.LEG_FLAGS l) 0 = true ∧
        u.dev.bit (K.LEG_FLAGS l) 1 = true ∧ u.dev.rd (K.BST_UV_CNT l) = (s.dev.rd (K.BST_UV_CNT l) + 1) % 2 ^ 32 ∧
        Raised u (0x080 + l) s.dev.nt ∧ SlotsKept s u [K.LEG_FLAGS l, K.BST_UV_CNT l]) ∧
    (∀ held, s.dev.bit (K.LEG_FLAGS l) 1 = true → (s.dev.coil (l / 2)).begun = true → (s.dev.coil (l / 2)).start = s.dev.ticks →
      (840 < v → 2 ≤ held →
        Completes (.lsOnlyCleared l v held) s fun u => u.dev.bit (K.LEG_FLAGS l) 0 = false ∧ u.dev.bit (K.LEG_FLAGS l) 1 = false ∧
          u.dev.leg l = { s.dev.leg l with bst := v } ∧ (∀ m, m ≠ l → u.dev.leg m = s.dev.leg m) ∧ SlotsKept s u [K.LEG_FLAGS l]) ∧
      (held < 2 → exec (.lsOnlyCleared l v held) s = .next s)))

/-! ## Shorts (R247 to R251, R240) -/

/-- A VDS monitor that trips (R247): the four legs of its axis go off and are latched, with their letters discarded; its leg fault is
raised, and the quarter's short incident holds the trip. A bus-current trip outside its blanking (R247): the quarter is in its safe state
with all legs off and latched, and quarter fault kind 3 is raised. -/
def Obligations.TripsTurnLegsOff : Prop :=
  (∀ (s : State) (l rawHs rawLs : Nat) (hs boc : Bool), s.unitsOn = true → s.dev.hasLeg l = true →
    (s.dev.leg l).pos = (if hs then LegPos.high else LegPos.low) →
    (if hs then (s.dev.leg l).blankH else (s.dev.leg l).blankL) ≤ s.dev.nowQ + 31 → s.dev.hasTripped l hs = false →
    Completes (.vdsTrip l hs rawHs rawLs boc) s fun u =>
      (∀ m ∈ axisLegs (l / 4), (u.dev.leg m).pos = .off ∧ (u.dev.leg m).due = [] ∧ (u.dev.leg m).held = [] ∧ (u.dev.leg m).goSet = [] ∧
        (u.dev.leg m).onTime = 0 ∧ u.dev.bit (K.LEG_FLAGS m) 2 = true) ∧
      (∀ m, m / 4 ≠ l / 4 → u.dev.leg m = s.dev.leg m) ∧
      Raised u ((if hs then 0 else 0x040) + l) s.dev.nt ∧
      ∃ i, (u.dev.quarter (l / 16)).incident = some i ∧
        i.trips = (((s.dev.quarter (l / 16)).incident.map (·.trips)).getD 0) + 1 ∧
        (if hs then i.hs else i.ls).testBit (l % 16) = true) ∧
  (∀ (s : State) (q rawHs rawLs : Nat), s.unitsOn = true → s.dev.hasQuarter q = true → (s.dev.quarter q).bocEnd ≤ s.dev.nowQ + 31 →
    Completes (.busCurrentTrip q rawHs rawLs) s fun u => u.dev.isSafe q = true ∧ QuarterOff u q ∧
      (∀ l ∈ quarterLegs q, u.dev.bit (K.LEG_FLAGS l) 2 = true) ∧ Raised u (0x143 + 0x10 * q) s.dev.nt ∧ (∃ i, (u.dev.quarter q).incident = some i ∧ i.boc = true) ∧ ∀ l, l / 16 ≠ q → u.dev.leg l = s.dev.leg l)

/-- The close of a short incident and the release of a safe quarter (R250, R251, R240): 250 ns after the opening trip the incident is
classified and stored and raises quarter fault kind 4; with no cause left and every axis of the quarter Disabled the release ends the safe
state and the latches of its legs. -/
def Obligations.IncidentCloseAndSafeRelease : Prop :=
  (∀ (s : State) (q : Nat) (i : IncidentRt), s.unitsOn = true → s.dev.hasQuarter q = true → (s.dev.quarter q).incident = some i →
    i.openAt + 1000 ≤ s.dev.nowQ + 31 → i.openNt < 2 ^ 64 → i.hs < 2 ^ 16 → i.ls < 2 ^ 16 →
    Completes (.incidentClose q) s fun u => (u.dev.quarter q).incident = none ∧ u.dev.rd (K.INC_NT_5003 q) = i.openNt ∧
      u.dev.rd (K.INC_CLASS q) = (shortClass i.hs i.ls i.boc).1 ∧ u.dev.rd (K.INC_HS q) = i.hs ∧ u.dev.rd (K.INC_LS q) = i.ls ∧
      u.dev.rd (K.INCIDENTS_5002 q) = (s.dev.rd (K.INCIDENTS_5002 q) + 1) % 2 ^ 32 ∧ Raised u (0x144 + 0x10 * q) s.dev.nt) ∧
  (∀ (s : State) (q : Nat), s.dev.hasQuarter q = true → s.dev.isSafe q = true → (s.dev.quarter q).causes = 0 →
    s.dev.allDisabled (quarterAxes q) = true →
    Completes (.safeRelease q) s fun u => u.dev.isSafe q = false ∧ field (u.dev.rd (K.Q_FLAGS q)) 6 4 = 0 ∧
      (∀ l ∈ quarterLegs q, u.dev.bit (K.LEG_FLAGS l) 2 = false ∧ u.dev.bit (K.LEG_FLAGS l) 3 = false) ∧ u.dev.legs = s.dev.legs ∧
      SlotsKept s u (K.Q_FLAGS q :: (quarterLegs q).map K.LEG_FLAGS)) ∧
  (∀ (s : State) (q : Nat), s.dev.isSafe q = true → (s.dev.quarter q).causes ≠ 0 → exec (.safeRelease q) s = .next s)

/-! ## The seams (R39, R45, R253 to R257) -/

/-- A valid heartbeat (R39, R253): at the quarter its SAFE_REQ puts the quarter into its safe state with cause 4; an NT that differs from
the quarter's copy makes it an erroneous flit, and the copy takes the NT of the next valid heartbeat; at the controller its VBUS is stored
with its extrema. A heartbeat is sent on every lane on which its end sends (R253), with the tick of the sender and, from the quarter, VBUS,
to the quarter SAFE_REQ; a controller that has stopped sends nothing (R256). -/
def Obligations.HeartbeatsAreComparedAndSent : Prop :=
  (∀ (s : State) (q lane : Nat) (f : Flit), s.dev.hasQuarter q = true → lane < 3 → s.dev.rd K.INJ_GO = 0 → flitCrcOk f = true →
    flitField f 63 60 = 0 →
    ((s.dev.quarter q).takeNt = false → flitField f 58 21 = s.dev.quarterTick q → flitField f 20 20 = 1 →
      Completes (.heartbeat q true lane f) s fun u => u.dev.isSafe q = true ∧ (u.dev.quarter q).causes.testBit 4 = true ∧
        (s.dev.isSafe q = false → QuarterOff u q) ∧ ((u.dev.quarter q).lane true lane).lastValid = s.dev.now) ∧
    ((s.dev.quarter q).takeNt = false → flitField f 58 21 ≠ s.dev.quarterTick q →
      Completes (.heartbeat q true lane f) s fun u => (u.dev.quarter q).takeNt = true ∧
        u.dev.rd (K.CRC_ERR q) = (s.dev.rd (K.CRC_ERR q) + 1) % 2 ^ 32 ∧ u.dev.legs = s.dev.legs ∧
        SlotsKept s u [K.CRC_ERR q, K.ERR_RX q]) ∧
    ((s.dev.quarter q).takeNt = true →
      Completes (.heartbeat q true lane f) s fun u => (u.dev.quarter q).takeNt = false ∧ u.dev.quarterTick q = flitField f 58 21) ∧
    Completes (.heartbeat q false lane f) s fun u =>
      u.dev.rd (K.VBUS q) = flitField f 20 8 ∧ u.dev.rd (K.VBUS_MAX q) = max (s.dev.rd (K.VBUS_MAX q)) (flitField f 20 8) ∧
      u.dev.rd (K.VBUS_MIN q) = min (s.dev.rd (K.VBUS_MIN q)) (flitField f 20 8) ∧ u.dev.legs = s.dev.legs ∧
      SlotsKept s u [K.VBUS q, K.VBUS_MAX q, K.VBUS_MIN q, K.ERR_RX q]) ∧
  (∀ (s : State) (q : Nat), s.dev.hasQuarter q = true → (s.dev.quarter q).trained = true →
    (Completes (.heartbeatSend q false) s fun u => u.dev.objs = s.dev.objs ∧
      u.dev.out = s.dev.out ++ (s.dev.sendLanes q).map fun i =>
        .flit q false i (heartbeatFlit ((s.dev.quarter q).lane true i).errPending (s.dev.quarterTick q) (s.dev.quarter q).vbus)) ∧
    ((s.dev.quarter q).silent = false →
      Completes (.heartbeatSend q true) s fun u => u.dev.objs = s.dev.objs ∧
        u.dev.out = s.dev.out ++ (s.dev.sendLanes q).map fun i =>
          .flit q true i (heartbeatFlit ((s.dev.quarter q).lane false i).errPending (s.dev.nt / 8)
            ((s.dev.flt.stepSafe.testBit q || s.dev.bit K.ERR_STATE 2).toNat * 2 ^ 12))) ∧
    ((s.dev.quarter q).silent = true → exec (.heartbeatSend q true) s = .next s))

/-- An edge letter at the franker (R45, R170, R240, R249): discarded where its leg is shut; one that arrives later than 20 ns before its
instant is discarded, counted in LATE_EDGES and reported; else it is held for its period, or joins the go set that arrives. -/
def Obligations.EdgeLettersReachTheFranker : Prop :=
  ∀ (s : State) (q lane : Nat) (f : Flit), s.dev.hasQuarter q = true → lane < 3 → s.dev.rd K.INJ_GO = 0 → flitCrcOk f = true →
    flitField f 63 60 = 1 →
    let l := 16 * q + flitField f 58 55
    let e := flitEdge f
    let c := s.dev.coil (l / 2)
    let gen := (s.dev.axis (l / 4)).goGen
    ((s.dev.legShut l = true ∨ c.running = false) →
      Completes (.edgeLetter q lane f) s fun u => u.dev.legs = s.dev.legs ∧ SlotsKept s u [K.ERR_RX q]) ∧
    (s.dev.legShut l = false → c.running = true → e.gen = gen % 4 →
      (s.dev.periodAt (l / 2) (c.tagged e.ptag) + e.offset < s.dev.nowQ + 80 →
        Completes (.edgeLetter q lane f) s fun u => u.dev.legs = s.dev.legs ∧
          u.dev.rd (K.LATE_EDGES q) = (s.dev.rd (K.LATE_EDGES q) + 1) % 2 ^ 32 ∧ Raised u (0x147 + 0x10 * q) s.dev.nt ∧
          u.dev.out = s.dev.out ++ [.report q (.lateEdge (l % 16)) s.dev.nt] ∧ SlotsKept s u [K.ERR_RX q, K.LATE_EDGES q]) ∧
      (s.dev.nowQ + 80 ≤ s.dev.periodAt (l / 2) (c.tagged e.ptag) + e.offset → c.next ≤ c.tagged e.ptag →
        Completes (.edgeLetter q lane f) s fun u => u.dev.leg l = { s.dev.leg l with held := (s.dev.leg l).held ++ [e] } ∧
          (∀ m, m ≠ l → u.dev.leg m = s.dev.leg m) ∧ SlotsKept s u [K.ERR_RX q])) ∧
    (s.dev.legShut l = false → c.running = true → e.gen = (gen + 1) % 4 → e.last = true →
      Completes (.edgeLetter q lane f) s fun u =>
        (u.dev.leg l).goSet = ((s.dev.leg l).goNew.filter fun x => x.ptag = e.ptag) ++ [e] ∧ (u.dev.leg l).goNew = [] ∧
        (u.dev.leg l).held = (s.dev.leg l).held ∧ SlotsKept s u [K.ERR_RX q])

/-- Settings, mode changes and acknowledges over a seam (R86, Table 8-9): the quarter takes a setting and acknowledges it, in effect at once
where no coil that it concerns runs, else from a period boundary on; a leg disabled goes off with nothing held; a lane is put in service or out
of it; an output takes the segment that the entry names. -/
def Obligations.SettingsAndModeChangesLand : Prop :=
  ∀ (s : State) (q lane : Nat) (err : Bool), s.dev.hasQuarter q = true → lane < 3 → s.dev.rd K.INJ_GO = 0 →
    (∀ addr value,
      let key := settingKey q addr
      let l := (key / 256 - 0x5400) / 16
      let waits := (List.range 8).any fun j => settingFor key (8 * q + j) && (s.dev.coil (8 * q + j)).running
      (waits = false → Completes (.setting q lane addr value true err) s fun u => Tab.find (u.dev.quarter q).settings key = some value ∧
        u.dev.out = s.dev.out ++ [.settingAck q addr] ∧ SlotsKept s u [K.ERR_RX q, K.CODES l, K.TAIL_FLAGS l]) ∧
      (waits = true → Completes (.setting q lane addr value true err) s fun u => Tab.find (u.dev.quarter q).settingsNew key = some value ∧
        (u.dev.quarter q).settings = (s.dev.quarter q).settings ∧ u.dev.out = s.dev.out ++ [.settingAck q addr] ∧
        SlotsKept s u [K.ERR_RX q])) ∧
    (∀ addr, Completes (.settingAcknowledge q lane addr true err) s fun u => addr ∈ (u.dev.quarter q).acked ∧ SlotsKept s u [K.ERR_RX q]) ∧
    (∀ leg, Completes (.modeChange q lane (.legEnable leg true) true err) s fun u =>
      u.dev.leg (16 * q + leg) = { s.dev.leg (16 * q + leg) with enabled := true } ∧ SlotsKept s u [K.ERR_RX q]) ∧
    (∀ leg, Completes (.modeChange q lane (.legEnable leg false) true err) s fun u => (u.dev.leg (16 * q + leg)).enabled = false ∧
      (u.dev.leg (16 * q + leg)).pos = .off ∧ (u.dev.leg (16 * q + leg)).held = [] ∧ (u.dev.leg (16 * q + leg)).goSet = [] ∧
      SlotsKept s u [K.ERR_RX q]) ∧
    (∀ i on, i < 3 → Completes (.modeChange q lane (.laneSelect i on) true err) s fun u => u.dev.bit (K.LANES q) i = on ∧
      u.dev.legs = s.dev.legs ∧ SlotsKept s u [K.LANES q, K.ERR_RX q]) ∧
    (∀ leg output spare segment, spare < 4 → segment < 32 →
      Completes (.modeChange q lane (.segmentMap leg output spare segment) true err) s fun u =>
        field (u.dev.rd (K.SEGMAP (16 * q + leg) output)) (8 * spare + 7) (8 * spare) = 0x80 + segment ∧
        SlotsKept s u [K.SEGMAP (16 * q + leg) output, K.ERR_RX q])

/-- Samples, measurements and reports that a quarter sends reach the controller (R26, R236, R243, R253, R463): a sample the coil that its
channel serves, a delay and a switching time their leg's objects, a refresh report the coil, a die temperature above 140 degC its flag. -/
def Obligations.QuarterFlitsReachTheController : Prop :=
  ∀ (s : State) (q lane : Nat) (err : Bool), s.dev.hasQuarter q = true → lane < 3 → s.dev.rd K.INJ_GO = 0 →
    (∀ ch c code ts, s.dev.channelCoil q ch = some c → (s.dev.coil c).running = true →
      Completes (.adcSample q lane ch code ts true err) s fun u =>
        (u.dev.coil c).samples = (s.dev.coil c).samples ++ [(code, s.dev.ntToQ ts)] ∧
        (∀ e, e ≠ c → u.dev.coil e = s.dev.coil e) ∧ SlotsKept s u [K.ERR_RX q]) ∧
    (∀ code ts, s.dev.channelCoil q 8 = none →
      Completes (.adcSample q lane 8 code ts true err) s fun u => u.dev.coils = s.dev.coils ∧ SlotsKept s u [K.ERR_RX q]) ∧
    (∀ m : LegMeasure, m.kind < 4 → m.leg < 16 →
      Completes (.legMeasurements q lane m true err) s fun u =>
        (m.delay ≠ 0 → Tab.find (u.dev.leg (16 * q + m.leg)).known m.kind = some m.delay ∧
          u.dev.bit (K.TAIL_FLAGS (16 * q + m.leg)) (8 + m.kind) = true) ∧
        (∀ v, m.vbst = some v → v < 2 ^ 16 → u.dev.rd (K.VBST (16 * q + m.leg)) = v) ∧
        (m.tsw ≠ 0 → m.tsw < 2 ^ 16 →
          field (u.dev.rd (K.TSW_MEAS (16 * q + m.leg))) (if m.up then 15 else 31) (if m.up then 0 else 16) = m.tsw) ∧
        SlotsKept s u [K.ERR_RX q, K.TSW_MEAS (16 * q + m.leg), K.TAIL_FLAGS (16 * q + m.leg), K.DELAYS (16 * q + m.leg),
          K.VBST (16 * q + m.leg)]) ∧
    (∀ kind nt, Completes (.protectionReport q lane kind nt true err) s fun u => (u.dev.quarter q).reports.head? = some (kind, nt) ∧
      SlotsKept s u [K.ERR_RX q]) ∧
    (∀ leg nt, leg < 16 → Completes (.refreshReport q lane leg nt true err) s fun u =>
      (u.dev.coil ((16 * q + leg) / 2)).refreshes = (s.dev.coil ((16 * q + leg) / 2)).refreshes ++ [(16 * q + leg, s.dev.ntToQ (4 * nt))] ∧
      SlotsKept s u [K.ERR_RX q]) ∧
    (∀ temp vgl, -(2 : Int) ^ 15 ≤ temp → temp < (2 : Int) ^ 15 → vgl < 2 ^ 16 →
      Completes (.quarterStatus q lane temp vgl true err) s fun u => u.dev.rdI 16 (K.TDIE q) = temp ∧ u.dev.rd (K.VGL q) = vgl ∧
        u.dev.rdI 16 K.T_HOT = max (s.dev.rdI 16 K.T_HOT) temp ∧
        (temp ≤ 2240 → SlotsKept s u [K.ERR_RX q, K.TDIE q, K.VGL q, K.T_HOT]) ∧
        (2240 < temp → u.dev.bit K.OT_FLAGS (1 + q) = true ∧
          SlotsKept s u [K.ERR_RX q, K.TDIE q, K.VGL q, K.T_HOT, K.OT_FLAGS, K.SRC_STATUS 0x289]))

/-- A flit whose CRC mismatches is discarded and counted in CRC_ERR of its quarter (R253); one of a reserved type is discarded and counted
in BAD_TYPE. -/
def Obligations.BadFlitsAreDiscardedAndCounted : Prop :=
  ∀ (s : State) (q lane : Nat), s.dev.hasQuarter q = true → lane < 3 → s.dev.rd K.INJ_GO = 0 →
    (∀ (err : Bool) (m : LegMeasure) (c : Instr), s.unitsOn = true →
        c ∈ [Instr.setting q lane 0 0 false err, .modeChange q lane (.laneSelect 0 true) false err, .go q lane 15 true 0 false err,
          .adcSample q lane 0 0 0 false err, .legMeasurements q lane m false err, .protectionReport q lane .clamp 0 false err,
          .refreshReport q lane 0 0 false err, .settingAcknowledge q lane 0 false err, .quarterStatus q lane 0 0 false err] →
      Completes c s fun u => u.dev.rd (K.CRC_ERR q) = (s.dev.rd (K.CRC_ERR q) + 1) % 2 ^ 32 ∧ SlotsKept s u [K.CRC_ERR q] ∧
        u.dev.legs = s.dev.legs ∧ u.dev.coils = s.dev.coils ∧ u.dev.out = s.dev.out) ∧
    (∀ f : Flit, flitCrcOk f = false →
      Completes (.edgeLetter q lane f) s fun u => u.dev.rd (K.CRC_ERR q) = (s.dev.rd (K.CRC_ERR q) + 1) % 2 ^ 32 ∧
        SlotsKept s u [K.CRC_ERR q] ∧ u.dev.legs = s.dev.legs) ∧
    (∀ (f : Flit) (toQ : Bool), flitCrcOk f = true → flitReserved (flitField f 63 60) = true →
      Completes (.heartbeat q toQ lane f) s fun u => u.dev.rd (K.BAD_TYPE q) = (s.dev.rd (K.BAD_TYPE q) + 1) % 2 ^ 32 ∧
        SlotsKept s u [K.BAD_TYPE q, K.ERR_RX q] ∧ u.dev.quarters = s.dev.quarters ∧ u.dev.legs = s.dev.legs)

/-- Lanes lost and seams that fall silent (R255 to R257): a lane without a valid flit for 2 us, or with more than 16 CRC errors in a
millisecond, is lost; a quarter that hears nothing for 2 us is in its safe state with cause 1; a controller that hears nothing stops
sending; after 10 us of valid flits that still flow the cause clears and the safe state holds. -/
def Obligations.LanesAndSeamsTimeOut : Prop :=
  ∀ (s : State) (q : Nat), s.dev.hasQuarter q = true →
    (∀ lane, lane < 3 → (s.dev.quarter q).trained = true → s.dev.bit (K.LANES q) lane = true →
      (((s.dev.quarter q).lane true lane).lastValid + 2000 ≤ s.dev.now + 7 ∨
        ((s.dev.quarter q).lane false lane).lastValid + 2000 ≤ s.dev.now + 7 ∨ 16 < s.dev.laneCrcRate q lane) →
      Completes (.laneLost q lane) s fun u => u.dev.bit (K.LANES q) lane = false ∧ u.dev.bit (K.LANES q) (4 + lane) = true ∧
        Raised u (0x146 + 0x10 * q) s.dev.nt ∧ u.dev.legs = s.dev.legs ∧ SlotsKept s u [K.LANES q]) ∧
    ((s.dev.quarter q).trained = true → s.dev.seamQuiet q true 2000 = true → (s.dev.quarter q).causes.testBit 1 = false →
      Completes (.seamTimeout q) s fun u => u.dev.isSafe q = true ∧ (u.dev.quarter q).causes.testBit 1 = true ∧
        (s.dev.isSafe q = false → QuarterOff u q) ∧ u.dev.rd (K.TIMEOUTS q) = (s.dev.rd (K.TIMEOUTS q) + 1) % 2 ^ 32 ∧
        u.dev.bit (K.SRC_STATUS (0x145 + 0x10 * q)) 0 = true) ∧
    ((s.dev.quarter q).trained = true → s.dev.seamQuiet q false 2000 = true → (s.dev.quarter q).silent = false →
      Completes (.controllerSeamSilence q) s fun u => (u.dev.quarter q).silent = true ∧
        u.dev.bit (K.SRC_STATUS (0x145 + 0x10 * q)) 0 = true ∧ u.dev.legs = s.dev.legs ∧ SlotsKept s u [K.SRC_STATUS (0x145 + 0x10 * q)]) ∧
    (∀ t, (s.dev.quarter q).flowSince = some t → (s.dev.quarter q).causes.testBit 1 = true → t + 10000 ≤ s.dev.now + 7 →
      s.dev.seamQuiet q true 2000 = false →
      Completes (.seamRecovered q) s fun u => (u.dev.quarter q).causes.testBit 1 = false ∧ (u.dev.quarter q).takeNt = true ∧
        u.dev.isSafe q = s.dev.isSafe q ∧ u.dev.bit (K.SRC_STATUS (0x145 + 0x10 * q)) 0 = false ∧ u.dev.legs = s.dev.legs)

/-! ## Periods at the franker (R58, R180, R181, R254) -/

/-- The commit check (R254): 20 ns before a coil's next period the franker must hold both legs' letters up to one with LAST; where it does
not, INCOMPLETE counts and the quarter's fault is raised. A period of a coil starts (R58, R60, R181): the next one starts PERIOD ticks later;
with a complete set, the legs run its letters; without it, where the coil commits and no go set runs, the period is held: the legs repeat
their last pattern; at the end of the second held period in a row the axis fault is raised and the axis enters Faulted. -/
def Obligations.CommitChecksAndPeriodStarts : Prop :=
  (∀ (s : State) (c : Nat), s.unitsOn = true → s.dev.hasCoil c = true → s.dev.commits c = true → (s.dev.coil c).complete = none →
    32 * (s.dev.coil c).nextAt ≤ s.dev.nowQ + 31 + 80 →
    ((∀ l ∈ coilLegs c, s.dev.setHeld l ((s.dev.coil c).next % 16) = true) →
      Completes (.commitCheck c) s fun u => u = s.onDev fun d => d.setCoil c { d.coil c with complete := some true }) ∧
    ((∃ l ∈ coilLegs c, s.dev.setHeld l ((s.dev.coil c).next % 16) = false) → (s.dev.coil c).goFrom = none →
      Completes (.commitCheck c) s fun u => (u.dev.coil c).complete = some false ∧
        u.dev.rd (K.INCOMPLETE (c / 8)) = (s.dev.rd (K.INCOMPLETE (c / 8)) + 1) % 2 ^ 32 ∧
        Raised u (0x147 + 0x10 * (c / 8)) s.dev.nt ∧ u.dev.legs = s.dev.legs ∧ SlotsKept s u [K.INCOMPLETE (c / 8)])) ∧
  (∀ (s : State) (c : Nat), s.unitsOn = true → s.dev.hasCoil c = true → (s.dev.coil c).running = true →
    (s.dev.coil c).nextAt ≤ s.dev.ticks →
    let r := s.dev.coil c
    let tag := r.next % 16
    let second : Prop := r.heldNow = true ∧ 2 ≤ r.lateRun
    Completes (.periodStart c) s fun u =>
      (u.dev.coil c).next = r.next + 1 ∧ (u.dev.coil c).nextAt = r.nextAt + s.dev.rd (K.PERIOD (c / 8)) ∧ (u.dev.coil c).begun = true ∧
      (u.dev.coil c).start = r.nextAt ∧ (u.dev.coil c).complete = none ∧
      (r.complete ≠ some false → (∀ l ∈ coilLegs c, s.dev.setHeld l tag = true ∧ s.dev.legShut l = false) →
        (u.dev.coil c).heldNow = false ∧ (u.dev.coil c).lateRun = 0 ∧ ∀ l ∈ coilLegs c,
          (u.dev.leg l).due = dueFrom (32 * r.nextAt) ((s.dev.leg l).held.filter fun e => e.ptag = tag) ∧
          (u.dev.leg l).held = ((s.dev.leg l).held.filter fun e => e.ptag ≠ tag)) ∧
      (s.dev.commits c = true → r.complete = some false ∨ (∃ l ∈ coilLegs c, s.dev.setHeld l tag = false) → r.goFrom = none →
        (u.dev.coil c).heldNow = true ∧ (¬ second → (u.dev.coil c).lateRun = r.lateRun + 1) ∧
        ∀ l ∈ coilLegs c, (u.dev.leg l).due = dueFrom (32 * r.nextAt) (s.dev.leg l).pattern) ∧
      (second → s.dev.axState (c / 2) ≠ axDisabled → s.dev.axState (c / 2) ≠ axFaulted →
        Raised u (0x181 + 0x10 * (c / 2)) s.dev.nt ∧ (u.dev.axis (c / 2)).faultReq.isSome = true))

/-! ## Feedback, emulation and switch inputs (chapters 09 and 10) -/

/-- Accepted edges count (R123, R261, R263, R264, R266, R279, R280): a level seen on FILT + 1 samples is accepted, one seen on fewer is
nothing; an encoder transition steps ENC_CNT by Table 9-1 with the sign that DIR gives, and one timestamped before the last preset leaves the
preset value; a double transition that is inferred is two counts in the sign of the last one, one that is not leaves the count, makes the
position invalid and raises the decoder fault, and both are counted; without quadrature decoding, or under a line fault of A or B (R272),
nothing counts; a selected STEP edge is kept with its direction; an emulation edge that is
due becomes the count that the balls show, the end of a STEP pulse, or the level of the direction. -/
def Obligations.AcceptedEdgesCount : Prop :=
  (∀ (s : State) (n ts run : Nat) (lineB level : Bool), s.unitsOn = true → s.dev.hasAxis n = true → s.dev.quadrature n = true →
    s.dev.lineAB n = false → s.dev.rd (K.FILT n) < run → (∀ z, (s.dev.encRt n).zAt = some z → ts ≤ z) →
    let x := s.dev.dec n
    let a' := if lineB then x.a else level
    let b' := if lineB then level else x.b
    (((s.dev.encRt n).last.all fun l => l.t ≠ ts || l.lineB == lineB) = true →
      (∀ k, quadStep x.a x.b a' b' = some k → k ≠ 0 →
        Completes (.encoderTransition n lineB level ts run) s fun u =>
          (x.preAt ≤ ts → u.dev.rd (K.ENC_CNT n) = enc 64 (s.dev.encCnt n + if s.dev.bit (K.DEC_CFG n) 0 then -k else k)) ∧
          (ts < x.preAt → u.dev.encCnt n = s.dev.encCnt n) ∧
          (u.dev.dec n).a = a' ∧ (u.dev.dec n).b = b' ∧ u.dev.bit (K.ENC_FLAGS n) 4 = false ∧
          ∀ m, m ≠ n → u.dev.axis m = s.dev.axis m) ∧
      (quadStep x.a x.b a' b' = some 0 →
        Completes (.encoderTransition n lineB level ts run) s fun u =>
          u.dev.objs = s.dev.objs ∧ (u.dev.dec n).a = a' ∧ (u.dev.dec n).b = b')) ∧
    (∀ l, (s.dev.encRt n).last = some l → l.t = ts → l.lineB = !lineB → quadStep l.dec.a l.dec.b a' b' = none → l.dec.preAt ≤ ts →
      (s.dev.bit (K.DEC_CFG n) 1 = false ∨ l.dec.seen = false ∨ rabs (s.dev.rdI 32 (K.ENC_CPS n)) < s.dev.rMax n / 2 →
        Completes (.encoderTransition n lineB level ts run) s fun u => u.dev.rd (K.ENC_CNT n) = enc 64 l.cnt ∧
          u.dev.rd (K.DOUBLE_CNT n) = (s.dev.rd (K.DOUBLE_CNT n) + 1) % 2 ^ 32 ∧ u.dev.posValid n = false ∧
          Raised u (0x186 + 0x10 * n) s.dev.nt) ∧
      (s.dev.bit (K.DEC_CFG n) 1 = true → l.dec.seen = true → s.dev.rMax n / 2 ≤ rabs (s.dev.rdI 32 (K.ENC_CPS n)) →
        Completes (.encoderTransition n lineB level ts run) s fun u => u.dev.rd (K.ENC_CNT n) = enc 64 (l.cnt + 2 * l.dec.sign) ∧
          u.dev.rd (K.DOUBLE_CNT n) = (s.dev.rd (K.DOUBLE_CNT n) + 1) % 2 ^ 32 ∧
          u.dev.rd (K.INFERRED n) = (s.dev.rd (K.INFERRED n) + 1) % 2 ^ 32 ∧ u.dev.posValid n = s.dev.posValid n))) ∧
  (∀ (s : State) (n ts run : Nat) (lineB level : Bool), run ≤ s.dev.rd (K.FILT n) →
    exec (.encoderTransition n lineB level ts run) s = .next s ∧ exec (.stepEdge n level ts run) s = .next s ∧
      exec (.index n level ts run) s = .next s) ∧
  (∀ (s : State) (n ts run : Nat) (rising : Bool), s.unitsOn = true → s.dev.hasAxis n = true → s.dev.rd (K.SRC n) = 1 →
    s.dev.rd (K.IN_MODE n) ≠ 0 → s.dev.rd (K.FILT n) < run →
    let chosen : Prop := s.dev.rd (K.STEP_CFG n) % 4 = 2 ∨ s.dev.rd (K.STEP_CFG n) % 4 = (if rising then 0 else 1)
    (chosen → s.dev.lineAB n = false →
      Completes (.stepEdge n rising ts run) s fun u => (u.dev.dec n).a = rising ∧
        (u.dev.mot n).follow.steps =
          (ts, if (s.dev.dec n).b = (s.dev.rd (K.STEP_CFG n)).testBit 2 then 1 else -1) :: (s.dev.mot n).follow.steps ∧
        u.dev.objs = s.dev.objs) ∧
    (¬ chosen ∨ s.dev.lineAB n = true →
      Completes (.stepEdge n rising ts run) s fun u => u = s.onDev fun d => d.setDec n { d.dec n with a := rising })) ∧
  (∀ (s : State) (m t what : Nat) (x : Int) (rest : List (Nat × Nat × Int)), s.pow.devState ≠ .off → s.dev.hasEmu m = true →
    (s.dev.emuRt m).edges = (t, what, x) :: rest → t ≤ s.dev.nowQ + 31 →
    Completes (.emulationEdge m) s fun u => (u.dev.emuRt m).edges = rest ∧ u.dev.objs = s.dev.objs ∧
      (what = 0 → (u.dev.emuRt m).shown = x ∧
        (s.dev.emuStep m = false → (u.dev.emuRt m).ema = (x % 4 = 1 || x % 4 = 2) ∧ (u.dev.emuRt m).emb = (x % 4 = 2 || x % 4 = 3)) ∧
        (s.dev.emuStep m = true → (u.dev.emuRt m).ema = true)) ∧
      (what = 1 → (u.dev.emuRt m).shown = (s.dev.emuRt m).shown ∧ (u.dev.emuRt m).ema = false) ∧
      (2 ≤ what → (u.dev.emuRt m).shown = (s.dev.emuRt m).shown ∧ (u.dev.emuRt m).emb = decide (x ≠ 0))) ∧
  (∀ (s : State) (n ts run : Nat) (lineB level : Bool), s.unitsOn = true → s.dev.hasAxis n = true →
    (s.dev.quadrature n = false ∨ s.dev.lineAB n = true) → s.dev.rd (K.FILT n) < run → (∀ z, (s.dev.encRt n).zAt = some z → ts ≤ z) →
    ((s.dev.encRt n).last.all fun l => l.t ≠ ts || l.lineB == lineB) = true →
    Completes (.encoderTransition n lineB level ts run) s fun u => u.dev.objs = s.dev.objs ∧
      (u.dev.dec n).a = (if lineB then (s.dev.dec n).a else level) ∧ (u.dev.dec n).b = (if lineB then level else (s.dev.dec n).b))

/-- The index, the line checks and the encoder timeout (R269, R270, R272, R273): an index, a transition of Z to its active level, waits for
the transitions of A and B of its timestamp; taken at the end of the tick, it stores count, time and span, and, while the position is invalid
with a phase known, moves the count to the nearest one of that phase; a line fault of A or B that has stood for 1 us and the encoder timeout set
their flag, make the position invalid and raise their fault; a line healthy for 1 ms clears its flag. -/
def Obligations.IndexLineChecksAndEncoderTimeout : Prop :=
  ∀ (s : State) (n : Nat), s.unitsOn = true → s.dev.hasAxis n = true →
    (∀ level ts run, s.dev.rd (K.FILT n) < run → (s.dev.encRt n).z ≠ some level → (s.dev.encRt n).zAt = none →
      Completes (.index n level ts run) s fun u => (u.dev.encRt n).z = some level ∧ u.dev.objs = s.dev.objs ∧
        (u.dev.encRt n).zAt =
          if s.dev.quadrature n && !s.dev.bit (K.ENC_FLAGS n) 3 && level != s.dev.bit (K.DEC_CFG n) 2 then some ts else none) ∧
    (∀ ts, s.pending = [] → (s.dev.encRt n).zAt = some ts → ts < 2 ^ 64 → s.dev.quadrature n = true →
      (s.dev.bit (K.DEC_CFG n) 3 = true → (s.dev.dec n).a = true ∧ (s.dev.dec n).b = true) →
      (s.dev.posValid n = true →
        ∃ u, step s = .next u ∧ u.dev.rdI 64 (K.IDX_CNT n) = s.dev.encCnt n ∧ u.dev.rd (K.ENC_CNT n) = s.dev.rd (K.ENC_CNT n) ∧
          u.dev.rd (K.IDX_NT n) = ts ∧ u.dev.rd (K.IDX_SPAN n) = enc 64 (s.dev.encCnt n - s.dev.rdI 64 (K.IDX_CNT n)) ∧
          (u.dev.encRt n).zAt = none) ∧
      (s.dev.posValid n = false → s.dev.bit (K.ENC_FLAGS n) 6 = true → s.dev.lineAB n = false → s.dev.rd (K.LINES n) ≠ 0 →
        s.dev.rd (K.LINES n) < 2 ^ 32 → (s.dev.encCnt n).natAbs < 2 ^ 62 →
        ∃ u, step s = .next u ∧ (u.dev.encCnt n - s.dev.rd (K.IDX_PHASE n)) % (4 * s.dev.rd (K.LINES n) : Nat) = 0 ∧
          (u.dev.encCnt n - s.dev.encCnt n).natAbs ≤ 2 * s.dev.rd (K.LINES n) ∧ u.dev.posValid n = true ∧
          u.dev.rdI 64 (K.IDX_CNT n) = u.dev.encCnt n ∧ u.dev.rd (K.IDX_NT n) = ts)) ∧
    (∀ line held, line < (if s.dev.rd (K.SRC n) = 1 then 2 else 3) → s.dev.rd (K.IN_MODE n) ≠ 0 →
      s.dev.bit (K.ENC_FLAGS n) (1 + line) = false →
      (1000 ≤ held →
        Completes (.lineFault n line held) s fun u => u.dev.bit (K.ENC_FLAGS n) (1 + line) = true ∧
          u.dev.bit (K.SRC_STATUS (0x188 + 0x10 * n)) 0 = true ∧ (line < 2 → u.dev.posValid n = false) ∧
          SlotsKept s u [K.ENC_FLAGS n, K.SRC_STATUS (0x188 + 0x10 * n)]) ∧
      (held < 1000 → exec (.lineFault n line held) s = .next s)) ∧
    (∀ line held, line < 3 → s.dev.bit (K.ENC_FLAGS n) (1 + line) = true →
      (1000000 ≤ held →
        Completes (.lineRestored n line held) s fun u => u.dev.bit (K.ENC_FLAGS n) (1 + line) = false ∧
          (field (u.dev.rd (K.ENC_FLAGS n)) 3 1 = 0 → u.dev.bit (K.SRC_STATUS (0x188 + 0x10 * n)) 0 = false) ∧
          u.dev.axes = s.dev.axes ∧ SlotsKept s u [K.ENC_FLAGS n, K.SRC_STATUS (0x188 + 0x10 * n)]) ∧
      (held < 1000000 → exec (.lineRestored n line held) s = .next s)) ∧
    (s.dev.encTimed n = true → s.dev.bit (K.ENC_FLAGS n) 4 = false →
      (s.dev.encRt n).toSince + 1000 * s.dev.rd (K.ENC_TO n) ≤ s.dev.now + 7 →
      Completes (.encoderTimeout n) s fun u => u.dev.bit (K.ENC_FLAGS n) 4 = true ∧ u.dev.posValid n = false ∧
        Raised u (0x189 + 0x10 * n) s.dev.nt ∧ SlotsKept s u [K.ENC_FLAGS n])

/-- A switch transition is latched once its level has been stable for SW_FILT (R284, R288 to R290): SW_STATE shows the input, LATCH_NT takes
the timestamp that the input's configuration selects, LATCH_CMD the commanded position there; a starting level makes no latch; a latch that no
counted edge completes within 10 ms takes the position of its last edge. SYNC_OUT (R176): a due switch-output letter sets the level it names
until further, or starts a pulse of its width; at the pulse's end the base level returns. -/
def Obligations.SwitchesAndSyncOut : Prop :=
  ((∀ (s : State) (n i t1 t2 : Nat) (level : Bool), s.unitsOn = true → s.dev.hasAxis n = true → i < 3 →
    (s.dev.sw n).levels.testBit i ≠ level → t1 < 2 ^ 64 → t2 < 2 ^ 64 →
    let ts := if s.dev.bit (K.SW_CFG n) 7 then t1 else t2
    let filt := 1000 * s.dev.rd (K.SW_FILT n)
    let shown (u : State) : Prop := (u.dev.sw n).levels.testBit i = level ∧
      u.dev.bit (K.SW_STATE n) i = (level != s.dev.bit (K.SW_CFG n) i)
    (t2 + filt ≤ s.dev.nt + 7 → ((s.dev.sw n).started.testBit i = true ∨ (s.dev.sw n).startNt + filt ≤ t1) →
      Completes (.switchTransition n i level t1 t2) s fun u => shown u ∧ u.dev.rd (K.LATCH_NT n i) = ts ∧
        u.dev.rd (K.LATCH_CMD n i) = enc 64 (s.dev.posAt n ts) ∧
        u.dev.bit (K.LATCH_FLAGS n i) 0 = (level != s.dev.bit (K.SW_CFG n) i) ∧
        SlotsKept s u [K.SW_STATE n, K.LATCH_NT n i, K.LATCH_CMD n i, K.LATCH_FLAGS n i, K.LATCH_ENC n i]) ∧
    (t2 + filt ≤ s.dev.nt + 7 → (s.dev.sw n).started.testBit i = false → t1 < (s.dev.sw n).startNt + filt →
      Completes (.switchTransition n i level t1 t2) s fun u => shown u ∧ SlotsKept s u [K.SW_STATE n]) ∧
    (s.dev.nt + 7 < t2 + filt → exec (.switchTransition n i level t1 t2) s = .next s)) ∧
  (∀ (s : State) (n i ts : Nat) (ea : EdgeRec), s.unitsOn = true → s.dev.hasAxis n = true →
    Tab.find (s.dev.sw n).openLatch i = some (ts, ea) → ts + 10000000 ≤ s.dev.nt + 7 → i < 3 →
    Completes (.latchTimeout n i) s fun u => u.dev.rd (K.LATCH_ENC n i) = enc 64 (s.dev.encPosOf n ea.cnt) ∧
      u.dev.bit (K.LATCH_FLAGS n i) 1 = true ∧ u.dev.bit (K.LATCH_FLAGS n i) 2 = true ∧ Tab.find (u.dev.sw n).openLatch i = none ∧
      SlotsKept s u [K.LATCH_ENC n i, K.LATCH_FLAGS n i])) ∧
  ((∀ (s : State) (l : Letter), s.pow.devState ≠ .off →
    (s.dev.desp.table.find? fun x => x.action = 5 && x.due ≤ s.dev.nt + 7 && decide (s.dev.nt < x.due + 8)) = some l →
    (l.arg 13 1 < 2 → Completes .switchOutput s fun u => u.dev.desp.base = decide (l.arg 13 1 = 1) ∧ u.dev.desp.pulseEnd = none ∧
      u.dev.rd K.SYNC_LEVEL = l.arg 13 1 ∧ u.dev.out = s.dev.out ++ [.syncOut (decide (l.arg 13 1 = 1)) l.due] ∧
      u.dev.desp.table = s.dev.desp.table.filter fun x => x.k ≠ l.k) ∧
    (2 ≤ l.arg 13 1 → Completes .switchOutput s fun u => u.dev.desp.base = s.dev.desp.base ∧
      u.dev.desp.pulseEnd = some ((s.dev.now : Int) + l.due + l.arg 14 4 - s.dev.nt).toNat ∧
      u.dev.rd K.SYNC_LEVEL = (if l.arg 13 1 = 2 then 1 else 0) ∧
      u.dev.out = s.dev.out ++ [.syncOut (decide (l.arg 13 1 = 2)) l.due] ∧
      u.dev.desp.table = s.dev.desp.table.filter fun x => x.k ≠ l.k)) ∧
  (∀ (s : State) (t : Nat), s.dev.desp.pulseEnd = some t → t ≤ s.dev.now + 7 →
    Completes .syncPulseEnd s fun u => u.dev.desp.pulseEnd = none ∧ u.dev.desp.base = s.dev.desp.base ∧
      u.dev.rd K.SYNC_LEVEL = s.dev.desp.base.toNat ∧ SlotsKept s u [K.SYNC_LEVEL]))

/-! ## The profile cadence (R98, R114, R337, Table 4-13) -/

/-- A profile cadence runs once at an NT multiple of 1,000 ns (R98): CMD_NT is its instant, and CMD_POS and CMD_VEL show the position
register and the velocity handed to the rate multiplier; an enabled Disabled axis enters Identifying with velocity 0 and remainder 0 (Table
4-13); a second command at the same instant changes nothing. The end of a reversal dwell clears REV_DWELL (R114); at the time limit of the
safe-stop braking the legs go off and the generator stops (R337). -/
def Obligations.CadencesPublishAndTheirTimersEnd : Prop :=
  (∀ (s : State) (n : Nat), s.unitsOn = true → s.dev.hasAxis n = true → s.dev.fab.ready = true → s.dev.nt < 2 ^ 64 →
    s.dev.nt % 1000 < 8 →
    let t := s.dev.nt - s.dev.nt % 1000
    ((s.dev.mot n).cadence ≠ some t →
      Completes (.profileCadence n) s fun u => (u.dev.mot n).cadence = some t ∧ u.dev.rd (K.CMD_NT n) = t ∧
        u.dev.rd (K.CMD_POS n) = enc 64 ((u.dev.mot n).p / 65536) ∧
        u.dev.rd (K.CMD_VEL n) = enc 32 (clampI (-(2 ^ 31)) (2 ^ 31 - 1) (u.dev.mot n).vOut) ∧
        (s.dev.axState n = axDisabled → s.dev.bit (K.CONTROL n) 0 = true → (s.dev.mot n).stallReact = none →
          (s.dev.axis n).faultReq = none → (s.dev.mot n).play = none → (s.dev.mot n).goWait = none →
          u.dev.axState n = axIdentifying ∧ (u.dev.mot n).vel = 0 ∧ (u.dev.mot n).vOut = 0 ∧ (u.dev.mot n).rem = 0 ∧
            (u.dev.mot n).pos = (s.dev.mot n).pos)) ∧
    ((s.dev.mot n).cadence = some t → exec (.profileCadence n) s = .next s)) ∧
  (∀ (s : State) (n t : Nat), s.unitsOn = true → s.dev.hasAxis n = true → (s.dev.mot n).dwell = some t → t ≤ s.dev.now + 7 →
    Completes (.revDwellEnd n) s fun u => (u.dev.mot n).dwell = none ∧ u.dev.bit (K.STATUS n) 9 = false ∧ SlotsKept s u [K.STATUS n]) ∧
  (∀ (s : State) (n t : Nat), s.unitsOn = true → s.dev.hasAxis n = true → (s.dev.mot n).safeAt = some t → s.dev.axState n = axFaulted →
    t + 1000000 * s.dev.rd K.SAFE_STOP_TO ≤ s.dev.now + 7 →
    Completes (.safeStopTo n) s fun u => (∀ l ∈ axisLegs n, (u.dev.leg l).pos = .off ∧ (u.dev.leg l).held = []) ∧
      (u.dev.mot n).vOut = 0 ∧ (u.dev.mot n).vel = 0 ∧ (u.dev.mot n).safeAt = none ∧ u.dev.rd (K.AMP_SRC n) = 0 ∧
      u.dev.bit (K.SW_STATE n) 4 = false ∧ SlotsKept s u [K.AMP_SRC n, K.SW_STATE n, K.STATUS n])

/-! ## Letters (chapter 05) -/

/-- Letters arrive from three senders (R138 to R145): a timed letter that breaks no rule is held in key order, counts in ACCEPTED and FILL;
a letter that breaks the layout rules is refused as a whole and counts in REFUSED. -/
def Obligations.LettersArriveInTheTable : Prop :=
  ∀ (s : State) (body : Bytes) (arr : Nat) (post : Bool), s.pow.devState ≠ .off → body.length = 32 →
    let l := s.dev.granted body arr post
    let held (u : State) : Prop := u.dev.desp.table = insertLetter l s.dev.desp.table ∧
      u.dev.desp.number = (s.dev.desp.number + 1) % 2 ^ 32 ∧
      u.dev.rd K.ACCEPTED = (s.dev.rd K.ACCEPTED + 1) % 2 ^ 32 ∧ u.dev.rd K.FILL = s.dev.desp.table.length + 1 ∧
      u.dev.axes = s.dev.axes ∧ SlotsKept s u [K.ACCEPTED, K.FILL, K.HIGH_WATER, K.NEXT_DUE]
    let refused (u : State) : Prop := u.dev.desp.table = s.dev.desp.table ∧ u.dev.axes = s.dev.axes ∧
      u.dev.rd K.REFUSED_3000 = (s.dev.rd K.REFUSED_3000 + 1) % 2 ^ 32 ∧ SlotsKept s u [K.REFUSED_3000]
    let good : Prop := l.bad = false ∧ l.list.all s.dev.hasAxis = true ∧ l.immediate = false ∧ 2 ≤ s.dev.rd K.TSTATE ∧
      l.due ≤ arr + 1000000 * s.dev.rd K.HORIZON ∧ arr + s.dev.lead l ≤ l.due ∧ s.dev.desp.table.length < 2048
    (∀ port src, post = false → port < 2 → src < 2 ^ 48 →
      (good → Completes (.letterEnvelope port src arr body) s held) ∧
      (l.bad = true → Completes (.letterEnvelope port src arr body) s refused)) ∧
    (∀ ofs, post = false → ofs < 0x10000 → ofs % 32 = 0 → s.dev.hostUp = true → arr = s.dev.nt →
      (good → Completes (.letterSubmission ofs body) s held) ∧ (l.bad = true → Completes (.letterSubmission ofs body) s refused)) ∧
    (post = true → 0xFF00 ≤ l.tag → s.dev.post.halted = none → arr = s.dev.nt →
      (good → Completes (.postmasterLetter body) s held) ∧ (l.bad = true → Completes (.postmasterLetter body) s refused))

/-- Held letters leave the table (R146, R150, R151): the first that may be released goes to the inbox of each of its axes in key order, and is
decided there where its decision instant has passed; an ALL_OR_NONE letter that every axis accepts is decided, one that an axis refuses leaves
every inbox and is refused; a late letter that is to be dropped is counted in LATE and acts on no axis. The franker takes a go, and a pattern is
validated (R158, R171, R172, R175): at a go that the axis was sent every leg of the axis ends its edges and runs its go set, and the axis's
generation rises; a go that no axis of the quarter was sent changes none; a validation of a pattern in use ends with result 7, one of an empty
pattern with 8, and where the points meet every condition the pattern is valid. -/
def Obligations.GoesRunReleasesAndValidations : Prop :=
  (∀ (s : State) (l : Letter), s.pow.devState ≠ .off →
    (∀ rest, s.dev.findRelease [] s.dev.desp.table = some (l, rest) →
      ((l.allOrNone = false ∨ s.dev.nt ≤ decisionAt l.due) →
        Completes .letterRelease s fun u => u.dev.desp.table = rest ∧
          (∀ n ∈ l.list, (u.dev.axis n).inbox = insertLetter l (s.dev.axis n).inbox) ∧
          (∀ n, n ∉ l.list → u.dev.axis n = s.dev.axis n) ∧ SlotsKept s u [K.FILL, K.HIGH_WATER, K.NEXT_DUE]) ∧
      (l.allOrNone = true → decisionAt l.due < s.dev.nt → s.dev.allRefuse l = false →
        Completes .letterRelease s fun u => u.dev.desp.table = rest ∧
          (∀ n ∈ l.list, (u.dev.axis n).inbox =
            (insertLetter l (s.dev.axis n).inbox).map fun x => if x.k = l.k then { x with decided := true } else x) ∧
          (∀ n, n ∉ l.list → u.dev.axis n = s.dev.axis n) ∧ SlotsKept s u [K.FILL, K.HIGH_WATER, K.NEXT_DUE])) ∧
    (((s.dev.axisList.flatMap fun n => (s.dev.axis n).inbox).find? fun x =>
        x.allOrNone && !x.decided && !x.queued && decide (decisionAt x.due ≤ s.dev.nt + 7)) = some l →
      (s.dev.allRefuse l = false →
        Completes .allOrNoneDecision s fun u => u.dev.objs = s.dev.objs ∧ ∀ n ∈ l.list, (u.dev.axis n).inbox =
          (s.dev.axis n).inbox.map fun x => if x.k = l.k then { x with decided := true } else x) ∧
      (s.dev.allRefuse l = true →
        Completes .allOrNoneDecision s fun u => u.dev.rd K.REFUSED_3000 = (s.dev.rd K.REFUSED_3000 + 1) % 2 ^ 32 ∧
          ∀ n ∈ s.dev.axisList, ∀ x ∈ (u.dev.axis n).inbox, x.k ≠ l.k)) ∧
    ((s.dev.desp.table.find? fun x => x.due ≤ s.dev.nt + 7 && (x.action ≠ 5 || decide (x.due + 8 ≤ s.dev.nt))) = some l →
      l.lateDrop = true ∨ s.dev.rd K.LATE_POLICY = 0 →
      Completes .lateLetter s fun u => u.dev.desp.table = s.dev.desp.table.filter (fun x => x.k ≠ l.k) ∧
        u.dev.rd K.LATE = (s.dev.rd K.LATE + 1) % 2 ^ 32 ∧ u.dev.axes = s.dev.axes ∧
        SlotsKept s u [K.LATE, K.FILL, K.HIGH_WATER, K.NEXT_DUE])) ∧
  ((∀ (s : State) (q lane axes g : Nat) (timed err : Bool), s.unitsOn = true → s.dev.hasQuarter q = true → lane < 3 →
    s.dev.rd K.INJ_GO = 0 →
    (∀ n ∈ quarterAxes q, axes.testBit (n % 4) = true → s.dev.goAllows n timed g = true → (s.dev.mot n).goWait = none →
      (∀ l ∈ axisLegs n, s.dev.goHeld l = true ∧ s.dev.legShut l = false) →
      Completes (.go q lane axes timed g true err) s fun u => (u.dev.axis n).goGen = ((s.dev.axis n).goGen + 1) % 4 ∧
        (u.dev.axis n).goDue = none ∧ u.dev.bit (K.PRIME n) 9 = false ∧
        ∀ l ∈ axisLegs n, (u.dev.leg l).due = dueFrom (s.dev.ntToQ g) (s.dev.leg l).goSet ∧ (u.dev.leg l).held = [] ∧
          (u.dev.leg l).goSet = []) ∧
    ((∀ n ∈ quarterAxes q, s.dev.goAllows n timed g = false) →
      Completes (.go q lane axes timed g true err) s fun u => u.dev.legs = s.dev.legs ∧ u.dev.axes = s.dev.axes ∧
        SlotsKept s u [K.ERR_RX q])) ∧
  (∀ (s : State) (p : Nat), p < 256 → s.dev.rd (K.VALIDATE p) = 1 →
    (s.dev.rd (K.USE p) ≠ 0 →
      Completes (.validationComplete p) s fun u => u.dev.rd (K.VAL_RESULT p) = 7 ∧ u.dev.rd (K.VALIDATE p) = 0 ∧
        SlotsKept s u [K.VALIDATE p, K.VAL_RESULT p]) ∧
    (s.dev.rd (K.USE p) = 0 → s.dev.rd (K.COUNT_3100 p) = 0 →
      Completes (.validationComplete p) s fun u => u.dev.rd (K.VAL_RESULT p) = 8 ∧ u.dev.rd (K.STATE_3100 p) = 2 ∧
        u.dev.rd (K.VALIDATE p) = 0) ∧
    (s.dev.rd (K.USE p) = 0 → s.dev.rd (K.COUNT_3100 p) ≠ 0 → s.dev.rd (K.FIRST p) + s.dev.rd (K.COUNT_3100 p) ≤ 131072 →
      validResult (s.dev.rd (K.FIRST p)) (s.dev.rd (K.COUNT_3100 p)) (rawPoints s p) = 1 →
      Completes (.validationComplete p) s fun u => u.dev.rd (K.VAL_RESULT p) = 1 ∧ u.dev.rd (K.STATE_3100 p) = 1 ∧
        u.dev.rd (K.VALIDATE p) = 0 ∧ u.dev.rd (K.MAX_VEL p) = maxVel 0 (rawPoints s p) % 2 ^ 64 ∧
        SlotsKept s u [K.VALIDATE p, K.VAL_RESULT p, K.STATE_3100 p, K.DURATION p, K.MAX_VEL p, K.PCRC p])))

/-- Motion letters act on their axis (R109, R112, R132): a new target sets TARGET and starts a position move, a new velocity starts a
velocity move with TARGET_VEL inside V_LIM, new limits replace every limit that they carry other than 0. -/
def Obligations.MotionLettersAct : Prop :=
  ∀ (s : State) (n : Nat) (l : Letter), s.pow.devState ≠ .off → s.dev.hasAxis n = true → s.dev.inboxHead n = some l →
    (l.allOrNone = false ∨ l.decided = true) → s.dev.meetsNow n l = .acts →
    let others (u : State) : Prop := u.dev.legs = s.dev.legs ∧
      ∀ m, m ≠ n → u.dev.axis m = { s.dev.axis m with goDue := (u.dev.axis m).goDue }
    (l.action = 1 →
      Completes (.newTarget n) s fun u => u.dev.rd (K.TARGET n) = enc 64 (s.dev.targetOf n l) ∧
        (u.dev.mot n).move = .position (s.dev.targetOf n l) ∧ (u.dev.mot n).stops = [] ∧ u.dev.bit (K.STATUS n) 3 = false ∧
        (∀ x ∈ (u.dev.axis n).inbox, x.k ≠ l.k) ∧ others u) ∧
    (l.action = 2 →
      Completes (.newVelocity n) s fun u => (u.dev.mot n).move = .velocity (sext 32 (l.arg 12 4)) ∧ (u.dev.mot n).stops = [] ∧
        u.dev.rd (K.TARGET_VEL n) =
          enc 32 (clampI (-(s.dev.rd (K.V_LIM n) : Int)) (s.dev.rd (K.V_LIM n)) (sext 32 (l.arg 12 4))) ∧ others u) ∧
    (l.action = 3 →
      Completes (.newLimits n) s fun u => (∀ e ∈ [(K.V_LIM n, 12), (K.A_LIM n, 16), (K.D_LIM n, 20), (K.J_LIM n, 24), (K.D_STOP n, 28)],
          u.dev.rd e.1 = if l.arg e.2 4 = 0 then s.dev.rd e.1 else l.arg e.2 4) ∧
        (u.dev.mot n).move = (s.dev.mot n).move ∧ others u)

/-- Pattern, arm, disarm and stream letters act on their axis (R118, R124, R160, R161, R169): a start without an active prime begins its
play at its due time; an arm arms the follow source or replaces the prime; a disarm withdraws them; a stream point joins the points held. -/
def Obligations.PatternArmAndStreamLettersAct : Prop :=
  ∀ (s : State) (n : Nat) (l : Letter), s.pow.devState ≠ .off → s.dev.hasAxis n = true → s.dev.inboxHead n = some l →
    (l.allOrNone = false ∨ l.decided = true) → s.dev.meetsNow n l = .acts →
    (l.action = 4 → s.dev.primeActive n l = false → l.arr + s.dev.letterPeriod l + 2000 ≤ l.due →
      Completes (.startPattern n) s fun u => ∃ r, (u.dev.mot n).play = some r ∧ r.pat = l.prime.pat ∧ r.scale = l.prime.scale ∧
        r.swing = l.prime.swing ∧ r.start = max l.due s.dev.nt * 65536 ∧ r.repeats = l.arg 20 2 ∧ r.primed = false ∧ r.next = 0 ∧
        (u.dev.mot n).move = .play ∧ (u.dev.mot n).stops = [] ∧ u.dev.legs = s.dev.legs) ∧
    (l.action = 6 → l.arg 12 1 = 0 →
      Completes (.arm n) s fun u => (u.dev.mot n).follow.barred = false ∧
        (u.dev.mot n).follow.armed = s.dev.mayArm n ∧ (u.dev.mot n).prime = (s.dev.mot n).prime) ∧
    (l.action = 6 → l.arg 12 1 = 1 →
      Completes (.arm n) s fun u => (u.dev.mot n).prime = some l.prime ∧ u.dev.rd (K.PRIME n) = l.prime.pat + 0x100 ∧
        (u.dev.mot n).move = (s.dev.mot n).move) ∧
    (l.action = 7 →
      Completes (.disarm n) s fun u =>
        (l.arg 12 1 ≠ 1 → l.arg 12 1 ≤ 2 → (u.dev.mot n).follow.armed = false ∧ (u.dev.mot n).follow.barred = true ∧
          ((s.dev.mot n).follow.engaged = true → (u.dev.mot n).follow.engaged = false)) ∧
        (l.arg 12 1 = 1 ∨ l.arg 12 1 = 2 → (u.dev.mot n).prime = none)) ∧
    (l.action = 8 → s.dev.rd (K.SRC n) = 2 → (s.dev.mot n).follow.points.length < 16 →
      (∀ p, (s.dev.mot n).follow.lastPt = some p → p.1 + 10000 ≤ l.arg 12 8 ∧ l.arg 12 8 ≤ p.1 + 1000000000) →
      Completes (.followStreamPoint n) s fun u =>
        (u.dev.mot n).follow.points = (s.dev.mot n).follow.points ++ [(l.arg 12 8, sext 64 (l.arg 20 8))] ∧
        u.dev.rd (K.STREAM_FILL n) = (s.dev.mot n).follow.points.length + 1)

/-! ## The engine of an axis (chapters 06 and 07) -/

/-- Samples and the bus voltage (R185, R196, R197): at a sampling instant of its coil a channel takes the code, and its conversion leaves
over the seam tagged with that instant; a VBSq below VBUS_UV sets the undervoltage flag and its source and ends identification, one above
VBUS_UV + 0.5 V ends it; one above VBUS_OV clamps all eight coils and takes their letters; a coil is released at a period boundary once the
voltage has stayed below VBUS_OV - 1.0 V for 100 us, the legs of one that is not regulated off. -/
def Obligations.SamplesAndTheBusAreMeasured : Prop :=
  (∀ (s : State) (q ch c : Nat) (code : Int), s.unitsOn = true → s.dev.hasQuarter q = true → s.dev.sampledCoil q ch = some c →
    (s.dev.coil c).running = true → (s.dev.coil c).begun = true → s.dev.ticks - (s.dev.coil c).start ∈ s.dev.samplePosBy (s.dev.setting q) c →
    Completes (.sampleInstant q ch code) s fun u =>
      Tab.find (u.dev.quarter q).converting ch = some (clampI (-8192) 8191 code, 4 * s.dev.nt, s.dev.now + 100) ∧
      u.dev.objs = s.dev.objs ∧ u.dev.legs = s.dev.legs ∧ u.dev.coils = s.dev.coils) ∧
  (∀ (s : State) (q ch ts e : Nat) (code : Int), s.unitsOn = true → s.dev.hasQuarter q = true →
    Tab.find (s.dev.quarter q).converting ch = some (code, ts, e) → e ≤ s.dev.now + 7 →
    Completes (.conversionComplete q ch) s fun u => u.dev.out = s.dev.out ++ [.sample q ch code ts] ∧
      Tab.find (u.dev.quarter q).converting ch = none ∧ u.dev.objs = s.dev.objs ∧ u.dev.legs = s.dev.legs) ∧
  (∀ (s : State) (q v : Nat), s.unitsOn = true → s.dev.hasQuarter q = true → s.dev.fab.ready = true →
    let uv := s.dev.effQ q (K.VBUS_UV q)
    let ov := s.dev.effQ q (K.VBUS_OV q)
    (v < uv → v ≤ ov → s.dev.bit (K.BUS_FLAGS q) 0 = false →
      Completes (.vbusSample q v) s fun u => u.dev.bit (K.BUS_FLAGS q) 0 = true ∧ (u.dev.quarter q).vbus = v ∧
        u.dev.bit (K.SRC_STATUS (0x140 + 0x10 * q)) 0 = true ∧
        ∀ n ∈ quarterAxes q, s.dev.axState n = axIdentifying → (u.dev.axis n).faultReq.isSome = true) ∧
    (uv + 50 < v → v ≤ ov → s.dev.bit (K.BUS_FLAGS q) 0 = true →
      Completes (.vbusSample q v) s fun u => u.dev.bit (K.BUS_FLAGS q) 0 = false ∧ (u.dev.quarter q).vbus = v ∧
        u.dev.bit (K.SRC_STATUS (0x140 + 0x10 * q)) 0 = false ∧ u.dev.legs = s.dev.legs ∧
        SlotsKept s u [K.BUS_FLAGS q, K.SRC_STATUS (0x140 + 0x10 * q)]) ∧
    (ov < v → (s.dev.quarter q).clamp = 0 →
      Completes (.vbusSample q v) s fun u => (u.dev.quarter q).vbus = v ∧ u.dev.bit (K.BUS_FLAGS q) 1 = true ∧ (u.dev.quarter q).clamp = 255 ∧
        ∀ l ∈ quarterLegs q, (u.dev.leg l).due = [] ∧ (u.dev.leg l).held = [] ∧ (u.dev.leg l).goSet = [])) ∧
  (∀ (s : State) (c t : Nat), s.unitsOn = true → s.dev.hasCoil c = true → (s.dev.quarter (c / 8)).belowOv = some t →
    t + 100000 ≤ s.dev.now + 7 → (s.dev.quarter (c / 8)).clamp.testBit (c % 8) = true →
    ((s.dev.coil c).running = false ∨ (s.dev.coil c).nextAt = s.dev.ticks ∨ (s.dev.coil c).start = s.dev.ticks) →
    Completes (.ovClampRelease c) s fun u => (u.dev.quarter (c / 8)).clamp.testBit (c % 8) = false ∧
      (s.dev.regulates (c / 2) = true → u.dev.legs = s.dev.legs) ∧
      (s.dev.regulates (c / 2) = false → ∀ l ∈ coilLegs c, (u.dev.leg l).pos = .off) ∧
      ((s.dev.quarter (c / 8)).clamp = 2 ^ (c % 8) → u.dev.bit (K.BUS_FLAGS (c / 8)) 1 = false ∧
        u.dev.bit (K.SRC_STATUS (0x141 + 0x10 * (c / 8))) 0 = false))

/-- A job is made and posted (R34, R35, R48, R49): after the last sample of the running period the slice makes the job of the next period,
due GUARD before it, on the slice that serves the axis; for an axis that is not regulated its letters commit only. On time, the job is
posted; late, its letters are discarded, the slice's HELD counts and the late-edge fault of the axis is raised (R58). -/
def Obligations.JobsAreMadeAndPosted : Prop :=
  (∀ (s : State) (c : Nat), s.unitsOn = true → s.dev.hasCoil c = true → (s.dev.coil c).running = true → (s.dev.coil c).begun = true →
    (s.dev.coil c).job = none → (s.dev.coil c).jobFor ≠ some (s.dev.coil c).next →
    (s.dev.coil c).start + (s.dev.samplePos c).foldl max 0 ≤ s.dev.ticks →
    Completes (.engineJob c) s fun u => ∃ j, (u.dev.coil c).job = some j ∧ j.k = (s.dev.coil c).next ∧
      (u.dev.coil c).jobFor = some (s.dev.coil c).next ∧ j.deadline = (s.dev.coil c).nextAt - s.dev.rd K.GUARD ∧
      j.slice = s.dev.coilSlice c ∧ (s.dev.axState (c / 2) ≠ axIdentifying → u.dev.legs = s.dev.legs) ∧
      (s.dev.regulates (c / 2) = false → j.sched = [] ∧ j.goLeft = [] ∧ j.goRight = [] ∧
        ∀ side ∈ [j.left, j.right], side = [{ state := 3, gen := (s.dev.axis (c / 2)).goGen % 4, ptag := (s.dev.coil c).next % 16, last := true }]) ∧
      (s.dev.rd (K.CAP_EN (c / 2)) ≠ 1 → u.mem = s.mem)) ∧
  (∀ (s : State) (c : Nat) (agree : Bool) (j : JobRt), s.unitsOn = true → s.dev.hasCoil c = true → (s.dev.coil c).job = some j →
    s.dev.fray.slice = none →
    (s.dev.ticks ≤ j.deadline →
      Completes (.jobComplete c agree) s fun u => (u.dev.coil c).job = none ∧ (u.dev.coil c).posted = some (j.k, j.sched) ∧
        u.dev.legs = s.dev.legs ∧ SlotsKept s u [K.MIN_SLACK j.slice, K.BELOW_FLOOR j.slice]) ∧
    (j.deadline < s.dev.ticks →
      Completes (.jobComplete c agree) s fun u => (u.dev.coil c).job = none ∧ (u.dev.coil c).posted = (s.dev.coil c).posted ∧
        u.dev.out = s.dev.out ∧ u.dev.rd (K.HELD j.slice) = (s.dev.rd (K.HELD j.slice) + 1) % 2 ^ 32 ∧
        Raised u (0x180 + 0x10 * (c / 2)) s.dev.nt ∧ u.dev.legs = s.dev.legs ∧
        SlotsKept s u [K.MIN_SLACK j.slice, K.BELOW_FLOOR j.slice, K.HELD j.slice]))

/-- Identification (R198, R200, R206): row 1 begins at the first boundary of coil A at least 2 us after the axis entered Identifying; row 3
follows row 2 300 us after that beginning; an undervoltage of the bus ends it with cause 6 and the legs off; at its end the identified model
is in force, I_STR is I_RUN and the axis is Holding; a test step that ends brings the next one. -/
def Obligations.IdentificationRunsItsRows : Prop :=
  ∀ (s : State) (n : Nat), s.unitsOn = true → s.dev.hasAxis n = true → s.dev.axState n = axIdentifying → (s.dev.axis n).faultReq = none →
    let i := (s.dev.axis n).ident
    (s.dev.bit (K.BUS_FLAGS (n / 4)) 0 = true →
      Completes (.idPhase n) s fun u => u.dev.rd (K.ID_RESULT n) = 6 ∧ (u.dev.axis n).faultReq = some false ∧
        (∀ l ∈ axisLegs n, (u.dev.leg l).pos = .off ∧ (u.dev.leg l).held = []) ∧ Raised u (0x183 + 0x10 * n) s.dev.nt ∧
        SlotsKept s u [K.ID_RESULT n, K.ID_NT n, K.ID_TIME n]) ∧
    (s.dev.bit (K.BUS_FLAGS (n / 4)) 0 = false → i.row = 0 → s.dev.atBoundary (2 * n) = true → i.entered + 2000 ≤ s.dev.now →
      Completes (.idPhase n) s fun u => (u.dev.axis n).ident.row = 1 ∧ (u.dev.axis n).ident.began = s.dev.ticks ∧
        (u.dev.axis n).ident.iRun = s.dev.rd (K.I_RUN n) ∧ u.dev.objs = s.dev.objs ∧ u.dev.legs = s.dev.legs) ∧
    (s.dev.bit (K.BUS_FLAGS (n / 4)) 0 = false → i.row = 2 → s.dev.now ≤ 8 * i.began + 20000000 →
      (8 * i.began + 300000 ≤ s.dev.now + 7 → Completes (.idPhase n) s fun u => (u.dev.axis n).ident.row = 3 ∧ u.dev.objs = s.dev.objs) ∧
      (s.dev.now + 7 < 8 * i.began + 300000 → exec (.idPhase n) s = .next s)) ∧
    (i.row = 6 → i.ls.length ≤ 32 → s.dev.rd (K.TEST_EN n) = 0 → i.rowAt + 100000 ≤ s.dev.now + 7 → s.dev.atBoundary (2 * n) = true →
      Completes (.identificationComplete n) s fun u => u.dev.axState n = axHolding ∧ u.dev.rd (K.ID_RESULT n) = 1 ∧
        u.dev.rd (K.I_STR n) = s.dev.rd (K.I_RUN n) ∧ u.dev.bit (K.CC_STATUS n) 4 = false ∧
        u.dev.rd (K.R_A n) = i.model.1.1 ∧ u.dev.rd (K.R_B n) = i.model.2.1 ∧ u.dev.legs = s.dev.legs) ∧
    (i.row = 7 → 1 ≤ i.step → i.step ≤ s.dev.rd (K.TEST_STEPS n) → i.step ≤ 8 → i.stepStart ≠ 0 →
      i.stepStart + s.dev.stepHold n ≤ s.dev.nt + 7 →
      Completes (.testStepEnd n) s fun u => (u.dev.axis n).ident.step = i.step + 1 ∧ (u.dev.axis n).ident.stepStart = i.nextStart ∧
        u.dev.legs = s.dev.legs ∧ SlotsKept s u [K.STEP_RATIO_m n (i.step - 1)])

/-- Rest and wake (R222 to R224): a Holding axis whose rest timer has reached T_REST at the cadence just run, with no motion begun and none to
come, enters Resting, and its ramp starts at the present amplitude; a Resting axis wakes REST_WAKE before its first motion letter is due, or
where a follow source is about to engage; where the letter has gone again, the wake ends with a new ramp. -/
def Obligations.AxesRestAndWake : Prop :=
  ∀ (s : State) (n : Nat), s.unitsOn = true → s.dev.hasAxis n = true →
    (s.dev.axState n = axHolding → (s.dev.mot n).follow.engaged = false → s.dev.eff n (K.T_REST n) ≠ 0 →
      1000 * s.dev.eff n (K.T_REST n) ≤ (s.dev.mot n).restUs → (s.dev.mot n).cadence = some (s.dev.nt - s.dev.nt % 1000) →
      s.dev.nt % 1000 < 8 → (s.dev.mot n).move = .idle → (s.dev.mot n).playing = false → ((s.dev.axis n).inbox.any startsMotion) = false →
      Completes (.restEnter n) s fun u => u.dev.axState n = axResting ∧ u.dev.rd (K.REST_FLAGS n) = 1 ∧
        (u.dev.axis n).eng.ramp = some (s.dev.rd (K.I_AMP n), s.dev.eff n (K.I_REST n), s.dev.now) ∧ (u.dev.axis n).eng.wake = none ∧
        u.dev.bit (K.LOAD_EVENTS n) 4 = true ∧ SlotsKept s u [K.STATE_4000 n, K.REST_FLAGS n, K.LOAD_EVENTS n]) ∧
    (s.dev.axState n = axResting → (s.dev.axis n).eng.wake = none →
      ((∃ l, (s.dev.axis n).inbox.find? startsMotion = some l ∧ l.due ≤ s.dev.nt + 7 + 1000 * s.dev.eff n (K.REST_WAKE n)) ∨
        ((s.dev.axis n).inbox.find? startsMotion = none ∧ s.dev.followComes n = true)) →
      Completes (.axisWake n) s fun u => (u.dev.axis n).eng.wake = some s.dev.now ∧ u.dev.bit (K.REST_FLAGS n) 2 = true ∧
        u.dev.axState n = axResting ∧ SlotsKept s u [K.REST_FLAGS n, K.LOAD_EVENTS n]) ∧
    (s.dev.axState n = axResting → (s.dev.axis n).eng.wake.isSome = true → (s.dev.axis n).inbox.any startsMotion = false →
      s.dev.followComes n = false → (s.dev.mot n).move = .idle →
      Completes (.axisWake n) s fun u => (u.dev.axis n).eng.wake = none ∧
        (u.dev.axis n).eng.ramp = some (s.dev.rd (K.I_AMP n), s.dev.eff n (K.I_REST n), s.dev.now) ∧
        u.dev.bit (K.REST_FLAGS n) 0 = true ∧ u.dev.bit (K.REST_FLAGS n) 2 = false ∧ u.dev.axState n = axResting ∧
        SlotsKept s u [K.REST_FLAGS n])

/-! ## The Postmaster and patching (chapters 01 and 15) -/

/-- The Postmaster's lockstep pair (R30, R31): a mismatch halts it and raises source 0x281; a second one within 1 s takes the device to Safe
with cause 2; 100 us after the halt it restarts; where no word of pigeonholes 28 and 29 is poisoned it resumes and nothing waits for it any
more, else it halts again. A firmware update (R436): FW_GO hands
the bank to the Postmaster; a bad image leaves memory and the running version alone, a good one runs and leaves every byte outside bank 29
as it was; the bank goes back to its owner. -/
def Obligations.PostmasterAndFirmware : Prop :=
  ((∀ s : State, 4 ≤ s.dev.start.stage → s.dev.post.halted = none →
    (s.dev.post.mismatch = none →
      Completes .lockstepMismatch s fun u => u.dev.post.halted = some s.dev.now ∧ u.dev.post.mismatch = some s.dev.now ∧
        u.dev.post.restarted = false ∧ Raised u 0x281 s.dev.nt ∧ u.pow = s.pow ∧ u.dev.legs = s.dev.legs) ∧
    (∀ t, s.dev.post.mismatch = some t → s.dev.now < t + 1000000000 → s.pow.devState ≠ .off → s.pow.devState ≠ .safe →
      Completes .lockstepMismatch s fun u => u.pow.devState = .safe ∧ u.dev.rd K.SAFE_CAUSE = 2 ∧
        (∀ q ∈ s.dev.quarterList, u.dev.isSafe q = true) ∧ u.dev.bit K.ERR_STATE 0 = true ∧ Raised u 0x281 s.dev.nt)) ∧
  (∀ (s : State) (t : Nat), s.dev.post.halted = some t → t + 100000 ≤ s.dev.now + 7 →
    exec .postmasterRestart s = .next (s.onDev fun d => { d with post := { d.post with restarted := true } })) ∧
  (∀ s : State, s.dev.post.halted.isSome = true → s.dev.post.restarted = true →
    (s.dev.badPostWord = none →
      Completes .postmasterResume s fun u => u.dev.post.halted = none ∧ u.dev.post.restarted = false ∧ u.dev.post.react = [] ∧
        (s.dev.post.react = [] → u.dev.objs = s.dev.objs) ∧ u.dev.legs = s.dev.legs) ∧
    (s.dev.badPostWord ≠ none →
      Completes .postmasterResume s fun u => u.dev.post.halted = some s.dev.now ∧ u.dev.post.restarted = false ∧ Raised u 0x284 s.dev.nt ∧
        u.dev.legs = s.dev.legs))) ∧
  ((∀ (s : State) (p : Path), Reaches s p → s.fwRefused = false → s.dev.rd K.FW_GO = 0 → s.dev.rd K.FW_BANK < 32 →
    let b := s.dev.rd K.FW_BANK
    Completes (.fwGo p) s fun u => u.dev.fw = some (b, s.dev.rd (K.OWNER b)) ∧ u.dev.rd (K.STATE_2810 b) = 1 ∧ u.dev.rd K.FW_GO = 1 ∧
      u.mem = s.mem ∧ Tab.find u.dev.memu.hands b = some (s.dev.rd (K.OWNER b), ownerPostmaster, s.dev.now)) ∧
  (∀ (s : State) (b owner result version : Nat), s.dev.fw = some (b, owner) → b < 32 → owner < 256 → s.dev.postRuns = true →
    let back (u : State) : Prop := u.dev.fw = none ∧ u.dev.rd (K.OWNER b) = owner ∧ u.dev.rd (K.STATE_2810 b) = 0 ∧ u.dev.rd K.FW_GO = 0
    (2 ≤ result → result ≤ 5 →
      Completes (.fwUpdateEnded result version) s fun u => back u ∧ u.dev.rd K.FW_RESULT = result ∧ u.mem = s.mem ∧
        u.dev.rd K.FW_ACTIVE = s.dev.rd K.FW_ACTIVE ∧ u.dev.fwImage = s.dev.fwImage) ∧
    (result = 1 → s.dev.rd K.FW_FLOOR ≤ version → version < 2 ^ 32 →
      Completes (.fwUpdateEnded result version) s fun u => back u ∧ u.dev.rd K.FW_RESULT = 1 ∧ u.dev.rd K.FW_ACTIVE = version ∧
        u.dev.fwImage = true ∧
        ∀ a, (a < s.dev.servedBy 29 * bankSize ∨ (s.dev.servedBy 29 + 1) * bankSize ≤ a) → memRead u.mem a = memRead s.mem a)))

/-- A slice patch from its start to its takeover (R20, R401, R403, R405, R414): the lowest spare shadows the axis, loads, and takes over at
the start of the 64th matched period of coil A, at once where the axis is Disabled: SLICE_MAP names it and the old slice is Retired, which
serves coil B up to its next boundary; a record that has been written takes the lowest free slot of the patch store. -/
def Obligations.SlicePatchRunsToItsTakeover : Prop :=
  (∀ (s : State) (a : PatchAsk) (sp : Nat) (rest : List Nat), s.unitsOn = true → s.dev.fray.slice = none →
    (s.dev.fray.asks.find? fun a => a.kind = 0 && s.dev.mayShadow a.inst) = some a → s.dev.hasAxis a.inst = true →
    s.dev.spareSlices = sp :: rest →
    Completes .patchStart s fun u => (∃ p, u.dev.fray.slice = some p ∧ p.axis = a.inst ∧ p.spare = sp ∧ p.loaded = false ∧ p.b0 = s.dev.now) ∧
      u.dev.rd (K.SLICE_STATUS sp) = 2 + 256 * a.inst ∧ u.dev.bit (K.SLICE_MAP a.inst) 6 = true ∧ u.dev.rd K.P_STATE = 1 ∧
      u.dev.rd K.P_AXIS = a.inst ∧ u.dev.rd K.P_SPARE = sp ∧ a ∉ u.dev.fray.asks ∧ u.dev.axes = s.dev.axes ∧ u.dev.legs = s.dev.legs) ∧
  (∀ (s : State) (p : PatchRt), s.unitsOn = true → s.dev.fray.slice = some p → p.loaded = false →
    Completes .loadingComplete s fun u => u.dev.fray.slice = some { p with loaded := true } ∧ u.dev.rd K.P_STATE = 2 ∧
      SlotsKept s u [K.P_STATE]) ∧
  (∀ (s : State) (p : PatchRt), s.unitsOn = true → s.dev.fray.slice = some p → p.loaded = true → s.dev.hasAxis p.axis = true →
    let a := s.dev.coil (2 * p.axis)
    let b := s.dev.coil (2 * p.axis + 1)
    (s.dev.axState p.axis = axDisabled ∨
      (p.cur = some true ∧ 63 ≤ p.matched ∧ a.begun = true ∧ a.start = s.dev.ticks ∧ s.dev.inGoSpan p.axis = false)) → 16 ≤ p.spare → p.spare < 18 → s.dev.sliceOf p.axis ≠ p.spare →
    Completes .takeover s fun u => u.dev.fray.slice = none ∧ u.dev.rd (K.SLICE_MAP p.axis) = p.spare ∧
      u.dev.rd (K.SLICE_STATUS p.spare) = 256 * p.axis ∧ u.dev.rd (K.SLICE_STATUS (s.dev.sliceOf p.axis)) = 3 + 256 * 0x1F ∧
      u.dev.rd K.P_STATE = 3 ∧ u.dev.rd K.PATCHES = (s.dev.rd K.PATCHES + 1) % 2 ^ 32 ∧
      (b.running = false ∨ (b.begun = true ∧ b.start = s.dev.ticks) → (u.dev.axis p.axis).oldSlice = none) ∧
      (b.running = true → (b.begun = false ∨ b.start ≠ s.dev.ticks) → (u.dev.axis p.axis).oldSlice = some (s.dev.sliceOf p.axis)) ∧
      (∀ m, u.dev.axis m = { s.dev.axis m with oldSlice := (u.dev.axis m).oldSlice }) ∧ u.dev.legs = s.dev.legs) ∧
  (∀ (s : State) (b : Bytes) (rest : List Bytes), s.dev.fray.writing = b :: rest → b.length = 16 → s.dev.fray.store.length < 64 →
    Completes .patchRecordWritten s fun u => u.dev.fray.store = s.dev.fray.store ++ [(true, b)] ∧ u.dev.fray.writing = rest ∧
      u.dev.rd (K.RECORD (2 * s.dev.fray.store.length)) = ofLe (b.take 8) ∧
      u.dev.rd (K.RECORD (2 * s.dev.fray.store.length + 1)) = ofLe (b.drop 8) ∧ u.dev.rd K.STORE_USED = s.dev.fray.store.length + 1 ∧
      SlotsKept s u [K.RECORD (2 * s.dev.fray.store.length), K.RECORD (2 * s.dev.fray.store.length + 1), K.STORE_USED])

/-- Spares for channels, segments and lanes, and the monitor's samples (R397, R409 to R411): the spare channel serves its coil after 64
periods, a stopped one at once, with its offset moved by the mean difference; a free spare segment takes the place of the worn one; lane 2 enters service before the worn
lane leaves it; a sample counts and shows what the sensors measured. -/
def Obligations.SparesReplaceWornResources : Prop :=
  (∀ (s : State) (q c cause k : Nat), s.unitsOn = true → s.dev.hasQuarter q = true → c / 8 = q →
    Tab.find s.dev.fray.adc q = some (c, cause, k) →
    ((s.dev.coil c).running = false ∨ (s.dev.atBoundary c = true ∧ k + 64 ≤ (s.dev.coil c).next)) → s.dev.fray.asks = [] →
    Completes (.adcPatchSwitch q) s fun u => (u.dev.coil c).offset = (s.dev.coil c).offset + s.dev.meanDiff q ∧
      u.dev.rd (K.ADC_MAP q) = c % 8 ∧ u.dev.bit K.SPARES_2900 (8 + q) = false ∧ Tab.find u.dev.fray.adc q = none ∧ u.dev.legs = s.dev.legs) ∧
  (∀ (s : State) (l o g i : Nat) (gains : List Int) (a : PatchAsk), s.unitsOn = true → s.dev.hasLeg l = true → o < 4 →
    (s.dev.fray.asks.find? fun a => a.kind = 2 && a.inst = l && a.sub = 256 * o) = some a → wornSegment gains = some g → gains.length ≤ 64 →
    ((List.range 4).find? fun i => !(s.dev.rd (K.SEGMAP l o)).testBit (8 * i + 7)) = some i →
    Completes (.segmentPatch l o gains) s fun u => field (u.dev.rd (K.SEGMAP l o)) (8 * i + 7) (8 * i) = 0x80 + g ∧
      u.dev.out = s.dev.out ++ [.mode (l / 16) (.segmentMap (l % 16) o i g)] ∧ a ∉ u.dev.fray.asks ∧ u.dev.legs = s.dev.legs) ∧
  (∀ (s : State) (q : Nat) (a : PatchAsk), s.unitsOn = true → s.dev.hasQuarter q = true → a.sub < 2 →
    (s.dev.fray.asks.find? fun a => a.kind = 3 && a.inst = q) = some a → s.dev.bit K.SPARES_2900 (12 + q) = true →
    Completes (.lanePatch q) s fun u => u.dev.bit (K.LANES q) 2 = true ∧ u.dev.bit (K.LANES q) a.sub = false ∧
      u.dev.out = s.dev.out ++ [.mode q (.laneSelect 2 true), .mode q (.laneSelect a.sub false)] ∧
      u.dev.bit K.SPARES_2900 (12 + q) = false ∧ a ∉ u.dev.fray.asks) ∧
  (∀ (s : State) (m : FrayMeasures), s.unitsOn = true → s.pow.devState ≠ .stowed → s.dev.rd K.FRAY_EN = 1 → s.dev.postRuns = true →
    s.dev.fray.lastAt + 60000000000 * s.dev.rd K.FRAY_INT ≤ s.dev.now + 7 →
    Completes (.fraySample m) s fun u => u.dev.fray.lastAt = s.dev.now ∧ u.dev.rd K.SAMPLES = (s.dev.rd K.SAMPLES + 1) % 2 ^ 32 ∧
      (∀ x < 18, ∀ v, s.dev.sliceAlive x = true → m.roSlice[x]? = some v → u.dev.rd (K.RO_WEAR_2910 x) = v % 65536) ∧
      u.dev.legs = s.dev.legs ∧ u.dev.axes = s.dev.axes ∧ u.mem = s.mem)

/-! ## The core voltage (chapter 02) -/

/-- The core-voltage loop (R53, R54, R56, R57): a short evaluation commands 10 mV more, up to V_MAX, and settles for 500 us; the hundredth
quiet one commands 5 mV less, down to V_MIN; at V_MAX a short one raises source 0x283; the third failed transaction in a row stops the loop
with source 0x282, and after PMB_RETRY the first one that succeeds lets it go on; after every VOUT_COMMAND STATUS_WORD is read, and the alert
pin, which shows in V_STATUS, has it read too. -/
def Obligations.CoreVoltageFollowsTheSlack : Prop :=
  (∀ (s : State) (fsi : Nat), 1 ≤ s.dev.start.stage → s.dev.vcore.settleEnd = none →
    (s.dev.vcore.held = true ∨ s.dev.vcore.last + 1000000 ≤ s.dev.now + 7) → s.dev.bit K.V_STATUS 4 = false → fsi < 2 ^ 16 →
    let short : Bool := s.dev.vcore.held || s.dev.shortSlices ≠ [] || decide (fsi < 3414)
    (short = true → s.dev.rd K.V_MODE = 0 → s.dev.rd K.V_SET < s.dev.rd K.V_MAX →
      Completes (.vcoreLoop fsi) s fun u => u.dev.rd K.V_SET = min (s.dev.rd K.V_SET + 10) (s.dev.rd K.V_MAX) ∧
        u.dev.vcore.settleEnd = some (s.dev.now + 500000) ∧ u.dev.bit K.V_STATUS 6 = true ∧ u.dev.bit K.V_STATUS 3 = decide (fsi < 3414) ∧
        u.dev.rd K.FSI = fsi ∧
        u.dev.out = s.dev.out ++ [.pmbus .voutCommand (min (s.dev.rd K.V_SET + 10) (s.dev.rd K.V_MAX))] ∧
        SlotsKept s u [K.FSI, K.V_SET, K.V_STATUS]) ∧
    (short = true → s.dev.rd K.V_SET = s.dev.rd K.V_MAX →
      Completes (.vcoreLoop fsi) s fun u => u.dev.rd K.V_SET = s.dev.rd K.V_SET ∧ u.dev.bit K.V_STATUS 2 = true ∧ Raised u 0x283 s.dev.nt ∧
        u.dev.out = s.dev.out) ∧
    (short = false → s.dev.vcore.busy = false → 3600 ≤ fsi → 99 ≤ s.dev.vcore.quiet → s.dev.rd K.V_MODE = 0 → s.dev.rd K.V_MIN < s.dev.rd K.V_SET →
      Completes (.vcoreLoop fsi) s fun u => u.dev.rd K.V_SET = max (s.dev.rd K.V_SET - 5) (s.dev.rd K.V_MIN) ∧ u.dev.vcore.quiet = 0 ∧
        u.dev.bit K.V_STATUS 2 = false ∧ u.dev.bit K.V_STATUS 6 = true ∧ SlotsKept s u [K.FSI, K.V_SET, K.V_STATUS])) ∧
  (∀ (s : State) (t : Nat), s.dev.vcore.settleEnd = some t → t ≤ s.dev.now + 7 →
    Completes .settled s fun u => u.dev.vcore.settleEnd = none ∧ u.dev.bit K.V_STATUS 6 = false ∧ SlotsKept s u [K.V_STATUS]) ∧
  (∀ (s : State) (cmd : PmbCommand) (data : Nat), 1 ≤ s.dev.start.stage →
    (2 ≤ s.dev.vcore.fails → s.dev.bit K.V_STATUS 4 = false →
      Completes (.pmbusTransaction cmd false data) s fun u => u.dev.bit K.V_STATUS 4 = true ∧ Raised u 0x282 s.dev.nt ∧
        SlotsKept s u [K.V_STATUS, K.PMB_RETRY]) ∧
    (data < 2 ^ 16 → Completes (.pmbusTransaction .readVout true data) s fun u => u.dev.rd K.V_READ = data ∧ u.dev.vcore.fails = 0 ∧
        SlotsKept s u [K.V_STATUS, K.PMB_RETRY, K.V_READ]) ∧
    (∀ ok, Completes (.pmbusTransaction .voutCommand ok data) s fun u => u.dev.out = s.dev.out ++ [.pmbus .statusWord 0]) ∧
    (s.dev.vcore.retry = true → Completes (.pmbusTransaction cmd false data) s fun u => u.dev.vcore.retry = true) ∧
    (s.dev.vcore.retry = true → Completes (.pmbusTransaction .clearFaults true data) s fun u => u.dev.bit K.V_STATUS 4 = false ∧
        u.dev.vcore.retry = false ∧ u.dev.rd K.PMB_RETRY = 0 ∧ SlotsKept s u [K.V_STATUS, K.PMB_RETRY]) ∧
    ∀ on : Bool, Completes (.pmbAlert on) s fun u => u.dev.bit K.V_STATUS 5 = on ∧
      u.dev.out = s.dev.out ++ (if on then [.pmbus .statusWord 0] else []) ∧ SlotsKept s u [K.V_STATUS])

/-! ## Power-up, device states, losses (chapter 16) -/

/-- Start-up in its steps (R420, R427 to R431, R311): NT starts at 0 at the release of power-on reset with ERR_N asserted; a wake cell is
burnt and 0.80 V commanded; the banks are cleared; the March test shows which passed; a failed lockstep self-test ends in Safe with cause 3;
the slices start without a valid position; the defaults make the objects served; the quarters train; a time source, or 16 ms without one,
makes the device Ready. -/
def Obligations.StartUpReachesReady : Prop :=
  (∀ s : State, s.pow.devState = .off → s.dev.start.up = false →
    Completes .powerOnResetRelease s fun u => u.dev.nt = 0 ∧ u.dev.ntFrac = 0 ∧ u.dev.start.up = true ∧ u.dev.start.stage = 0 ∧ u.pow = s.pow ∧
      (s.dev.fab.ready = false → u.dev.bit K.ERR_STATE 0 = true) ∧ u.dev.legs = s.dev.legs ∧ SlotsKept s u [K.ERR_STATE]) ∧
  (∀ s : State, s.pow.devState = .off → s.dev.start.up = true →
    (s.dev.start.stage = 0 → s.dev.fray.store = [] →
      Completes (.startUpStep .none) s fun u => u.dev.start.stage = 1 ∧ u.dev.rd K.WAKES = min 65536 (s.dev.rd K.WAKES + 1) ∧
        u.dev.rd K.V_SET = 800 ∧ u.dev.out = s.dev.out ++ [.pmbus .voutCommand 800] ∧ u.mem = s.mem ∧ u.pow = s.pow) ∧
    (s.dev.start.stage = 1 →
      Completes (.startUpStep .none) s fun u => u.dev.start.stage = 2 ∧ u.mem = [] ∧ u.dev.memu.poison = [] ∧
        SlotsKept s u [K.LINK_STATE] ∧ u.pow = s.pow) ∧
    (s.dev.start.stage = 2 →
      Completes (.startUpStep .none) s fun u => u.dev.start.stage = 3 ∧ u.dev.rd K.MAINT_MAP = 0 ∧
        u.dev.rd K.START_PASS = maskOf ((List.range 32).filter fun b => !s.dev.memu.dead.contains b)) ∧
    (∀ b < 32, s.dev.start.stage = 2 → s.dev.rd K.START_RESULT = 0 →
      Completes (.startUpStep (.bank b)) s fun u => u.dev.start.stage = 3 ∧ u.dev.rd K.START_RESULT = 1 ∧ b ∈ u.dev.memu.dead ∧
        Raised u 0x286 s.dev.nt) ∧
    (s.dev.start.stage = 3 → s.dev.rd K.START_RESULT = 0 →
      Completes (.startUpStep .postmaster) s fun u => u.pow.devState = .safe ∧ u.dev.rd K.START_RESULT = 3 ∧ u.dev.rd K.SAFE_CAUSE = 3 ∧
        u.dev.fab.ready = true) ∧
    (s.dev.start.stage = 3 →
      Completes (.startUpStep .none) s fun u => u.dev.start.stage = 4 ∧ u.pow = s.pow ∧ ∀ n ∈ s.dev.axisList, u.dev.posValid n = false ∧
        field (u.dev.rd (K.ENC_FLAGS n)) 11 8 = 6 ∧ u.dev.encCnt n = 0 ∧ (u.dev.sw n).levels = 7) ∧
    (s.dev.start.stage = 4 →
      Completes (.startUpStep .none) s fun u => u.dev.start.stage = 5 ∧ u.dev.fab.ready = true ∧ SlotsKept s u [K.ERR_STATE, K.LINK_STATE]) ∧
    (s.dev.start.stage = 5 → s.dev.memu.dead = [] →
      Completes (.startUpStep .none) s fun u => u.dev.start.stage = 6 ∧ ∀ q ∈ s.dev.quarterList, (u.dev.quarter q).trained = true) ∧
    (∀ tref, s.dev.start.stage = 6 → (tref = true ∨ s.dev.lockedHello = true) →
      Completes (.timeSearchEnd tref) s fun u => u.pow.devState = .ready ∧ u.pow.locked = s.pow.locked ∧
        u.dev.rd K.START_RESULT = s.dev.rd K.START_RESULT ∧ SlotsKept s u [K.START_TIME, K.STATE_NT]) ∧
    (s.dev.start.stage = 6 → s.dev.start.at_ + 16000000 ≤ s.dev.now + 7 → s.dev.rd K.START_RESULT = 0 → s.dev.lockedHello = false →
      Completes (.timeSearchEnd false) s fun u => u.pow.devState = .ready ∧ u.dev.rd K.START_RESULT = 5))

/-- A supply loss and a reset go to Off (R92, R342, R422, R430, R431): unlocked, the legs off, every slot at its default but the burnt wake
cells, and over RESET_N the dead-letter log. The requests of 0x1100 (R423 to R426, R432 to R435): each makes its transition of Table 16-2
where Table 16-2 allows it, with the start-up hold, cause 5, on the quarters outside Operating. -/
def Obligations.RequestsAndLossesOfPowerMoveTheDevice : Prop :=
  (∀ s : State,
    (Completes .supplyLoss s fun u => u.pow.devState = .off ∧ u.pow.locked = false ∧ u.dev.fab.ready = false ∧ u.dev.start.up = false ∧
      (∀ l, (u.dev.leg l).pos = .off ∧ (u.dev.leg l).turnOn = none) ∧ u.dev.rd K.WAKES = s.dev.rd K.WAKES ∧
      ∀ k, k ≠ K.WAKES → u.dev.rd k = Dict.dflt s.dev.part k % 2 ^ 64) ∧
    (Completes .resetN s fun u => u.pow.devState = .off ∧ u.pow.locked = false ∧ u.dev.fab.ready = false ∧ u.dev.start.up = false ∧
      (∀ l, (u.dev.leg l).pos = .off ∧ (u.dev.leg l).turnOn = none) ∧ u.dev.rd K.WAKES = s.dev.rd K.WAKES ∧
      (∀ k, k / 256 = 0x2020 → u.dev.rd k = s.dev.rd k) ∧
      ∀ k, k ≠ K.WAKES → k / 256 ≠ 0x2020 → u.dev.rd k = Dict.dflt s.dev.part k % 2 ^ 64)) ∧
  (∀ (s : State) (p : Path), s.reachable p = true → s.dev.fab.ready = true →
    (s.pow.devState = .ready → s.pow.locked = true → s.dev.rd K.RUN = 0 →
      Completes (.run p) s fun u => u.pow.devState = .operating ∧ u.pow.locked = true ∧ u.dev.rd K.STATE_NT = s.dev.nt % 2 ^ 64 ∧
        u.dev.legs = s.dev.legs ∧ ∀ q ∈ s.dev.quarterList, (u.dev.quarter q).causes.testBit 5 = false) ∧
    (s.pow.devState = .operating → s.dev.allDisabled s.dev.axisList = true → s.dev.rd K.STOP = 0 →
      Completes (.stop p) s fun u => u.pow.devState = .ready ∧ u.pow.locked = s.pow.locked ∧
        ∀ q ∈ s.dev.quarterList, u.dev.isSafe q = true ∧ (u.dev.quarter q).causes.testBit 5 = true) ∧
    (s.pow.devState = .ready → s.dev.fw = none → s.dev.rd K.STOW = 0 →
      Completes (.stow p) s fun u => u.pow.devState = .stowed ∧ u.pow.locked = s.pow.locked ∧ u.dev.axes = [] ∧ u.mem = s.mem) ∧
    (s.pow.devState = .stowed → s.dev.rd K.WAKE = 0 →
      Completes (.wake p) s fun u => u.pow.devState = .ready ∧ u.pow.locked = s.pow.locked ∧
        (∀ n ∈ s.dev.axisList, u.dev.posValid n = false ∧ u.dev.encCnt n = 0) ∧ (∀ q ∈ s.dev.quarterList, (u.dev.quarter q).trained = true) ∧
        SlotsKept s u (K.STATE_NT :: s.dev.axisList.flatMap fun n => [K.SW_STATE n, K.ENC_FLAGS n, K.ENC_CNT n, K.ENC_CPS n, K.ENC_VEL n,
          K.SPD_METHOD n, K.CMD_POS n, K.CMD_VEL n, K.CMD_ACC n, K.TARGET n])) ∧
    (s.pow.devState = .safe → s.dev.incOpen = false → s.dev.allDisabled s.dev.axisList = true → s.dev.rd K.SAFE_CAUSE ≠ 3 →
      s.dev.rd K.SAFE_EXIT = 0 →
      Completes (.safeExit p) s fun u => u.pow.devState = .ready ∧ u.dev.bit K.ERR_STATE 2 = false ∧ u.dev.flt.stepSafe = 0 ∧
        ∀ q ∈ s.dev.quarterList, (u.dev.quarter q).causes.testBit 4 = false))

/-- Losses of the host and of the ring (R441 to R443): each sets its flag once per episode and counts in LOSSES; in Operating, with the
Postmaster running and a reaction chosen, HALT is set on every axis of LOSS_AXES outside Disabled; a kick and a restored port end them. -/
def Obligations.LossesAreDetectedAndEnd : Prop :=
  (∀ s : State,
    let lost (kind react : Nat) (u : State) : Prop := u.dev.bit K.LOSS_FLAGS kind = true ∧
      u.dev.rd K.LOSSES = (s.dev.rd K.LOSSES + 1) % 2 ^ 32 ∧ u.pow = s.pow ∧ u.dev.legs = s.dev.legs ∧
      (s.pow.devState = .operating → s.dev.post.halted = none → react ≠ 0 →
        ∀ n ∈ s.dev.axisList, s.dev.bit K.LOSS_AXES n = true → s.dev.axState n ≠ axDisabled → u.dev.bit (K.CONTROL n) 1 = true) ∧
      SlotsKept s u (K.LOSS_FLAGS :: K.LOSSES :: (if s.pow.devState = .operating then s.dev.axisList.map K.CONTROL else []))
    (s.dev.part.full = true → s.dev.loss.linked = true → s.dev.rd K.LINK_STATE ≠ 3 → s.dev.loss.host.testBit 0 = false →
      s.dev.bit K.LOSS_FLAGS 0 = false → Completes .hostLost s (lost 0 (s.dev.rd K.HOST_REACT))) ∧
    (s.dev.rd K.HOST_WD ≠ 0 → s.dev.loss.kick + 1000000 * s.dev.rd K.HOST_WD ≤ s.dev.now + 7 → s.dev.loss.host.testBit 1 = false →
      s.dev.bit K.LOSS_FLAGS 0 = false → Completes .hostWd s (lost 0 (s.dev.rd K.HOST_REACT))) ∧
    (∀ t, s.dev.loss.portsDown = some t → s.dev.loss.listed = true → t + 1000000 * s.dev.rd K.RING_TO ≤ s.dev.now + 7 →
      s.dev.bit K.LOSS_FLAGS 1 = false → Completes .ringLost s (lost 1 (s.dev.rd K.RING_REACT)))) ∧
  (∀ (s : State) (p : Path) (v : Nat), s.reachable p = true → s.dev.fab.ready = true → s.dev.loss.host = 2 → s.dev.bit K.LOSS_FLAGS 0 = true →
    Completes (.wdKick p v) s fun u => u.dev.bit K.LOSS_FLAGS 0 = false ∧ u.dev.loss.kick = s.dev.now ∧ u.dev.loss.host = 0) ∧
  (∀ s : State, s.dev.loss.portsDown = none → s.dev.loss.ring.testBit 1 = false → s.dev.bit K.LOSS_FLAGS 1 = true →
    Completes .ringRestored s fun u => u.dev.bit K.LOSS_FLAGS 1 = false ∧ u.dev.loss.ring = 0 ∧ SlotsKept s u [K.LOSS_FLAGS])

/-- The host link (R347, R349, R350, R438): up, it shows its speed, width and payload size; its resets bring the queues and the link flags
to their defaults, and leave LINK_STATE training, down or as it was; the assertion of PE_PERST_N takes an up link down. Configuration of the
host function and forwarding (R349, R362 to R365): configuration writes show in LINK_FLAGS and MPS, a table entry is stored; a full forward
envelope leaves and counts; a received record enters staging for its queue with FORWARDED set. -/
def Obligations.HostLinkAndItsFunction : Prop :=
  ((∀ (s : State) (speed width mps : Nat), s.dev.part.full = true → s.dev.mail.perst = true → s.dev.ringLive = true →
    s.dev.rd K.LINK_STATE ≠ 3 → 1 ≤ speed → speed ≤ 4 → (width = 1 ∨ width = 2 ∨ width = 4) → (mps = 128 ∨ mps = 256 ∨ mps = 512) →
    Completes (.hostLinkUp speed width mps) s fun u => u.dev.hostUp = true ∧ u.dev.rd K.SPEED = speed ∧ u.dev.rd K.WIDTH = width ∧
      u.dev.rd K.MPS = mps ∧ u.dev.loss.linked = true ∧ (s.dev.loss.host = 1 → u.dev.bit K.LOSS_FLAGS 0 = false) ∧ u.mem = s.mem) ∧
  (∀ s : State, s.dev.hostUp = true →
    let cleared (u : State) : Prop := u.dev.rd K.LINK_FLAGS = 0 ∧ u.dev.rd K.MPS = 128 ∧ (∀ j < 8, u.dev.rd (K.Q_EN j) = 0) ∧
      u.dev.mail.msix = [] ∧ u.dev.mail.queues = [] ∧ u.mem = s.mem
    let down (u : State) : Prop := cleared u ∧ u.dev.rd K.LINK_STATE = 1 ∧
      u.dev.rd K.LINK_DOWNS_1400 = (s.dev.rd K.LINK_DOWNS_1400 + 1) % 2 ^ 32 ∧ Raised u 0x28C s.dev.nt
    (Completes (.hostLinkReset .functionLevel) s fun u => cleared u ∧ u.dev.hostUp = true ∧ u.dev.mail.staging = s.dev.mail.staging) ∧
    (Completes (.hostLinkReset .hotReset) s fun u => cleared u ∧ u.dev.rd K.LINK_STATE = 2) ∧
    Completes (.hostLinkReset .linkDown) s down ∧ Completes (.hostLinkReset .surpriseRemoval) s down ∧
    (s.dev.mail.perst = true → Completes (.pePerstN false) s fun u => down u ∧ u.dev.mail.perst = false))) ∧
  ((∀ s : State, s.dev.hostUp = true →
    (∀ on, (Completes (.configurationWrite (.busMaster on)) s fun u => u.dev.bit K.LINK_FLAGS 0 = on ∧ SlotsKept s u [K.LINK_FLAGS]) ∧
      (Completes (.configurationWrite (.msixEnable on)) s fun u => u.dev.bit K.LINK_FLAGS 1 = on ∧ SlotsKept s u [K.LINK_FLAGS]) ∧
      (Completes (.configurationWrite (.msixMask on)) s fun u => u.dev.bit K.LINK_FLAGS 2 = on ∧ SlotsKept s u [K.LINK_FLAGS]) ∧
      Completes (.configurationWrite (.d3hot on)) s fun u => u.dev.bit K.LINK_FLAGS 3 = on ∧ SlotsKept s u [K.LINK_FLAGS]) ∧
    (∀ n ∈ [128, 256, 512], Completes (.configurationWrite (.maxPayload n)) s fun u => u.dev.rd K.MPS = n ∧ SlotsKept s u [K.MPS]) ∧
    ∀ v < 32, ∀ e, Completes (.bar4Write v e) s fun u => Tab.find u.dev.mail.msix v = some e ∧ u.dev.objs = s.dev.objs) ∧
  (∀ (s : State) (head : Nat), s.dev.passive = false → s.dev.fwdHead = some head → s.dev.mail.fwd.length = 8 →
    Completes .forwardEnvelopeSend s fun u => u.dev.rd K.FWD_SENT = (s.dev.rd K.FWD_SENT + 1) % 2 ^ 32 ∧ u.dev.legs = s.dev.legs ∧
      (s.dev.mail.staging = [] → u.dev.mail.fwd = [])) ∧
  (∀ (s : State) (body : Bytes), s.dev.passive = false → body.length = 32 → s.dev.forwarding = false →
    s.dev.mail.staging.length < stagingSize →
    let r := recOf body
    let q := if s.dev.rd K.FWD_QUEUE = 0xFF then s.dev.rd (K.QUEUE r.src) else s.dev.rd K.FWD_QUEUE
    q ≠ 0xFF →
    Completes (.eventForward body) s fun u => u.dev.rd K.FWD_RCVD = (s.dev.rd K.FWD_RCVD + 1) % 2 ^ 32 ∧
      u.dev.mail.staging = s.dev.mail.staging ++ [{ queue := q, rcd := { r with addr := withBit r.addr 14 true } }] ∧
      SlotsKept s u [K.FWD_RCVD]))

/-! ## The pigeonholes (chapter 11) -/

/-- A word read and the patrol scrubber (R301, R302): a clean word changes nothing; a corrected error counts and raises source 0x285, an
uncorrectable one counts, is shown in LAST_UE and raises source 0x284; the scrubber moves on by one word and stamps its pass. Reads of a
bank (R304, R320, R321): through BAR2 and through the ring window a clean bank returns the bytes that the serving physical bank holds, and
nothing in memory changes; a read of WIN_DATA moves WIN_OFS on by 8; a reserved region of BAR2 reads zeros. -/
def Obligations.WordsAreCheckedAndReadBack : Prop :=
  ((∀ (s : State) (unit b w : Nat), b < 32 → w < 32768 → s.dev.portReads unit b = true → NoMemoryErrors s →
    exec (.bankRead unit b w 0) s = .next s ∧
    (∀ ecc, 1 ≤ ecc → ecc ≤ 72 → Completes (.bankRead unit b w ecc) s fun u => u.dev.rd (K.CE b) = (s.dev.rd (K.CE b) + 1) % 2 ^ 32 ∧
      u.dev.rd K.CE_TOTAL = (s.dev.rd K.CE_TOTAL + 1) % 2 ^ 32 ∧ Raised u 0x285 s.dev.nt ∧ u.dev.memu = s.dev.memu ∧ u.mem = s.mem ∧
      SlotsKept s u [K.CE b, K.CE_TOTAL]) ∧
    (∀ ecc, 72 < ecc → Completes (.bankRead unit b w ecc) s fun u => u.dev.rd (K.UE b) = (s.dev.rd (K.UE b) + 1) % 2 ^ 32 ∧
      u.dev.rd K.UE_TOTAL = (s.dev.rd K.UE_TOTAL + 1) % 2 ^ 32 ∧ u.dev.rd K.LAST_UE = b + 256 * w ∧ Raised u 0x284 s.dev.nt ∧
      s.dev.wordNo b w ∈ u.dev.memu.poison ∧ u.mem = s.mem)) ∧
  (∀ s : State, NoMemoryErrors s →
    Completes (.patrolScrub 0) s fun u => u.dev.memu.scrubAt = (s.dev.memu.scrubAt + 1) % (32 * 32768) ∧ u.mem = s.mem ∧
      (u.dev.memu.scrubAt = 0 → u.dev.rd K.SCRUB_NT = s.dev.nt % 2 ^ 64) ∧ SlotsKept s u [K.SCRUB_NT])) ∧
  ((∀ (s : State) (ofs len : Nat), s.dev.hostUp = true →
    (ofs < 0x800000 → ofs % bankSize + len ≤ bankSize → s.dev.portReads ownerHost (ofs / bankSize) = true →
      s.dev.destroyed (ofs / bankSize) = false → NoMemoryErrors s →
      Completes (.bar2Read ofs len) s fun u => u.mem = s.mem ∧ u.dev.objs = s.dev.objs ∧
        u.dev.out = s.dev.out ++ [.completion (memReads s.mem (s.dev.physAddr (ofs / bankSize) (ofs % bankSize)) len)]) ∧
    (0x800000 ≤ ofs → ofs + len ≤ 0x1000000 → len ≤ bankSize → ofs % bankSize + len ≤ bankSize →
      Completes (.bar2Read ofs len) s fun u => u = s.onDev fun d => d.emit (.completion (List.replicate len 0)))) ∧
  (∀ (s : State) (p : Path), Reaches s p → s.dev.rd K.WIN_OFS < bankSize → s.dev.rd K.WIN_OFS % 8 = 0 → NoMemoryErrors s →
    s.dev.portReads ownerDma (s.dev.rd K.WIN_BANK) = true → s.dev.destroyed (s.dev.rd K.WIN_BANK) = false →
    Completes (.winDataRead p) s fun u => u.mem = s.mem ∧ u.dev.rd K.WIN_OFS = (s.dev.rd K.WIN_OFS + 8) % bankSize ∧
      u.dev.out = s.dev.out ++ [.value p K.WIN_DATA (ofLe (memReads s.mem (s.dev.physAddr (s.dev.rd K.WIN_BANK) (s.dev.rd K.WIN_OFS)) 8))] ∧
      SlotsKept s u [K.WIN_OFS]))

/-- Writes of a bank (R300, R304, R305, R320, R321): the bytes that the owner writes stand at the address of the bank that serves it, and
every other byte is as before, whether a unit, the host through BAR2 or a ring peer through the window writes; a unit that does not own the
bank stores nothing and is counted. -/
def Obligations.OnlyTheOwnerStoresInABank : Prop :=
  (∀ (s : State) (unit b ofs : Nat) (data : Bytes), b < 32 → ofs + data.length ≤ bankSize →
    (s.dev.ownerWrites unit b = true → NoMemoryErrors s → ∀ clash,
      Completes (.bankWrite unit b ofs data clash) s fun u => Stored s u (s.dev.physAddr b ofs) data ∧ u.dev.legs = s.dev.legs ∧
        (4 ≤ b → u.dev.objs = s.dev.objs)) ∧
    (s.dev.ownerWrites unit b = false → s.dev.bit K.MAINT_MAP b = false → ∀ clash,
      Completes (.bankWrite unit b ofs data clash) s fun u => u.mem = s.mem ∧
        u.dev.rd (K.REFUSED_2810 b) = (s.dev.rd (K.REFUSED_2810 b) + 1) % 2 ^ 32 ∧ SlotsKept s u [K.REFUSED_2810 b]) ∧
    (s.dev.ownerWrites unit b = false → s.dev.bit K.MAINT_MAP b = true → unit = ownerPostmaster → s.dev.deadBank b = false →
      Completes (.bankWrite unit b ofs data true) s fun u => u.mem = s.mem ∧ u.dev.rd K.WRITE_LOST = (s.dev.rd K.WRITE_LOST + 1) % 2 ^ 32 ∧
        SlotsKept s u [K.WRITE_LOST])) ∧
  (∀ (s : State) (ofs : Nat) (data : Bytes), s.dev.hostUp = true → data ≠ [] → ofs < 0x800000 → ofs % bankSize + data.length ≤ bankSize →
    let b := ofs / bankSize
    (s.dev.ownerWrites ownerHost b = true → NoMemoryErrors s →
      Completes (.bar2Write ofs data) s fun u => Stored s u (s.dev.physAddr b (ofs % bankSize)) data) ∧
    (s.dev.ownerWrites ownerHost b = false →
      Completes (.bar2Write ofs data) s fun u => u.mem = s.mem ∧ u.dev.rd K.BAR2_DROP = (s.dev.rd K.BAR2_DROP + 1) % 2 ^ 32 ∧
        SlotsKept s u [K.BAR2_DROP, K.REFUSED_2810 b])) ∧
  (∀ (s : State) (p : Path) (v : Nat), Reaches s p → s.dev.rd K.WIN_OFS < bankSize → v < 2 ^ 64 →
    let b := s.dev.rd K.WIN_BANK
    (s.dev.ownerWrites ownerDma b = true → s.dev.rd K.WIN_OFS % 8 = 0 → NoMemoryErrors s →
      Completes (.winDataWrite p v) s fun u => Stored s u (s.dev.physAddr b (s.dev.rd K.WIN_OFS)) (le 8 v) ∧
        u.dev.rd K.WIN_OFS = (s.dev.rd K.WIN_OFS + 8) % bankSize ∧ (4 ≤ b → SlotsKept s u [K.WIN_OFS])) ∧
    (s.dev.ownerWrites ownerDma b = false →
      Completes (.winDataWrite p v) s fun u => u.mem = s.mem ∧ u.dev.rd (statKey p K.LAST_ABORT) = 0x0304 ∧
        SlotsKept s u [statKey p K.LAST_ABORT, statKey p K.LAST_OBJ, statKey p K.ABORTS]))

/-- Handovers and tests of a bank (R306, R309, R310, R314, R316): HAND puts the bank into transit toward NEXT_OWNER, the end of transit
shows the new owner, who accepts it; a handover that HAND_TO ends goes back to the old owner with source 0x287; a test puts the bank into
maintenance, and one that marks no cell ends with result 2, a destructive one with the bank cleared. -/
def Obligations.BanksChangeHandsAndAreTested : Prop :=
  ∀ (s : State) (b : Nat), b < 32 →
    (∀ p, Reaches s p → s.dev.handRefused b = false → s.dev.rd (K.HAND b) = 0 →
      Completes (.hand p b) s fun u => u.dev.rd (K.HAND b) = 1 ∧ u.dev.rd (K.STATE_2810 b) = 1 ∧ u.dev.rd (K.OWNER b) = s.dev.rd (K.OWNER b) ∧
        Tab.find u.dev.memu.hands b = some (s.dev.rd (K.OWNER b), s.dev.rd (K.NEXT_OWNER b), s.dev.now) ∧ u.mem = s.mem) ∧
    (∀ old new t, Tab.find s.dev.memu.hands b = some (old, new, t) → old < 256 → new < 256 →
      let ended (result : Nat) (u : State) : Prop := u.dev.rd (K.STATE_2810 b) = 0 ∧ u.dev.rd (K.HAND b) = 0 ∧
        u.dev.rd (K.HAND_RESULT b) = result ∧ u.dev.rd (K.OWNER b) = (if result = 1 then new else old) ∧
        Tab.find u.dev.memu.hands b = none ∧ u.mem = s.mem ∧ u.dev.legs = s.dev.legs ∧
        SlotsKept s u [K.STATE_2810 b, K.HAND b, K.HAND_RESULT b, K.OWNER b]
      (s.dev.rd (K.STATE_2810 b) = 1 →
        Completes (.transitComplete b) s fun u => u.dev.rd (K.STATE_2810 b) = 2 ∧ u.dev.rd (K.OWNER b) = new ∧ u.mem = s.mem ∧
          SlotsKept s u [K.STATE_2810 b, K.OWNER b]) ∧
      (s.dev.mayAccept b = true → s.dev.rd (K.ACCEPT b) = 0 → ∀ p, Reaches s p → Completes (.accept p b) s (ended 1)) ∧
      (s.dev.rd (K.STATE_2810 b) = 2 → s.dev.mayAccept b = false → Completes (.unitAccept b) s (ended 1)) ∧
      (t + 1000000 * s.dev.rd (K.HAND_TO b) ≤ s.dev.now + 7 →
        Completes (.handTimeout b) s fun u => ended 2 u ∧ Raised u 0x287 s.dev.nt)) ∧
    (∀ p, Reaches s p → s.dev.testRefused b (s.dev.rd (K.TEST_MODE b)) = false → s.dev.rd (K.TEST b) = 0 →
      Completes (.test p b) s fun u => u.dev.rd (K.TEST b) = 1 ∧ u.dev.rd (K.TEST_RESULT b) = 1 ∧ u.dev.bit K.MAINT_MAP b = true ∧
        (∃ x, Tab.find u.dev.memu.tests b = some x ∧ x.line = none ∧ (s.dev.rd (K.TEST_MODE b) = 0 → x.reserve = none)) ∧ u.mem = s.mem) ∧
    (∀ x, Tab.find s.dev.memu.tests b = some x → x.line = none → s.dev.fray.asks = [] →
      Completes (.testEnd b []) s fun u => u.dev.rd (K.TEST b) = 0 ∧ u.dev.rd (K.TEST_RESULT b) = 2 ∧ u.dev.bit K.MAINT_MAP b = false ∧
        Tab.find u.dev.memu.tests b = none ∧ (x.reserve.isSome = true → u.mem = s.mem) ∧
        (x.reserve = none → ∀ a, memRead u.mem a =
          if s.dev.servedBy b * bankSize ≤ a ∧ a < (s.dev.servedBy b + 1) * bankSize then 0 else memRead s.mem a))

/-! ## The fault unit (chapter 12) -/

/-- A raise taken at the arbiter (R327 to R333): it counts, and is classed by the configuration of its source: class 0 acts on nothing,
class 2 and a counting source that reaches N raises within W are severe; a severe raise opens an incident with the source's ceiling, or
merges into the open one and raises its ceiling. -/
def Obligations.RaisesOpenIncidentsOrMerge : Prop :=
  ∀ (s : State) (r : Raise) (rest : List Raise), s.dev.flt.raises = r :: rest → r.src < 0x290 → r.nt < 2 ^ 64 →
    let cfg := s.dev.rd (K.CFG r.src)
    let counted (u : State) : Prop := u.dev.rd (K.COUNT_2400 r.src) = (s.dev.rd (K.COUNT_2400 r.src) + 1) % 2 ^ 32 ∧
      u.dev.rd (K.LAST_NT r.src) = r.nt
    let calm (u : State) : Prop := counted u ∧ (∃ more, u.dev.flt.raises = rest ++ more) ∧ u.dev.rd K.INC_OPEN = s.dev.rd K.INC_OPEN ∧
      u.dev.rd (K.SEVERE r.src) = s.dev.rd (K.SEVERE r.src) ∧ u.dev.legs = s.dev.legs ∧ u.dev.axes = s.dev.axes ∧ u.pow = s.pow
    let opened (u : State) : Prop := counted u ∧ u.dev.rd K.INC_OPEN = 1 ∧ u.dev.rd K.FIRST_SRC = r.src ∧ u.dev.rd K.INC_NT_2010 = r.nt ∧
      u.dev.rd K.STEP_2010 = 0 ∧ u.dev.rd K.CEIL = field cfg 3 2 ∧ u.dev.rd K.MERGES = 0 ∧ u.dev.inMap r.src = true ∧
      u.dev.rd K.INC_NO = s.dev.rd K.INC_NO % 0xFFFF + 1 ∧ u.dev.flt.pulseEnd = some (s.dev.now + 1000 * s.dev.rd K.T_PULSE) ∧
      u.dev.legs = s.dev.legs ∧ u.dev.axes = s.dev.axes ∧ u.pow = s.pow
    let win := s.dev.window r.src r.nt ++ [r.nt]
    (cfg % 4 = 0 → Completes .faultRaise s calm) ∧
    (cfg % 4 = 1 → (win.filter (· ≤ r.nt)).length < s.dev.rd (K.N r.src) →
      Completes .faultRaise s fun u => calm u ∧ Tab.get [] u.dev.flt.windows r.src = win) ∧
    (cfg % 4 = 1 → s.dev.rd (K.N r.src) ≤ (win.filter (· ≤ r.nt)).length → s.dev.rd K.INC_OPEN = 0 →
      Completes .faultRaise s fun u => opened u ∧ Tab.get [] u.dev.flt.windows r.src = []) ∧
    (cfg % 4 = 2 → s.dev.rd K.INC_OPEN = 0 → Completes .faultRaise s opened) ∧
    (cfg % 4 = 2 → s.dev.rd K.INC_OPEN = 1 →
      Completes .faultRaise s fun u => counted u ∧ u.dev.rd K.INC_OPEN = 1 ∧ u.dev.rd K.INC_NO = s.dev.rd K.INC_NO ∧
        u.dev.rd K.MERGES = min (s.dev.rd K.MERGES + 1) 0xFFFF ∧ u.dev.rd K.CEIL = max (s.dev.rd K.CEIL) (field cfg 3 2) ∧
        u.dev.inMap r.src = true)

/-- The ladder and its acknowledgement (R335, R338): a step whose time has come is taken while the ceiling allows it: step 1 requests
Faulted for every axis in the scope, step 2 makes its quarters safe, step 3 takes the device to Safe; an acknowledgement with the incident's
number closes it, another value is ignored and counted. ERR_N, the log and injections (R341, R342, R345): ERR_SW asserts ERR_N beside the
hold and the pulse; a pulse ends at its time; the log is emptied and LOG_TOTAL counts on; an injection is set up, stopped, or ends when
INJ_LEFT has reached 0. -/
def Obligations.LadderLogAndInjections : Prop :=
  ((∀ s : State, s.dev.rd K.INC_OPEN = 1 → s.dev.rd K.STEP_2010 < s.dev.rd K.CEIL → s.dev.rd K.CEIL ≤ 3 → s.dev.rd K.NEXT_STEP_NT ≤ s.dev.nt + 7 →
    Completes .escalationStep s fun u => u.dev.rd K.STEP_2010 = s.dev.rd K.STEP_2010 + 1 ∧
      u.dev.rd K.LOG_TOTAL = (s.dev.rd K.LOG_TOTAL + 1) % 2 ^ 32 ∧ u.dev.rd K.INC_OPEN = 1 ∧
      (s.dev.rd K.STEP_2010 = 0 → u.pow = s.pow ∧ ∀ n ∈ s.dev.scopeAxes, s.dev.axState n ≠ axDisabled → s.dev.axState n ≠ axFaulted →
        (u.dev.axis n).faultReq.isSome = true) ∧
      (s.dev.rd K.STEP_2010 = 1 → u.pow = s.pow ∧ ∀ q ∈ s.dev.scopeQuarters, u.dev.isSafe q = true ∧ u.dev.flt.stepSafe.testBit q = true) ∧
      (s.dev.rd K.STEP_2010 = 2 → s.pow.devState ≠ .safe → s.pow.devState ≠ .off → u.pow.devState = .safe ∧ u.dev.rd K.SAFE_CAUSE = 1)) ∧
  (∀ (s : State) (p : Path) (v : Nat), Reaches s p → v < 2 ^ 16 →
    (s.dev.rd K.INC_OPEN = 1 → s.dev.rd K.INC_NO = v →
      Completes (.ack p v) s fun u => u.dev.rd K.INC_OPEN = 0 ∧ u.dev.rd K.NEXT_STEP_NT = 2 ^ 64 - 1 ∧ u.dev.flt.stepSafe = 0 ∧
        u.dev.rd K.LOG_TOTAL = (s.dev.rd K.LOG_TOTAL + 1) % 2 ^ 32 ∧ u.dev.legs = s.dev.legs ∧ u.pow = s.pow) ∧
    (s.dev.rd K.INC_OPEN = 1 → s.dev.rd K.INC_NO ≠ v →
      Completes (.ack p v) s fun u => u.dev.rd K.INC_OPEN = 1 ∧ u.dev.rd (statKey p K.IGNORED) = (s.dev.rd (statKey p K.IGNORED) + 1) % 2 ^ 32 ∧
        SlotsKept s u [K.ACK, statKey p K.IGNORED]))) ∧
  ((∀ (s : State) (t : Nat), s.dev.flt.pulseEnd = some t → t ≤ s.dev.now + 7 →
    Completes .errPulseEnd s fun u => u.dev.flt.pulseEnd = none ∧ u.dev.bit K.ERR_STATE 1 = false ∧ SlotsKept s u [K.ERR_STATE]) ∧
  (∀ s : State, s.dev.rd K.INJ_GO = 1 → s.dev.rd K.INJ_LEFT = 0 →
    Completes .injectionEnded s fun u => u.dev.rd K.INJ_GO = 0 ∧ u.dev.rd K.LOG_TOTAL = (s.dev.rd K.LOG_TOTAL + 1) % 2 ^ 32 ∧
      u.dev.legs = s.dev.legs ∧ u.mem = s.mem) ∧
  (∀ (s : State) (p : Path), Reaches s p →
    (∀ on, Completes (.errSw p on) s fun u => u.dev.rd K.ERR_SW = on.toNat ∧
      u.dev.bit K.ERR_STATE 0 = (s.dev.bit K.ERR_STATE 2 || s.dev.flt.pulseEnd.isSome || on) ∧ SlotsKept s u [K.ERR_SW, K.ERR_STATE]) ∧
    (s.dev.rd K.LOG_CLEAR = 0 → Completes (.logClear p) s fun u => u.dev.rd K.LOG_HEAD = 0 ∧ (∀ i < 64, u.dev.rd (K.ENTRY i) = 0) ∧
      SlotsKept s u (K.LOG_HEAD :: (List.range 64).map K.ENTRY)) ∧
    (s.injRefused = false → s.dev.rd K.INJ_GO = 0 → Completes (.injGo p) s fun u => u.dev.rd K.INJ_GO = 1 ∧
      u.dev.rd K.INJ_LEFT = s.dev.rd K.INJ_N ∧ u.dev.flt.injFed = 0 ∧ SlotsKept s u [K.INJ_GO, K.INJ_LEFT]) ∧
    (s.dev.rd K.INJ_STOP = 0 → s.dev.rd K.INJ_GO = 1 → Completes (.injStop p) s fun u => u.dev.rd K.INJ_GO = 0 ∧
      u.dev.rd K.LOG_TOTAL = (s.dev.rd K.LOG_TOTAL + 1) % 2 ^ 32)))

/-! ## The mailbag (chapter 13) -/

/-- Queues (R355, R356, R359, R362): enabling one brings PROD and CONS to 0, CONS takes what the host has read; a burst advances PROD by its
records, counts them in DELIVERED and writes the shadow; an expired timer brings the queue's message. -/
def Obligations.QueuesDeliverRecords : Prop :=
  ∀ (s : State) (j : Nat), j < 8 →
    (∀ p, Reaches s p → s.dev.part.full = true →
      (Completes (.qEn p j true) s fun u => u.dev.rd (K.Q_EN j) = 1 ∧ u.dev.rd (K.PROD j) = 0 ∧ u.dev.rd (K.CONS j) = 0 ∧
        (u.dev.queueRt j).zeroShadow = true ∧ SlotsKept s u [K.Q_EN j, K.PROD j, K.CONS j]) ∧
      (Completes (.qEn p j false) s fun u => u.dev.rd (K.Q_EN j) = 0 ∧ SlotsKept s u [K.Q_EN j]) ∧
      (∀ v < 2 ^ 32, s.dev.consBad j v = false →
        Completes (.cons p j v) s fun u => u.dev.rd (K.CONS j) = v ∧ SlotsKept s u [K.CONS j])) ∧
    (∀ n, s.dev.burstLen j = n → n ≠ 0 →
      let prod := (s.dev.rd (K.PROD j) + n) % 2 ^ 32
      Completes (.mailbagBurst j) s fun u => u.dev.rd (K.PROD j) = prod ∧
        u.dev.rd (K.DELIVERED j) = (s.dev.rd (K.DELIVERED j) + n) % 2 ^ 32 ∧ u.dev.mail.staging = (takeStaged j n s.dev.mail.staging).2 ∧
        (∃ o, u.dev.out = s.dev.out ++ o ∧ Out.hostWrite (s.dev.rd (K.SHADOW j)) (le 4 prod) ∈ o) ∧ u.dev.legs = s.dev.legs ∧ u.mem = s.mem) ∧
    (s.dev.modExpired j = true → s.dev.mayWrite = true → s.dev.burstLen j = 0 → s.dev.bit K.LINK_FLAGS 1 = true → s.dev.bit K.LINK_FLAGS 2 = false →
      ∀ e, Tab.find s.dev.mail.msix (s.dev.rd (K.VECTOR j)) = some e → e.masked = false →
        Completes (.modTimeExpiry j) s fun u => u.dev.out = s.dev.out ++ [.msix (s.dev.rd (K.VECTOR j)) e.addr e.data] ∧
          (u.dev.queueRt j).modCount = 0 ∧ u.dev.objs = s.dev.objs)

/-! ## The object dictionary (chapter 03) -/

/-- Reads by a path (R43, R71, R73, R75, R82, R105, R267, R291): a read returns the slot's value; reads of NT, CMD_POS, ENC_CNT and LATCH_NT
latch what belongs to them for the path; an object of an absent axis answers Absent; an 8-byte read through BAR0 returns the slot, a peek
changes no slot, a normal read clears an RC field, and a slot that does not exist returns ones and records its code. -/
def Obligations.ReadsReturnLatchAndClear : Prop :=
  (∀ (s : State) (p : Path), Reaches s p →
    let returned (u : State) (key v : Nat) : Prop := u.dev.out = s.dev.out ++ [.value p key v] ∧ u.dev.objs = s.dev.objs ∧ u.mem = s.mem
    (Completes (.ntRead p) s fun u => returned u K.NT (s.dev.nt % 2 ^ 64) ∧ Tab.find u.dev.fab.ntFrac p.idx = some s.dev.ntFrac) ∧
    ∀ n, s.dev.hasAxis n = true → s.pow.devState ≠ .stowed →
      (Completes (.cmdPosRead p n) s fun u => returned u (K.CMD_POS n) (s.dev.rd (K.CMD_POS n)) ∧
        Tab.find (u.dev.mot n).latch p.idx = some (s.dev.rd (K.CMD_VEL n), s.dev.rd (K.CMD_ACC n), s.dev.rd (K.CMD_NT n))) ∧
      (Completes (.encCntRead p n) s fun u => returned u (K.ENC_CNT n) (s.dev.rd (K.ENC_CNT n)) ∧
        Tab.find (u.dev.encRt n).latchCnt p.idx = some (enc 64 (s.dev.encPosOf n (s.dev.encCnt n)), s.dev.rd (K.ENC_FLAGS n))) ∧
      ∀ i < 3, Completes (.latchNtRead p n i) s fun u => returned u (K.LATCH_NT n i) (s.dev.rd (K.LATCH_NT n i)) ∧
        Tab.find (u.dev.sw n).latch (p.idx * 4 + i) =
          some (s.dev.rd (K.LATCH_CMD n i), s.dev.rd (K.LATCH_ENC n i), s.dev.rd (K.LATCH_FLAGS n i))) ∧
  (∀ (s : State) (p : Path) (n : Nat), Reaches s p → n < 16 → s.dev.hasAxis n = false → s.pow.devState ≠ .stowed →
    Completes (.cmdPosRead p n) s fun u => u.dev.rd (statKey p K.LAST_ABORT) = 0x0101 ∧
      SlotsKept s u [statKey p K.LAST_ABORT, statKey p K.LAST_OBJ, statKey p K.ABORTS]) ∧
  (∀ (s : State) (key : Nat) (r : Dict.Row), s.dev.hostUp = true → key < 2 ^ 24 → s.object key = .ok r → r.acc ≠ .wo →
    ¬ (K.WIN_DATA ≤ key ∧ key ≤ K.WIN_BLOCK 127) →
    let v := s.valueOf .bar0 key % 2 ^ (8 * r.ty.size)
    (Completes (.bar0Read (peekBase + 8 * key) 8) s fun u => u.dev.out = s.dev.out ++ [.completion (le 8 v)] ∧ u.dev.objs = s.dev.objs) ∧
    (r.acc = .ro ∨ r.acc = .rw → key ≠ K.TFLAGS →
      Completes (.bar0Read (8 * key) 8) s fun u => u.dev.out = s.dev.out ++ [.completion (le 8 (s.valueOf .bar0 key % 2 ^ (8 * r.ty.size)))] ∧
        u.dev.objs = s.dev.objs)) ∧
  (∀ s : State, s.dev.hostUp = true → s.dev.fab.ready = true →
    Completes (.bar0Read (8 * K.LAST_ABORT) 8) s fun u => u.dev.rd K.LAST_ABORT = 0 ∧
      u.dev.out = s.dev.out ++ [.completion (le 8 (s.dev.rd K.LAST_ABORT % 2 ^ 16))] ∧ SlotsKept s u [K.LAST_ABORT]) ∧
  (∀ (s : State) (key e : Nat), s.dev.hostUp = true → key < 2 ^ 24 → s.object key = .error e → e ≠ abWriteOnly →
    Completes (.bar0Read (8 * key) 8) s fun u => u.dev.out = s.dev.out ++ [.completion (List.replicate 8 0xFF)] ∧
      u.dev.rd K.LAST_ABORT = e % 2 ^ 64 ∧ u.dev.rd K.LAST_OBJ = key * 256 ∧ SlotsKept s u [K.LAST_ABORT, K.LAST_OBJ, K.ABORTS])

/-- Writes by a path (R69, R71, R76, R84, R90 to R94): a write of an axis limit replaces the slot; a slot that does not exist, a read-only
slot and a locked slot refuse theirs with their codes, and a refused write changes nothing but its record; an 8-byte write through BAR0 is
the object's write, and a write of an axis limit's 4 or 8 bytes there lands; the start lock is requested in Ready, completes with its time, and holds from then on. -/
def Obligations.WritesLandOrAreRefused : Prop :=
  (∀ (s : State) (p : Path) (key v : Nat), s.reachable p = true → key < 2 ^ 24 →
    let refused (code : Nat) (u : State) : Prop := u.dev.rd (statKey p K.LAST_ABORT) = code ∧ u.dev.rd (statKey p K.LAST_OBJ) = key * 256 ∧
      u.dev.rd (statKey p K.ABORTS) = (s.dev.rd (statKey p K.ABORTS) + 1) % 2 ^ 32 ∧ u.pow = s.pow ∧ u.mem = s.mem ∧
      u.dev.legs = s.dev.legs ∧ u.dev.axes = s.dev.axes ∧
      SlotsKept s u [statKey p K.LAST_ABORT, statKey p K.LAST_OBJ, statKey p K.ABORTS]
    (∀ e, s.object key = .error e → Completes (.objectWrite p key v) s (refused (e % 2 ^ 64))) ∧
    (∀ r, s.object key = .ok r → (r.acc = .ro ∨ r.acc = .rc) → Completes (.objectWrite p key v) s (refused 0x0201)) ∧
    (∀ r, s.object key = .ok r → r.acc = .rwl → (s.pow.locked = true ∨ s.dev.rd K.LOCK = 1) → Completes (.objectWrite p key v) s (refused 0x0203)) ∧
    (∀ data : Bytes, p = .bar0 → data.length = 8 → (∃ r, s.object key = .ok r) →
      exec (.bar0Write (8 * key) data) s =
        exec (.objectWrite .bar0 key (ofLe data)) (s.onDev fun d => { d.dropLatch key with fab := { (d.dropLatch key).fab with writeBuf := none } }))) ∧
  (∀ (s : State) (n v : Nat), s.dev.hostUp = true → s.dev.fab.ready = true → s.dev.hasAxis n = true → s.pow.devState ≠ .stowed → 1 ≤ v → v < 2 ^ 31 →
    ∀ key ∈ [K.V_LIM n, K.A_LIM n, K.D_LIM n, K.J_LIM n, K.D_STOP n],
      ∀ data ∈ [le 4 v, le 8 v], Completes (.bar0Write (8 * key) data) s fun u => u.dev.rd key = v ∧ u.dev.legs = s.dev.legs ∧ u.pow = s.pow ∧ u.mem = s.mem ∧
        SlotsKept s u [key]) ∧
  (∀ (s : State) (p : Path) (n v : Nat), Reaches s p → s.dev.hasAxis n = true → s.pow.devState ≠ .stowed → 1 ≤ v → v < 2 ^ 31 →
    ∀ key ∈ [K.V_LIM n, K.A_LIM n, K.D_LIM n, K.J_LIM n, K.D_STOP n],
      Completes (.objectWrite p key v) s fun u => u.dev.rd key = v ∧ u.dev.legs = s.dev.legs ∧ u.dev.axes = s.dev.axes ∧ u.pow = s.pow ∧
        u.mem = s.mem ∧ SlotsKept s u [key]) ∧
  (∀ (s : State) (p : Path), Reaches s p → s.pow.devState = .ready → s.pow.locked = false → s.dev.rd K.LOCK = 0 →
    Completes (.lock p) s fun u => u.dev.rd K.LOCK = 1 ∧ u.pow = s.pow ∧ SlotsKept s u [K.LOCK]) ∧
  (∀ s : State, s.dev.rd K.LOCK = 1 →
    Completes .lockComplete s fun u => u.pow.locked = true ∧ u.pow.devState = s.pow.devState ∧ u.dev.rd K.LOCK = 0 ∧
      u.dev.rd K.LOCK_NT = s.dev.nt % 2 ^ 64 ∧ SlotsKept s u [K.LOCK, K.LOCK_CRC, K.LOCK_NT])

/-- Object requests of the ring and the parity scrubber (R78 to R81, R89): a read answers with the slot's value, a write with the value now
stored, a block read with 16 bytes of map and 8 bytes a slot, and each response is kept; a repeated request is answered from the reply store
without being executed again; the scrubber moves on, and an upset slot, with a stored bit or its parity bit flipped now or before and not
written since, is shown, counted and raised. -/
def Obligations.RingRequestsAreAnsweredOnce : Prop :=
  (∀ (s : State) (r : ObjRequest), s.dev.passive = false → s.dev.hasPort r.port = true →
    (s.dev.fab.replies.find? fun x => x.src = r.src ∧ x.tag = r.tag) = none → (s.dev.fab.executing.filter (s.dev.now < ·)).length < 32 →
    let kept (u : State) (body : Bytes) : Prop := u.dev.fab.replies.head? = some { src := r.src, tag := r.tag, body := body } ∧
      u.pow = s.pow ∧ u.dev.legs = s.dev.legs
    (∀ row, s.object (reqKey r) = .ok row → row.ty.size = r.size → row.acc ≠ .wo → ¬ (K.WIN_DATA ≤ reqKey r ∧ reqKey r ≤ K.WIN_BLOCK 127) →
      let v := s.valueOf (.ring r.src) (reqKey r) % 2 ^ (8 * row.ty.size)
      (Completes (.ringRead r) s fun u => kept u (responseHead 1 r 0 ++ le 8 v) ∧ u.mem = s.mem) ∧
      (Completes (.ringPeekRead r) s fun u => kept u (responseHead 2 r 0 ++ le 8 v) ∧ u.mem = s.mem ∧ u.dev.axes = s.dev.axes)) ∧
    (∀ n, s.dev.hasAxis n = true → s.dev.fab.ready = true → s.pow.devState ≠ .stowed → reqKey r = K.V_LIM n → r.size = 4 →
      1 ≤ r.data → r.data < 2 ^ 31 →
      Completes (.ringWrite r) s fun u => kept u (responseHead 3 r 0 ++ le 8 r.data) ∧ u.dev.rd (K.V_LIM n) = r.data ∧ u.mem = s.mem) ∧
    (∀ row, s.object (reqKey r) = .ok row → row.acc ≠ .wo → 1 ≤ r.size → r.size ≤ 128 → r.sub + r.size ≤ 256 →
      (Completes (.blockRead r) s fun u => ∃ b, kept u (responseHead 4 r 0 ++ b) ∧ b.length = 16 + 8 * r.size ∧ u.mem = s.mem) ∧
      (Completes (.blockPeekRead r) s fun u => ∃ b, kept u (responseHead 5 r 0 ++ b) ∧ b.length = 16 + 8 * r.size ∧ u.mem = s.mem))) ∧
  (∀ (s : State) (r : ObjRequest) (x : Reply), s.dev.passive = false → s.dev.hasPort r.port = true →
    (s.dev.fab.replies.find? fun x => x.src = r.src ∧ x.tag = r.tag) = some x →
    ∀ c ∈ [Instr.ringRead r, .ringPeekRead r, .ringWrite r, .blockRead r, .blockPeekRead r],
      Completes c s fun u => u.dev.rd (statKey (.ring r.src) K.REPLAYED) = (s.dev.rd (statKey (.ring r.src) K.REPLAYED) + 1) % 2 ^ 32 ∧
        u.dev.fab.executing = s.dev.fab.executing ∧ u.pow = s.pow ∧ u.mem = s.mem ∧ u.dev.axes = s.dev.axes ∧ u.dev.legs = s.dev.legs) ∧
  (∀ (s : State) (k : Nat), s.dev.fab.ready = true → s.dev.rd K.INJ_GO = 0 →
    ((s.dev.slotsWhere parityRow).find? fun k => decide (s.dev.fab.scrubAt < k)) = some k →
    let reported (u : State) : Prop := u.dev.rd K.PAR_OBJ = k * 256 ∧ u.dev.rd K.PAR_COUNT = (s.dev.rd K.PAR_COUNT + 1) % 2 ^ 32 ∧
      Raised u 0x280 s.dev.nt
    (Tab.find s.dev.fab.upset k = none →
      (Completes (.parityScrubCheck 0) s fun u => (u.dev.fab.scrubAt = k ∨ u.dev.fab.scrubAt = 0) ∧ u.dev.fab.upset = s.dev.fab.upset ∧
        SlotsKept s u [K.PASS_NT]) ∧
      (∀ flip, 1 ≤ flip → flip ≤ 8 → k ∉ [K.PAR_OBJ, K.PAR_COUNT, K.PASS_NT] →
        Completes (.parityScrubCheck flip) s fun u => reported u ∧ u.dev.rd k = Nat.xor (s.dev.rd k) (2 ^ (flip - 1)) ∧
          Tab.find u.dev.fab.upset k = some 1 ∧ SlotsKept s u [k, K.PAR_OBJ, K.PAR_COUNT, K.PASS_NT]) ∧
      (Completes (.parityScrubCheck 65) s fun u => reported u ∧ Tab.find u.dev.fab.upset k = some 1 ∧
        SlotsKept s u [K.PAR_OBJ, K.PAR_COUNT, K.PASS_NT])) ∧
    (∀ bad, Tab.find s.dev.fab.upset k = some bad → bad ≠ 0 →
      Completes (.parityScrubCheck 0) s fun u => reported u ∧ u.dev.fab.upset = s.dev.fab.upset ∧ SlotsKept s u [K.PAR_OBJ, K.PAR_COUNT, K.PASS_NT]))

/-! ## Writes of axes and units -/

/-- CONTROL (R84, R116, R117, R118, R120, R130, R340, Table 4-3): a write with one field changed changes that field alone; an enable refused
and a FOLLOW_EN refused leave CONTROL and record Inconsistent; a quick stop that is pending answers Busy. -/
def Obligations.ControlWritesChangeOneField : Prop :=
  ∀ (s : State) (p : Path) (n : Nat), Reaches s p → s.dev.hasAxis n = true → s.pow.devState ≠ .stowed → s.dev.rd (K.CONTROL n) < 16 →
    let old := s.dev.rd (K.CONTROL n)
    let set (i : Nat) (on : Bool) (u : State) : Prop := u.dev.rd (K.CONTROL n) = withBit old i on ∧ u.dev.legs = s.dev.legs ∧ u.pow = s.pow ∧
      u.dev.axes = s.dev.axes ∧ SlotsKept s u [K.CONTROL n]
    let refused (code : Nat) (u : State) : Prop := u.dev.rd (statKey p K.LAST_ABORT) = code ∧ u.dev.axes = s.dev.axes ∧
      SlotsKept s u [statKey p K.LAST_ABORT, statKey p K.LAST_OBJ, statKey p K.ABORTS]
    (s.enableRefused n = false ∨ old.testBit 0 = true → Completes (.enable p n true) s (set 0 true)) ∧
    (s.enableRefused n = true → old.testBit 0 = false → Completes (.enable p n true) s (refused 0x0304)) ∧
    Completes (.enable p n false) s (set 0 false) ∧ (∀ on, Completes (.halt p n on) s (set 1 on)) ∧
    (old.testBit 2 = false → s.dev.followRefused n = false → Completes (.followEn p n true) s (set 2 true)) ∧
    (old.testBit 2 = false → s.dev.followRefused n = true → Completes (.followEn p n true) s (refused 0x0304)) ∧
    (old.testBit 2 = true → (s.dev.mot n).follow.engaged = false →
      Completes (.followEn p n false) s fun u => u.dev.rd (K.CONTROL n) = withBit old 2 false ∧ (u.dev.mot n).follow.barred = false ∧
        SlotsKept s u [K.CONTROL n]) ∧
    (old.testBit 3 = false → Completes (.qstop p n) s (set 3 true)) ∧
    (old.testBit 3 = true → Completes (.qstop p n) s (refused 0x0402))

/-- Positions, counts, outputs and homing by software (R106, R266, R278, R282, R292): POS_SET sets the commanded position of a Disabled axis
with a zero fraction and remainder, and is refused outside Disabled; ENC_PRESET sets the count; EMU_EN starts an output or stops it at the
count that its balls show; HOME_START begins homing. -/
def Obligations.PositionsOutputsAndHomingAreSet : Prop :=
  (∀ (s : State) (p : Path) (n : Nat) (v : Int), Reaches s p → s.dev.hasAxis n = true → s.pow.devState ≠ .stowed →
    -(2 ^ 63) ≤ v → v < 2 ^ 63 →
    (s.dev.axState n = axDisabled →
      Completes (.posSet p n v) s fun u => u.dev.cmdPos n = v ∧ (u.dev.mot n).p = 65536 * v ∧ (u.dev.mot n).rem = 0 ∧
        u.dev.rd (K.POS_DOUBT n) = 0 ∧ u.dev.legs = s.dev.legs ∧ SlotsKept s u [K.POS_SET n, K.POS_DOUBT n]) ∧
    (s.dev.axState n ≠ axDisabled →
      Completes (.posSet p n v) s fun u => u.dev.rd (statKey p K.LAST_ABORT) = 0x0204 ∧ u.dev.axes = s.dev.axes ∧
        SlotsKept s u [statKey p K.LAST_ABORT, statKey p K.LAST_OBJ, statKey p K.ABORTS]) ∧
    (Completes (.encPreset p n v) s fun u => u.dev.encCnt n = v ∧ u.dev.legs = s.dev.legs ∧ u.dev.cmdPos n = s.dev.cmdPos n) ∧
    (s.dev.homeRefused n = false → s.dev.rd (K.HOME_START n) = 0 →
      Completes (.homeStart p n) s fun u => (u.dev.home n).running = true ∧ u.dev.rd (K.HOME_START n) = 1 ∧ u.dev.rd (K.HOME_RESULT n) = 1 ∧
        u.dev.rd (K.HOME_PHASE n) = 0 ∧ SlotsKept s u [K.HOME_START n, K.HOME_RESULT n, K.HOME_PHASE n])) ∧
  (∀ (s : State) (p : Path) (m : Nat), Reaches s p → s.dev.hasEmu m = true →
    (Completes (.emuEn p m true) s fun u => u.dev.rd (K.EMU_EN m) = 1 ∧ u.dev.bit (K.EMU_FLAGS m) 0 = true ∧ (u.dev.emuRt m).take = true ∧
      u.dev.out = s.dev.out ∧ SlotsKept s u [K.EMU_EN m, K.EMU_FLAGS m]) ∧
    (Completes (.emuEn p m false) s fun u => u.dev.rd (K.EMU_EN m) = 0 ∧ u.dev.rd (K.EMU_CNT m) = enc 64 (s.dev.emuRt m).shown ∧
      u.dev.rd (K.EMU_LAG m) = 0 ∧ (u.dev.emuRt m).edges = [] ∧ (u.dev.emuRt m).emz = false ∧
      SlotsKept s u [K.EMU_EN m, K.EMU_CNT m, K.EMU_LAG m, K.EMU_FLAGS m]))

/-- Requests to units (R41, R56, R152, R158, R394, R401, R465, R466): each W1 request starts its action: a validation, an NT step, a
cancellation by tag, a retry of the regulator, a patch request, a build; TOD_SEC waits at a free-running root; a build that completes seals
an envelope whose CRC-32 ENV_CRC shows. -/
def Obligations.RequestsStartTheirActions : Prop :=
  (∀ (s : State) (p : Path), Reaches s p →
    (∀ k < 256, s.dev.rd (K.VALIDATE k) = 0 →
      Completes (.validate p k) s fun u => u.dev.rd (K.VALIDATE k) = 1 ∧ SlotsKept s u [K.VALIDATE k]) ∧
    (s.dev.rd K.TSTATE = 3 → s.dev.bit K.TFLAGS 0 = true → s.dev.rd K.STEP_1200 = 0 →
      Completes (.step p) s fun u => u.dev.time.step = some (sext 64 (s.dev.rd K.PENDING_OFS) * 65536) ∧ u.dev.rd K.STEP_1200 = 1 ∧
        u.dev.nt = s.dev.nt ∧ SlotsKept s u [K.STEP_1200]) ∧
    (s.dev.rd K.TSTATE ≠ 3 →
      Completes (.step p) s fun u => u.dev.time = s.dev.time ∧ u.dev.rd (statKey p K.IGNORED) = (s.dev.rd (statKey p K.IGNORED) + 1) % 2 ^ 32 ∧
        SlotsKept s u [statKey p K.IGNORED]) ∧
    (s.dev.isRoot = true → s.dev.rd K.TSTATE ≤ 1 → ∀ v < 2 ^ 64,
      Completes (.todSec p v) s fun u => u.dev.time.tod = some v ∧ u.dev.rd K.TOD_SEC = v ∧ u.dev.nt = s.dev.nt ∧ SlotsKept s u [K.TOD_SEC]) ∧
    (s.dev.rd K.CANCEL = 0 →
      Completes (.cancel p) s fun u => u.dev.rd K.CANCEL = 0 ∧ u.dev.desp.table = s.dev.desp.table.filter (fun l => !cancels (s.dev.rd K.CANCEL_TAG) l) ∧
        ∀ n ∈ s.dev.axisList, (u.dev.axis n).inbox = (s.dev.axis n).inbox.filter fun l => !cancels (s.dev.rd K.CANCEL_TAG) l) ∧
    (s.dev.rd K.PMB_RETRY = 0 →
      Completes (.pmbRetry p) s fun u => u.dev.vcore.retry = true ∧ u.dev.rd K.PMB_RETRY = 1 ∧ u.dev.out = s.dev.out ++ [.pmbus .clearFaults 0] ∧
        SlotsKept s u [K.PMB_RETRY]) ∧
    (s.dev.reqRefused = false → s.dev.rd K.REQ_GO = 0 → s.dev.fray.asks = [] → (s.dev.rd K.REQ_KIND = 0 ∨ s.dev.rd K.REQ_KIND = 3) →
      Completes (.reqGo p) s fun u => u.dev.rd K.REQ_GO = 1 ∧
        u.dev.fray.asks = [{ kind := s.dev.rd K.REQ_KIND, inst := s.dev.rd K.REQ_INST, sub := s.dev.rd K.REQ_SUB, cause := 2 }] ∧
        SlotsKept s u [K.REQ_GO]) ∧
    (s.pow.devState ≠ .off → s.dev.rd K.BUILD = 0 →
      Completes (.build p) s fun u => u.dev.rd K.BUILD = 1 ∧ u.dev.rd K.ENV_STATE = 1 ∧ u.dev.buildNt = s.dev.nt ∧ u.dev.env = s.dev.env ∧
        SlotsKept s u [K.BUILD, K.ENV_STATE])) ∧
  (∀ s : State, s.dev.rd K.BUILD = 1 → s.dev.postRuns = true →
    Completes .buildComplete s fun u => u.dev.rd K.BUILD = 0 ∧
      u.dev.rd K.ENV_STATE = (if s.dev.memu.poison.any (fun w => w / 32768 = s.dev.servedBy 28) then 3 else 2) ∧
      u.dev.rd K.ENV_CRC = crc32 u.dev.env % 2 ^ 64 ∧ u.dev.rd K.BUILDS = (s.dev.rd K.BUILDS + 1) % 2 ^ 32 ∧ u.mem = s.mem ∧ u.dev.legs = s.dev.legs)

/-! ## The Qorush ring (chapter 14) -/

/-- Ports (R366, R367, R378, R380, R381): a port gains synchronisation, negotiates, tries the other mode; a hello names the neighbour and
lets the hold begin, after LINK_HOLD the port is up, and it goes down when its cause holds, wrapping a ring port; hellos leave on every port
that passes frames; at a frame's end the frame has left. -/
def Obligations.PortsComeUpAndGoDown : Prop :=
  ∀ (s : State) (p : Nat), p < 3 →
    let r := s.dev.port p
    (∀ fast, s.dev.portOn p = true → r.synced = false →
      (if s.dev.rd (K.PMODE p) = 0 then fast = r.trying else fast = decide (s.dev.rd (K.PMODE p) = 1)) →
      Completes (.pcsSynchronisation p fast) s fun u => (u.dev.port p).synced = true ∧ (u.dev.port p).fast = fast ∧
        (u.dev.port p).an = false ∧ u.dev.objs = s.dev.objs) ∧
    (s.dev.portOn p = true → r.synced = true → s.dev.rd (K.AN_EN p) = 1 →
      Completes (.autoNegotiationComplete p) s fun u => (u.dev.port p).an = true ∧ SlotsKept s u [K.PLINK p]) ∧
    (s.dev.portOn p = true → r.synced = false → s.dev.rd (K.PMODE p) = 0 →
      max r.tryAt (s.dev.start.tp + 1000000) + 50000000 ≤ s.dev.now + 7 →
      Completes (.lineRateFallback p) s fun u => (u.dev.port p).trying = !r.trying ∧ (u.dev.port p).tryAt = s.dev.now ∧
        u.dev.objs = s.dev.objs) ∧
    (∀ body : Bytes, s.dev.portReady p = true → body.length = 16 →
      Completes (.hello p body) s fun u => u.dev.rd (K.NBR p) = ofLe (slice body 0 8) ∧ (u.dev.port p).hello = true ∧
        (s.dev.rd (K.PLINK p) = 0 → u.dev.rd (K.PLINK p) = 3 ∧ (u.dev.port p).stable = some s.dev.now)) ∧
    (∀ t, r.stable = some t → s.dev.rd (K.PLINK p) = 3 → t + 1000000 * s.dev.rd K.LINK_HOLD ≤ s.dev.now + 7 →
      Completes (.portUp p) s fun u => u.dev.rd (K.PLINK p) = (if r.fast then 2 else 1) ∧ u.dev.rd (K.WRAPPING p) ≠ 1 ∧
        (p < 2 → u.dev.loss.portsDown = none) ∧ SlotsKept s u [K.PLINK p, K.WRAPPING p]) ∧
    (∀ cause, s.dev.hasPort p = true → s.dev.portUp p = true → r.synced = true →
      (cause = 1 ∨ (cause = 2 ∧ s.dev.rd (K.AN_EN p) = 1) ∨ (cause = 3 ∧ r.last + 1000 * s.dev.rd K.LINK_TO ≤ s.dev.now + 7)) →
      Completes (.portDown p cause) s fun u => u.dev.rd (K.PLINK p) = 0 ∧ u.dev.rd (K.NBR p) = 0 ∧
        u.dev.rd (K.LINK_DOWNS_1310 p) = (s.dev.rd (K.LINK_DOWNS_1310 p) + 1) % 2 ^ 32 ∧ Raised u 0x28B s.dev.nt ∧
        (u.dev.port p).synced = decide (cause ≠ 1) ∧ (p < 2 → u.dev.rd (K.WRAPPING p) = 1)) ∧
    (s.dev.ringLive = true → s.dev.post.halted = none → s.dev.ring.lastHello + 100000 ≤ s.dev.now + 7 → s.dev.portReady p = true →
      r.sending = none → r.queue = [] →
      Completes .helloSend s fun u => u.dev.ring.lastHello = s.dev.now ∧
        ∃ f h b, (u.dev.port p).sending = some f ∧ f.what = .frame p h b true ∧ isHello h = true ∧ slice b 0 8 = le 8 s.dev.serial) ∧
    (∀ f, s.dev.portReady p = true → r.sending = some f → f.open_ = none → r.queue = [] →
      Completes (.outputFrameBoundary p) s fun u => u.dev.out = s.dev.out ++ [s.dev.onWire f.what] ∧ (u.dev.port p).sending = none ∧
        u.dev.objs = s.dev.objs)

/-- Envelopes (R368, R374, R376, R378, R383): a frame of another EtherType is discarded and counted; a bad header checksum is counted and the envelope is not taken; a unicast one without hops left is
discarded; one for this device is taken and, once, delivered at its end, an object request with an unknown OP answered with Value out of
range; a duplicate and a bad FCS are counted; an echo request is answered with its bytes. -/
def Obligations.EnvelopesAreRoutedAndDelivered : Prop :=
  (∀ (s : State) (p : Nat) (h : Bytes), p < 2 → s.dev.portReady p = true → h.length = 16 → (s.dev.port p).inHdr = none →
    let e := s.dev.rd K.ETYPE
    (∀ other, other ≠ e → other ≠ 0x88F7 → Completes (.envelopeHeader p other h) s fun u =>
      u.dev.rd (K.DROPPED_1310 p) = (s.dev.rd (K.DROPPED_1310 p) + 1) % 2 ^ 32 ∧ u.dev.ring = s.dev.ring ∧ SlotsKept s u [K.DROPPED_1310 p]) ∧
    (hcrcOk h = false → Completes (.envelopeHeader p e h) s fun u => u.dev.rd (K.HCRC_ERR p) = (s.dev.rd (K.HCRC_ERR p) + 1) % 2 ^ 32 ∧
      u.dev.ring = s.dev.ring ∧ SlotsKept s u [K.HCRC_ERR p]) ∧
    (hcrcOk h = true → s.dev.portUp p = true → isHello h = false → hdrKnown h = true → s.dev.passive = false →
      (hdrEntry h ≠ s.dev.station ∨ hdrWraps h = 1) →
      (s.dev.consumes h = true → Completes (.envelopeHeader p e h) s fun u => (u.dev.port p).inHdr = some h ∧ u.dev.objs = s.dev.objs ∧
        ∀ q, q ≠ p → u.dev.port q = s.dev.port q) ∧
      (s.dev.consumes h = false → destMulticast (hdrDest h) = false → destSegment (hdrDest h) = s.dev.ownSegment → hdrHops h = 0 →
        Completes (.envelopeHeader p e h) s fun u => u.dev.rd (K.DROPPED_1310 p) = (s.dev.rd (K.DROPPED_1310 p) + 1) % 2 ^ 32 ∧
          SlotsKept s u [K.DROPPED_1310 p] ∧ ∀ q, q ≠ p → u.dev.port q = s.dev.port q))) ∧
  (∀ (s : State) (p : Nat) (h body : Bytes), p < 3 → s.dev.portReady p = true → s.dev.rd K.INJ_GO = 0 → (s.dev.port p).inHdr = some h →
    (Completes (.envelopeEnd p false body) s fun u => u.dev.rd (K.FCS_ERR p) = (s.dev.rd (K.FCS_ERR p) + 1) % 2 ^ 32 ∧
      (u.dev.port p).inHdr = none ∧ u.dev.out = s.dev.out ∧ SlotsKept s u [K.FCS_ERR p]) ∧
    (hdrKnown h = true → s.dev.forMe h = true → isHello h = false → (hdrSrc h).testBit 15 = false →
      ((s.dev.duplicate (hdrSrc h) (hdrSeq h)).1 = false →
        (oddRequest p h body = none →
          Completes (.envelopeEnd p true body) s fun u => u.dev.out = s.dev.out ++ [.delivered p h body] ∧ (u.dev.port p).inHdr = none ∧
            SlotsKept s u [K.DUP_EVICT]) ∧
        (∀ op r, oddRequest p h body = some (op, r) → s.dev.passive = false →
          (∀ x ∈ s.dev.fab.replies, ¬ (x.src = r.src ∧ x.tag = r.tag)) → s.dev.fab.executing.length < 32 →
          Completes (.envelopeEnd p true body) s fun u => u.dev.out = s.dev.out ++ [.delivered p h body] ∧
            (u.dev.fab.replies.head?.map fun x => (x.src, x.tag, x.body.take 16)) = some (r.src, r.tag, responseHead op r abRange))) ∧
      ((s.dev.duplicate (hdrSrc h) (hdrSeq h)).1 = true →
        Completes (.envelopeEnd p true body) s fun u => u.dev.out = s.dev.out ∧ u.dev.rd (K.DUPS p) = (s.dev.rd (K.DUPS p) + 1) % 2 ^ 32 ∧
          SlotsKept s u [K.DUPS p]))) ∧
  (∀ (s : State) (p src tIn : Nat) (data : Bytes), s.dev.portUp p = true → s.dev.passive = false → data.length = 8 → src < 2 ^ 15 →
    destSegment src = s.dev.ownSegment →
    let o := s.dev.shorterPort (s.dev.stationToward src)
    s.dev.portUp o = true → (s.dev.port o).sending = none → (s.dev.port o).queue = [] →
    Completes (.echoRequest p src data tIn) s fun u => u.dev.ring.seq = (s.dev.ring.seq + 1) % 2 ^ 16 ∧ u.dev.objs = s.dev.objs ∧
      ∃ f h b, (u.dev.port o).sending = some f ∧ f.what = .frame o h b true ∧ hdrType h = 6 ∧ hdrDest h = src ∧
        slice b 0 16 = data ++ le 8 tIn)

/-- Reports and maps (R384 to R389): a report is kept by serial number and sent when due; a map with a newer epoch, or the first one, gives
its order, the epoch and this device's address; the elected head publishes the next epoch; a station held long enough becomes free. -/
def Obligations.MapsGiveAddresses : Prop :=
  (∀ (s : State) (body : Bytes), s.dev.postRuns = true → body.length = 40 →
    Completes (.report body) s fun u => Tab.find u.dev.ring.reports (reportOf body).serial = some (reportOf body) ∧
      u.dev.ring.map = s.dev.ring.map ∧ SlotsKept s u []) ∧
  (∀ s : State, s.dev.postRuns = true → (s.dev.portUp 0 || s.dev.portUp 1) = true →
    (s.dev.ring.reportNow = true ∨ s.dev.ring.lastReport + 10000000 ≤ s.dev.now + 7) →
    Completes .reportSend s fun u => u.dev.ring.lastReport = s.dev.now ∧ u.dev.ring.reportNow = false ∧ u.mem = s.mem ∧
      (s.dev.rd K.ROLE ≠ 0 → u.dev.objs = s.dev.objs)) ∧
  (∀ (s : State) (body : Bytes), body.length = 8 + 8 * hdrByte body 2 →
    let epoch := ofLe (slice body 0 2)
    let entries := mapEntries (hdrByte body 2) (body.drop 8)
    (s.dev.ring.mapped = false ∨ (1 ≤ (epoch + 65536 - s.dev.rd K.EPOCH) % 65536 ∧ (epoch + 65536 - s.dev.rd K.EPOCH) % 65536 < 32768)) →
    Completes (.segmentMap body) s fun u => u.dev.rd K.EPOCH = epoch ∧ u.dev.ring.map = entries ∧ u.dev.ring.mapped = true ∧
      u.dev.rd K.SEG_COUNT = hdrByte body 2 ∧
      u.dev.rd K.ADDR = match entries.find? fun e => e.serial = s.dev.serial % 2 ^ 48 with
        | some e => hdrByte body 3 % 128 * 128 + e.station
        | none => 0x8000) ∧
  (∀ (s : State) (body : Bytes), body.length = 8 + 2 * hdrByte body 2 → s.dev.ring.sysEpoch = none →
    Completes (.systemMap body) s fun u => u.dev.ring.sysEpoch = some (ofLe (slice body 0 2)) ∧
      u.dev.ring.sysmap = systemPairs (hdrByte body 2) (body.drop 8) ∧ u.dev.objs = s.dev.objs) ∧
  (∀ (s : State) (r : ReportRt) (g : Nat), electHead (ringOrder s.dev.ownReport s.dev.allReports).1 = some r → r.serial = s.dev.serial → s.dev.headSegment = some g →
    s.dev.postRuns = true → s.dev.ring.dirty = true →
    Completes .mapPublish s fun u => u.dev.rd K.EPOCH = (s.dev.rd K.EPOCH + 1) % 65536 ∧ u.dev.ring.mapped = true ∧ u.dev.ring.dirty = false ∧
      u.dev.rd K.ROLE = (if s.dev.rd K.ROLE_CFG = 2 then 2 else 1)) ∧
  (∀ (s : State) (station serial t : Nat), (s.dev.ring.held.find? fun h => h.2.1 = station) = some (serial, station, t) →
    s.dev.postRuns = true → t + 1000000000 * s.dev.rd K.ADDR_HOLD ≤ s.dev.now + 7 →
    Completes (.addrHoldExpiry station) s fun u => Tab.find u.dev.ring.held serial = none ∧ Tab.find u.dev.ring.stations serial = none ∧
      u.dev.objs = s.dev.objs)

/-! ## Network time (chapters 02, 14 and 17) -/

/-- The time source (R40, R41, R390, R393): TREF found makes the device acquire; a source lost leads from Acquiring to Free-running and from
Locked to Holdover; a Sync on another port than the time port changes nothing of the time; one more than 1 us off before the lock steps NT;
TREF followed within 1 ns for 100 ms locks; silence of the time port leaves the lock. -/
def Obligations.TimeFollowsItsSource : Prop :=
  (∀ s : State, s.dev.wantedSource true = 1 → s.dev.bit K.TFLAGS 1 = false → s.dev.rd K.TSTATE = 0 →
    Completes .timeSourceFound s fun u => u.dev.time.tref = true ∧ u.dev.rd K.TIME_PORT = 1 ∧ u.dev.bit K.TFLAGS 1 = true ∧
      u.dev.rd K.TSTATE = 1 ∧ u.dev.nt = s.dev.nt) ∧
  (∀ s : State, s.dev.bit K.TFLAGS 1 = true → s.dev.rd K.TIME_PORT = 1 → s.dev.rd K.TSOURCE = 0 → s.dev.rootRole = true → s.dev.rd K.PORTC_MODE ≠ 4 →
    (s.dev.rd K.TSTATE = 1 → Completes .timeSourceLost s fun u => u.dev.bit K.TFLAGS 1 = false ∧ u.dev.rd K.TSTATE = 0 ∧ u.dev.rd K.RATE = 0) ∧
    (s.dev.rd K.TSTATE = 2 → Completes .timeSourceLost s fun u => u.dev.bit K.TFLAGS 1 = false ∧ u.dev.rd K.TSTATE = 3 ∧
      u.dev.rd K.RATE = s.dev.rd K.RATE ∧ Raised u 0x28A s.dev.nt)) ∧
  (∀ (s : State) (p : Nat) (t1 t2 : Int), p < 3 → s.dev.portReady p = true →
    let theta := t2 - t1 - s.dev.rd (K.MEAN_DELAY p) - s.dev.rdI 32 (K.ASYM p)
    (s.dev.rd K.TIME_PORT ≠ p + 2 → Completes (.sync p t1 t2) s fun u => u.dev.objs = s.dev.objs ∧ u.dev.time = s.dev.time ∧ u.dev.nt = s.dev.nt) ∧
    (s.dev.rd K.TIME_PORT = p + 2 → s.dev.rd K.TSTATE ≤ 1 → 1000000 < theta.natAbs →
      Completes (.sync p t1 t2) s fun u => u.dev.time.step = some (-(theta * 65536 / 1000)) ∧ u.dev.time.lastSync = s.dev.now ∧
        u.dev.rd K.TSTATE = s.dev.rd K.TSTATE ∧ u.dev.nt = s.dev.nt ∧ SlotsKept s u [K.OFFSET])) ∧
  (∀ (s : State) (x : Int) (t : Nat), s.dev.rd K.TIME_PORT = 1 → s.dev.time.tref = true → s.dev.rd K.TSTATE = 1 → x.natAbs ≤ 1000 →
    s.dev.time.trefSince = some t → t + 100000000 ≤ s.dev.now + 7 → (s.dev.rd K.PPS_EN = 0 ∨ s.dev.time.ppsSet = true) →
    Completes (.trefComparison x) s fun u => u.dev.rd K.TSTATE = 2 ∧ u.dev.nt = s.dev.nt ∧ u.dev.legs = s.dev.legs) ∧
  (∀ s : State, s.dev.rd K.TSTATE = 2 → 2 ≤ s.dev.rd K.TIME_PORT →
    s.dev.time.lastSync + s.dev.rd K.HOLD_N * logInterval (s.dev.rdI 16 K.LOG_SYNC) ≤ s.dev.now + 7 →
    Completes .syncTimeout s fun u => u.dev.rd K.TSTATE = 3 ∧ Raised u 0x28A s.dev.nt ∧ u.dev.rd K.RATE = s.dev.rd K.RATE)

/-- NT steps and the second (R40, R42, R394, R459, R460): a step that waits takes NT by exactly its amount and sets STEPPED, and the physical
clock goes on, where the time state allows one; a unit that is Locked takes none; an edge of PPS_IN turns waiting seconds into a step; PPS_OUT rises at whole seconds for 1,250,000 ticks; SYNC_IN pulses of at
least 100 ns are stamped and counted. -/
def Obligations.TimeStepsAndPulses : Prop :=
  (∀ (s : State) (x : Int), s.dev.time.step = some x →
    let total := (((s.dev.nt * 65536 + s.dev.ntFrac : Nat) : Int) + x).toNat
    (s.dev.rd K.TSTATE = 2 → Completes .ntStep s fun u => u.dev.nt = s.dev.nt ∧ u.dev.time.step = none ∧ SlotsKept s u [K.STEP_1200]) ∧
    (s.dev.mayStep = true → Completes .ntStep s fun u => u.dev.nt = total / 65536 % 2 ^ 64 ∧ u.dev.ntFrac = total % 65536 ∧ u.dev.ticks = s.dev.ticks ∧
      u.dev.time.step = none ∧ u.dev.bit K.TFLAGS 2 = true ∧ u.dev.rd K.STEP_1200 = 0 ∧ u.dev.rd K.PENDING_OFS = 0)) ∧
  (∀ (s : State) (ts v : Nat), s.dev.rd K.PPS_EN = 1 → s.dev.isRoot = true → s.dev.rd K.TSTATE ≤ 1 → s.dev.time.tod = some v →
    Completes (.ppsIn ts) s fun u => u.dev.time.step = some ((((v * 1000000000 : Nat) : Int) - ts) * 65536) ∧ u.dev.time.tod = none ∧
      u.dev.objs = s.dev.objs ∧ u.dev.nt = s.dev.nt) ∧
  (∀ (s : State) (t : Nat), s.dev.secondNow = some t → s.dev.start.up = true → s.dev.time.ppsRise ≠ some s.dev.ticks →
    Completes .ppsOutRise s fun u => u.dev.out = s.dev.out ++ [.ppsOut true t] ∧
      u.dev.time.ppsFall = s.dev.time.ppsFall ++ [s.dev.ticks + 1250000] ∧ u.dev.objs = s.dev.objs) ∧
  (∀ (s : State) (t : Nat) (rest : List Nat), s.dev.time.ppsFall = t :: rest → t ≤ s.dev.ticks →
    Completes .ppsOutFall s fun u => u.dev.out = s.dev.out ++ [.ppsOut false s.dev.nt] ∧ u.dev.time.ppsFall = rest ∧ u.dev.objs = s.dev.objs) ∧
  (∀ (s : State) (ts width : Nat), s.dev.start.up = true → ts < 2 ^ 64 →
    (100 ≤ width → Completes (.syncIn ts width) s fun u => u.dev.rd K.SYNC_NT = ts ∧
      u.dev.rd K.SYNC_CNT = (s.dev.rd K.SYNC_CNT + 1) % 2 ^ 32 ∧ SlotsKept s u [K.SYNC_NT, K.SYNC_CNT]) ∧
    (width < 100 → exec (.syncIn ts width) s = .next s))

/-- PTP messages (R391): each leaves an idle port stamped with the NT at which it begins to leave: a Sync on an up ring port that is not the
time port, a request (Delay_Req on a plant port with the end-to-end mechanism), its answer with the arrival time and a follow-up with the
departure, an Announce of a branch in end-station mode; a response gives half of the round trip
less the turnaround; a master's Announce is kept. -/
def Obligations.TimingMessagesAreStamped : Prop :=
  ∀ (s : State) (p : Nat), p < 3 → (s.dev.port p).sending = none → (s.dev.port p).queue = [] →
    let sends (u : State) (o : Out) : Prop := (∃ f, (u.dev.port p).sending = some f ∧ f.what = o ∧ f.cls = 0) ∧ u.dev.nt = s.dev.nt
    (p < 2 → s.dev.portUp p = true → s.dev.rd K.TIME_PORT ≠ p + 2 →
      s.dev.time.lastSyncSend + logInterval (s.dev.rdI 16 K.LOG_SYNC) ≤ s.dev.now + 7 →
      Completes .syncSend s fun u => sends u (.ptp p 1 s.dev.ntPs 0) ∧ u.dev.time.lastSyncSend = s.dev.now) ∧
    (s.dev.portReady p = true → s.dev.peerDelay p = true → ∀ tIn,
      Completes (.pdelayReq p tIn) s fun u => sends u (.ptp p 3 tIn 0) ∧ u.dev.objs = s.dev.objs ∧
        (u.dev.port p).queue = [{ cls := 0, size := 72, what := .ptp p 5 s.dev.ntPs 0 }]) ∧
    (s.dev.portReady p = true → (s.dev.port p).lastPd + logInterval (s.dev.rdI 16 K.LOG_PDELAY) ≤ s.dev.now + 7 →
      Completes (.pdelayReqSend p) s fun u => sends u (.ptp p (if s.dev.peerDelay p then 2 else 6) s.dev.ntPs 0) ∧ (u.dev.port p).lastPd = s.dev.now ∧ u.dev.objs = s.dev.objs) ∧
    (p = 2 → s.dev.rd K.PORTC_MODE = 3 → s.dev.portUp 2 = true → s.dev.time.lastAnnounce + 1000000000 ≤ s.dev.now + 7 →
      Completes .announceSend s fun u => sends u (.ptp 2 4 s.dev.ntPs 0) ∧ u.dev.time.lastAnnounce = s.dev.now ∧ u.dev.objs = s.dev.objs) ∧
    (s.dev.portReady p = true → ∀ t1 t2 t3 t4 : Int,
      Completes (.pdelayResp p t1 t2 t3 t4) s fun u =>
        u.dev.rd (K.MEAN_DELAY p) = (clampI 0 (2 ^ 32 - 1) (((t4 - t1) - (t3 - t2)) / 2)).toNat ∧ SlotsKept s u [K.MEAN_DELAY p]) ∧
    (p = 2 → s.dev.portReady 2 = true → s.dev.rd K.PORTC_MODE = 4 → ∀ master data,
      Completes (.announce master data) s fun u => Tab.find u.dev.time.masters master = some data ∧ u.dev.nt = s.dev.nt)

/-! ## Temperatures and boundary scan -/

/-- Over-temperature and the boundary-scan chain (R463, R12): a die above 140 degC sets its flag and the device's source, shown with its
highest temperature; below 130 degC in every die both clear; TRST_N low resets the ports with BYPASS in every die, and a rising edge of TCK
moves them by TMS, with no effect on the dictionary. -/
def Obligations.TemperaturesAndBoundaryScan : Prop :=
  (∀ (s : State) (die : Nat) (temp : Int), s.dev.start.up = true → die < s.dev.dies → 2240 < temp → temp < 2 ^ 15 →
    Completes (.overTemperature die temp) s fun u => u.dev.bit K.OT_FLAGS die = true ∧ (s.dev.bit K.OT_FLAGS die = false → u.dev.bit (K.SRC_STATUS 0x289) 0 = true) ∧
      u.dev.rdI 16 K.T_HOT = max (s.dev.rdI 16 K.T_HOT) temp ∧
      u.dev.rdI 16 (if die = 0 then K.T_CTRL else K.TDIE (die - 1)) = temp ∧ u.dev.legs = s.dev.legs ∧ u.pow = s.pow ∧
      SlotsKept s u [K.OT_FLAGS, K.SRC_STATUS 0x289, K.T_HOT, if die = 0 then K.T_CTRL else K.TDIE (die - 1)]) ∧
  (∀ (s : State) (temps : List Int), temps.length = s.dev.dies → (∀ t ∈ temps, t < 2080) → s.dev.bit (K.SRC_STATUS 0x289) 0 = true →
    Completes (.overTemperatureEnd temps) s fun u => u.dev.rd K.OT_FLAGS = 0 ∧ u.dev.bit (K.SRC_STATUS 0x289) 0 = false ∧ u.pow = s.pow) ∧
  (∀ (s : State) (rising tms tdi : Bool),
    (Completes (.tckEdge rising tms tdi false) s fun u => u.dev.tap.st = .reset ∧ u.dev.allBypass = true ∧ u.dev.objs = s.dev.objs ∧ u.dev.out = s.dev.out) ∧
    (s.dev.tap.tck = false →
      Completes (.tckEdge true tms tdi true) s fun u => u.dev.tap.st = s.dev.tap.st.next tms ∧ u.dev.tap.tck = true ∧ u.dev.objs = s.dev.objs ∧
        u.dev.out = s.dev.out) ∧
    (s.dev.tap.tck = true → s.dev.tap.st = .shiftDr → s.dev.allBypass = true →
      Completes (.tckEdge false tms tdi true) s fun u => u.dev.out = s.dev.out ++ [.tdo ((s.dev.tap.data.head?).getD false)] ∧
        u.dev.tap.st = .shiftDr ∧ u.dev.objs = s.dev.objs))
end

