-- ==== Sys2Proof/Laws/Commands.lean ====
section
/-! SUPPORT. The shells in which the meanings stand: what a command that acts on the units alone answers, and what a command of units
that are off answers. -/

namespace Sys2Proof.Machine

theorem onDev_eq (s : State) (f : Dev → Dev) : onDev s f = .next (s.onDev f) := rfl

/-- A command that acts on the units alone completes; memory, power state and queue are as before. -/
theorem onDev_frame {s t : State} {f : Dev → Dev} (h : onDev s f = .next t) :
    t.mem = s.mem ∧ t.pow = s.pow ∧ t.pending = s.pending ∧ t.dev = f s.dev := by
  cases h
  exact ⟨rfl, rfl, rfl, rfl⟩

theorem gated_on {s : State} (h : s.unitsOn = true) (o : Host.Outcome State Fault Refusal) : gated s o = o := if_pos h

theorem gated_off {s : State} (h : s.unitsOn = false) (o : Host.Outcome State Fault Refusal) : gated s o = .next s := by
  unfold gated
  rw [h]
  rfl

theorem served_on {s : State} (h : s.pow.devState ≠ .off) (o : Host.Outcome State Fault Refusal) : served s o = o := if_neg h

theorem served_off {s : State} (h : s.pow.devState = .off) (o : Host.Outcome State Fault Refusal) : served s o = .next s := if_pos h

/-- A gated command answers the state as it was, or what it answers in the open. -/
theorem gated_cases (s : State) (o : Host.Outcome State Fault Refusal) : gated s o = o ∨ gated s o = .next s := by
  unfold gated
  split_ifs
  · exact .inl rfl
  · exact .inr rfl

end Sys2Proof.Machine

namespace Sys2Proof

open Sys2Proof.Machine

/-- A statement of completion from the state that exec answers. -/
theorem completes_of_eq {c : Instr} {s t : State} {P : State → Prop} (h : exec c s = .next t) (hp : P t) : Completes c s P := ⟨t, h, hp⟩

end Sys2Proof
end

