-- ==== Sys2Proof/Laws/Tab.lean ====
section
/-! SUPPORT. What the operations of a sparse table do: the entry set is read back, every other entry reads as before, and the keys of a
sorted table stay strictly rising. -/

namespace Sys2Proof.Machine

variable {α : Type}

@[simp] theorem Tab.find_nil (x : Nat) : Tab.find ([] : Tab α) x = none := rfl

theorem Tab.find_cons (k : Nat) (v : α) (t : Tab α) (x : Nat) :
    Tab.find ((k, v) :: t) x = if k = x then some v else Tab.find t x := rfl

/-- Setting an entry, then reading one. -/
theorem Tab.find_put (t : Tab α) (k : Nat) (v : α) (x : Nat) :
    Tab.find (Tab.put t k v) x = if k = x then some v else Tab.find t x := by
  induction t with
  | nil => simp [Tab.put, Tab.find]
  | cons e t ih =>
    obtain ⟨k', v'⟩ := e
    simp only [Tab.put]
    by_cases h : k < k'
    · simp [h, Tab.find]
    · by_cases h' : k = k'
      · subst h'
        simp only [lt_irrefl, if_false, if_true, Tab.find]
        by_cases hx : k = x <;> simp [hx]
      · simp only [h, h', if_false, Tab.find, ih]
        by_cases hx : k' = x
        · subst hx
          simp [h']
        · simp [hx]

@[simp] theorem Tab.find_put_self (t : Tab α) (k : Nat) (v : α) : Tab.find (Tab.put t k v) k = some v := by
  simp [Tab.find_put]

theorem Tab.find_put_ne (t : Tab α) {k x : Nat} (v : α) (h : k ≠ x) : Tab.find (Tab.put t k v) x = Tab.find t x := by
  simp [Tab.find_put, h]

/-- Removing an entry, then reading one. -/
theorem Tab.find_del (t : Tab α) (k x : Nat) : Tab.find (Tab.del t k) x = if k = x then none else Tab.find t x := by
  induction t with
  | nil => simp [Tab.del, Tab.find]
  | cons e t ih =>
    obtain ⟨k', v'⟩ := e
    by_cases h : k' = k
    · subst h
      have : Tab.del ((k', v') :: t) k' = Tab.del t k' := by simp [Tab.del]
      rw [this, ih]
      by_cases hx : k' = x <;> simp [Tab.find, hx]
    · have : Tab.del ((k', v') :: t) k = (k', v') :: Tab.del t k := by simp [Tab.del, h]
      rw [this]
      simp only [Tab.find, ih]
      by_cases hx : k' = x
      · subst hx
        simp [Ne.symm h]
      · simp [hx]

@[simp] theorem Tab.get_put_self (d : α) (t : Tab α) (k : Nat) (v : α) : Tab.get d (Tab.put t k v) k = v := by
  simp [Tab.get]

theorem Tab.get_put_ne (d : α) (t : Tab α) {k x : Nat} (v : α) (h : k ≠ x) : Tab.get d (Tab.put t k v) x = Tab.get d t x := by
  simp [Tab.get, Tab.find_put_ne t v h]

theorem Tab.get_put (d : α) (t : Tab α) (k : Nat) (v : α) (x : Nat) :
    Tab.get d (Tab.put t k v) x = if k = x then v else Tab.get d t x := by
  by_cases h : k = x
  · subst h
    simp
  · simp [h, Tab.get_put_ne]

/-- The canonical store, then a read with the same default. -/
theorem Tab.get_store [DecidableEq α] (d : α) (t : Tab α) (k : Nat) (v : α) (x : Nat) :
    Tab.get d (Tab.store d t k v) x = if k = x then v else Tab.get d t x := by
  unfold Tab.store
  by_cases hv : v = d
  · subst hv
    by_cases h : k = x
    · subst h
      simp [Tab.get, Tab.find_del]
    · simp [Tab.get, Tab.find_del, h]
  · simp [hv, Tab.get_put]

/-- The canonical store leaves every other key's entry, whatever default it is read with. -/
theorem Tab.find_store_ne [DecidableEq α] (d : α) (t : Tab α) {k x : Nat} (v : α) (h : k ≠ x) :
    Tab.find (Tab.store d t k v) x = Tab.find t x := by
  unfold Tab.store
  by_cases hv : v = d <;> simp [hv, Tab.find_del, Tab.find_put, h]

/-- Every key of a table lies above a bound. -/
def Tab.above (b : Nat) (t : Tab α) : Prop := ∀ e ∈ t, b < e.1

theorem Tab.sorted_cons (k : Nat) (v : α) (t : Tab α) :
    Tab.sorted ((k, v) :: t) = true ↔ Tab.above k t ∧ Tab.sorted t = true := by
  induction t generalizing k v with
  | nil => simp [Tab.sorted, Tab.above]
  | cons e t ih =>
    obtain ⟨k', v'⟩ := e
    simp only [Tab.sorted, Bool.and_eq_true, decide_eq_true_eq]
    constructor
    · rintro ⟨h1, h2⟩
      refine ⟨?_, h2⟩
      have ha := ((ih k' v').1 h2).1
      intro e he
      rcases List.mem_cons.1 he with rfl | he
      · exact h1
      · exact lt_trans h1 (ha e he)
    · rintro ⟨h1, h2⟩
      exact ⟨h1 _ List.mem_cons_self, h2⟩

theorem Tab.mem_put (t : Tab α) (k : Nat) (v : α) (e : Nat × α) (h : e ∈ Tab.put t k v) : e = (k, v) ∨ e ∈ t := by
  induction t with
  | nil => simpa [Tab.put] using h
  | cons f t ih =>
    obtain ⟨k', v'⟩ := f
    simp only [Tab.put] at h
    split_ifs at h
    · simpa using h
    · rcases List.mem_cons.1 h with h | h
      · exact Or.inl h
      · exact Or.inr (List.mem_cons_of_mem _ h)
    · rcases List.mem_cons.1 h with h | h
      · exact Or.inr (by simp [h])
      · exact (ih h).imp id (List.mem_cons_of_mem _)

theorem Tab.sorted_put (t : Tab α) (k : Nat) (v : α) (h : Tab.sorted t = true) : Tab.sorted (Tab.put t k v) = true := by
  induction t with
  | nil => rfl
  | cons e t ih =>
    obtain ⟨k', v'⟩ := e
    have ⟨ha, hs⟩ := (Tab.sorted_cons k' v' t).1 h
    simp only [Tab.put]
    split_ifs with h1 h2
    · refine (Tab.sorted_cons _ _ _).2 ⟨?_, h⟩
      intro e he
      rcases List.mem_cons.1 he with rfl | he
      · exact h1
      · exact lt_trans h1 (ha e he)
    · subst h2
      exact (Tab.sorted_cons _ _ _).2 ⟨ha, hs⟩
    · refine (Tab.sorted_cons _ _ _).2 ⟨?_, ih hs⟩
      intro e he
      rcases Tab.mem_put t k v e he with rfl | he
      · simp only
        omega
      · exact ha e he

theorem Tab.sorted_filter (p : Nat × α → Bool) (t : Tab α) (h : Tab.sorted t = true) : Tab.sorted (List.filter p t) = true := by
  induction t with
  | nil => rfl
  | cons e t ih =>
    obtain ⟨k, v⟩ := e
    have ⟨ha, hs⟩ := (Tab.sorted_cons k v t).1 h
    by_cases hp : p (k, v) = true
    · rw [List.filter_cons_of_pos hp]
      exact (Tab.sorted_cons _ _ _).2 ⟨fun e he => ha e (List.mem_filter.1 he).1, ih hs⟩
    · rw [List.filter_cons_of_neg hp]
      exact ih hs

end Sys2Proof.Machine
end

