-- ==== Sys2Proof/Laws/State.lean ====
section
/-! SUPPORT. One lemma per field of State and of Dev for each of their plain updates. -/

namespace Sys2Proof.Machine

@[simp] theorem State.onDev_pending (s : State) (f : Dev → Dev) : (s.onDev f).pending = s.pending := rfl
@[simp] theorem State.onDev_mem (s : State) (f : Dev → Dev) : (s.onDev f).mem = s.mem := rfl
@[simp] theorem State.onDev_pow (s : State) (f : Dev → Dev) : (s.onDev f).pow = s.pow := rfl
@[simp] theorem State.onDev_dev (s : State) (f : Dev → Dev) : (s.onDev f).dev = f s.dev := rfl

/-! ## Dev.wr changes objs alone -/

@[simp] theorem Dev.wr_part (d : Dev) (k v : Nat) : (d.wr k v).part = d.part := rfl
@[simp] theorem Dev.wr_nt (d : Dev) (k v : Nat) : (d.wr k v).nt = d.nt := rfl
@[simp] theorem Dev.wr_ntFrac (d : Dev) (k v : Nat) : (d.wr k v).ntFrac = d.ntFrac := rfl
@[simp] theorem Dev.wr_ticks (d : Dev) (k v : Nat) : (d.wr k v).ticks = d.ticks := rfl
@[simp] theorem Dev.wr_drawn (d : Dev) (k v : Nat) : (d.wr k v).drawn = d.drawn := rfl
@[simp] theorem Dev.wr_out (d : Dev) (k v : Nat) : (d.wr k v).out = d.out := rfl
@[simp] theorem Dev.wr_fab (d : Dev) (k v : Nat) : (d.wr k v).fab = d.fab := rfl
@[simp] theorem Dev.wr_flt (d : Dev) (k v : Nat) : (d.wr k v).flt = d.flt := rfl
@[simp] theorem Dev.wr_mail (d : Dev) (k v : Nat) : (d.wr k v).mail = d.mail := rfl
@[simp] theorem Dev.wr_legs (d : Dev) (k v : Nat) : (d.wr k v).legs = d.legs := rfl
@[simp] theorem Dev.wr_quarters (d : Dev) (k v : Nat) : (d.wr k v).quarters = d.quarters := rfl
@[simp] theorem Dev.wr_coils (d : Dev) (k v : Nat) : (d.wr k v).coils = d.coils := rfl
@[simp] theorem Dev.wr_axes (d : Dev) (k v : Nat) : (d.wr k v).axes = d.axes := rfl
@[simp] theorem Dev.wr_desp (d : Dev) (k v : Nat) : (d.wr k v).desp = d.desp := rfl
@[simp] theorem Dev.wr_emu (d : Dev) (k v : Nat) : (d.wr k v).emu = d.emu := rfl
@[simp] theorem Dev.wr_vcore (d : Dev) (k v : Nat) : (d.wr k v).vcore = d.vcore := rfl
@[simp] theorem Dev.wr_fray (d : Dev) (k v : Nat) : (d.wr k v).fray = d.fray := rfl
@[simp] theorem Dev.wr_memu (d : Dev) (k v : Nat) : (d.wr k v).memu = d.memu := rfl
@[simp] theorem Dev.wr_post (d : Dev) (k v : Nat) : (d.wr k v).post = d.post := rfl
@[simp] theorem Dev.wr_ring (d : Dev) (k v : Nat) : (d.wr k v).ring = d.ring := rfl
@[simp] theorem Dev.wr_time (d : Dev) (k v : Nat) : (d.wr k v).time = d.time := rfl
@[simp] theorem Dev.wr_start (d : Dev) (k v : Nat) : (d.wr k v).start = d.start := rfl
@[simp] theorem Dev.wr_loss (d : Dev) (k v : Nat) : (d.wr k v).loss = d.loss := rfl
@[simp] theorem Dev.wr_fw (d : Dev) (k v : Nat) : (d.wr k v).fw = d.fw := rfl
@[simp] theorem Dev.wr_fwImage (d : Dev) (k v : Nat) : (d.wr k v).fwImage = d.fwImage := rfl
@[simp] theorem Dev.wr_tap (d : Dev) (k v : Nat) : (d.wr k v).tap = d.tap := rfl
@[simp] theorem Dev.wr_env (d : Dev) (k v : Nat) : (d.wr k v).env = d.env := rfl
@[simp] theorem Dev.wr_buildNt (d : Dev) (k v : Nat) : (d.wr k v).buildNt = d.buildNt := rfl

/-! ## Dev.setLeg changes legs alone -/

@[simp] theorem Dev.setLeg_part (d : Dev) (l : Nat) (r : LegRt) : (d.setLeg l r).part = d.part := rfl
@[simp] theorem Dev.setLeg_objs (d : Dev) (l : Nat) (r : LegRt) : (d.setLeg l r).objs = d.objs := rfl
@[simp] theorem Dev.setLeg_nt (d : Dev) (l : Nat) (r : LegRt) : (d.setLeg l r).nt = d.nt := rfl
@[simp] theorem Dev.setLeg_ntFrac (d : Dev) (l : Nat) (r : LegRt) : (d.setLeg l r).ntFrac = d.ntFrac := rfl
@[simp] theorem Dev.setLeg_ticks (d : Dev) (l : Nat) (r : LegRt) : (d.setLeg l r).ticks = d.ticks := rfl
@[simp] theorem Dev.setLeg_drawn (d : Dev) (l : Nat) (r : LegRt) : (d.setLeg l r).drawn = d.drawn := rfl
@[simp] theorem Dev.setLeg_out (d : Dev) (l : Nat) (r : LegRt) : (d.setLeg l r).out = d.out := rfl
@[simp] theorem Dev.setLeg_fab (d : Dev) (l : Nat) (r : LegRt) : (d.setLeg l r).fab = d.fab := rfl
@[simp] theorem Dev.setLeg_flt (d : Dev) (l : Nat) (r : LegRt) : (d.setLeg l r).flt = d.flt := rfl
@[simp] theorem Dev.setLeg_mail (d : Dev) (l : Nat) (r : LegRt) : (d.setLeg l r).mail = d.mail := rfl
@[simp] theorem Dev.setLeg_quarters (d : Dev) (l : Nat) (r : LegRt) : (d.setLeg l r).quarters = d.quarters := rfl
@[simp] theorem Dev.setLeg_coils (d : Dev) (l : Nat) (r : LegRt) : (d.setLeg l r).coils = d.coils := rfl
@[simp] theorem Dev.setLeg_axes (d : Dev) (l : Nat) (r : LegRt) : (d.setLeg l r).axes = d.axes := rfl
@[simp] theorem Dev.setLeg_desp (d : Dev) (l : Nat) (r : LegRt) : (d.setLeg l r).desp = d.desp := rfl
@[simp] theorem Dev.setLeg_emu (d : Dev) (l : Nat) (r : LegRt) : (d.setLeg l r).emu = d.emu := rfl
@[simp] theorem Dev.setLeg_vcore (d : Dev) (l : Nat) (r : LegRt) : (d.setLeg l r).vcore = d.vcore := rfl
@[simp] theorem Dev.setLeg_fray (d : Dev) (l : Nat) (r : LegRt) : (d.setLeg l r).fray = d.fray := rfl
@[simp] theorem Dev.setLeg_memu (d : Dev) (l : Nat) (r : LegRt) : (d.setLeg l r).memu = d.memu := rfl
@[simp] theorem Dev.setLeg_post (d : Dev) (l : Nat) (r : LegRt) : (d.setLeg l r).post = d.post := rfl
@[simp] theorem Dev.setLeg_ring (d : Dev) (l : Nat) (r : LegRt) : (d.setLeg l r).ring = d.ring := rfl
@[simp] theorem Dev.setLeg_time (d : Dev) (l : Nat) (r : LegRt) : (d.setLeg l r).time = d.time := rfl
@[simp] theorem Dev.setLeg_start (d : Dev) (l : Nat) (r : LegRt) : (d.setLeg l r).start = d.start := rfl
@[simp] theorem Dev.setLeg_loss (d : Dev) (l : Nat) (r : LegRt) : (d.setLeg l r).loss = d.loss := rfl
@[simp] theorem Dev.setLeg_fw (d : Dev) (l : Nat) (r : LegRt) : (d.setLeg l r).fw = d.fw := rfl
@[simp] theorem Dev.setLeg_fwImage (d : Dev) (l : Nat) (r : LegRt) : (d.setLeg l r).fwImage = d.fwImage := rfl
@[simp] theorem Dev.setLeg_tap (d : Dev) (l : Nat) (r : LegRt) : (d.setLeg l r).tap = d.tap := rfl
@[simp] theorem Dev.setLeg_env (d : Dev) (l : Nat) (r : LegRt) : (d.setLeg l r).env = d.env := rfl
@[simp] theorem Dev.setLeg_buildNt (d : Dev) (l : Nat) (r : LegRt) : (d.setLeg l r).buildNt = d.buildNt := rfl

/-! ## Dev.setCoil changes coils alone -/

@[simp] theorem Dev.setCoil_part (d : Dev) (c : Nat) (r : CoilRt) : (d.setCoil c r).part = d.part := rfl
@[simp] theorem Dev.setCoil_objs (d : Dev) (c : Nat) (r : CoilRt) : (d.setCoil c r).objs = d.objs := rfl
@[simp] theorem Dev.setCoil_nt (d : Dev) (c : Nat) (r : CoilRt) : (d.setCoil c r).nt = d.nt := rfl
@[simp] theorem Dev.setCoil_ntFrac (d : Dev) (c : Nat) (r : CoilRt) : (d.setCoil c r).ntFrac = d.ntFrac := rfl
@[simp] theorem Dev.setCoil_ticks (d : Dev) (c : Nat) (r : CoilRt) : (d.setCoil c r).ticks = d.ticks := rfl
@[simp] theorem Dev.setCoil_drawn (d : Dev) (c : Nat) (r : CoilRt) : (d.setCoil c r).drawn = d.drawn := rfl
@[simp] theorem Dev.setCoil_out (d : Dev) (c : Nat) (r : CoilRt) : (d.setCoil c r).out = d.out := rfl
@[simp] theorem Dev.setCoil_fab (d : Dev) (c : Nat) (r : CoilRt) : (d.setCoil c r).fab = d.fab := rfl
@[simp] theorem Dev.setCoil_flt (d : Dev) (c : Nat) (r : CoilRt) : (d.setCoil c r).flt = d.flt := rfl
@[simp] theorem Dev.setCoil_mail (d : Dev) (c : Nat) (r : CoilRt) : (d.setCoil c r).mail = d.mail := rfl
@[simp] theorem Dev.setCoil_legs (d : Dev) (c : Nat) (r : CoilRt) : (d.setCoil c r).legs = d.legs := rfl
@[simp] theorem Dev.setCoil_quarters (d : Dev) (c : Nat) (r : CoilRt) : (d.setCoil c r).quarters = d.quarters := rfl
@[simp] theorem Dev.setCoil_axes (d : Dev) (c : Nat) (r : CoilRt) : (d.setCoil c r).axes = d.axes := rfl
@[simp] theorem Dev.setCoil_desp (d : Dev) (c : Nat) (r : CoilRt) : (d.setCoil c r).desp = d.desp := rfl
@[simp] theorem Dev.setCoil_emu (d : Dev) (c : Nat) (r : CoilRt) : (d.setCoil c r).emu = d.emu := rfl
@[simp] theorem Dev.setCoil_vcore (d : Dev) (c : Nat) (r : CoilRt) : (d.setCoil c r).vcore = d.vcore := rfl
@[simp] theorem Dev.setCoil_fray (d : Dev) (c : Nat) (r : CoilRt) : (d.setCoil c r).fray = d.fray := rfl
@[simp] theorem Dev.setCoil_memu (d : Dev) (c : Nat) (r : CoilRt) : (d.setCoil c r).memu = d.memu := rfl
@[simp] theorem Dev.setCoil_post (d : Dev) (c : Nat) (r : CoilRt) : (d.setCoil c r).post = d.post := rfl
@[simp] theorem Dev.setCoil_ring (d : Dev) (c : Nat) (r : CoilRt) : (d.setCoil c r).ring = d.ring := rfl
@[simp] theorem Dev.setCoil_time (d : Dev) (c : Nat) (r : CoilRt) : (d.setCoil c r).time = d.time := rfl
@[simp] theorem Dev.setCoil_start (d : Dev) (c : Nat) (r : CoilRt) : (d.setCoil c r).start = d.start := rfl
@[simp] theorem Dev.setCoil_loss (d : Dev) (c : Nat) (r : CoilRt) : (d.setCoil c r).loss = d.loss := rfl
@[simp] theorem Dev.setCoil_fw (d : Dev) (c : Nat) (r : CoilRt) : (d.setCoil c r).fw = d.fw := rfl
@[simp] theorem Dev.setCoil_fwImage (d : Dev) (c : Nat) (r : CoilRt) : (d.setCoil c r).fwImage = d.fwImage := rfl
@[simp] theorem Dev.setCoil_tap (d : Dev) (c : Nat) (r : CoilRt) : (d.setCoil c r).tap = d.tap := rfl
@[simp] theorem Dev.setCoil_env (d : Dev) (c : Nat) (r : CoilRt) : (d.setCoil c r).env = d.env := rfl
@[simp] theorem Dev.setCoil_buildNt (d : Dev) (c : Nat) (r : CoilRt) : (d.setCoil c r).buildNt = d.buildNt := rfl

/-! ## Dev.setQuarter changes quarters alone -/

@[simp] theorem Dev.setQuarter_part (d : Dev) (q : Nat) (r : QuarterRt) : (d.setQuarter q r).part = d.part := rfl
@[simp] theorem Dev.setQuarter_objs (d : Dev) (q : Nat) (r : QuarterRt) : (d.setQuarter q r).objs = d.objs := rfl
@[simp] theorem Dev.setQuarter_nt (d : Dev) (q : Nat) (r : QuarterRt) : (d.setQuarter q r).nt = d.nt := rfl
@[simp] theorem Dev.setQuarter_ntFrac (d : Dev) (q : Nat) (r : QuarterRt) : (d.setQuarter q r).ntFrac = d.ntFrac := rfl
@[simp] theorem Dev.setQuarter_ticks (d : Dev) (q : Nat) (r : QuarterRt) : (d.setQuarter q r).ticks = d.ticks := rfl
@[simp] theorem Dev.setQuarter_drawn (d : Dev) (q : Nat) (r : QuarterRt) : (d.setQuarter q r).drawn = d.drawn := rfl
@[simp] theorem Dev.setQuarter_out (d : Dev) (q : Nat) (r : QuarterRt) : (d.setQuarter q r).out = d.out := rfl
@[simp] theorem Dev.setQuarter_fab (d : Dev) (q : Nat) (r : QuarterRt) : (d.setQuarter q r).fab = d.fab := rfl
@[simp] theorem Dev.setQuarter_flt (d : Dev) (q : Nat) (r : QuarterRt) : (d.setQuarter q r).flt = d.flt := rfl
@[simp] theorem Dev.setQuarter_mail (d : Dev) (q : Nat) (r : QuarterRt) : (d.setQuarter q r).mail = d.mail := rfl
@[simp] theorem Dev.setQuarter_legs (d : Dev) (q : Nat) (r : QuarterRt) : (d.setQuarter q r).legs = d.legs := rfl
@[simp] theorem Dev.setQuarter_coils (d : Dev) (q : Nat) (r : QuarterRt) : (d.setQuarter q r).coils = d.coils := rfl
@[simp] theorem Dev.setQuarter_axes (d : Dev) (q : Nat) (r : QuarterRt) : (d.setQuarter q r).axes = d.axes := rfl
@[simp] theorem Dev.setQuarter_desp (d : Dev) (q : Nat) (r : QuarterRt) : (d.setQuarter q r).desp = d.desp := rfl
@[simp] theorem Dev.setQuarter_emu (d : Dev) (q : Nat) (r : QuarterRt) : (d.setQuarter q r).emu = d.emu := rfl
@[simp] theorem Dev.setQuarter_vcore (d : Dev) (q : Nat) (r : QuarterRt) : (d.setQuarter q r).vcore = d.vcore := rfl
@[simp] theorem Dev.setQuarter_fray (d : Dev) (q : Nat) (r : QuarterRt) : (d.setQuarter q r).fray = d.fray := rfl
@[simp] theorem Dev.setQuarter_memu (d : Dev) (q : Nat) (r : QuarterRt) : (d.setQuarter q r).memu = d.memu := rfl
@[simp] theorem Dev.setQuarter_post (d : Dev) (q : Nat) (r : QuarterRt) : (d.setQuarter q r).post = d.post := rfl
@[simp] theorem Dev.setQuarter_ring (d : Dev) (q : Nat) (r : QuarterRt) : (d.setQuarter q r).ring = d.ring := rfl
@[simp] theorem Dev.setQuarter_time (d : Dev) (q : Nat) (r : QuarterRt) : (d.setQuarter q r).time = d.time := rfl
@[simp] theorem Dev.setQuarter_start (d : Dev) (q : Nat) (r : QuarterRt) : (d.setQuarter q r).start = d.start := rfl
@[simp] theorem Dev.setQuarter_loss (d : Dev) (q : Nat) (r : QuarterRt) : (d.setQuarter q r).loss = d.loss := rfl
@[simp] theorem Dev.setQuarter_fw (d : Dev) (q : Nat) (r : QuarterRt) : (d.setQuarter q r).fw = d.fw := rfl
@[simp] theorem Dev.setQuarter_fwImage (d : Dev) (q : Nat) (r : QuarterRt) : (d.setQuarter q r).fwImage = d.fwImage := rfl
@[simp] theorem Dev.setQuarter_tap (d : Dev) (q : Nat) (r : QuarterRt) : (d.setQuarter q r).tap = d.tap := rfl
@[simp] theorem Dev.setQuarter_env (d : Dev) (q : Nat) (r : QuarterRt) : (d.setQuarter q r).env = d.env := rfl
@[simp] theorem Dev.setQuarter_buildNt (d : Dev) (q : Nat) (r : QuarterRt) : (d.setQuarter q r).buildNt = d.buildNt := rfl

/-! ## Dev.setAxis changes axes alone -/

@[simp] theorem Dev.setAxis_part (d : Dev) (n : Nat) (r : AxisRt) : (d.setAxis n r).part = d.part := rfl
@[simp] theorem Dev.setAxis_objs (d : Dev) (n : Nat) (r : AxisRt) : (d.setAxis n r).objs = d.objs := rfl
@[simp] theorem Dev.setAxis_nt (d : Dev) (n : Nat) (r : AxisRt) : (d.setAxis n r).nt = d.nt := rfl
@[simp] theorem Dev.setAxis_ntFrac (d : Dev) (n : Nat) (r : AxisRt) : (d.setAxis n r).ntFrac = d.ntFrac := rfl
@[simp] theorem Dev.setAxis_ticks (d : Dev) (n : Nat) (r : AxisRt) : (d.setAxis n r).ticks = d.ticks := rfl
@[simp] theorem Dev.setAxis_drawn (d : Dev) (n : Nat) (r : AxisRt) : (d.setAxis n r).drawn = d.drawn := rfl
@[simp] theorem Dev.setAxis_out (d : Dev) (n : Nat) (r : AxisRt) : (d.setAxis n r).out = d.out := rfl
@[simp] theorem Dev.setAxis_fab (d : Dev) (n : Nat) (r : AxisRt) : (d.setAxis n r).fab = d.fab := rfl
@[simp] theorem Dev.setAxis_flt (d : Dev) (n : Nat) (r : AxisRt) : (d.setAxis n r).flt = d.flt := rfl
@[simp] theorem Dev.setAxis_mail (d : Dev) (n : Nat) (r : AxisRt) : (d.setAxis n r).mail = d.mail := rfl
@[simp] theorem Dev.setAxis_legs (d : Dev) (n : Nat) (r : AxisRt) : (d.setAxis n r).legs = d.legs := rfl
@[simp] theorem Dev.setAxis_quarters (d : Dev) (n : Nat) (r : AxisRt) : (d.setAxis n r).quarters = d.quarters := rfl
@[simp] theorem Dev.setAxis_coils (d : Dev) (n : Nat) (r : AxisRt) : (d.setAxis n r).coils = d.coils := rfl
@[simp] theorem Dev.setAxis_desp (d : Dev) (n : Nat) (r : AxisRt) : (d.setAxis n r).desp = d.desp := rfl
@[simp] theorem Dev.setAxis_emu (d : Dev) (n : Nat) (r : AxisRt) : (d.setAxis n r).emu = d.emu := rfl
@[simp] theorem Dev.setAxis_vcore (d : Dev) (n : Nat) (r : AxisRt) : (d.setAxis n r).vcore = d.vcore := rfl
@[simp] theorem Dev.setAxis_fray (d : Dev) (n : Nat) (r : AxisRt) : (d.setAxis n r).fray = d.fray := rfl
@[simp] theorem Dev.setAxis_memu (d : Dev) (n : Nat) (r : AxisRt) : (d.setAxis n r).memu = d.memu := rfl
@[simp] theorem Dev.setAxis_post (d : Dev) (n : Nat) (r : AxisRt) : (d.setAxis n r).post = d.post := rfl
@[simp] theorem Dev.setAxis_ring (d : Dev) (n : Nat) (r : AxisRt) : (d.setAxis n r).ring = d.ring := rfl
@[simp] theorem Dev.setAxis_time (d : Dev) (n : Nat) (r : AxisRt) : (d.setAxis n r).time = d.time := rfl
@[simp] theorem Dev.setAxis_start (d : Dev) (n : Nat) (r : AxisRt) : (d.setAxis n r).start = d.start := rfl
@[simp] theorem Dev.setAxis_loss (d : Dev) (n : Nat) (r : AxisRt) : (d.setAxis n r).loss = d.loss := rfl
@[simp] theorem Dev.setAxis_fw (d : Dev) (n : Nat) (r : AxisRt) : (d.setAxis n r).fw = d.fw := rfl
@[simp] theorem Dev.setAxis_fwImage (d : Dev) (n : Nat) (r : AxisRt) : (d.setAxis n r).fwImage = d.fwImage := rfl
@[simp] theorem Dev.setAxis_tap (d : Dev) (n : Nat) (r : AxisRt) : (d.setAxis n r).tap = d.tap := rfl
@[simp] theorem Dev.setAxis_env (d : Dev) (n : Nat) (r : AxisRt) : (d.setAxis n r).env = d.env := rfl
@[simp] theorem Dev.setAxis_buildNt (d : Dev) (n : Nat) (r : AxisRt) : (d.setAxis n r).buildNt = d.buildNt := rfl

/-! ## Dev.emit changes out alone -/

@[simp] theorem Dev.emit_part (d : Dev) (o : Out) : (d.emit o).part = d.part := rfl
@[simp] theorem Dev.emit_objs (d : Dev) (o : Out) : (d.emit o).objs = d.objs := rfl
@[simp] theorem Dev.emit_nt (d : Dev) (o : Out) : (d.emit o).nt = d.nt := rfl
@[simp] theorem Dev.emit_ntFrac (d : Dev) (o : Out) : (d.emit o).ntFrac = d.ntFrac := rfl
@[simp] theorem Dev.emit_ticks (d : Dev) (o : Out) : (d.emit o).ticks = d.ticks := rfl
@[simp] theorem Dev.emit_drawn (d : Dev) (o : Out) : (d.emit o).drawn = d.drawn := rfl
@[simp] theorem Dev.emit_fab (d : Dev) (o : Out) : (d.emit o).fab = d.fab := rfl
@[simp] theorem Dev.emit_flt (d : Dev) (o : Out) : (d.emit o).flt = d.flt := rfl
@[simp] theorem Dev.emit_mail (d : Dev) (o : Out) : (d.emit o).mail = d.mail := rfl
@[simp] theorem Dev.emit_legs (d : Dev) (o : Out) : (d.emit o).legs = d.legs := rfl
@[simp] theorem Dev.emit_quarters (d : Dev) (o : Out) : (d.emit o).quarters = d.quarters := rfl
@[simp] theorem Dev.emit_coils (d : Dev) (o : Out) : (d.emit o).coils = d.coils := rfl
@[simp] theorem Dev.emit_axes (d : Dev) (o : Out) : (d.emit o).axes = d.axes := rfl
@[simp] theorem Dev.emit_desp (d : Dev) (o : Out) : (d.emit o).desp = d.desp := rfl
@[simp] theorem Dev.emit_emu (d : Dev) (o : Out) : (d.emit o).emu = d.emu := rfl
@[simp] theorem Dev.emit_vcore (d : Dev) (o : Out) : (d.emit o).vcore = d.vcore := rfl
@[simp] theorem Dev.emit_fray (d : Dev) (o : Out) : (d.emit o).fray = d.fray := rfl
@[simp] theorem Dev.emit_memu (d : Dev) (o : Out) : (d.emit o).memu = d.memu := rfl
@[simp] theorem Dev.emit_post (d : Dev) (o : Out) : (d.emit o).post = d.post := rfl
@[simp] theorem Dev.emit_ring (d : Dev) (o : Out) : (d.emit o).ring = d.ring := rfl
@[simp] theorem Dev.emit_time (d : Dev) (o : Out) : (d.emit o).time = d.time := rfl
@[simp] theorem Dev.emit_start (d : Dev) (o : Out) : (d.emit o).start = d.start := rfl
@[simp] theorem Dev.emit_loss (d : Dev) (o : Out) : (d.emit o).loss = d.loss := rfl
@[simp] theorem Dev.emit_fw (d : Dev) (o : Out) : (d.emit o).fw = d.fw := rfl
@[simp] theorem Dev.emit_fwImage (d : Dev) (o : Out) : (d.emit o).fwImage = d.fwImage := rfl
@[simp] theorem Dev.emit_tap (d : Dev) (o : Out) : (d.emit o).tap = d.tap := rfl
@[simp] theorem Dev.emit_env (d : Dev) (o : Out) : (d.emit o).env = d.env := rfl
@[simp] theorem Dev.emit_buildNt (d : Dev) (o : Out) : (d.emit o).buildNt = d.buildNt := rfl

/-! ## Units read back -/

@[simp] theorem Dev.leg_setLeg_self (d : Dev) (l : Nat) (r : LegRt) : (d.setLeg l r).leg l = r := Tab.get_put_self _ _ _ _
theorem Dev.leg_setLeg_ne (d : Dev) {l m : Nat} (r : LegRt) (h : l ≠ m) : (d.setLeg l r).leg m = d.leg m := Tab.get_put_ne _ _ _ h
@[simp] theorem Dev.coil_setCoil_self (d : Dev) (c : Nat) (r : CoilRt) : (d.setCoil c r).coil c = r := Tab.get_put_self _ _ _ _
theorem Dev.coil_setCoil_ne (d : Dev) {c e : Nat} (r : CoilRt) (h : c ≠ e) : (d.setCoil c r).coil e = d.coil e := Tab.get_put_ne _ _ _ h
@[simp] theorem Dev.quarter_setQuarter_self (d : Dev) (q : Nat) (r : QuarterRt) : (d.setQuarter q r).quarter q = r :=
  Tab.get_put_self _ _ _ _
theorem Dev.quarter_setQuarter_ne (d : Dev) {q p : Nat} (r : QuarterRt) (h : q ≠ p) : (d.setQuarter q r).quarter p = d.quarter p :=
  Tab.get_put_ne _ _ _ h
@[simp] theorem Dev.axis_setAxis_self (d : Dev) (n : Nat) (r : AxisRt) : (d.setAxis n r).axis n = r := Tab.get_put_self _ _ _ _
theorem Dev.axis_setAxis_ne (d : Dev) {n m : Nat} (r : AxisRt) (h : n ≠ m) : (d.setAxis n r).axis m = d.axis m := Tab.get_put_ne _ _ _ h

/-! ## The object store read back (R65, R88) -/

/-- A slot written, then any slot read. -/
theorem Dev.rd_wr (d : Dev) (k v x : Nat) : (d.wr k v).rd x = if k = x then v % 2 ^ 64 else d.rd x := by
  unfold Dev.rd Dev.wr
  by_cases h : k = x
  · subst h
    simp [Tab.get_store]
  · simp [h, Tab.get, Tab.find_store_ne]

@[simp] theorem Dev.rd_wr_self (d : Dev) (k v : Nat) : (d.wr k v).rd k = v % 2 ^ 64 := by simp [Dev.rd_wr]
theorem Dev.rd_wr_ne (d : Dev) {k x : Nat} (v : Nat) (h : k ≠ x) : (d.wr k v).rd x = d.rd x := by simp [Dev.rd_wr, h]

/-- A slot never holds more than 64 bits. -/
theorem Dev.rd_lt (d : Dev) (k : Nat) : d.rd k < 2 ^ 64 := BitVec.isLt _

/-- What reads a slot reads the store and the part alone. -/
theorem Dev.rd_congr {d e : Dev} (ho : d.objs = e.objs) (hp : d.part = e.part) (k : Nat) : d.rd k = e.rd k := by
  simp [Dev.rd, ho, hp]

@[simp] theorem Dev.setLeg_rd (d : Dev) (l : Nat) (r : LegRt) (k : Nat) : (d.setLeg l r).rd k = d.rd k := rfl
@[simp] theorem Dev.setCoil_rd (d : Dev) (c : Nat) (r : CoilRt) (k : Nat) : (d.setCoil c r).rd k = d.rd k := rfl
@[simp] theorem Dev.setQuarter_rd (d : Dev) (q : Nat) (r : QuarterRt) (k : Nat) : (d.setQuarter q r).rd k = d.rd k := rfl
@[simp] theorem Dev.setAxis_rd (d : Dev) (n : Nat) (r : AxisRt) (k : Nat) : (d.setAxis n r).rd k = d.rd k := rfl
@[simp] theorem Dev.emit_rd (d : Dev) (o : Out) (k : Nat) : (d.emit o).rd k = d.rd k := rfl

/-! ## The shorter writes as plain ones -/

theorem Dev.count_eq (d : Dev) (k n : Nat) : d.count k n = d.wr k ((d.rd k + n) % 2 ^ 32) := rfl
theorem Dev.setBit_eq (d : Dev) (k i : Nat) (b : Bool) : d.setBit k i b = d.wr k (withBit (d.rd k) i b) := rfl
theorem Dev.setField_eq (d : Dev) (k hi lo x : Nat) : d.setField k hi lo x = d.wr k (withField (d.rd k) hi lo x) := rfl
theorem Dev.wrI_eq (d : Dev) (w k : Nat) (x : Int) : d.wrI w k x = d.wr k (enc w x) := rfl
theorem Dev.wrs_nil (d : Dev) : d.wrs [] = d := rfl
theorem Dev.wrs_cons (d : Dev) (e : Nat × Nat) (l : List (Nat × Nat)) : d.wrs (e :: l) = (d.wr e.1 e.2).wrs l := rfl

/-- A counter counts modulo 2^32 (log 14); every other slot reads as before. -/
theorem Dev.rd_count (d : Dev) (k n x : Nat) : (d.count k n).rd x = if k = x then (d.rd k + n) % 2 ^ 32 else d.rd x := by
  rw [Dev.count_eq, Dev.rd_wr]
  by_cases h : k = x
  · subst h
    rw [if_pos rfl, if_pos rfl, Nat.mod_eq_of_lt]
    have := Nat.mod_lt (d.rd k + n) (show 0 < 2 ^ 32 by decide)
    omega
  · rw [if_neg h, if_neg h]

/-- Slots written in a list leave every other slot. -/
theorem Dev.rd_wrs_ne (l : List (Nat × Nat)) : ∀ (d : Dev) (x : Nat), (∀ e ∈ l, e.1 ≠ x) → (d.wrs l).rd x = d.rd x := by
  induction l with
  | nil => intro d x _; rfl
  | cons e t ih =>
    intro d x h
    rw [Dev.wrs_cons, ih _ _ fun f hf => h f (List.mem_cons_of_mem _ hf), Dev.rd_wr_ne _ _ (h e List.mem_cons_self)]

/-- Slots written in a list leave every field but the store. -/
theorem Dev.wrs_objs_only (l : List (Nat × Nat)) : ∀ (d : Dev), d.wrs l = { d with objs := (d.wrs l).objs } := by
  induction l with
  | nil => intro d; rfl
  | cons e t ih =>
    intro d
    rw [Dev.wrs_cons, ih]
    rfl

/-- What every turn of a fold keeps, the fold keeps. -/
theorem foldl_keeps {α β γ : Type} (p : β → γ) (f : β → α → β) (h : ∀ b a, p (f b a) = p b) (l : List α) :
    ∀ b, p (l.foldl f b) = p b := by
  induction l with
  | nil => intro b; rfl
  | cons a t ih => intro b; rw [List.foldl_cons, ih, h]

end Sys2Proof.Machine
end

