-- ==== Sys2Proof/Laws/Events.lean ====
section
/-! SUPPORT. What a raise and the posting of an event record can change: one lemma each, for whoever proves a command's frame. -/

namespace Sys2Proof.Machine

/-- A raise changes the raises on their way alone: it adds one, or, for an absent unit or an unassigned source, none (R326, R327). -/
theorem Dev.raise_cases (d : Dev) (src nt : Nat) (i : Bool) :
    d.raise src nt i = d ∨
      d.raise src nt i = { d with flt := { d.flt with raises := d.flt.raises ++ [{ src := src, nt := nt, injected := i }] } } := by
  unfold Dev.raise
  split_ifs
  · exact .inr rfl
  · exact .inl rfl

theorem Dev.raise_frame (d : Dev) (src nt : Nat) (i : Bool) : ∃ f, d.raise src nt i = { d with flt := f } := by
  rcases Dev.raise_cases d src nt i with h | h <;> rw [h] <;> exact ⟨_, rfl⟩

@[simp] theorem Dev.raise_rd (d : Dev) (src nt : Nat) (i : Bool) (k : Nat) : (d.raise src nt i).rd k = d.rd k := by
  obtain ⟨f, h⟩ := Dev.raise_frame d src nt i
  rw [h]
  rfl

/-- A present source's raise is on its way. -/
theorem Dev.raised_of_present (d : Dev) (src nt : Nat) (i : Bool) (ha : Dict.sourceAssigned src = true)
    (hp : (Dict.Owner.source src).present d.part = true) :
    { src := src, nt := nt, injected := i } ∈ (d.raise src nt i).flt.raises := by
  unfold Dev.raise
  rw [if_pos ⟨ha, hp⟩]
  simp

/-- Records move from staging to the forward envelope: the mailbag alone changes (R363). -/
theorem Dev.fwdFill_frame (d : Dev) : ∃ m, d.fwdFill = { d with mail := m } := by
  unfold Dev.fwdFill
  dsimp only
  split_ifs <;> exact ⟨_, rfl⟩

/-- A dropped record changes two counters and the raises (R353). -/
theorem Dev.dropRecord_frame (d : Dev) (r : EventRec) : ∃ o f, d.dropRecord r = { d with objs := o, flt := f } := by
  unfold Dev.dropRecord
  obtain ⟨f, h⟩ := Dev.raise_frame ((if r.addr.testBit 14 then d else d.count (K.LOST_TOTAL r.src)).count K.DROPPED_1440) 0x28D
    (if r.addr.testBit 14 then d else d.count (K.LOST_TOTAL r.src)).nt false
  dsimp only
  rw [h]
  split_ifs <;> exact ⟨_, _, rfl⟩

/-- A record staged or dropped changes the store, the mailbag and the raises alone. -/
theorem Dev.stage_frame (d : Dev) (q : Nat) (r : EventRec) : ∃ o m f, d.stage q r = { d with objs := o, mail := m, flt := f } := by
  unfold Dev.stage
  split_ifs
  · obtain ⟨o, f, h⟩ := Dev.dropRecord_frame d r
    exact ⟨o, d.mail, f, h⟩
  · dsimp only
    generalize hx : (Dev.wr ({ d with mail := { d.mail with staging := d.mail.staging ++ [{ queue := q, rcd := r }] } } : Dev)
      K.STAGE_HIGH _) = x
    obtain ⟨m, h⟩ := Dev.fwdFill_frame x
    rw [h, ← hx]
    exact ⟨_, _, _, rfl⟩

/-- Posting an event record changes the store, the mailbag and the raises alone (R351 to R358). -/
theorem Dev.event_frame (d : Dev) (src type obj nt : Nat) (b : Bytes) :
    ∃ o m f, d.event src type obj nt b = { d with objs := o, mail := m, flt := f } := by
  unfold Dev.event
  dsimp only
  split_ifs
  · exact ⟨_, _, _, rfl⟩
  all_goals
    generalize hr : ({ src := src, seq := _, nt := nt, type := type, obj := obj, addr := _, payload := _ } : EventRec) = r
    obtain ⟨o, m, f, h⟩ := Dev.stage_frame (d.wr (K.NEXT_SEQ src) ((d.rd (K.NEXT_SEQ src) + 1) % 2 ^ 24)) (d.rd (K.QUEUE src)) r
    rw [h]
    exact ⟨_, _, _, rfl⟩

/-- A slot that posting does not write reads as before a record was dropped. -/
theorem Dev.dropRecord_rd (d : Dev) (r : EventRec) (k : Nat) (h1 : k ≠ K.DROPPED_1440) (h2 : k ≠ K.LOST_TOTAL r.src) :
    (d.dropRecord r).rd k = d.rd k := by
  unfold Dev.dropRecord
  dsimp only
  rw [Dev.raise_rd, Dev.rd_count, if_neg h1.symm]
  split_ifs
  · rfl
  · rw [Dev.rd_count, if_neg h2.symm]

/-- Staging a record writes STAGE_HIGH and, where it is dropped, its counters; every other slot reads as before. -/
theorem Dev.stage_rd (d : Dev) (q : Nat) (r : EventRec) (k : Nat) (h1 : k ≠ K.DROPPED_1440) (h2 : k ≠ K.LOST_TOTAL r.src)
    (h3 : k ≠ K.STAGE_HIGH) : (d.stage q r).rd k = d.rd k := by
  unfold Dev.stage
  split_ifs
  · exact Dev.dropRecord_rd d r k h1 h2
  · dsimp only
    generalize hx : (Dev.wr ({ d with mail := { d.mail with staging := d.mail.staging ++ [{ queue := q, rcd := r }] } } : Dev)
      K.STAGE_HIGH _) = x
    obtain ⟨m, h⟩ := Dev.fwdFill_frame x
    rw [h]
    show x.rd k = d.rd k
    rw [← hx, Dev.rd_wr, if_neg h3.symm]
    rfl

/-- A slot that is none of the posting slots reads as before an event was posted. -/
theorem Dev.event_rd (d : Dev) (src type obj nt : Nat) (b : Bytes) (k : Nat) (hs : src < 64) (hk : postingSlot k = false) :
    (d.event src type obj nt b).rd k = d.rd k := by
  have h1 : k ≠ K.STAGE_HIGH := by rintro rfl; simp [postingSlot] at hk
  have h2 : k ≠ K.DROPPED_1440 := by rintro rfl; simp [postingSlot] at hk
  have h3 : k ≠ K.LOST_TOTAL src := by
    rintro rfl
    simp only [postingSlot, Bool.or_eq_false_iff, List.any_eq_false] at hk
    exact (hk.2 src (List.mem_range.2 hs)) (by simp)
  have h4 : k ≠ K.NEXT_SEQ src := by
    rintro rfl
    simp only [postingSlot, Bool.or_eq_false_iff, List.any_eq_false] at hk
    exact (hk.2 src (List.mem_range.2 hs)) (by simp)
  unfold Dev.event
  dsimp only
  split_ifs
  · rfl
  all_goals rw [Dev.stage_rd _ _ _ _ h2 h3 h1, Dev.rd_wr, if_neg h4.symm]

end Sys2Proof.Machine
end

