-- ==== Sys2Proof/Laws/Gate.lean ====
section
/-! SUPPORT. What the shared operations of the gate drive can change: legs off, letters of an axis discarded, identification ended, the
quarter safe state. -/

namespace Sys2Proof.Machine

/-- A frame that every turn of a fold keeps, the fold keeps. -/
theorem foldl_frame {α : Type} (R : Dev → Dev → Prop) (refl : ∀ d, R d d) (trans : ∀ a b c, R a b → R b c → R a c)
    (f : Dev → α → Dev) (h : ∀ d a, R d (f d a)) (l : List α) : ∀ d, R d (l.foldl f d) := by
  induction l with
  | nil => intro d; exact refl d
  | cons a t ih => intro d; exact trans _ _ _ (h d a) (ih _)

/-! ## Legs off (R229) -/

/-- A leg turned off: the legs alone change. -/
theorem Dev.legOff_frame (d : Dev) (l : Nat) : ∃ t, d.legOff l = { d with legs := t } := by
  unfold Dev.legOff
  dsimp only
  split_ifs <;> exact ⟨_, rfl⟩

/-- A leg turned off is off, with no turn-on and no edge to come. -/
theorem Dev.legOff_off (d : Dev) (l : Nat) :
    ((d.legOff l).leg l).pos = .off ∧ ((d.legOff l).leg l).turnOn = none ∧ ((d.legOff l).leg l).due = [] := by
  unfold Dev.legOff
  dsimp only
  split_ifs with h
  · exact h
  all_goals simp

/-- A leg turned off leaves every other leg. -/
theorem Dev.legOff_other (d : Dev) {l m : Nat} (h : l ≠ m) : (d.legOff l).leg m = d.leg m := by
  unfold Dev.legOff
  dsimp only
  split_ifs
  · rfl
  all_goals exact Dev.leg_setLeg_ne _ _ h

/-- The legs of an axis off: the legs alone change. -/
theorem Dev.axisLegsOff_frame (d : Dev) (n : Nat) : ∃ t, d.axisLegsOff n = { d with legs := t } := by
  refine foldl_frame (fun a b => ∃ t, b = { a with legs := t }) (fun a => ⟨_, rfl⟩) ?_ _ ?_ _ d
  · rintro a _ _ ⟨_, rfl⟩ ⟨_, rfl⟩
    exact ⟨_, rfl⟩
  · intro a l
    obtain ⟨t, h⟩ := Dev.legOff_frame a l
    rw [h]
    exact ⟨_, rfl⟩

/-- Legs off one after the other, with nothing held: those of the list are off and empty, the others as before. -/
theorem Dev.legsOff_legs (ls : List Nat) : ∀ (d : Dev) (m : Nat),
    (m ∈ ls ∨ ((d.leg m).pos = .off ∧ (d.leg m).turnOn = none ∧ (d.leg m).due = [] ∧ (d.leg m).held = [] ∧ (d.leg m).goSet = []) →
      let e := ls.foldl (fun d l => (d.legOff l).dropLetters l) d
      (e.leg m).pos = .off ∧ (e.leg m).turnOn = none ∧ (e.leg m).due = [] ∧ (e.leg m).held = [] ∧ (e.leg m).goSet = []) ∧
    (m ∉ ls → (ls.foldl (fun d l => (d.legOff l).dropLetters l) d).leg m = d.leg m) := by
  induction ls with
  | nil => intro d m; simp
  | cons a t ih =>
    intro d m
    have step : ∀ x, x ≠ a → ((d.legOff a).dropLetters a).leg x = d.leg x := by
      intro x hx
      rw [Dev.dropLetters, Dev.leg_setLeg_ne _ _ hx.symm, Dev.legOff_other d hx.symm]
    have off := Dev.legOff_off d a
    obtain ⟨i1, i2⟩ := ih ((d.legOff a).dropLetters a) m
    refine ⟨fun h => ?_, fun h => ?_⟩
    · refine i1 ?_
      by_cases hm : m = a
      · subst hm
        right
        simpa [Dev.dropLetters] using off
      · rw [step m hm]
        rcases h with h | h
        · exact .inl ((List.mem_cons.1 h).resolve_left hm)
        · exact .inr h
    · simp only [List.mem_cons, not_or] at h
      exact (i2 h.2).trans (step m h.1)

/-! ## Requests for Faulted, identification's end (R200, R331) -/

/-- A request for Faulted changes the axes alone. -/
theorem Dev.requestFault_frame (d : Dev) (n : Nat) (b : Bool) : ∃ t, d.requestFault n b = { d with axes := t } := by
  unfold Dev.requestFault
  split_ifs <;> exact ⟨_, rfl⟩

/-- A request stands for every axis that is neither Disabled nor Faulted. -/
theorem Dev.requestFault_stands (d : Dev) (n : Nat) (b : Bool) (h0 : d.axState n ≠ axDisabled) (h5 : d.axState n ≠ axFaulted) :
    ((d.requestFault n b).axis n).faultReq.isSome = true := by
  unfold Dev.requestFault
  rw [if_neg (by tauto)]
  simp

/-- Identification ended: legs, axes, the store, the mailbag and the raises alone change. -/
theorem Dev.identFail_frame (d : Dev) (n c : Nat) :
    ∃ t a o m f, d.identFail n c = { d with legs := t, axes := a, objs := o, mail := m, flt := f } := by
  unfold Dev.identFail
  split_ifs
  · exact ⟨_, _, _, _, _, rfl⟩
  · dsimp only
    obtain ⟨t, ht⟩ := Dev.axisLegsOff_frame d n
    rw [ht, Dev.wrs_objs_only]
    generalize hx : ({ (Dev.setAxis _ n _) with objs := _ } : Dev) = x
    obtain ⟨o, m, f, he⟩ := Dev.event_frame x (x.sliceOf n) 0x0130 (0x4400 + 0x40 * n) x.nt
      (le 4 (x.rd (K.R_A n)) ++ le 4 (x.rd (K.R_B n)) ++ le 1 c)
    have he' : x.axisEvent n 0x0130 0x4400 x.nt (le 4 (x.rd (K.R_A n)) ++ le 4 (x.rd (K.R_B n)) ++ le 1 c) = _ := he
    rw [he']
    obtain ⟨f', hf⟩ := Dev.raise_frame { x with objs := o, mail := m, flt := f } (0x183 + 0x10 * n) x.nt false
    rw [hf, ← hx]
    exact ⟨_, _, _, _, _, rfl⟩

/-! ## The quarter safe state (R240) -/

/-- A cause set: legs, quarters, axes, the store, the mailbag and the raises alone change. -/
theorem Dev.safeEnter_frame (d : Dev) (q c : Nat) :
    ∃ t r a o m f, d.safeEnter q c = { d with legs := t, quarters := r, axes := a, objs := o, mail := m, flt := f } := by
  have tr : ∀ x y z : Dev, (∃ t a o m f, y = { x with legs := t, axes := a, objs := o, mail := m, flt := f }) →
      (∃ t a o m f, z = { y with legs := t, axes := a, objs := o, mail := m, flt := f }) →
      ∃ t a o m f, z = { x with legs := t, axes := a, objs := o, mail := m, flt := f } := by
    rintro x _ _ ⟨_, _, _, _, _, rfl⟩ ⟨_, _, _, _, _, rfl⟩
    exact ⟨_, _, _, _, _, rfl⟩
  unfold Dev.safeEnter
  dsimp only
  by_cases hs : d.isSafe q = true
  · rw [if_pos hs]
    exact ⟨_, _, _, _, _, _, rfl⟩
  · rw [if_neg hs]
    generalize hx : Dev.setBit _ (K.Q_FLAGS q) 1 true = x
    have h1 : ∃ t a o m f, (quarterLegs q).foldl (fun (d : Dev) l =>
        ((d.legOff l).dropLetters l).setBit (K.LEG_FLAGS l) 3 true) x =
        { x with legs := t, axes := a, objs := o, mail := m, flt := f } := by
      refine foldl_frame (fun a b => ∃ t x o m f, b = { a with legs := t, axes := x, objs := o, mail := m, flt := f })
        (fun a => ⟨_, _, _, _, _, rfl⟩) (fun a b c => tr a b c) _ ?_ _ x
      intro y l
      obtain ⟨t, ht⟩ := Dev.legOff_frame y l
      rw [Dev.dropLetters, ht]
      exact ⟨_, _, _, _, _, rfl⟩
    have h2 : ∀ y : Dev, ∃ t a o m f, (quarterAxes q).foldl (fun (d : Dev) n => (d.identFail n 10).requestFault n false) y =
        { y with legs := t, axes := a, objs := o, mail := m, flt := f } := by
      refine foldl_frame (fun a b => ∃ t x o m f, b = { a with legs := t, axes := x, objs := o, mail := m, flt := f })
        (fun a => ⟨_, _, _, _, _, rfl⟩) (fun a b c => tr a b c) _ ?_ _
      intro y n
      obtain ⟨t, a, o, m, f, h⟩ := Dev.identFail_frame y n 10
      obtain ⟨a', h'⟩ := Dev.requestFault_frame (y.identFail n 10) n false
      rw [h', h]
      exact ⟨_, _, _, _, _, rfl⟩
    obtain ⟨t, a, o, m, f, e1⟩ := h1
    obtain ⟨t', a', o', m', f', e2⟩ := h2 { x with legs := t, axes := a, objs := o, mail := m, flt := f }
    rw [e1, e2]
    generalize hz : ({ x with legs := t', axes := a', objs := o', mail := m', flt := f' } : Dev) = z
    obtain ⟨o3, m3, f3, e3⟩ := Dev.event_frame z (0x20 + q) 0x0165 (0x5002 + 0x40 * q) z.nt (le 1 c ++ le 3 0 ++ le 8 z.nt)
    have e3' : z.quarterEvent q 0x0165 0x5002 (le 1 c ++ le 3 0 ++ le 8 z.nt) = _ := e3
    rw [e3', ← hz, ← hx]
    exact ⟨_, _, _, _, _, _, rfl⟩

/-! ## Edges (R237) -/

/-- A device of a leg changes: the legs and the blanking of their quarter alone change. -/
theorem Dev.legTo_frame (d : Dev) (l : Nat) (p : LegPos) (t : Nat) : ∃ x r, d.legTo l p t = { d with legs := x, quarters := r } := by
  unfold Dev.legTo
  dsimp only
  split_ifs <;> exact ⟨_, _, rfl⟩

/-- An edge set at a leg: the legs and the blanking of their quarter alone change. -/
theorem Dev.edgeSet_frame (d : Dev) (l : Nat) (p : LegPos) (t : Nat) (gateLow : Bool) :
    ∃ x r, d.edgeSet l p t gateLow = { d with legs := x, quarters := r } := by
  obtain ⟨x1, r1, h1⟩ := Dev.legTo_frame d l .off t
  obtain ⟨x2, r2, h2⟩ := Dev.legTo_frame d l p t
  unfold Dev.edgeSet
  dsimp only
  rw [h1, h2]
  split_ifs <;> exact ⟨_, _, rfl⟩

end Sys2Proof.Machine
end

