-- ==== Sys2Proof/Laws/Memory.lean ====
section
/-! SUPPORT. Pigeonhole memory: a byte written is read back, every other byte reads as before, and every operation keeps the canonical
form. -/

namespace Sys2Proof.Machine

theorem memRead_memWrite (m : List Host.Cell) (a : Nat) (b : Byte) (x : Nat) :
    memRead (memWrite m a b) x = if a = x then b else memRead m x := Tab.get_store memDefault m a b x

/-- A byte outside the bytes written reads as before. -/
theorem memRead_memWrites_outside (l : Bytes) : ∀ (m : List Host.Cell) (a x : Nat),
    (x < a ∨ a + l.length ≤ x) → memRead (memWrites m a l) x = memRead m x := by
  induction l with
  | nil => intro m a x _; rfl
  | cons b t ih =>
    intro m a x h
    simp only [List.length_cons] at h
    simp only [memWrites]
    rw [ih _ _ _ (by omega), memRead_memWrite, if_neg (by omega)]

/-- The bytes written are read back. -/
theorem memRead_memWrites_inside (l : Bytes) : ∀ (m : List Host.Cell) (a i : Nat) (h : i < l.length),
    memRead (memWrites m a l) (a + i) = l[i] := by
  induction l with
  | nil => intro m a i h; simp at h
  | cons b t ih =>
    intro m a i h
    simp only [memWrites]
    cases i with
    | zero => rw [memRead_memWrites_outside _ _ _ _ (by omega), memRead_memWrite]; simp
    | succ i =>
      have := ih (memWrite m a b) (a + 1) i (by simpa using h)
      simpa [Nat.add_assoc, Nat.add_comm 1 i] using this

theorem memWf_iff (m : List Host.Cell) : memWf m = true ↔ Tab.sorted m = true ∧ ∀ e ∈ m, e.2 ≠ memDefault := by
  simp [memWf]

/-- A byte written keeps the canonical form. -/
theorem memWf_memWrite (m : List Host.Cell) (a : Nat) (b : Byte) (h : memWf m = true) : memWf (memWrite m a b) = true := by
  rw [memWf_iff] at h ⊢
  unfold memWrite Tab.store
  split_ifs with hb
  · exact ⟨Tab.sorted_filter _ _ h.1, fun e he => h.2 e (List.mem_filter.1 he).1⟩
  · refine ⟨Tab.sorted_put _ _ _ h.1, fun e he => ?_⟩
    rcases Tab.mem_put m a b e he with rfl | he
    · exact hb
    · exact h.2 e he

theorem memWf_memWrites (l : Bytes) : ∀ (m : List Host.Cell) (a : Nat), memWf m = true → memWf (memWrites m a l) = true := by
  induction l with
  | nil => intro m a h; exact h
  | cons b t ih => intro m a h; exact ih _ _ (memWf_memWrite m a b h)

theorem memWf_filter (p : Host.Cell → Bool) (m : List Host.Cell) (h : memWf m = true) : memWf (List.filter p m) = true := by
  rw [memWf_iff] at h ⊢
  exact ⟨Tab.sorted_filter _ _ h.1, fun e he => h.2 e (List.mem_filter.1 he).1⟩

/-- Bytes copied cell by cell keep the canonical form. -/
theorem memWf_foldl_memWrite (f : Host.Cell → Nat) (l : List Host.Cell) : ∀ (m : List Host.Cell), memWf m = true →
    memWf (l.foldl (fun m c => memWrite m (f c) c.2) m) = true := by
  induction l with
  | nil => intro m h; exact h
  | cons c t ih => intro m h; exact ih _ (memWf_memWrite m _ _ h)

theorem clearBank_memWf (s : State) (p : Nat) (h : memWf s.mem = true) : memWf (s.clearBank p).mem = true := memWf_filter _ _ h

theorem copyBank_memWf (s : State) (a b : Nat) (h : memWf s.mem = true) : memWf (s.copyBank a b).mem = true :=
  memWf_foldl_memWrite _ _ _ (clearBank_memWf s b h)

theorem storeWords_memWf (unit b : Nat) : ∀ (n : Nat) (s : State) (ofs : Nat) (l : Bytes), memWf s.mem = true →
    memWf (State.storeWords unit b n s ofs l).mem = true := by
  intro n
  induction n with
  | zero => intro s ofs l h; simpa [State.storeWords] using h
  | succ n ih =>
    intro s ofs l h
    cases l with
    | nil => simpa [State.storeWords] using h
    | cons x t =>
      simp only [State.storeWords]
      apply ih
      split_ifs
      · exact memWf_memWrites _ _ _ h
      · exact h
      · exact memWf_memWrites _ _ _ h

theorem bankStore_memWf (s : State) (unit b ofs : Nat) (l : Bytes) (h : memWf s.mem = true) :
    memWf (s.bankStore unit b ofs l).mem = true := by
  unfold State.bankStore
  by_cases hl : l = []
  · rw [if_pos hl]
    exact h
  · rw [if_neg hl]
    exact storeWords_memWf unit b _ s ofs l h

/-- Words read leave the memory. -/
theorem loadWords_mem (unit b : Nat) : ∀ (fuel : Nat) (s : State) (ofs n : Nat), (State.loadWords unit b fuel s ofs n).2.mem = s.mem := by
  intro fuel
  induction fuel with
  | zero => intro s ofs n; rfl
  | succ fuel ih =>
    intro s ofs n
    unfold State.loadWords
    dsimp only
    split_ifs
    · rfl
    all_goals exact ih _ _ _

/-- A bank read leaves the memory, whoever reads. -/
theorem bankLoad_mem (s : State) (unit b ofs n : Nat) : (s.bankLoad unit b ofs n).2.mem = s.mem := by
  unfold State.bankLoad
  split_ifs
  · exact loadWords_mem unit b n s ofs n
  · rfl

end Sys2Proof.Machine
end

