-- ==== Sys2Proof/WellFormed.lean ====
section
/-! DEFINITION. Well-formed commands: the operand ranges that the manual gives (indices of Table 1-2 and Table 3-1, lengths, field
widths). A command outside them names nothing on any part, and changes nothing. -/

namespace Sys2Proof

/-- Axes, coils, legs, quarters, lanes of a full part (Table 1-2, chapter 08). -/
def axisOk (n : Nat) : Bool := n < 16
def coilOk (c : Nat) : Bool := c < 32
def legOk (l : Nat) : Bool := l < 64
def quarterOk (q : Nat) : Bool := q < 4
def laneOk (l : Nat) : Bool := l < 3
def bankOk (b : Nat) : Bool := b < 32
def queueOk (j : Nat) : Bool := j < 8
def portOk (p : Nat) : Bool := p < 3
def emuOk (m : Nat) : Bool := m < 4

/-- A path of the dictionary: BAR0, or a 16-bit ring address. -/
def Path.ok : Path → Bool
  | .bar0 => true
  | .ring src => src < 2 ^ 16

/-- The fields of an object request fit its body (Table 3-6). -/
def ObjRequest.ok (r : ObjRequest) : Bool :=
  portOk r.port && r.src < 2 ^ 48 && r.size < 2 ^ 8 && r.index < 2 ^ 16 && r.sub < 2 ^ 8 && r.tag < 2 ^ 16 && r.data < 2 ^ 64

/-- A value fits in w bits of two's complement. -/
def fitsI (w : Nat) (x : Int) : Bool := -(2 : Int) ^ (w - 1) ≤ x && x < (2 : Int) ^ (w - 1)

/-- The operands of a mode-change flit (Table 8-9). -/
def ModeChange.ok : ModeChange → Bool
  | .legEnable leg _ => leg < 16
  | .laneSelect lane _ => laneOk lane
  | .segmentMap leg output spare segment => leg < 16 && output < 4 && spare < 4 && segment < 32

/-- The operands are in their ranges. -/
def Instr.wf : Instr → Bool
  | .bar0Read ofs len => ofs + len ≤ 0x10000000 && 0 < len && len ≤ 64
  | .bar0Write ofs data => ofs + data.length ≤ 0x10000000 && 0 < data.length && data.length ≤ 64
  | .objectWrite path key value => path.ok && key < 2 ^ 24 && value < 2 ^ 64
  | .ntRead path => path.ok
  | .cmdPosRead path n => path.ok && axisOk n
  | .encCntRead path n => path.ok && axisOk n
  | .latchNtRead path n input => path.ok && axisOk n && input < 3
  | .ringRead req => req.ok
  | .ringPeekRead req => req.ok
  | .ringWrite req => req.ok
  | .blockRead req => req.ok
  | .blockPeekRead req => req.ok
  | .lock path => path.ok
  | .profileCadence n => axisOk n
  | .revDwellEnd n => axisOk n
  | .restEnter n => axisOk n
  | .axisWake n => axisOk n
  | .engineJob c => coilOk c
  | .jobComplete c _ => coilOk c
  | .periodStart c => coilOk c
  | .commitCheck c => coilOk c
  | .edgeApply leg _ _ => legOk leg
  | .interlockTimeout leg => legOk leg
  | .softOffHold leg => legOk leg
  | .switchingEvent leg _ _ tm => legOk leg && tm < 2 ^ 16
  | .bootstrapRefresh leg => legOk leg
  | .sampleInstant q ch code => quarterOk q && ch < 9 && fitsI 14 code
  | .conversionComplete q ch => quarterOk q && ch < 9
  | .vbusSample q v => quarterOk q && v < 2 ^ 16
  | .ovClampRelease c => coilOk c
  | .idPhase n => axisOk n
  | .identificationComplete n => axisOk n
  | .testStepEnd n => axisOk n
  | .enable path n _ => path.ok && axisOk n
  | .halt path n _ => path.ok && axisOk n
  | .followEn path n _ => path.ok && axisOk n
  | .qstop path n => path.ok && axisOk n
  | .posSet path n value => path.ok && axisOk n && fitsI 64 value
  | .stepEdge n _ ts _ => axisOk n && ts < 2 ^ 64
  | .letterEnvelope port src tArr body => portOk port && src < 2 ^ 48 && tArr < 2 ^ 64 && body.length ≤ 256
  | .letterSubmission ofs body => ofs < 0x10000 && body.length ≤ 256
  | .postmasterLetter letter => letter.length == 32
  | .newTarget n => axisOk n
  | .newVelocity n => axisOk n
  | .newLimits n => axisOk n
  | .startPattern n => axisOk n
  | .arm n => axisOk n
  | .disarm n => axisOk n
  | .followStreamPoint n => axisOk n
  | .cancel path => path.ok
  | .validate path p => path.ok && p < 256
  | .validationComplete p => p < 256
  | .go q lane axes _ g _ _ => quarterOk q && laneOk lane && axes < 16 && g < 2 ^ 66
  | .heartbeat q _ lane _ => quarterOk q && laneOk lane
  | .heartbeatSend q _ => quarterOk q
  | .edgeLetter q lane _ => quarterOk q && laneOk lane
  | .setting q lane addr value _ _ => quarterOk q && laneOk lane && addr < 2 ^ 16 && value < 2 ^ 32
  | .modeChange q lane change _ _ => quarterOk q && laneOk lane && change.ok
  | .safeRelease q => quarterOk q
  | .parityScrubCheck flip => flip ≤ 72
  | .adcSample q lane ch code ts _ _ => quarterOk q && laneOk lane && ch < 9 && fitsI 14 code && ts < 2 ^ 66
  | .legMeasurements q lane m _ _ => quarterOk q && laneOk lane && m.leg < 16 && m.kind < 4 && m.code < 32
  | .protectionReport q lane _ nt _ _ => quarterOk q && laneOk lane && nt < 2 ^ 64
  | .refreshReport q lane leg nt _ _ => quarterOk q && laneOk lane && leg < 16 && nt < 2 ^ 64
  | .settingAcknowledge q lane addr _ _ => quarterOk q && laneOk lane && addr < 2 ^ 16
  | .quarterStatus q lane temp vgl _ _ => quarterOk q && laneOk lane && fitsI 16 temp && vgl < 2 ^ 16
  | .laneLost q lane => quarterOk q && laneOk lane
  | .seamTimeout q => quarterOk q
  | .seamRecovered q => quarterOk q
  | .vglUndervoltage q v => quarterOk q && v < 2 ^ 16
  | .vglRestored q v _ => quarterOk q && v < 2 ^ 16
  | .bootstrapUvlo leg v => legOk leg && v < 2 ^ 16
  | .lsOnlyCleared leg v _ => legOk leg && v < 2 ^ 16
  | .vdsTrip leg _ rawHs rawLs _ => legOk leg && rawHs < 2 ^ 16 && rawLs < 2 ^ 16
  | .busCurrentTrip q rawHs rawLs => quarterOk q && rawHs < 2 ^ 16 && rawLs < 2 ^ 16
  | .incidentClose q => quarterOk q
  | .encoderTransition n _ _ ts _ => axisOk n && ts < 2 ^ 64
  | .index n _ ts _ => axisOk n && ts < 2 ^ 64
  | .lineFault n line _ => axisOk n && line < 3
  | .lineRestored n line _ => axisOk n && line < 3
  | .encoderTimeout n => axisOk n
  | .encPreset path n value => path.ok && axisOk n && fitsI 64 value
  | .emuEn path m _ => path.ok && emuOk m
  | .switchTransition n input _ tsFirst tsLast => axisOk n && input < 3 && tsFirst < 2 ^ 64 && tsLast < 2 ^ 64
  | .latchTimeout n input => axisOk n && input < 3
  | .homeStart path n => path.ok && axisOk n
  | .bankRead unit bank word ecc => unit < 0x40 && bankOk bank && word < 32768 && ecc ≤ 73
  | .bankWrite unit bank ofs data _ => unit < 0x40 && bankOk bank && ofs + data.length ≤ 0x40000
  | .patrolScrub ecc => ecc ≤ 73
  | .hand path b => path.ok && bankOk b
  | .transitComplete b => bankOk b
  | .accept path b => path.ok && bankOk b
  | .unitAccept b => bankOk b
  | .handTimeout b => bankOk b
  | .test path b => path.ok && bankOk b
  | .testEnd b marks => bankOk b && marks.all fun m => m.sub < 4 && m.row < 260 && m.line < 2308
  | .bar2Read ofs len => ofs + len ≤ 0x2000000 && len ≤ 4096
  | .bar2Write ofs data => ofs + data.length ≤ 0x2000000 && data.length ≤ 512
  | .winDataRead path => path.ok
  | .winDataWrite path value => path.ok && value < 2 ^ 64
  | .safeStopTo n => axisOk n
  | .ack path value => path.ok && value < 2 ^ 16
  | .errSw path _ => path.ok
  | .logClear path => path.ok
  | .injGo path => path.ok
  | .injStop path => path.ok
  | .mailbagBurst j => queueOk j
  | .modTimeExpiry j => queueOk j
  | .qEn path j _ => path.ok && queueOk j
  | .cons path j value => path.ok && queueOk j && value < 2 ^ 32
  | .hostLinkUp speed width mps => 1 ≤ speed && speed ≤ 4 && (width == 1 || width == 2 || width == 4) && mps ≤ 512
  | .eventForward body => body.length % 32 == 0 && 0 < body.length && body.length ≤ 256
  | .portUp p => portOk p
  | .portDown p cause => portOk p && 1 ≤ cause && cause ≤ 3
  | .envelopeHeader p etype header => portOk p && etype < 2 ^ 16 && header.length == 16
  | .envelopeEnd p _ _ => portOk p
  | .hello p _ => portOk p
  | .addrHoldExpiry station => station < 128
  | .echoRequest p src _ tIn => portOk p && src < 2 ^ 48 && tIn < 2 ^ 64
  | .sync p _ _ => portOk p
  | .pdelayReq p tIn => portOk p && tIn < 2 ^ 80
  | .pdelayReqSend p => portOk p
  | .pdelayResp p _ _ _ _ => portOk p
  | .announce master _ => master < 2 ^ 64
  | .step path => path.ok
  | .ppsIn ts => ts < 2 ^ 64
  | .todSec path value => path.ok && value < 2 ^ 64
  | .syncIn ts width => ts < 2 ^ 64 && width < 2 ^ 64
  | .pmbusTransaction _ _ data => data < 2 ^ 16
  | .pmbRetry path => path.ok
  | .reqGo path => path.ok
  | .adcPatchSwitch q => quarterOk q
  | .segmentPatch leg output _ => legOk leg && output < 4
  | .lanePatch q => quarterOk q
  | .run path => path.ok
  | .stop path => path.ok
  | .stow path => path.ok
  | .wake path => path.ok
  | .safeExit path => path.ok
  | .fwGo path => path.ok
  | .fwUpdateEnded result version => 1 ≤ result && result ≤ 5 && version < 2 ^ 32
  | .wdKick path value => path.ok && value < 2 ^ 32
  | .overTemperature die temp => die < 5 && fitsI 16 temp
  | .overTemperatureEnd temps => temps.length ≤ 5 && temps.all (fitsI 16)
  | .build path => path.ok
  | .emulationEdge m => emuOk m
  | .controllerSeamSilence q => quarterOk q
  | .pcsSynchronisation p _ => portOk p
  | .autoNegotiationComplete p => portOk p
  | .lineRateFallback p => portOk p
  | .outputFrameBoundary p => portOk p
  | .vcoreLoop fsi => fsi < 2 ^ 16
  | .configurationWrite (.maxPayload bytes) => bytes == 128 || bytes == 256 || bytes == 512
  | .configurationWrite (.busMaster _) => true
  | .configurationWrite (.d3hot _) => true
  | .configurationWrite (.msixEnable _) => true
  | .configurationWrite (.msixMask _) => true
  | .bar4Write vector entry => vector < 32 && entry.addr < 2 ^ 64 && entry.data < 2 ^ 32
  | .lockComplete | .lockstepMismatch | .postmasterRestart | .postmasterResume | .letterRelease
  | .allOrNoneDecision | .lateLetter | .switchOutput | .syncPulseEnd | .faultRaise | .escalationStep | .errPulseEnd
  | .injectionEnded | .hostLinkReset _ | .forwardEnvelopeSend | .helloSend | .report _ | .reportSend | .mapPublish
  | .segmentMap _ | .systemMap _ | .syncSend | .announceSend | .syncTimeout | .timeSourceFound | .timeSourceLost
  | .trefComparison _ | .ntStep | .ppsOutRise | .ppsOutFall | .settled | .pmbAlert _ | .fraySample _
  | .patchStart | .loadingComplete | .takeover | .patchRecordWritten | .powerOnResetRelease | .supplyLoss | .resetN
  | .startUpStep _ | .timeSearchEnd _ | .hostLost | .hostWd | .ringLost | .ringRestored
  | .buildComplete | .pePerstN _ | .tckEdge _ _ _ _ => true

end Sys2Proof
end

