-- ==== Sys2Proof/Tests/Slice0.lean ====
section
/-! SUPPORT. Tests: ill-formed commands are refused by well-formedness; for every statement with hypotheses, states and operands that meet the
hypotheses of each of its clauses; effects that the manual's tables and worked cases give. -/

namespace Sys2Proof.Tests

open Sys2Proof Sys2Proof.Machine

set_option Elab.async false
set_option linter.unusedVariables false

/-! ## Well-formedness: an ill-formed term for each check is refused -/

def illFormed1 : List Instr :=
  [.bar0Read 0 0,
    .bar0Read 0 65,
    .bar0Read 0x10000000 8,
    .bar0Write 0x10000000 [0],
    .bar0Write 0 [],
    .bar0Write 0 (List.replicate 65 0),
    .objectWrite (.ring 65536) 0 0,
    .objectWrite .bar0 (2 ^ 24) 0,
    .objectWrite .bar0 0 (2 ^ 64),
    .ntRead (.ring 65536),
    .cmdPosRead (.ring 65536) 0,
    .cmdPosRead .bar0 16,
    .encCntRead (.ring 65536) 0,
    .encCntRead .bar0 16,
    .latchNtRead (.ring 65536) 0 0,
    .latchNtRead .bar0 16 0,
    .latchNtRead .bar0 0 3,
    .ringRead { src := 2 ^ 48, size := 1, index := 0, sub := 0, tag := 0 },
    .ringRead { port := 3, src := 0, size := 1, index := 0, sub := 0, tag := 0 },
    .ringRead { src := 0, size := 256, index := 0, sub := 0, tag := 0 },
    .ringRead { src := 0, size := 1, index := 65536, sub := 0, tag := 0 },
    .ringRead { src := 0, size := 1, index := 0, sub := 256, tag := 0 },
    .ringRead { src := 0, size := 1, index := 0, sub := 0, tag := 65536 },
    .ringRead { src := 0, size := 1, index := 0, sub := 0, tag := 0, data := 2 ^ 64 },
    .ringPeekRead { src := 2 ^ 48, size := 1, index := 0, sub := 0, tag := 0 },
    .ringWrite { src := 2 ^ 48, size := 1, index := 0, sub := 0, tag := 0 },
    .blockRead { src := 2 ^ 48, size := 1, index := 0, sub := 0, tag := 0 },
    .blockPeekRead { src := 2 ^ 48, size := 1, index := 0, sub := 0, tag := 0 },
    .lock (.ring 65536),
    .profileCadence 16,
    .revDwellEnd 16,
    .restEnter 16,
    .axisWake 16,
    .parityScrubCheck 73,
    .engineJob 32,
    .jobComplete 32 true,
    .periodStart 32,
    .commitCheck 32,
    .edgeApply 64 true 0,
    .interlockTimeout 64,
    .softOffHold 64]

theorem test_refused_1 : (illFormed1.all fun c => !c.wf) = true := by decide +kernel

def illFormed2 : List Instr :=
  [.switchingEvent 64 true true 0,
    .switchingEvent 0 true true (2 ^ 16),
    .bootstrapRefresh 64,
    .sampleInstant 4 0 0,
    .sampleInstant 0 9 0,
    .sampleInstant 0 0 (2 ^ 13),
    .conversionComplete 4 0,
    .conversionComplete 0 9,
    .vbusSample 4 0,
    .vbusSample 0 (2 ^ 16),
    .ovClampRelease 32,
    .idPhase 16,
    .identificationComplete 16,
    .testStepEnd 16,
    .enable (.ring 65536) 0 true,
    .enable .bar0 16 true,
    .halt (.ring 65536) 0 true,
    .halt .bar0 16 true,
    .followEn (.ring 65536) 0 true,
    .followEn .bar0 16 true,
    .qstop (.ring 65536) 0,
    .qstop .bar0 16,
    .posSet (.ring 65536) 0 0,
    .posSet .bar0 16 0,
    .posSet .bar0 0 (2 ^ 63),
    .stepEdge 16 true 0 1,
    .stepEdge 0 true (2 ^ 64) 1,
    .letterEnvelope 3 0 0 [],
    .letterEnvelope 0 (2 ^ 48) 0 [],
    .letterEnvelope 0 0 (2 ^ 64) [],
    .letterEnvelope 0 0 0 (List.replicate 257 0),
    .letterSubmission 0x10000 [],
    .letterSubmission 0 (List.replicate 257 0),
    .postmasterLetter [],
    .newTarget 16,
    .newVelocity 16,
    .newLimits 16,
    .startPattern 16,
    .arm 16]

theorem test_refused_2 : (illFormed2.all fun c => !c.wf) = true := by decide +kernel

def illFormed3 : List Instr :=
  [.disarm 16,
    .followStreamPoint 16,
    .cancel (.ring 65536),
    .validate (.ring 65536) 0,
    .validate .bar0 256,
    .validationComplete 256,
    .go 4 0 0 true 0 true false,
    .go 0 0 0 true (2 ^ 66) true false,
    .go 0 3 0 true 0 true false,
    .go 0 0 16 true 0 true false,
    .heartbeat 4 true 0 0,
    .heartbeat 0 true 3 0,
    .heartbeatSend 4 true,
    .edgeLetter 4 0 0,
    .edgeLetter 0 3 0,
    .setting 4 0 0 0 true false,
    .setting 0 3 0 0 true false,
    .setting 0 0 (2 ^ 16) 0 true false,
    .setting 0 0 0 (2 ^ 32) true false,
    .modeChange 4 0 (.laneSelect 0 true) true false,
    .modeChange 0 3 (.laneSelect 0 true) true false,
    .modeChange 0 0 (.legEnable 16 true) true false,
    .modeChange 0 0 (.laneSelect 3 true) true false,
    .modeChange 0 0 (.segmentMap 0 4 0 0) true false,
    .modeChange 0 0 (.segmentMap 0 0 4 0) true false,
    .modeChange 0 0 (.segmentMap 0 0 0 32) true false,
    .safeRelease 4,
    .adcSample 4 0 0 0 0 true false,
    .adcSample 0 3 0 0 0 true false,
    .adcSample 0 0 9 0 0 true false,
    .adcSample 0 0 0 (2 ^ 13) 0 true false,
    .adcSample 0 0 0 0 (2 ^ 66) true false,
    .legMeasurements 4 0 { leg := 0, kind := 0, code := 0, tsw := 0, delay := 0, up := true, vbst := none } true false,
    .legMeasurements 0 3 { leg := 0, kind := 0, code := 0, tsw := 0, delay := 0, up := true, vbst := none } true false,
    .legMeasurements 0 0 { leg := 16, kind := 0, code := 0, tsw := 0, delay := 0, up := true, vbst := none } true false,
    .legMeasurements 0 0 { leg := 0, kind := 4, code := 0, tsw := 0, delay := 0, up := true, vbst := none } true false,
    .legMeasurements 0 0 { leg := 0, kind := 0, code := 32, tsw := 0, delay := 0, up := true, vbst := none } true false,
    .protectionReport 4 0 .clamp 0 true false,
    .protectionReport 0 3 .clamp 0 true false,
    .protectionReport 0 0 .clamp (2 ^ 64) true false,
    .refreshReport 4 0 0 0 true false,
    .refreshReport 0 3 0 0 true false]

theorem test_refused_3 : (illFormed3.all fun c => !c.wf) = true := by decide +kernel

def illFormed4 : List Instr :=
  [.refreshReport 0 0 16 0 true false,
    .refreshReport 0 0 0 (2 ^ 64) true false,
    .settingAcknowledge 4 0 0 true false,
    .settingAcknowledge 0 3 0 true false,
    .settingAcknowledge 0 0 (2 ^ 16) true false,
    .quarterStatus 4 0 0 0 true false,
    .quarterStatus 0 3 0 0 true false,
    .quarterStatus 0 0 (2 ^ 15) 0 true false,
    .quarterStatus 0 0 0 (2 ^ 16) true false,
    .laneLost 4 0,
    .laneLost 0 3,
    .seamTimeout 4,
    .seamRecovered 4,
    .vglUndervoltage 4 0,
    .vglUndervoltage 0 (2 ^ 16),
    .vglRestored 4 0 0,
    .vglRestored 0 (2 ^ 16) 0,
    .bootstrapUvlo 64 0,
    .bootstrapUvlo 0 (2 ^ 16),
    .lsOnlyCleared 64 0 0,
    .vdsTrip 64 true 0 0 true,
    .vdsTrip 0 true (2 ^ 16) 0 true,
    .vdsTrip 0 true 0 (2 ^ 16) true,
    .busCurrentTrip 4 0 0,
    .busCurrentTrip 0 (2 ^ 16) 0,
    .busCurrentTrip 0 0 (2 ^ 16),
    .incidentClose 4,
    .encoderTransition 16 true true 0 1,
    .encoderTransition 0 true true (2 ^ 64) 1,
    .index 16 true 0 1,
    .index 0 true (2 ^ 64) 1,
    .lineFault 16 0 0,
    .lineFault 0 3 0,
    .lineRestored 16 0 0,
    .lineRestored 0 3 0,
    .encoderTimeout 16,
    .encPreset (.ring 65536) 0 0,
    .encPreset .bar0 16 0,
    .encPreset .bar0 0 (2 ^ 63),
    .emuEn (.ring 65536) 0 true]

theorem test_refused_4 : (illFormed4.all fun c => !c.wf) = true := by decide +kernel

def illFormed5 : List Instr :=
  [.emuEn .bar0 4 true,
    .switchTransition 16 0 true 0 0,
    .switchTransition 0 3 true 0 0,
    .switchTransition 0 0 true (2 ^ 64) 0,
    .switchTransition 0 0 true 0 (2 ^ 64),
    .latchTimeout 16 0,
    .latchTimeout 0 3,
    .homeStart (.ring 65536) 0,
    .homeStart .bar0 16,
    .bankRead 0x40 0 0 0,
    .bankRead 0 32 0 0,
    .bankRead 0 0 32768 0,
    .bankRead 0 0 0 74,
    .bankWrite 0x40 0 0 [] true,
    .bankWrite 0 32 0 [] true,
    .bankWrite 0 0 0x40001 [] true,
    .patrolScrub 74,
    .hand (.ring 65536) 0,
    .hand .bar0 32,
    .transitComplete 32,
    .accept (.ring 65536) 0,
    .accept .bar0 32,
    .unitAccept 32,
    .handTimeout 32,
    .test (.ring 65536) 0,
    .test .bar0 32,
    .testEnd 32 [],
    .testEnd 0 [{ sub := 4, row := 0, line := 0 }],
    .testEnd 0 [{ sub := 0, row := 260, line := 0 }],
    .testEnd 0 [{ sub := 0, row := 0, line := 2308 }],
    .bar2Read 0 4097,
    .bar2Read 0x2000001 0,
    .bar2Write 0x2000001 [],
    .bar2Write 0 (List.replicate 513 0),
    .winDataRead (.ring 65536),
    .winDataWrite (.ring 65536) 0,
    .winDataWrite .bar0 (2 ^ 64),
    .safeStopTo 16,
    .ack (.ring 65536) 0,
    .ack .bar0 (2 ^ 16)]

theorem test_refused_5 : (illFormed5.all fun c => !c.wf) = true := by decide +kernel

def illFormed6 : List Instr :=
  [.errSw (.ring 65536) true,
    .logClear (.ring 65536),
    .injGo (.ring 65536),
    .injStop (.ring 65536),
    .mailbagBurst 8,
    .modTimeExpiry 8,
    .qEn (.ring 65536) 0 true,
    .qEn .bar0 8 true,
    .cons (.ring 65536) 0 0,
    .cons .bar0 8 0,
    .cons .bar0 0 (2 ^ 32),
    .hostLinkUp 0 1 128,
    .hostLinkUp 5 1 128,
    .hostLinkUp 1 1 513,
    .hostLinkUp 1 3 128,
    .eventForward [],
    .eventForward [0],
    .eventForward (List.replicate 288 0),
    .portUp 3,
    .portDown 3 1,
    .portDown 0 0,
    .portDown 0 4,
    .envelopeHeader 3 0x6B51 (List.replicate 16 0),
    .envelopeHeader 0 65536 (List.replicate 16 0),
    .envelopeHeader 0 0x6B51 [],
    .envelopeEnd 3 true [],
    .hello 3 [],
    .addrHoldExpiry 128,
    .echoRequest 3 0 [] 0,
    .echoRequest 0 (2 ^ 48) [] 0,
    .echoRequest 0 0 [] (2 ^ 64),
    .sync 3 0 0,
    .pdelayReq 3 0,
    .pdelayReq 0 (2 ^ 80),
    .pdelayReqSend 3,
    .pdelayResp 3 0 0 0 0,
    .announce (2 ^ 64) { priority1 := 0, clockClass := 0, accuracy := 0, variance := 0, priority2 := 0, identity := 0, steps := 0 },
    .step (.ring 65536),
    .ppsIn (2 ^ 64),
    .todSec (.ring 65536) 0,
    .todSec .bar0 (2 ^ 64)]

theorem test_refused_6 : (illFormed6.all fun c => !c.wf) = true := by decide +kernel

def illFormed7 : List Instr :=
  [.syncIn (2 ^ 64) 0,
    .syncIn 0 (2 ^ 64),
    .pmbusTransaction .readVout true (2 ^ 16),
    .pmbRetry (.ring 65536),
    .reqGo (.ring 65536),
    .adcPatchSwitch 4,
    .segmentPatch 64 0 [],
    .segmentPatch 0 4 [],
    .lanePatch 4,
    .run (.ring 65536),
    .stop (.ring 65536),
    .stow (.ring 65536),
    .wake (.ring 65536),
    .safeExit (.ring 65536),
    .fwGo (.ring 65536),
    .fwUpdateEnded 0 0,
    .fwUpdateEnded 6 0,
    .fwUpdateEnded 1 (2 ^ 32),
    .wdKick (.ring 65536) 0,
    .wdKick .bar0 (2 ^ 32),
    .overTemperature 5 0,
    .overTemperature 0 (2 ^ 15),
    .overTemperatureEnd [0, 0, 0, 0, 0, 0],
    .overTemperatureEnd [32768],
    .build (.ring 65536),
    .emulationEdge 4,
    .controllerSeamSilence 4,
    .pcsSynchronisation 3 true,
    .autoNegotiationComplete 3,
    .lineRateFallback 3,
    .outputFrameBoundary 3,
    .vcoreLoop (2 ^ 16),
    .configurationWrite (.maxPayload 64),
    .bar4Write 32 { addr := 0, data := 0, masked := false },
    .bar4Write 0 { addr := 2 ^ 64, data := 0, masked := false },
    .bar4Write 0 { addr := 0, data := 2 ^ 32, masked := false }]

theorem test_refused_7 : (illFormed7.all fun c => !c.wf) = true := by decide +kernel

def wellFormed1 : List Instr :=
  [.bar0Read 0 8,
    .bar0Write 0 [0],
    .objectWrite .bar0 0 0,
    .ntRead .bar0,
    .cmdPosRead .bar0 0,
    .encCntRead .bar0 0,
    .latchNtRead .bar0 0 0,
    .ringRead { src := 0, size := 1, index := 0, sub := 0, tag := 0 },
    .ringPeekRead { src := 0, size := 1, index := 0, sub := 0, tag := 0 },
    .ringWrite { src := 0, size := 1, index := 0, sub := 0, tag := 0 },
    .blockRead { src := 0, size := 1, index := 0, sub := 0, tag := 0 },
    .blockPeekRead { src := 0, size := 1, index := 0, sub := 0, tag := 0 },
    .lock .bar0,
    .parityScrubCheck 0,
    .profileCadence 0,
    .revDwellEnd 0,
    .restEnter 0,
    .axisWake 0,
    .engineJob 0,
    .jobComplete 0 true,
    .periodStart 0,
    .commitCheck 0,
    .edgeApply 0 true 0,
    .interlockTimeout 0,
    .softOffHold 0,
    .switchingEvent 0 true true 0,
    .bootstrapRefresh 0,
    .sampleInstant 0 0 0,
    .conversionComplete 0 0,
    .vbusSample 0 0,
    .ovClampRelease 0,
    .idPhase 0,
    .identificationComplete 0,
    .testStepEnd 0,
    .enable .bar0 0 true,
    .halt .bar0 0 true,
    .followEn .bar0 0 true,
    .qstop .bar0 0,
    .posSet .bar0 0 0,
    .stepEdge 0 true 0 1,
    .letterEnvelope 0 0 0 []]

theorem test_well_formed_1 : (wellFormed1.all fun c => c.wf) = true := by decide +kernel

def wellFormed2 : List Instr :=
  [.letterSubmission 0 [],
    .postmasterLetter (List.replicate 32 0),
    .newTarget 0,
    .newVelocity 0,
    .newLimits 0,
    .startPattern 0,
    .arm 0,
    .disarm 0,
    .followStreamPoint 0,
    .cancel .bar0,
    .validate .bar0 0,
    .validationComplete 0,
    .go 0 0 0 true 0 true false,
    .heartbeat 0 true 0 0,
    .heartbeatSend 0 true,
    .edgeLetter 0 0 0,
    .setting 0 0 0 0 true false,
    .modeChange 0 0 (.laneSelect 0 true) true false,
    .safeRelease 0,
    .adcSample 0 0 0 0 0 true false,
    .legMeasurements 0 0 { leg := 0, kind := 0, code := 0, tsw := 0, delay := 0, up := true, vbst := none } true false,
    .protectionReport 0 0 .clamp 0 true false,
    .refreshReport 0 0 0 0 true false,
    .settingAcknowledge 0 0 0 true false,
    .quarterStatus 0 0 0 0 true false,
    .laneLost 0 0,
    .seamTimeout 0,
    .seamRecovered 0,
    .vglUndervoltage 0 0,
    .vglRestored 0 0 0,
    .bootstrapUvlo 0 0,
    .lsOnlyCleared 0 0 0,
    .vdsTrip 0 true 0 0 true,
    .busCurrentTrip 0 0 0,
    .incidentClose 0,
    .encoderTransition 0 true true 0 1,
    .index 0 true 0 1,
    .lineFault 0 0 0,
    .lineRestored 0 0 0,
    .encoderTimeout 0]

theorem test_well_formed_2 : (wellFormed2.all fun c => c.wf) = true := by decide +kernel

def wellFormed3 : List Instr :=
  [.encPreset .bar0 0 0,
    .emuEn .bar0 0 true,
    .switchTransition 0 0 true 0 0,
    .latchTimeout 0 0,
    .homeStart .bar0 0,
    .bankRead 0 0 0 0,
    .bankWrite 0 0 0 [] true,
    .patrolScrub 0,
    .hand .bar0 0,
    .transitComplete 0,
    .accept .bar0 0,
    .unitAccept 0,
    .handTimeout 0,
    .test .bar0 0,
    .testEnd 0 [],
    .bar2Read 0 0,
    .bar2Write 0 [],
    .winDataRead .bar0,
    .winDataWrite .bar0 0,
    .safeStopTo 0,
    .ack .bar0 0,
    .errSw .bar0 true,
    .logClear .bar0,
    .injGo .bar0,
    .injStop .bar0,
    .mailbagBurst 0,
    .modTimeExpiry 0,
    .qEn .bar0 0 true,
    .cons .bar0 0 0,
    .hostLinkUp 1 1 128,
    .eventForward (List.replicate 32 0),
    .portUp 0,
    .portDown 0 1,
    .envelopeHeader 0 0x6B51 (List.replicate 16 0),
    .envelopeEnd 0 true [],
    .hello 0 [],
    .addrHoldExpiry 0,
    .echoRequest 0 0 [] 0,
    .sync 0 0 0,
    .pdelayReq 0 0]

theorem test_well_formed_3 : (wellFormed3.all fun c => c.wf) = true := by decide +kernel

def wellFormed4 : List Instr :=
  [.pdelayReqSend 0,
    .pdelayResp 0 0 0 0 0,
    .announce 0 { priority1 := 0, clockClass := 0, accuracy := 0, variance := 0, priority2 := 0, identity := 0, steps := 0 },
    .step .bar0,
    .ppsIn 0,
    .todSec .bar0 0,
    .syncIn 0 0,
    .pmbusTransaction .readVout true 0,
    .pmbRetry .bar0,
    .reqGo .bar0,
    .adcPatchSwitch 0,
    .segmentPatch 0 0 [],
    .lanePatch 0,
    .run .bar0,
    .stop .bar0,
    .stow .bar0,
    .wake .bar0,
    .safeExit .bar0,
    .fwGo .bar0,
    .fwUpdateEnded 1 0,
    .wdKick .bar0 0,
    .overTemperature 0 0,
    .overTemperatureEnd [],
    .build .bar0,
    .emulationEdge 0,
    .controllerSeamSilence 0,
    .pcsSynchronisation 0 true,
    .autoNegotiationComplete 0,
    .lineRateFallback 0,
    .outputFrameBoundary 0,
    .vcoreLoop 0,
    .configurationWrite (.busMaster true),
    .bar4Write 0 { addr := 0, data := 0, masked := false }]

theorem test_well_formed_4 : (wellFormed4.all fun c => c.wf) = true := by decide +kernel

/-! ## Small states -/

def up : State := {
  pow := { devState := .operating, locked := true }, dev := { nt := 8000000, ticks := 1000000, fab := { ready := true }, start := { up := true, stage := 6 } } }
def on (f : Dev → Dev) : State := up.onDev f
def leg (r : LegRt) : State := on fun d => d.setLeg 5 r
def q1 (f : QuarterRt → QuarterRt) : State := on fun d => d.setQuarter 1 (f (d.quarter 1))
def edgeF (e : EdgeLet) (l : Nat := 5) : Flit := edgeFlit false l e
def lb (due axes action flags tag : Nat) (args : Bytes) : Bytes := le 6 due ++ le 2 axes ++ le 1 action ++ le 1 flags ++ le 2 tag ++ padTo 20 args
def lt (action : Nat) (args : Bytes) (flags : Nat := 0) (due : Nat := 8000007) (axes : Nat := 2) (k : Nat := 9) (arr : Nat := 7000000) : Letter :=
  { letterOf (lb due axes action flags 5 args) arr k with k := k }
def table (l : List Letter) : State := on fun d => { d with desp := { d.desp with table := l } }
def box (l : List Letter) (f : Dev → Dev := id) : State := on fun d => f ((d.setAxis 1 { d.axis 1 with inbox := l }).wr (K.STATE_4000 1) 2)
def fq (f : Dev → Dev) : State := on fun d => f ((d.wr K.LINK_STATE 3).wr K.TSTATE 2)
def rg (f : Dev → Dev) : State := fq fun d => f (d.wr K.ADDR 5)
def evt (s : Nat) : EventRec := {src := s, seq := 5, nt := 3, type := 0x150, obj := 9, addr := 7, payload := []}
def tail (f : Dev → Dev) : State := on fun d => f ((d.setQuarter 0 { d.quarter 0 with settings := [(K.TAILOR 5, 1)] }).setCoil 2 {running := true})
def cc (f : Dev → Dev) : State := on fun d => f ((d.setCoil 2 {running := true, begun := true, nextAt := 1000003, next := 5}).wr (K.STATE_4000 1) 2 |>.wr (K.Q_FLAGS 0) 0)
def en (f : Dev → Dev) : State := on fun d => f (d.wr (K.IN_MODE 1) 1)
def setDec (d : Dev) (x : DecRt) (l : Option LastStep := none) : Dev := d.setAxis 1 { d.axis 1 with enc := { (d.axis 1).enc with dec := x, last := l } }
def ls (x : DecRt) (t : Nat := 77) (lineB : Bool := false) (cnt : Int := 40) : LastStep := { t := t, lineB := lineB, dec := x, cnt := cnt, toSince := 0, timeout := false, opened := [] }
def f1 (d : Dev) : Dev := (d.wr (K.FILT 1) 3).wr (K.IN_MODE 1) 1
def zat (d : Dev) : Dev := d.setAxis 1 { d.axis 1 with enc := { (d.axis 1).enc with zAt := some 88 } }
def tgt : Bytes := le 8 500 ++ le 1 0
def gs (f : Dev → Dev) : State := on fun d => f ((axisLegs 1).foldl (fun d l => d.setLeg l {enabled := true, goSet := [{state := 1, last := true}]}) (((d.setAxis 1 { d.axis 1 with goDue := some (true, 32000028, true) }).wr (K.Q_FLAGS 0) 0).wr (K.PRIME 1) 0x205))
def L1 := lt 1 tgt
def P : Bytes := [5, 0, 0, 1, 0, 1, 0, 1, 3, 0]
def run9 (f : CoilRt → CoilRt) (g : Dev → Dev := id) : State := on fun d => g (d.setCoil 9 (f {running := true, begun := true, start := 1000000 - (up.dev.samplePos 9).foldl max 0, nextAt := 1000500, next := 6}))
def sp := (up.dev.samplePosBy (up.dev.setting 1) 9).headD 0
def idn (i : IdentRt) (f : Dev → Dev := id) : State := on fun d => f ((d.setAxis 1 {d.axis 1 with ident := i}).wr (K.STATE_4000 1) 1)
def rdy (f : Dev → Dev) : State := {(fq f) with pow := {devState := .ready}}
def ask (k i s : Nat) : PatchAsk := {kind := k, inst := i, sub := s, cause := 1}
def fr (f : FrayRt → FrayRt) (g : Dev → Dev := id) : State := on fun d => g {d with fray := f d.fray}
def st (x : DevState) (l : Bool) (f : Dev → Dev := id) : State := {(fq f) with pow := {devState := x, locked := l}}
def off (st : Nat) (f : Dev → Dev := id) : State := { dev := f {({} : Dev) with start := {up := true, stage := st}}, mem := [(5,1)] }
def cells (s : State) : State := {s with mem := memWrites [] (4*bankSize) [1,2,3,4,5,6,7,8,9]}
def hd (f : MemRt → MemRt) (g : Dev → Dev := id) : State := rg fun d => g {(d.wr K.MAINT_MAP 0) with memu := f d.memu}
def R5 : Raise := {src := 0x285, nt := 7}
def RF : Raise := {src := 0x28F, nt := 7}
def rs (l : List Raise) (cfg : Nat) (g : Dev → Dev := id) : State := on fun d => g {d.wr (K.CFG 0x285) cfg with flt := {d.flt with raises := l}}
def inc (f : Dev → Dev) : State := rg fun d => f ((d.wr K.INC_OPEN 1).wr K.NEXT_STEP_NT 8000007 |>.wr K.INC_NO 3 |>.wr K.FIRST_SRC 0x143 |>.mapSet 0x143 |>.wr K.CEIL 3 |>.wr (K.STATE_4000 1) 3)
def stg (n : Nat) : List Staged := (List.range n).map fun i => {queue := i % 2 * 5, rcd := evt i}
def row (k : Nat) : Dict.Row := match (rg id).object k with | .ok r => r | .error _ => {acc := .wo, ty := .u8, sub := 0}
def rdy2 (f : Dev → Dev) (l : Bool := false) : State := {(rg f) with pow := {devState := .ready, locked := l}}
def rq (k sz : Nat) (data : Nat := 0) : ObjRequest := {src := 9, size := sz, index := k / 256, sub := k % 256, tag := 7, data := data}
def rq2 (k size : Nat) (data : Nat := 0) : ObjRequest := { src := 9, size := size, index := k / 256, sub := k % 256, tag := 7, data := data, port := 1 }
def rp : Reply := {src := 9, tag := 7, body := [1,2]}
def pk : Nat := ((rg id).dev.slotsWhere parityRow).headD 0
def ctl (v : Nat) (f : Dev → Dev := id) : State := rg fun d => f (d.wr (K.CONTROL 3) v)
def pt (p : Nat) (r : PortRt) (f : Dev → Dev := id) : State := rg fun d => f {d with ring := {d.ring with ports := [(p, r)]}}
def fh : QFrame := {cls := 0, size := 50, what := .frame 1 [1] [2] true}
def hdr (ty dest hops entry : Nat) : Bytes := mkHeader ty 1 dest 9 3 hops entry 8 false
def upp (p : Nat) (f : Dev → Dev := id) (r : PortRt := {}) : State := pt p {r with synced := true, an := true} (fun d => f (d.wr (K.PLINK p) 2))
def smap (e : Nat) (l : List (Nat × Nat)) : Bytes := le 2 e ++ le 1 l.length ++ le 1 3 ++ le 4 0 ++ (l.flatMap fun x => le 6 x.1 ++ le 1 x.2 ++ le 1 0)
def hdm : State := upp 1 fun d => let d := d.wr K.ROLE_CFG 2 |>.wr K.EPOCH 65535; { d with objs := (K.SERIAL, 77) :: d.objs }
def tm (f : Dev → Dev := id) : State := upp 2 (fun d => f {d.wr K.PORTC_MODE 3 with ticks := 2^40})
def tm2 (f : Dev → Dev := id) : State := upp 2 (fun d => f {(d.wr K.PORTC_MODE 4).wr K.PLANT_DELAY 1 with ticks := 2^40})

/-- The state that a command answers; the state itself where it answers none. -/
def after (c : Instr) (s : State) : State := (answer c s).getD s

/-! ## Hypotheses of the whole-machine statements -/

theorem witness_StepRunsFrontCommand :
    ∃ (c : Instr) (rest : List Instr) (s : State), s.pending = c :: rest :=
  ⟨.supplyLoss, [.resetN], { up with pending := [.supplyLoss, .resetN] }, rfl⟩

theorem witness_EmptyQueueStepIsOneTick : ∃ s : State, s.pending = [] := ⟨up, rfl⟩

theorem witness_CommandsCompleteAndIgnoreTheQueue :
    ∃ (c : Instr) (s t : State), exec c s = .next t ∧ t.dev.nt ≠ s.dev.nt :=
  ⟨.powerOnResetRelease, { dev := { nt := 5 } }, after .powerOnResetRelease { dev := { nt := 5 } }, rfl, by decide +kernel⟩

/-- Start-up clears the banks: the memory changes. -/
theorem witness_MemoryStaysCanonical :
    ∃ s t : State, MemoryCanonical s ∧ step s = .next t ∧ t.mem ≠ s.mem :=
  ⟨{ off 1 with pending := [.startUpStep .none] }, after (.startUpStep .none) (off 1), by decide +kernel, rfl, by decide +kernel⟩

/-- RUN takes a locked device from Ready to Operating; a supply loss takes it to Off. -/
theorem witness_OperatingStaysLocked :
    (∃ s t : State, OperatingLocked s ∧ step s = .next t ∧ t.pow.devState = .operating ∧ s.pow.devState = .ready) ∧
    (∃ s t : State, s.pow.locked = false ∧ s.pow.devState ≠ .operating ∧ step s = .next t) ∧
    (∃ (c : Instr) (s t : State), s.pow.locked = true ∧ exec c s = .next t ∧ t.pow.locked = false) :=
  ⟨⟨{ st .ready true with pending := [.run .bar0] }, after (.run .bar0) (st .ready true), fun _ => rfl, rfl, by decide +kernel, rfl⟩,
    ⟨{ st .ready false with pending := [.run .bar0] }, after (.run .bar0) (st .ready false), rfl, by decide, rfl⟩,
    ⟨.supplyLoss, up, after .supplyLoss up, rfl, rfl, rfl⟩⟩

theorem witness_OnlyStoringCommandsChangeTheMemory :
    ∃ (c : Instr) (s t : State), mayStore c = false ∧ exec c s = .next t ∧ s.mem ≠ [] :=
  ⟨.settled, off 1, after .settled (off 1), rfl, rfl, by decide⟩

theorem witness_DeviceStateMovesByItsTable :
    ∃ (c : Instr) (s t : State), exec c s = .next t ∧ s.pow.devState ≠ t.pow.devState :=
  ⟨.run .bar0, st .ready true, after (.run .bar0) (st .ready true), rfl, by decide +kernel⟩

/-! ## Hypotheses of the statements, clause by clause -/

theorem witness_EdgesMoveALegWithItsDeadTime :
    (∃ (s : State) (l : Nat) (t : Nat) (st : Nat) (ctrl : Nat) (delay : Nat) (gateLow : Bool) (rest : List (Nat × Nat × Nat)),
      s.unitsOn = true ∧
      s.dev.hasLeg l = true ∧
      (s.dev.leg l).refresh = none ∧
      (s.dev.leg l).turnOn = none ∧
      (s.dev.leg l).due = (t, st, ctrl) :: rest ∧
      t ≤ s.dev.nowQ + 31 ∧
      (s.dev.leg l).pos = LegPos.high ∧
      st = 2) ∧
    (∃ (s : State) (l : Nat) (t : Nat) (st : Nat) (ctrl : Nat) (delay : Nat) (gateLow : Bool) (rest : List (Nat × Nat × Nat)),
      s.unitsOn = true ∧
      s.dev.hasLeg l = true ∧
      (s.dev.leg l).refresh = none ∧
      (s.dev.leg l).turnOn = none ∧
      (s.dev.leg l).due = (t, st, ctrl) :: rest ∧
      t ≤ s.dev.nowQ + 31 ∧
      (s.dev.leg l).pos = LegPos.low ∧
      st = 1 ∧
      s.dev.bit (K.LEG_FLAGS l) 1 = false) ∧
    (∃ (s : State) (l : Nat) (t : Nat) (st : Nat) (ctrl : Nat) (delay : Nat) (gateLow : Bool) (rest : List (Nat × Nat × Nat)),
      s.unitsOn = true ∧
      s.dev.hasLeg l = true ∧
      (s.dev.leg l).refresh = none ∧
      (s.dev.leg l).turnOn = none ∧
      (s.dev.leg l).due = (t, st, ctrl) :: rest ∧
      t ≤ s.dev.nowQ + 31 ∧
      (s.dev.leg l).pos = LegPos.low ∧
      st = 1 ∧
      s.dev.bit (K.LEG_FLAGS l) 1 = true) ∧
    (∃ (s : State) (l : Nat) (t : Nat) (st : Nat) (ctrl : Nat) (delay : Nat) (gateLow : Bool) (rest : List (Nat × Nat × Nat)),
      s.unitsOn = true ∧
      s.dev.hasLeg l = true ∧
      (s.dev.leg l).refresh = none ∧
      (s.dev.leg l).turnOn = none ∧
      (s.dev.leg l).due = (t, st, ctrl) :: rest ∧
      t ≤ s.dev.nowQ + 31 ∧
      (s.dev.leg l).pos ≠ LegPos.off ∧
      st = 0) ∧
    (∃ (s : State) (l : Nat) (t : Nat) (st : Nat) (ctrl : Nat) (delay : Nat) (gateLow : Bool) (rest : List (Nat × Nat × Nat)),
      s.unitsOn = true ∧
      s.dev.hasLeg l = true ∧
      (s.dev.leg l).refresh = none ∧
      (s.dev.leg l).turnOn = none ∧
      (s.dev.leg l).due = (t, st, ctrl) :: rest ∧
      t ≤ s.dev.nowQ + 31 ∧
      (s.dev.leg l).pos = LegPos.off ∧
      st = 2) ∧
    (∃ (s : State) (l : Nat) (t : Nat) (st : Nat) (ctrl : Nat) (delay : Nat) (gateLow : Bool) (rest : List (Nat × Nat × Nat)),
      s.unitsOn = true ∧
      s.dev.hasLeg l = true ∧
      (s.dev.leg l).refresh = none ∧
      (s.dev.leg l).turnOn = none ∧
      (s.dev.leg l).due = (t, st, ctrl) :: rest ∧
      t ≤ s.dev.nowQ + 31 ∧
      (s.dev.leg l).pos = LegPos.off ∧
      st = 2) ∧
    (∃ (s : State) (l : Nat) (t : Nat) (st : Nat) (ctrl : Nat) (delay : Nat) (gateLow : Bool) (rest : List (Nat × Nat × Nat)),
      s.unitsOn = true ∧
      s.dev.hasLeg l = true ∧
      (s.dev.leg l).refresh = none ∧
      (s.dev.leg l).turnOn = none ∧
      (s.dev.leg l).due = (t, st, ctrl) :: rest ∧
      t ≤ s.dev.nowQ + 31 ∧
      st = 3) ∧
    (∃ (s : State) (l : Nat) (t : Nat) (st : Nat) (ctrl : Nat) (delay : Nat) (gateLow : Bool) (rest : List (Nat × Nat × Nat)) (p : LegPos),
      s.unitsOn = true ∧
      s.dev.hasLeg l = true ∧
      (s.dev.leg l).refresh = none ∧
      (s.dev.leg l).turnOn = some (p, t) ∧
      t ≤ s.dev.nowQ + 31) ∧
    (∃ (s : State) (l : Nat) (t : Nat) (st : Nat) (ctrl : Nat) (delay : Nat) (gateLow : Bool) (rest : List (Nat × Nat × Nat)) (p : LegPos),
      s.unitsOn = true ∧
      s.dev.hasLeg l = true ∧
      (s.dev.leg l).refresh = none ∧
      (s.dev.leg l).turnOn = some (p, t) ∧
      t ≤ s.dev.nowQ + 31 ∧
      (s.dev.leg l).due = []) :=
  ⟨⟨leg { pos := .high, due := [(32000000,2,0)] }, 5, 32000000, 2, 0, 80, true, [], by decide +kernel⟩,
    ⟨leg { pos := .low, due := [(32000000,1,0)] }, 5, 32000000, 1, 0, 0, false, [], by decide +kernel⟩,
    ⟨on fun d => (d.setLeg 5 { pos := .low, due := [(32000000,1,0)] }).wr (K.LEG_FLAGS 5) 2, 5, 32000000, 1, 0, 0, false, [], by decide +kernel⟩,
    ⟨leg { pos := .low, due := [(32000031,0,0)] }, 5, 32000031, 0, 0, 7, false, [], by decide +kernel⟩,
    ⟨leg { pos := .off, due := [(32000000,2,0)] }, 5, 32000000, 2, 0, 0, false, [], by decide +kernel⟩,
    ⟨leg { pos := .off, due := [(32000000,2,0)] }, 5, 32000000, 2, 0, 0, true, [], by decide +kernel⟩,
    ⟨leg { pos := .off, due := [(32000000,3,0),(4,4,4)] }, 5, 32000000, 3, 0, 0, true, [(4,4,4)], by decide +kernel⟩,
    ⟨leg { pos := .off, turnOn := some (.high, 32000000) }, 5, 32000000, 3, 0, 0, true, [(4,4,4)], .high, by decide +kernel⟩,
    ⟨leg { pos := .off, turnOn := some (.low, 31999000) }, 5, 31999000, 3, 0, 0, true, [(4,4,4)], .low, by decide +kernel⟩⟩

theorem witness_TurnOnsAreAbandonedAndRefreshesBegin :
    (∃ (s : State) (l : Nat) (t : Nat) (p : LegPos),
      s.unitsOn = true ∧
      s.dev.hasLeg l = true ∧
      (s.dev.leg l).turnOn = some (p, t) ∧
      (s.dev.leg l).giveUp ≤ s.dev.nowQ + 31) ∧
    (∃ (s : State) (l : Nat) (t : Nat),
      (s.dev.leg l).softEnd = some t ∧
      t ≤ s.dev.nowQ + 31) ∧
    (∃ (s : State) (l : Nat),
      s.unitsOn = true ∧
      s.dev.hasLeg l = true ∧
      (s.dev.leg l).pos = LegPos.high ∧
      (s.dev.leg l).refresh = none ∧
      4000 * s.dev.legSetting l (K.T_BSMAX l) ≤ (s.dev.leg l).onTime + (s.dev.nowQ - (s.dev.leg l).since) + 31) :=
  ⟨⟨leg { pos := .off, turnOn := some (.high, 31990000), giveUp := 32000031 }, 5, 31990000, .high, by decide +kernel⟩,
    ⟨leg { softEnd := some 32000000 }, 5, 32000000, by decide +kernel⟩,
    ⟨leg { pos := .high, since := 1000 }, 5, by decide +kernel⟩⟩

theorem witness_TailoringMovesTheControllingCode :
    (∃ (s : State) (l : Nat) (tm : Nat) (up : Bool) (iPos : Bool),
      s.unitsOn = true ∧
      s.dev.hasLeg l = true ∧
      tm ≤ s.dev.deadTime l + 2000 ∧
      s.dev.legSetting l (K.TAILOR l) ≠ 1) ∧
    (∃ (s : State) (l : Nat) (tm : Nat) (up : Bool) (iPos : Bool),
      s.unitsOn = true ∧
      s.dev.hasLeg l = true ∧
      tm ≤ s.dev.deadTime l + 2000 ∧
      s.dev.legSetting l (K.TAILOR l) = 1) ∧
    (∃ (s : State) (l : Nat) (tm : Nat) (up : Bool) (iPos : Bool),
      s.unitsOn = true ∧
      s.dev.hasLeg l = true ∧
      s.dev.deadTime l + 2000 < tm) :=
  ⟨⟨up, 5, 0, false, true, by decide +kernel⟩,
    ⟨tail id, 5, 40, true, true, by decide +kernel⟩,
    ⟨up, 5, 65000, true, true, by decide +kernel⟩⟩

theorem witness_SupplyMonitorsAct :
    (∃ (s : State) (q : Nat) (v : Nat),
      s.dev.hasQuarter q = true ∧
      v < 850 ∧
      s.dev.bit (K.Q_FLAGS q) 0 = false ∧
      (s.dev.quarter q).causes.testBit 2 = false) ∧
    (∃ (s : State) (q : Nat) (v : Nat) (held : Nat),
      s.dev.hasQuarter q = true ∧
      900 < v ∧
      v < 2 ^ 16 ∧
      s.dev.bit (K.Q_FLAGS q) 0 = true ∧
      1000000 ≤ held) ∧
    (∃ (s : State) (q : Nat) (v : Nat) (held : Nat),
      s.dev.hasQuarter q = true ∧
      900 < v ∧
      v < 2 ^ 16 ∧
      s.dev.bit (K.Q_FLAGS q) 0 = true ∧
      held < 1000000) ∧
    (∃ (s : State) (l : Nat) (v : Nat),
      s.unitsOn = true ∧
      s.dev.hasLeg l = true ∧
      v < 780 ∧
      s.dev.axState (l / 4) ≠ axDisabled ∧
      s.dev.bit (K.LEG_FLAGS l) 1 = false) ∧
    (∃ (s : State) (l : Nat) (v : Nat) (held : Nat),
      s.unitsOn = true ∧
      s.dev.hasLeg l = true ∧
      s.dev.bit (K.LEG_FLAGS l) 1 = true ∧
      (s.dev.coil (l / 2)).begun = true ∧
      (s.dev.coil (l / 2)).start = s.dev.ticks ∧
      840 < v ∧
      2 ≤ held) ∧
    (∃ (s : State) (l : Nat) (v : Nat) (held : Nat),
      s.unitsOn = true ∧
      s.dev.hasLeg l = true ∧
      s.dev.bit (K.LEG_FLAGS l) 1 = true ∧
      (s.dev.coil (l / 2)).begun = true ∧
      (s.dev.coil (l / 2)).start = s.dev.ticks ∧
      held < 2) :=
  ⟨⟨up, 1, 0, by decide +kernel⟩,
    ⟨on fun d => d.safeEnter 1 2 |>.setBit (K.Q_FLAGS 1) 0 true |>.raiseOn 0x152 5, 1, 901, 1000000, by decide +kernel⟩,
    ⟨on fun d => d.safeEnter 1 2 |>.setBit (K.Q_FLAGS 1) 0 true |>.raiseOn 0x152 5, 1, 901, 999999, by decide +kernel⟩,
    ⟨on fun d => (d.setLeg 5 { pos := .high }).wr (K.STATE_4000 1) 3, 5, 779, by decide +kernel⟩,
    ⟨on fun d => (d.setCoil 2 { begun := true, start := 1000000 }).setBit (K.LEG_FLAGS 5) 1 true, 5, 841, 2, by decide +kernel⟩,
    ⟨on fun d => (d.setCoil 2 { begun := true, start := 1000000 }).setBit (K.LEG_FLAGS 5) 1 true, 5, 1200, 1, by decide +kernel⟩⟩

theorem witness_TripsTurnLegsOff :
    (∃ (s : State) (l : Nat) (rawHs : Nat) (rawLs : Nat) (hs : Bool) (boc : Bool),
      s.unitsOn = true ∧
      s.dev.hasLeg l = true ∧
      ((s.dev.leg l).pos = if hs = true then LegPos.high else LegPos.low) ∧
      ((if hs = true then (s.dev.leg l).blankH else (s.dev.leg l).blankL) ≤ s.dev.nowQ + 31) ∧
      s.dev.hasTripped l hs = false) ∧
    (∃ (s : State) (q : Nat) (rawHs : Nat) (rawLs : Nat),
      s.unitsOn = true ∧
      s.dev.hasQuarter q = true ∧
      (s.dev.quarter q).bocEnd ≤ s.dev.nowQ + 31) :=
  ⟨⟨leg { pos := .low, blankL := 0 }, 5, 32, 0, false, true, by decide +kernel⟩,
    ⟨on fun d => d.wr (K.Q_FLAGS 1) 0, 1, 3, 4, by decide +kernel⟩⟩

theorem witness_IncidentCloseAndSafeRelease :
    (∃ (s : State) (q : Nat) (i : IncidentRt),
      s.unitsOn = true ∧
      s.dev.hasQuarter q = true ∧
      (s.dev.quarter q).incident = some i ∧
      i.openAt + 1000 ≤ s.dev.nowQ + 31 ∧
      i.openNt < 2 ^ 64 ∧
      i.hs < 2 ^ 16 ∧
      i.ls < 2 ^ 16) ∧
    (∃ (s : State) (q : Nat),
      s.dev.hasQuarter q = true ∧
      s.dev.isSafe q = true ∧
      (s.dev.quarter q).causes = 0 ∧
      s.dev.allDisabled (quarterAxes q) = true) ∧
    (∃ (s : State) (q : Nat),
      s.dev.isSafe q = true ∧
      (s.dev.quarter q).causes ≠ 0) :=
  ⟨⟨q1 fun r => { r with incident := some { openNt := 5, openAt := 31999031, hs := 1, ls := 1 } }, 1, { openNt := 5, openAt := 31999031, hs := 1, ls := 1 }, by decide +kernel⟩,
    ⟨q1 fun r => { r with causes := 0 }, 1, by decide +kernel⟩,
    ⟨up, 1, by decide +kernel⟩⟩

theorem witness_HeartbeatsAreComparedAndSent :
    (∃ (s : State) (q : Nat) (lane : Nat) (f : Flit),
      s.dev.hasQuarter q = true ∧
      lane < 3 ∧
      s.dev.rd K.INJ_GO = 0 ∧
      flitCrcOk f = true ∧
      flitField f 63 60 = 0 ∧
      (s.dev.quarter q).takeNt = false ∧
      flitField f 58 21 = s.dev.quarterTick q ∧
      flitField f 20 20 = 1) ∧
    (∃ (s : State) (q : Nat) (lane : Nat) (f : Flit),
      s.dev.hasQuarter q = true ∧
      lane < 3 ∧
      s.dev.rd K.INJ_GO = 0 ∧
      flitCrcOk f = true ∧
      flitField f 63 60 = 0 ∧
      (s.dev.quarter q).takeNt = false ∧
      flitField f 58 21 ≠ s.dev.quarterTick q) ∧
    (∃ (s : State) (q : Nat) (lane : Nat) (f : Flit),
      s.dev.hasQuarter q = true ∧
      lane < 3 ∧
      s.dev.rd K.INJ_GO = 0 ∧
      flitCrcOk f = true ∧
      flitField f 63 60 = 0 ∧
      (s.dev.quarter q).takeNt = true) ∧
    (∃ (s : State) (q : Nat) (lane : Nat) (f : Flit),
      s.dev.hasQuarter q = true ∧
      lane < 3 ∧
      s.dev.rd K.INJ_GO = 0 ∧
      flitCrcOk f = true ∧
      flitField f 63 60 = 0) ∧
    (∃ (s : State) (q : Nat),
      s.dev.hasQuarter q = true ∧
      (s.dev.quarter q).trained = true) ∧
    (∃ (s : State) (q : Nat),
      s.dev.hasQuarter q = true ∧
      (s.dev.quarter q).trained = true ∧
      (s.dev.quarter q).silent = false) ∧
    (∃ (s : State) (q : Nat),
      s.dev.hasQuarter q = true ∧
      (s.dev.quarter q).trained = true ∧
      (s.dev.quarter q).silent = true) :=
  ⟨⟨on fun d => d.wr (K.Q_FLAGS 1) 0, 1, 0, heartbeatFlit false 1000000 4096, by decide +kernel⟩,
    ⟨up, 1, 0, heartbeatFlit true 1000001 4096, by decide +kernel⟩,
    ⟨q1 fun r => { r with takeNt := true}, 1, 2, heartbeatFlit true 1000001 0, by decide +kernel⟩,
    ⟨up, 1, 2, heartbeatFlit true 1000001 2400, by decide +kernel⟩,
    ⟨q1 fun r => { r with trained := true}, 1, by decide +kernel⟩,
    ⟨q1 fun r => { r with trained := true}, 1, by decide +kernel⟩,
    ⟨q1 fun r => { r with trained := true, silent := true}, 1, by decide +kernel⟩⟩

theorem witness_EdgeLettersReachTheFranker :
    (∃ (s : State) (q : Nat) (lane : Nat) (f : Flit),
      s.dev.hasQuarter q = true ∧
      lane < 3 ∧
      s.dev.rd K.INJ_GO = 0 ∧
      flitCrcOk f = true ∧
      flitField f 63 60 = 1 ∧
      (s.dev.legShut (16 * q + flitField f 58 55) = true ∨ (s.dev.coil ((16 * q + flitField f 58 55) / 2)).running = false)) ∧
    (∃ (s : State) (q : Nat) (lane : Nat) (f : Flit),
      s.dev.hasQuarter q = true ∧
      lane < 3 ∧
      s.dev.rd K.INJ_GO = 0 ∧
      flitCrcOk f = true ∧
      flitField f 63 60 = 1 ∧
      s.dev.legShut (16 * q + flitField f 58 55) = false ∧
      (s.dev.coil ((16 * q + flitField f 58 55) / 2)).running = true ∧
      (flitEdge f).gen = (s.dev.axis ((16 * q + flitField f 58 55) / 4)).goGen % 4 ∧
      s.dev.periodAt ((16 * q + flitField f 58 55) / 2) ((s.dev.coil ((16 * q + flitField f 58 55) / 2)).tagged (flitEdge f).ptag) + (flitEdge f).offset < s.dev.nowQ + 80) ∧
    (∃ (s : State) (q : Nat) (lane : Nat) (f : Flit),
      s.dev.hasQuarter q = true ∧
      lane < 3 ∧
      s.dev.rd K.INJ_GO = 0 ∧
      flitCrcOk f = true ∧
      flitField f 63 60 = 1 ∧
      s.dev.legShut (16 * q + flitField f 58 55) = false ∧
      (s.dev.coil ((16 * q + flitField f 58 55) / 2)).running = true ∧
      (flitEdge f).gen = (s.dev.axis ((16 * q + flitField f 58 55) / 4)).goGen % 4 ∧
      s.dev.nowQ + 80 ≤ s.dev.periodAt ((16 * q + flitField f 58 55) / 2) ((s.dev.coil ((16 * q + flitField f 58 55) / 2)).tagged (flitEdge f).ptag) + (flitEdge f).offset ∧
      (s.dev.coil ((16 * q + flitField f 58 55) / 2)).next ≤ (s.dev.coil ((16 * q + flitField f 58 55) / 2)).tagged (flitEdge f).ptag) ∧
    (∃ (s : State) (q : Nat) (lane : Nat) (f : Flit),
      s.dev.hasQuarter q = true ∧
      lane < 3 ∧
      s.dev.rd K.INJ_GO = 0 ∧
      flitCrcOk f = true ∧
      flitField f 63 60 = 1 ∧
      s.dev.legShut (16 * q + flitField f 58 55) = false ∧
      (s.dev.coil ((16 * q + flitField f 58 55) / 2)).running = true ∧
      (flitEdge f).gen = ((s.dev.axis ((16 * q + flitField f 58 55) / 4)).goGen + 1) % 4 ∧
      (flitEdge f).last = true) :=
  ⟨⟨up, 0, 0, edgeF {state := 1}, by decide +kernel⟩,
    ⟨on fun d => (d.wr (K.Q_FLAGS 0) 0).setCoil 2 {running := true}, 0, 0, edgeF {state := 1}, by decide +kernel⟩,
    ⟨on fun d => (d.wr (K.Q_FLAGS 0) 0).wr K.NT 0 |>.setLeg 5 {enabled := true} |>.setCoil 2 {running := true, next := 3, nextAt := 1000100}, 0, 0, edgeF {state := 1, ptag := 3, offset := 100}, by decide +kernel⟩,
    ⟨on fun d => (d.wr (K.Q_FLAGS 0) 0) |>.setLeg 5 {enabled := true} |>.setCoil 2 {running := true, next := 3, nextAt := 1000100}, 0, 0, edgeF {state := 1, gen := 1, ptag := 3, offset := 100, last := true}, by decide +kernel⟩⟩

theorem witness_SettingsAndModeChangesLand :
    (∃ (s : State) (q : Nat) (lane : Nat) (err : Bool) (addr : Nat) (value : Nat),
      s.dev.hasQuarter q = true ∧
      lane < 3 ∧
      s.dev.rd K.INJ_GO = 0 ∧
      (((List.range 8).any fun j => settingFor (settingKey q addr) (8 * q + j) && (s.dev.coil (8 * q + j)).running) = false)) ∧
    (∃ (s : State) (q : Nat) (lane : Nat) (err : Bool) (addr : Nat) (value : Nat),
      s.dev.hasQuarter q = true ∧
      lane < 3 ∧
      s.dev.rd K.INJ_GO = 0 ∧
      (((List.range 8).any fun j => settingFor (settingKey q addr) (8 * q + j) && (s.dev.coil (8 * q + j)).running) = true)) ∧
    (∃ (s : State) (q : Nat) (lane : Nat) (err : Bool) (addr : Nat),
      s.dev.hasQuarter q = true ∧
      lane < 3 ∧
      s.dev.rd K.INJ_GO = 0) ∧
    (∃ (s : State) (q : Nat) (lane : Nat) (err : Bool) (leg : Nat),
      s.dev.hasQuarter q = true ∧
      lane < 3 ∧
      s.dev.rd K.INJ_GO = 0) ∧
    (∃ (s : State) (q : Nat) (lane : Nat) (err : Bool) (leg : Nat),
      s.dev.hasQuarter q = true ∧
      lane < 3 ∧
      s.dev.rd K.INJ_GO = 0) ∧
    (∃ (s : State) (q : Nat) (lane : Nat) (err : Bool) (i : Nat) (on : Bool),
      s.dev.hasQuarter q = true ∧
      lane < 3 ∧
      s.dev.rd K.INJ_GO = 0 ∧
      i < 3) ∧
    (∃ (s : State) (q : Nat) (lane : Nat) (err : Bool) (leg : Nat) (output : Nat) (spare : Nat) (segment : Nat),
      s.dev.hasQuarter q = true ∧
      lane < 3 ∧
      s.dev.rd K.INJ_GO = 0 ∧
      spare < 4 ∧
      segment < 32) :=
  ⟨⟨up, 1, 2, false, 70, 7, by decide +kernel⟩,
    ⟨on fun d => d.setCoil 8 {running := true}, 1, 2, true, 0, 7, by decide +kernel⟩,
    ⟨up, 1, 2, true, 70, by decide +kernel⟩,
    ⟨up, 1, 2, false, 7, by decide +kernel⟩,
    ⟨on fun d => d.setLeg 23 {pos := .high, enabled := true, held := [{state := 1}]}, 1, 2, false, 7, by decide +kernel⟩,
    ⟨up, 1, 2, false, 0, false, by decide +kernel⟩,
    ⟨up, 1, 2, false, 15, 3, 3, 31, by decide +kernel⟩⟩

theorem witness_QuarterFlitsReachTheController :
    (∃ (s : State) (q : Nat) (lane : Nat) (err : Bool) (ch : Nat) (c : Nat) (code : Int) (ts : Nat),
      s.dev.hasQuarter q = true ∧
      lane < 3 ∧
      s.dev.rd K.INJ_GO = 0 ∧
      s.dev.channelCoil q ch = some c ∧
      (s.dev.coil c).running = true) ∧
    (∃ (s : State) (q : Nat) (lane : Nat) (err : Bool) (code : Int) (ts : Nat),
      s.dev.hasQuarter q = true ∧
      lane < 3 ∧
      s.dev.rd K.INJ_GO = 0 ∧
      s.dev.channelCoil q 8 = none) ∧
    (∃ (s : State) (q : Nat) (lane : Nat) (err : Bool) (m : LegMeasure),
      s.dev.hasQuarter q = true ∧
      lane < 3 ∧
      s.dev.rd K.INJ_GO = 0 ∧
      m.kind < 4 ∧
      m.leg < 16) ∧
    (∃ (s : State) (q : Nat) (lane : Nat) (err : Bool) (kind : ReportKind) (nt : Nat),
      s.dev.hasQuarter q = true ∧
      lane < 3 ∧
      s.dev.rd K.INJ_GO = 0) ∧
    (∃ (s : State) (q : Nat) (lane : Nat) (err : Bool) (leg : Nat) (nt : Nat),
      s.dev.hasQuarter q = true ∧
      lane < 3 ∧
      s.dev.rd K.INJ_GO = 0 ∧
      leg < 16) ∧
    (∃ (s : State) (q : Nat) (lane : Nat) (err : Bool) (temp : Int) (vgl : Nat),
      s.dev.hasQuarter q = true ∧
      lane < 3 ∧
      s.dev.rd K.INJ_GO = 0 ∧
      -2 ^ 15 ≤ temp ∧
      temp < 2 ^ 15 ∧
      vgl < 2 ^ 16) :=
  ⟨⟨on fun d => d.setCoil 9 {running := true}, 1, 0, false, 1, 9, -8192, 7, by decide +kernel⟩,
    ⟨up, 1, 0, true, -8192, 7, by decide +kernel⟩,
    ⟨up, 1, 0, true, { leg := 15, kind := 3, up := true, tsw := 65535, delay := 3, code := 4, vbst := some 1100 }, by decide +kernel⟩,
    ⟨up, 1, 0, false, .lateEdge 3, 7, by decide +kernel⟩,
    ⟨up, 1, 0, false, 15, 7, by decide +kernel⟩,
    ⟨up, 1, 0, false, 3000, 65535, by decide +kernel⟩⟩

theorem witness_BadFlitsAreDiscardedAndCounted :
    (∃ (s : State) (q : Nat) (lane : Nat) (err : Bool) (m : LegMeasure) (c : Instr),
      s.dev.hasQuarter q = true ∧
      lane < 3 ∧
      s.dev.rd K.INJ_GO = 0 ∧
      s.unitsOn = true ∧
      c ∈ [Instr.setting q lane 0 0 false err, Instr.modeChange q lane (ModeChange.laneSelect 0 true) false err, Instr.go q lane 15 true 0 false err, Instr.adcSample q lane 0 0 0 false err, Instr.legMeasurements q lane m false err, Instr.protectionReport q lane ReportKind.clamp 0 false err, Instr.refreshReport q lane 0 0 false err, Instr.settingAcknowledge q lane 0 false err, Instr.quarterStatus q lane 0 0 false err]) ∧
    (∃ (s : State) (q : Nat) (lane : Nat) (f : Flit),
      s.dev.hasQuarter q = true ∧
      lane < 3 ∧
      s.dev.rd K.INJ_GO = 0 ∧
      flitCrcOk f = false) ∧
    (∃ (s : State) (q : Nat) (lane : Nat) (f : Flit) (toQ : Bool),
      s.dev.hasQuarter q = true ∧
      lane < 3 ∧
      s.dev.rd K.INJ_GO = 0 ∧
      flitCrcOk f = true ∧
      flitReserved (flitField f 63 60) = true) :=
  ⟨⟨up, 1, 0, false, {leg := 0, kind := 0, up := false, tsw := 0, delay := 3, code := 4, vbst := none}, .go 1 0 15 true 0 false false, by decide +kernel⟩,
    ⟨up, 1, 0, 1, by decide +kernel⟩,
    ⟨up, 1, 0, mkFlit (14 * 2^52), true, by decide +kernel⟩⟩

theorem witness_LanesAndSeamsTimeOut :
    (∃ (s : State) (q : Nat) (lane : Nat),
      s.dev.hasQuarter q = true ∧
      lane < 3 ∧
      (s.dev.quarter q).trained = true ∧
      s.dev.bit (K.LANES q) lane = true ∧
      (((s.dev.quarter q).lane true lane).lastValid + 2000 ≤ s.dev.now + 7 ∨ ((s.dev.quarter q).lane false lane).lastValid + 2000 ≤ s.dev.now + 7 ∨ 16 < s.dev.laneCrcRate q lane)) ∧
    (∃ (s : State) (q : Nat),
      s.dev.hasQuarter q = true ∧
      (s.dev.quarter q).trained = true ∧
      s.dev.seamQuiet q true 2000 = true ∧
      (s.dev.quarter q).causes.testBit 1 = false) ∧
    (∃ (s : State) (q : Nat),
      s.dev.hasQuarter q = true ∧
      (s.dev.quarter q).trained = true ∧
      s.dev.seamQuiet q false 2000 = true ∧
      (s.dev.quarter q).silent = false) ∧
    (∃ (s : State) (q : Nat) (t : Nat),
      s.dev.hasQuarter q = true ∧
      (s.dev.quarter q).flowSince = some t ∧
      (s.dev.quarter q).causes.testBit 1 = true ∧
      t + 10000 ≤ s.dev.now + 7 ∧
      s.dev.seamQuiet q true 2000 = false) :=
  ⟨⟨on fun d => (d.setQuarter 1 {d.quarter 1 with trained := true}).wr (K.LANES 1) 3, 1, 1, by decide +kernel⟩,
    ⟨on fun d => (d.setQuarter 1 {d.quarter 1 with trained := true}).wr (K.Q_FLAGS 1) 0, 1, by decide +kernel⟩,
    ⟨on fun d => (d.setQuarter 1 {d.quarter 1 with trained := true}).wr (K.Q_FLAGS 1) 0, 1, by decide +kernel⟩,
    ⟨on fun d => (d.setQuarter 1 ((Dev.quarter d 1).setLane true 0 {lastValid := 7999999})) |> fun d => (d.setQuarter 1 {d.quarter 1 with trained := true, causes := 2, flowSince := some 7990007}).wr (K.Q_FLAGS 1) 2 |>.wr (K.LANES 1) 1, 1, 7990007, by decide +kernel⟩⟩

theorem witness_CommitChecksAndPeriodStarts :
    (∃ (s : State) (c : Nat),
      s.unitsOn = true ∧
      s.dev.hasCoil c = true ∧
      s.dev.commits c = true ∧
      (s.dev.coil c).complete = none ∧
      32 * (s.dev.coil c).nextAt ≤ s.dev.nowQ + 31 + 80 ∧
      (∀ l ∈ coilLegs c, s.dev.setHeld l ((s.dev.coil c).next % 16) = true)) ∧
    (∃ (s : State) (c : Nat),
      s.unitsOn = true ∧
      s.dev.hasCoil c = true ∧
      s.dev.commits c = true ∧
      (s.dev.coil c).complete = none ∧
      32 * (s.dev.coil c).nextAt ≤ s.dev.nowQ + 31 + 80 ∧
      (∃ l ∈ coilLegs c, s.dev.setHeld l ((s.dev.coil c).next % 16) = false) ∧
      (s.dev.coil c).goFrom = none) ∧
    (∃ (s : State) (c : Nat),
      s.unitsOn = true ∧
      s.dev.hasCoil c = true ∧
      (s.dev.coil c).running = true ∧
      (s.dev.coil c).nextAt ≤ s.dev.ticks) :=
  ⟨⟨cc fun d => ((d.setLeg 4 {held := [{state := 3, ptag := 5, last := true}]}).setLeg 5 {held := [{state := 3, ptag := 5, last := true}]}), 2, by decide +kernel⟩,
    ⟨cc fun d => ((d.setLeg 4 {held := [{state := 3, ptag := 5, last := true}]}).setLeg 5 {held := [{state := 3, ptag := 5, last := false}]}), 2, by decide +kernel⟩,
    ⟨cc fun d => let d := (d.setCoil 2 {d.coil 2 with complete := some false, lateRun := 2, heldNow := true}); { ((d.setLeg 4 {enabled := true, pattern := [{state := 1, ptag := 3, offset := 7, last := true}]}).setLeg 5 {enabled := true, held := [{state := 1, ptag := 5, last := true}]}) with ticks := 1000003}, 2, by decide +kernel⟩⟩

theorem witness_AcceptedEdgesCount :
    (∃ (s : State) (n : Nat) (ts : Nat) (run : Nat) (lineB : Bool) (level : Bool) (k : Int),
      s.unitsOn = true ∧
      s.dev.hasAxis n = true ∧
      s.dev.quadrature n = true ∧
      s.dev.lineAB n = false ∧
      s.dev.rd (K.FILT n) < run ∧
      (∀ (z : Nat), (s.dev.encRt n).zAt = some z → ts ≤ z) ∧
      (Option.all (fun l => decide (l.t ≠ ts) || l.lineB == lineB) (s.dev.encRt n).last = true) ∧
      (quadStep (s.dev.dec n).a (s.dev.dec n).b (if lineB = true then (s.dev.dec n).a else level) (if lineB = true then level else (s.dev.dec n).b) = some k) ∧
      k ≠ 0) ∧
    (∃ (s : State) (n : Nat) (ts : Nat) (run : Nat) (lineB : Bool) (level : Bool),
      s.unitsOn = true ∧
      s.dev.hasAxis n = true ∧
      s.dev.quadrature n = true ∧
      s.dev.lineAB n = false ∧
      s.dev.rd (K.FILT n) < run ∧
      (∀ (z : Nat), (s.dev.encRt n).zAt = some z → ts ≤ z) ∧
      (Option.all (fun l => decide (l.t ≠ ts) || l.lineB == lineB) (s.dev.encRt n).last = true) ∧
      (quadStep (s.dev.dec n).a (s.dev.dec n).b (if lineB = true then (s.dev.dec n).a else level) (if lineB = true then level else (s.dev.dec n).b) = some 0)) ∧
    (∃ (s : State) (n : Nat) (ts : Nat) (run : Nat) (lineB : Bool) (level : Bool) (l : LastStep),
      s.unitsOn = true ∧
      s.dev.hasAxis n = true ∧
      s.dev.quadrature n = true ∧
      s.dev.lineAB n = false ∧
      s.dev.rd (K.FILT n) < run ∧
      (∀ (z : Nat), (s.dev.encRt n).zAt = some z → ts ≤ z) ∧
      (s.dev.encRt n).last = some l ∧
      l.t = ts ∧
      l.lineB = !lineB ∧
      (quadStep l.dec.a l.dec.b (if lineB = true then (s.dev.dec n).a else level) (if lineB = true then level else (s.dev.dec n).b) = none) ∧
      l.dec.preAt ≤ ts ∧
      (s.dev.bit (K.DEC_CFG n) 1 = false ∨ l.dec.seen = false ∨ rabs (↑(s.dev.rdI 32 (K.ENC_CPS n)) : ℚ) < s.dev.rMax n / 2)) ∧
    (∃ (s : State) (n : Nat) (ts : Nat) (run : Nat) (lineB : Bool) (level : Bool) (l : LastStep),
      s.unitsOn = true ∧
      s.dev.hasAxis n = true ∧
      s.dev.quadrature n = true ∧
      s.dev.lineAB n = false ∧
      s.dev.rd (K.FILT n) < run ∧
      (∀ (z : Nat), (s.dev.encRt n).zAt = some z → ts ≤ z) ∧
      (s.dev.encRt n).last = some l ∧
      l.t = ts ∧
      l.lineB = !lineB ∧
      (quadStep l.dec.a l.dec.b (if lineB = true then (s.dev.dec n).a else level) (if lineB = true then level else (s.dev.dec n).b) = none) ∧
      l.dec.preAt ≤ ts ∧
      s.dev.bit (K.DEC_CFG n) 1 = true ∧
      l.dec.seen = true ∧
      s.dev.rMax n / 2 ≤ rabs (↑(s.dev.rdI 32 (K.ENC_CPS n)) : ℚ)) ∧
    (∃ (s : State) (n : Nat) (ts : Nat) (run : Nat) (lineB : Bool) (level : Bool),
      run ≤ s.dev.rd (K.FILT n)) ∧
    (∃ (s : State) (n : Nat) (ts : Nat) (run : Nat) (lineB : Bool) (level : Bool),
      run ≤ s.dev.rd (K.FILT n)) ∧
    (∃ (s : State) (n : Nat) (ts : Nat) (run : Nat) (lineB : Bool) (level : Bool),
      run ≤ s.dev.rd (K.FILT n)) ∧
    (∃ (s : State) (n : Nat) (ts : Nat) (run : Nat) (rising : Bool),
      s.unitsOn = true ∧
      s.dev.hasAxis n = true ∧
      s.dev.rd (K.SRC n) = 1 ∧
      s.dev.rd (K.IN_MODE n) ≠ 0 ∧
      s.dev.rd (K.FILT n) < run ∧
      (s.dev.rd (K.STEP_CFG n) % 4 = 2 ∨ s.dev.rd (K.STEP_CFG n) % 4 = if rising = true then 0 else 1) ∧
      s.dev.lineAB n = false) ∧
    (∃ (s : State) (n : Nat) (ts : Nat) (run : Nat) (rising : Bool),
      s.unitsOn = true ∧
      s.dev.hasAxis n = true ∧
      s.dev.rd (K.SRC n) = 1 ∧
      s.dev.rd (K.IN_MODE n) ≠ 0 ∧
      s.dev.rd (K.FILT n) < run ∧
      (¬(s.dev.rd (K.STEP_CFG n) % 4 = 2 ∨ s.dev.rd (K.STEP_CFG n) % 4 = if rising = true then 0 else 1) ∨ s.dev.lineAB n = true)) ∧
    (∃ (s : State) (m : Nat) (t : Nat) (what : Nat) (x : Int) (rest : List (Nat × Nat × Int)),
      s.pow.devState ≠ DevState.off ∧
      s.dev.hasEmu m = true ∧
      (s.dev.emuRt m).edges = (t, what, x) :: rest ∧
      t ≤ s.dev.nowQ + 31) ∧
    (∃ (s : State) (n : Nat) (ts : Nat) (run : Nat) (lineB : Bool) (level : Bool),
      s.unitsOn = true ∧
      s.dev.hasAxis n = true ∧
      (s.dev.quadrature n = false ∨ s.dev.lineAB n = true) ∧
      s.dev.rd (K.FILT n) < run ∧
      (∀ (z : Nat), (s.dev.encRt n).zAt = some z → ts ≤ z) ∧
      (Option.all (fun l => decide (l.t ≠ ts) || l.lineB == lineB) (s.dev.encRt n).last = true)) :=
  ⟨⟨en fun d => setDec (d.wr (K.DEC_CFG 1) 1) {a := true, b:= true, preAt := 78}, 1, 77, 8, true, false, -1, by decide +kernel⟩,
    ⟨en id, 1, 77, 8, false, false, by decide +kernel⟩,
    ⟨en fun d => setDec (d.wrs [(K.ENC_FLAGS 1, 1), (K.DEC_CFG 1, 2), (K.ENC_CPS 1, 900000000)]) {a := true} (some (ls {})), 1, 77, 8, true, true, ls {}, by decide +kernel⟩,
    ⟨en fun d => setDec (d.wrs [(K.ENC_FLAGS 1, 1), (K.DEC_CFG 1, 2), (K.ENC_CPS 1, 900000000)]) {a := true} (some (ls {seen := true, sign := -1})), 1, 77, 8, true, true, ls {seen := true, sign := -1}, by decide +kernel⟩,
    ⟨on f1, 1, 77, 3, true, true, by decide +kernel⟩,
    ⟨on f1, 1, 77, 3, true, true, by decide +kernel⟩,
    ⟨on f1, 1, 77, 3, true, true, by decide +kernel⟩,
    ⟨on fun d => ((d.wr (K.SRC 1) 1).wr (K.IN_MODE 1) 1).wr (K.STEP_CFG 1) 6, 1, 77, 9, true, by decide +kernel⟩,
    ⟨on fun d => ((d.wr (K.SRC 1) 1).wr (K.IN_MODE 1) 1).wr (K.STEP_CFG 1) 1, 1, 77, 9, true, by decide +kernel⟩,
    ⟨on fun d => { d with emu := [(0, {edges := [(32000031, 2, 1), (32000040,0,3)]})]}, 0, 32000031, 2, 1, [(32000040,0,3)], by decide +kernel⟩,
    ⟨en fun d => d.wr (K.ENC_FLAGS 1) 2, 1, 77, 8, false, true, by decide +kernel⟩⟩

theorem witness_IndexLineChecksAndEncoderTimeout :
    (∃ (s : State) (n : Nat) (level : Bool) (ts : Nat) (run : Nat),
      s.unitsOn = true ∧
      s.dev.hasAxis n = true ∧
      s.dev.rd (K.FILT n) < run ∧
      (s.dev.encRt n).z ≠ some level ∧
      (s.dev.encRt n).zAt = none) ∧
    (∃ (s : State) (n : Nat) (ts : Nat),
      s.unitsOn = true ∧
      s.dev.hasAxis n = true ∧
      s.pending = [] ∧
      (s.dev.encRt n).zAt = some ts ∧
      ts < 2 ^ 64 ∧
      s.dev.quadrature n = true ∧
      (s.dev.bit (K.DEC_CFG n) 3 = true → (s.dev.dec n).a = true ∧ (s.dev.dec n).b = true) ∧
      s.dev.posValid n = true) ∧
    (∃ (s : State) (n : Nat) (ts : Nat),
      s.unitsOn = true ∧
      s.dev.hasAxis n = true ∧
      s.pending = [] ∧
      (s.dev.encRt n).zAt = some ts ∧
      ts < 2 ^ 64 ∧
      s.dev.quadrature n = true ∧
      (s.dev.bit (K.DEC_CFG n) 3 = true → (s.dev.dec n).a = true ∧ (s.dev.dec n).b = true) ∧
      s.dev.posValid n = false ∧
      s.dev.bit (K.ENC_FLAGS n) 6 = true ∧
      s.dev.lineAB n = false ∧
      s.dev.rd (K.LINES n) ≠ 0 ∧
      s.dev.rd (K.LINES n) < 2 ^ 32 ∧
      (s.dev.encCnt n).natAbs < 2 ^ 62) ∧
    (∃ (s : State) (n : Nat) (line : Nat) (held : Nat),
      s.unitsOn = true ∧
      s.dev.hasAxis n = true ∧
      (line < if s.dev.rd (K.SRC n) = 1 then 2 else 3) ∧
      s.dev.rd (K.IN_MODE n) ≠ 0 ∧
      s.dev.bit (K.ENC_FLAGS n) (1 + line) = false ∧
      1000 ≤ held) ∧
    (∃ (s : State) (n : Nat) (line : Nat) (held : Nat),
      s.unitsOn = true ∧
      s.dev.hasAxis n = true ∧
      (line < if s.dev.rd (K.SRC n) = 1 then 2 else 3) ∧
      s.dev.rd (K.IN_MODE n) ≠ 0 ∧
      s.dev.bit (K.ENC_FLAGS n) (1 + line) = false ∧
      held < 1000) ∧
    (∃ (s : State) (n : Nat) (line : Nat) (held : Nat),
      s.unitsOn = true ∧
      s.dev.hasAxis n = true ∧
      line < 3 ∧
      s.dev.bit (K.ENC_FLAGS n) (1 + line) = true ∧
      1000000 ≤ held) ∧
    (∃ (s : State) (n : Nat) (line : Nat) (held : Nat),
      s.unitsOn = true ∧
      s.dev.hasAxis n = true ∧
      line < 3 ∧
      s.dev.bit (K.ENC_FLAGS n) (1 + line) = true ∧
      held < 1000000) ∧
    (∃ (s : State) (n : Nat),
      s.unitsOn = true ∧
      s.dev.hasAxis n = true ∧
      s.dev.encTimed n = true ∧
      s.dev.bit (K.ENC_FLAGS n) 4 = false ∧
      (s.dev.encRt n).toSince + 1000 * s.dev.rd (K.ENC_TO n) ≤ s.dev.now + 7) :=
  ⟨⟨en fun d => d.wr (K.DEC_CFG 1) 0, 1, false, 88, 9, by decide +kernel⟩,
    ⟨en fun d => zat ((d.wr (K.ENC_FLAGS 1) 1).wr (K.ENC_CNT 1) 1234), 1, 88, by decide +kernel⟩,
    ⟨en fun d => zat (((d.wr (K.ENC_FLAGS 1) 64).wr (K.LINES 1) 500).wr (K.ENC_CNT 1) (2^64-1000)), 1, 88, by decide +kernel⟩,
    ⟨en fun d => d.wr (K.ENC_FLAGS 1) 1, 1, 2, 1000, by decide +kernel⟩,
    ⟨en fun d => d.wr (K.ENC_FLAGS 1) 1, 1, 2, 999, by decide +kernel⟩,
    ⟨en fun d => d.wr (K.ENC_FLAGS 1) 9, 1, 2, 1000000, by decide +kernel⟩,
    ⟨en fun d => d.wr (K.ENC_FLAGS 1) 9, 1, 2, 999999, by decide +kernel⟩,
    ⟨en fun d => ((d.wr (K.ENC_TO 1) 7).wr (K.V_EXPECT 1) 3).wr (K.CMD_VEL 1) 3, 1, by decide +kernel⟩⟩

theorem witness_SwitchesAndSyncOut :
    (∃ (s : State) (n : Nat) (i : Nat) (t1 : Nat) (t2 : Nat) (level : Bool),
      s.unitsOn = true ∧
      s.dev.hasAxis n = true ∧
      i < 3 ∧
      (s.dev.sw n).levels.testBit i ≠ level ∧
      t1 < 2 ^ 64 ∧
      t2 < 2 ^ 64 ∧
      t2 + 1000 * s.dev.rd (K.SW_FILT n) ≤ s.dev.nt + 7 ∧
      ((s.dev.sw n).started.testBit i = true ∨ (s.dev.sw n).startNt + 1000 * s.dev.rd (K.SW_FILT n) ≤ t1)) ∧
    (∃ (s : State) (n : Nat) (i : Nat) (t1 : Nat) (t2 : Nat) (level : Bool),
      s.unitsOn = true ∧
      s.dev.hasAxis n = true ∧
      i < 3 ∧
      (s.dev.sw n).levels.testBit i ≠ level ∧
      t1 < 2 ^ 64 ∧
      t2 < 2 ^ 64 ∧
      t2 + 1000 * s.dev.rd (K.SW_FILT n) ≤ s.dev.nt + 7 ∧
      (s.dev.sw n).started.testBit i = false ∧
      t1 < (s.dev.sw n).startNt + 1000 * s.dev.rd (K.SW_FILT n)) ∧
    (∃ (s : State) (n : Nat) (i : Nat) (t1 : Nat) (t2 : Nat) (level : Bool),
      s.unitsOn = true ∧
      s.dev.hasAxis n = true ∧
      i < 3 ∧
      (s.dev.sw n).levels.testBit i ≠ level ∧
      t1 < 2 ^ 64 ∧
      t2 < 2 ^ 64 ∧
      s.dev.nt + 7 < t2 + 1000 * s.dev.rd (K.SW_FILT n)) ∧
    (∃ (s : State) (n : Nat) (i : Nat) (ts : Nat) (ea : EdgeRec),
      s.unitsOn = true ∧
      s.dev.hasAxis n = true ∧
      (s.dev.sw n).openLatch.find i = some (ts, ea) ∧
      ts + 10000000 ≤ s.dev.nt + 7 ∧
      i < 3) ∧
    (∃ (s : State) (l : Letter),
      s.pow.devState ≠ DevState.off ∧
      (List.find? (fun x => decide (x.action = 5) && decide (x.due ≤ s.dev.nt + 7) && decide (s.dev.nt < x.due + 8)) s.dev.desp.table = some l) ∧
      l.arg 13 1 < 2) ∧
    (∃ (s : State) (l : Letter),
      s.pow.devState ≠ DevState.off ∧
      (List.find? (fun x => decide (x.action = 5) && decide (x.due ≤ s.dev.nt + 7) && decide (s.dev.nt < x.due + 8)) s.dev.desp.table = some l) ∧
      2 ≤ l.arg 13 1) ∧
    (∃ (s : State) (t : Nat),
      s.dev.desp.pulseEnd = some t ∧
      t ≤ s.dev.now + 7) :=
  ⟨⟨en fun d => d.setAxis 1 { d.axis 1 with sw := { started := 7 } }, 1, 2, 50, 60, false, by decide +kernel⟩,
    ⟨en fun d => d.setAxis 1 { d.axis 1 with sw := { startNt := 40 } }, 1, 2, 50, 60, false, by decide +kernel⟩,
    ⟨en id, 1, 2, 8000000, 8000007, false, by decide +kernel⟩,
    ⟨on fun d => {((d.setAxis 1 { d.axis 1 with sw := { openLatch := [(2,(5,{t := 3,cnt := 9,step := 1}))]}}).wr (K.IN_MODE 1) 1) with nt := 9999998}, 1, 2, 5, {t := 3,cnt := 9,step := 1}, by decide +kernel⟩,
    ⟨table [lt 5 [0,1] 0 8000007 0], lt 5 [0,1] 0 8000007 0, by decide +kernel⟩,
    ⟨table [lt 5 [0,2,8,0,0,0] 0 8000007 0], lt 5 [0,2,8,0,0,0] 0 8000007 0, by decide +kernel⟩,
    ⟨on fun d => {d with desp := {d.desp with pulseEnd := some 8000007, base := true}}, 8000007, by decide +kernel⟩⟩

theorem witness_CadencesPublishAndTheirTimersEnd :
    (∃ (s : State) (n : Nat),
      s.unitsOn = true ∧
      s.dev.hasAxis n = true ∧
      s.dev.fab.ready = true ∧
      s.dev.nt < 2 ^ 64 ∧
      s.dev.nt % 1000 < 8 ∧
      (s.dev.mot n).cadence ≠ some (s.dev.nt - s.dev.nt % 1000)) ∧
    (∃ (s : State) (n : Nat),
      s.unitsOn = true ∧
      s.dev.hasAxis n = true ∧
      s.dev.fab.ready = true ∧
      s.dev.nt < 2 ^ 64 ∧
      s.dev.nt % 1000 < 8 ∧
      (s.dev.mot n).cadence = some (s.dev.nt - s.dev.nt % 1000)) ∧
    (∃ (s : State) (n : Nat) (t : Nat),
      s.unitsOn = true ∧
      s.dev.hasAxis n = true ∧
      (s.dev.mot n).dwell = some t ∧
      t ≤ s.dev.now + 7) ∧
    (∃ (s : State) (n : Nat) (t : Nat),
      s.unitsOn = true ∧
      s.dev.hasAxis n = true ∧
      (s.dev.mot n).safeAt = some t ∧
      s.dev.axState n = axFaulted ∧
      t + 1000000 * s.dev.rd K.SAFE_STOP_TO ≤ s.dev.now + 7) :=
  ⟨⟨on fun d => {(d.setMot 1 { d.mot 1 with vOut := -77, move := .velocity 1000 }).wr (K.STATE_4000 1) 3 with nt := 8000007}, 1, by decide +kernel⟩,
    ⟨on fun d => d.setMot 1 {cadence := some 8000000}, 1, by decide +kernel⟩,
    ⟨on fun d => (d.setMot 1 {dwell := some 8000007}).wr (K.STATUS 1) 512, 1, 8000007, by decide +kernel⟩,
    ⟨on fun d => {((d.setMot 1 {safeAt := some 0}).wr (K.STATE_4000 1) 5).wr (K.SW_STATE 1) 16 with ticks := 500000000}, 1, 0, by decide +kernel⟩⟩

theorem witness_LettersArriveInTheTable :
    (∃ (s : State) (body : Bytes) (arr : Nat) (post : Bool) (port : Nat) (src : Nat),
      s.pow.devState ≠ DevState.off ∧
      List.length body = 32 ∧
      post = false ∧
      port < 2 ∧
      src < 2 ^ 48 ∧
      ((s.dev.granted body arr post).bad = false ∧ (s.dev.granted body arr post).list.all s.dev.hasAxis = true ∧ (s.dev.granted body arr post).immediate = false ∧ 2 ≤ s.dev.rd K.TSTATE ∧ (s.dev.granted body arr post).due ≤ arr + 1000000 * s.dev.rd K.HORIZON ∧ arr + s.dev.lead (s.dev.granted body arr post) ≤ (s.dev.granted body arr post).due ∧ s.dev.desp.table.length < 2048)) ∧
    (∃ (s : State) (body : Bytes) (arr : Nat) (post : Bool) (port : Nat) (src : Nat),
      s.pow.devState ≠ DevState.off ∧
      List.length body = 32 ∧
      post = false ∧
      port < 2 ∧
      src < 2 ^ 48 ∧
      (s.dev.granted body arr post).bad = true) ∧
    (∃ (s : State) (body : Bytes) (arr : Nat) (post : Bool) (ofs : Nat),
      s.pow.devState ≠ DevState.off ∧
      List.length body = 32 ∧
      post = false ∧
      ofs < 65536 ∧
      ofs % 32 = 0 ∧
      s.dev.hostUp = true ∧
      arr = s.dev.nt ∧
      ((s.dev.granted body arr post).bad = false ∧ (s.dev.granted body arr post).list.all s.dev.hasAxis = true ∧ (s.dev.granted body arr post).immediate = false ∧ 2 ≤ s.dev.rd K.TSTATE ∧ (s.dev.granted body arr post).due ≤ arr + 1000000 * s.dev.rd K.HORIZON ∧ arr + s.dev.lead (s.dev.granted body arr post) ≤ (s.dev.granted body arr post).due ∧ s.dev.desp.table.length < 2048)) ∧
    (∃ (s : State) (body : Bytes) (arr : Nat) (post : Bool) (ofs : Nat),
      s.pow.devState ≠ DevState.off ∧
      List.length body = 32 ∧
      post = false ∧
      ofs < 65536 ∧
      ofs % 32 = 0 ∧
      s.dev.hostUp = true ∧
      arr = s.dev.nt ∧
      (s.dev.granted body arr post).bad = true) ∧
    (∃ (s : State) (body : Bytes) (arr : Nat) (post : Bool),
      s.pow.devState ≠ DevState.off ∧
      List.length body = 32 ∧
      post = true ∧
      65280 ≤ (s.dev.granted body arr post).tag ∧
      s.dev.post.halted = none ∧
      arr = s.dev.nt ∧
      ((s.dev.granted body arr post).bad = false ∧ (s.dev.granted body arr post).list.all s.dev.hasAxis = true ∧ (s.dev.granted body arr post).immediate = false ∧ 2 ≤ s.dev.rd K.TSTATE ∧ (s.dev.granted body arr post).due ≤ arr + 1000000 * s.dev.rd K.HORIZON ∧ arr + s.dev.lead (s.dev.granted body arr post) ≤ (s.dev.granted body arr post).due ∧ s.dev.desp.table.length < 2048)) ∧
    (∃ (s : State) (body : Bytes) (arr : Nat) (post : Bool),
      s.pow.devState ≠ DevState.off ∧
      List.length body = 32 ∧
      post = true ∧
      65280 ≤ (s.dev.granted body arr post).tag ∧
      s.dev.post.halted = none ∧
      arr = s.dev.nt ∧
      (s.dev.granted body arr post).bad = true) :=
  ⟨⟨fq id, lb 8100000 2 1 0 5 tgt, 8000000, false, 0, 5, by decide +kernel⟩,
    ⟨fq id, lb 8100000 2 1 8 5 tgt, 8000000, false, 1, 5, by decide +kernel⟩,
    ⟨fq id, lb 8002000 2 1 0 5 tgt, 8000000, false, 0, by decide +kernel⟩,
    ⟨fq id, lb 8100000 0 1 0 5 tgt, 8000000, false, 65504, by decide +kernel⟩,
    ⟨fq id, lb 508000000 2 1 0 0xFF00 tgt, 8000000, true, by decide +kernel⟩,
    ⟨fq id, lb 8100000 2 9 0 0xFFFF tgt, 8000000, true, by decide +kernel⟩⟩

theorem witness_GoesRunReleasesAndValidations :
    (∃ (s : State) (l : Letter) (rest : List Letter),
      s.pow.devState ≠ DevState.off ∧
      s.dev.findRelease [] s.dev.desp.table = some (l, rest) ∧
      (l.allOrNone = false ∨ s.dev.nt ≤ decisionAt l.due)) ∧
    (∃ (s : State) (l : Letter) (rest : List Letter),
      s.pow.devState ≠ DevState.off ∧
      s.dev.findRelease [] s.dev.desp.table = some (l, rest) ∧
      l.allOrNone = true ∧
      decisionAt l.due < s.dev.nt ∧
      s.dev.allRefuse l = false) ∧
    (∃ (s : State) (l : Letter),
      s.pow.devState ≠ DevState.off ∧
      (List.find? (fun x => x.allOrNone && !x.decided && !x.queued && decide (decisionAt x.due ≤ s.dev.nt + 7)) (List.flatMap (fun n => (s.dev.axis n).inbox) s.dev.axisList) = some l) ∧
      s.dev.allRefuse l = false) ∧
    (∃ (s : State) (l : Letter),
      s.pow.devState ≠ DevState.off ∧
      (List.find? (fun x => x.allOrNone && !x.decided && !x.queued && decide (decisionAt x.due ≤ s.dev.nt + 7)) (List.flatMap (fun n => (s.dev.axis n).inbox) s.dev.axisList) = some l) ∧
      s.dev.allRefuse l = true) ∧
    (∃ (s : State) (l : Letter),
      s.pow.devState ≠ DevState.off ∧
      (List.find? (fun x => decide (x.due ≤ s.dev.nt + 7) && (decide (x.action ≠ 5) || decide (x.due + 8 ≤ s.dev.nt))) s.dev.desp.table = some l) ∧
      (l.lateDrop = true ∨ s.dev.rd K.LATE_POLICY = 0)) ∧
    (∃ (s : State) (q : Nat) (lane : Nat) (axes : Nat) (g : Nat) (timed : Bool) (err : Bool) (n : Nat),
      s.unitsOn = true ∧
      s.dev.hasQuarter q = true ∧
      lane < 3 ∧
      s.dev.rd K.INJ_GO = 0 ∧
      n ∈ quarterAxes q ∧
      axes.testBit (n % 4) = true ∧
      s.dev.goAllows n timed g = true ∧
      (s.dev.mot n).goWait = none ∧
      (∀ l ∈ axisLegs n, s.dev.goHeld l = true ∧ s.dev.legShut l = false)) ∧
    (∃ (s : State) (q : Nat) (lane : Nat) (axes : Nat) (g : Nat) (timed : Bool) (err : Bool),
      s.unitsOn = true ∧
      s.dev.hasQuarter q = true ∧
      lane < 3 ∧
      s.dev.rd K.INJ_GO = 0 ∧
      (∀ n ∈ quarterAxes q, s.dev.goAllows n timed g = false)) ∧
    (∃ (s : State) (p : Nat),
      p < 256 ∧
      s.dev.rd (K.VALIDATE p) = 1 ∧
      s.dev.rd (K.USE p) ≠ 0) ∧
    (∃ (s : State) (p : Nat),
      p < 256 ∧
      s.dev.rd (K.VALIDATE p) = 1 ∧
      s.dev.rd (K.USE p) = 0 ∧
      s.dev.rd (K.COUNT_3100 p) = 0) ∧
    (∃ (s : State) (p : Nat),
      p < 256 ∧
      s.dev.rd (K.VALIDATE p) = 1 ∧
      s.dev.rd (K.USE p) = 0 ∧
      s.dev.rd (K.COUNT_3100 p) ≠ 0 ∧
      s.dev.rd (K.FIRST p) + s.dev.rd (K.COUNT_3100 p) ≤ 131072 ∧
      validResult (s.dev.rd (K.FIRST p)) (s.dev.rd (K.COUNT_3100 p)) (rawPoints s p) = 1) :=
  ⟨⟨table [lt 1 tgt 2 8030000], lt 1 tgt 2 8030000, [], by decide +kernel⟩,
    ⟨on fun d => { (d.wr (K.STATE_4000 1) 2) with nt := 8000001, desp := { d.desp with table := [lt 1 tgt 2] } }, lt 1 tgt 2, [], by decide +kernel⟩,
    ⟨box [lt 1 tgt 2], lt 1 tgt 2, by decide +kernel⟩,
    ⟨box [lt 1 tgt 2] fun d => d.wr (K.STATE_4000 1) 0, lt 1 tgt 2, by decide +kernel⟩,
    ⟨table [lt 1 tgt 0 8000007], lt 1 tgt 0 8000007, by decide +kernel⟩,
    ⟨gs id, 0, 0, 2, 32000028, true, false, 1, by decide +kernel⟩,
    ⟨gs id, 0, 0, 2, 32000027, true, false, by decide +kernel⟩,
    ⟨on fun d => (d.wr (K.VALIDATE 255) 1).wr (K.USE 255) 1, 255, by decide +kernel⟩,
    ⟨on fun d => (d.wr (K.VALIDATE 255) 1), 255, by decide +kernel⟩,
    ⟨{ (on fun d => ((d.wr (K.VALIDATE 255) 1).wr (K.COUNT_3100 255) 2).wr (K.FIRST 255) 131070) with mem := memWrites [] (0x100000-16) ([0,0,0,0,0,5,0,3] ++ [9,0,0,255,255,255,255,1])}, 255, by decide +kernel⟩⟩

theorem witness_MotionLettersAct :
    (∃ (s : State) (n : Nat) (l : Letter),
      s.pow.devState ≠ DevState.off ∧
      s.dev.hasAxis n = true ∧
      s.dev.inboxHead n = some l ∧
      (l.allOrNone = false ∨ l.decided = true) ∧
      s.dev.meetsNow n l = Meets.acts ∧
      l.action = 1) ∧
    (∃ (s : State) (n : Nat) (l : Letter),
      s.pow.devState ≠ DevState.off ∧
      s.dev.hasAxis n = true ∧
      s.dev.inboxHead n = some l ∧
      (l.allOrNone = false ∨ l.decided = true) ∧
      s.dev.meetsNow n l = Meets.acts ∧
      l.action = 2) ∧
    (∃ (s : State) (n : Nat) (l : Letter),
      s.pow.devState ≠ DevState.off ∧
      s.dev.hasAxis n = true ∧
      s.dev.inboxHead n = some l ∧
      (l.allOrNone = false ∨ l.decided = true) ∧
      s.dev.meetsNow n l = Meets.acts ∧
      l.action = 3) :=
  ⟨⟨box [L1], 1, L1, by decide +kernel⟩,
    ⟨box [lt 2 (le 4 (2^32-70000))], 1, lt 2 (le 4 (2^32-70000)), by decide +kernel⟩,
    ⟨box [lt 3 (le 4 5 ++ le 4 0 ++ le 4 77)], 1, lt 3 (le 4 5 ++ le 4 0 ++ le 4 77), by decide +kernel⟩⟩

theorem witness_PatternArmAndStreamLettersAct :
    (∃ (s : State) (n : Nat) (l : Letter),
      s.pow.devState ≠ DevState.off ∧
      s.dev.hasAxis n = true ∧
      s.dev.inboxHead n = some l ∧
      (l.allOrNone = false ∨ l.decided = true) ∧
      s.dev.meetsNow n l = Meets.acts ∧
      l.action = 4 ∧
      s.dev.primeActive n l = false ∧
      l.arr + s.dev.letterPeriod l + 2000 ≤ l.due) ∧
    (∃ (s : State) (n : Nat) (l : Letter),
      s.pow.devState ≠ DevState.off ∧
      s.dev.hasAxis n = true ∧
      s.dev.inboxHead n = some l ∧
      (l.allOrNone = false ∨ l.decided = true) ∧
      s.dev.meetsNow n l = Meets.acts ∧
      l.action = 6 ∧
      l.arg 12 1 = 0) ∧
    (∃ (s : State) (n : Nat) (l : Letter),
      s.pow.devState ≠ DevState.off ∧
      s.dev.hasAxis n = true ∧
      s.dev.inboxHead n = some l ∧
      (l.allOrNone = false ∨ l.decided = true) ∧
      s.dev.meetsNow n l = Meets.acts ∧
      l.action = 6 ∧
      l.arg 12 1 = 1) ∧
    (∃ (s : State) (n : Nat) (l : Letter),
      s.pow.devState ≠ DevState.off ∧
      s.dev.hasAxis n = true ∧
      s.dev.inboxHead n = some l ∧
      (l.allOrNone = false ∨ l.decided = true) ∧
      s.dev.meetsNow n l = Meets.acts ∧
      l.action = 7) ∧
    (∃ (s : State) (n : Nat) (l : Letter),
      s.pow.devState ≠ DevState.off ∧
      s.dev.hasAxis n = true ∧
      s.dev.inboxHead n = some l ∧
      (l.allOrNone = false ∨ l.decided = true) ∧
      s.dev.meetsNow n l = Meets.acts ∧
      l.action = 8 ∧
      s.dev.rd (K.SRC n) = 2 ∧
      (s.dev.mot n).follow.points.length < 16 ∧
      (∀ (p : Nat × Int), (s.dev.mot n).follow.lastPt = some p → p.1 + 10000 ≤ l.arg 12 8 ∧ l.arg 12 8 ≤ p.1 + 1000000000)) :=
  ⟨⟨box [lt 4 P] (fun d => d.wr (K.STATE_3100 5) 1), 1, lt 4 P, by decide +kernel⟩,
    ⟨box [lt 6 [0]] (fun d => d.wr (K.SRC 1) 2), 1, lt 6 [0], by decide +kernel⟩,
    ⟨box [lt 6 [1,5,0,1,0,1,0,1]] (fun d => d.wr (K.STATE_3100 5) 1), 1, lt 6 [1,5,0,1,0,1,0,1], by decide +kernel⟩,
    ⟨box [lt 7 [2]] (fun d => d.setMot 1 { d.mot 1 with prime := some {pat := 5, scale := 256, swing := 1, amp := 3}, follow := {engaged := true}}), 1, lt 7 [2], by decide +kernel⟩,
    ⟨box [lt 8 (le 8 900 ++ le 8 (2^64-5))] (fun d => d.wr (K.SRC 1) 2), 1, lt 8 (le 8 900 ++ le 8 (2^64-5)), by decide +kernel⟩⟩

theorem witness_SamplesAndTheBusAreMeasured :
    (∃ (s : State) (q : Nat) (ch : Nat) (c : Nat) (code : Int),
      s.unitsOn = true ∧
      s.dev.hasQuarter q = true ∧
      s.dev.sampledCoil q ch = some c ∧
      (s.dev.coil c).running = true ∧
      (s.dev.coil c).begun = true ∧
      s.dev.ticks - (s.dev.coil c).start ∈ s.dev.samplePosBy (s.dev.setting q) c) ∧
    (∃ (s : State) (q : Nat) (ch : Nat) (ts : Nat) (e : Nat) (code : Int),
      s.unitsOn = true ∧
      s.dev.hasQuarter q = true ∧
      (s.dev.quarter q).converting.find ch = some (code, ts, e) ∧
      e ≤ s.dev.now + 7) ∧
    (∃ (s : State) (q : Nat) (v : Nat),
      s.unitsOn = true ∧
      s.dev.hasQuarter q = true ∧
      s.dev.fab.ready = true ∧
      v < s.dev.effQ q (K.VBUS_UV q) ∧
      v ≤ s.dev.effQ q (K.VBUS_OV q) ∧
      s.dev.bit (K.BUS_FLAGS q) 0 = false) ∧
    (∃ (s : State) (q : Nat) (v : Nat),
      s.unitsOn = true ∧
      s.dev.hasQuarter q = true ∧
      s.dev.fab.ready = true ∧
      s.dev.effQ q (K.VBUS_UV q) + 50 < v ∧
      v ≤ s.dev.effQ q (K.VBUS_OV q) ∧
      s.dev.bit (K.BUS_FLAGS q) 0 = true) ∧
    (∃ (s : State) (q : Nat) (v : Nat),
      s.unitsOn = true ∧
      s.dev.hasQuarter q = true ∧
      s.dev.fab.ready = true ∧
      s.dev.effQ q (K.VBUS_OV q) < v ∧
      (s.dev.quarter q).clamp = 0) ∧
    (∃ (s : State) (c : Nat) (t : Nat),
      s.unitsOn = true ∧
      s.dev.hasCoil c = true ∧
      (s.dev.quarter (c / 8)).belowOv = some t ∧
      t + 100000 ≤ s.dev.now + 7 ∧
      (s.dev.quarter (c / 8)).clamp.testBit (c % 8) = true ∧
      ((s.dev.coil c).running = false ∨ (s.dev.coil c).nextAt = s.dev.ticks ∨ (s.dev.coil c).start = s.dev.ticks)) :=
  ⟨⟨run9 (fun r => {r with start := 1000000 - sp}), 1, 1, 9, 9000, by decide +kernel⟩,
    ⟨q1 fun r => {r with converting := [(1,(8191,32000000,8000007))]}, 1, 1, 32000000, 8000007, 8191, by decide +kernel⟩,
    ⟨on fun d => (d.wr (K.BUS_FLAGS 1) 0).wr (K.STATE_4000 5) 1, 1, 100, by decide +kernel⟩,
    ⟨on fun d => (d.wr (K.BUS_FLAGS 1) 1).raiseOn 0x150 3, 1, 2000, by decide +kernel⟩,
    ⟨on fun d => (d.setLeg 20 {held := [{state:=1}], due := [(33000000,1,0)]}), 1, 8000, by decide +kernel⟩,
    ⟨on fun d => ((((d.setCoil 9 {start := 1000000}).setQuarter 1 {d.quarter 1 with belowOv := some 7900007, clamp := 3}).setLeg 18 {pos := .low}).wr (K.BUS_FLAGS 1) 2).wr (K.STATE_4000 4) 2, 9, 7900007, by decide +kernel⟩⟩

theorem witness_JobsAreMadeAndPosted :
    (∃ (s : State) (c : Nat),
      s.unitsOn = true ∧
      s.dev.hasCoil c = true ∧
      (s.dev.coil c).running = true ∧
      (s.dev.coil c).begun = true ∧
      (s.dev.coil c).job = none ∧
      (s.dev.coil c).jobFor ≠ some (s.dev.coil c).next ∧
      (s.dev.coil c).start + List.foldl max 0 (s.dev.samplePos c) ≤ s.dev.ticks) ∧
    (∃ (s : State) (c : Nat) (agree : Bool) (j : JobRt),
      s.unitsOn = true ∧
      s.dev.hasCoil c = true ∧
      (s.dev.coil c).job = some j ∧
      s.dev.fray.slice = none ∧
      s.dev.ticks ≤ j.deadline) ∧
    (∃ (s : State) (c : Nat) (agree : Bool) (j : JobRt),
      s.unitsOn = true ∧
      s.dev.hasCoil c = true ∧
      (s.dev.coil c).job = some j ∧
      s.dev.fray.slice = none ∧
      j.deadline < s.dev.ticks) :=
  ⟨⟨run9 id (fun d => d.wr (K.STATE_4000 4) 2), 9, by decide +kernel⟩,
    ⟨run9 (fun r => {r with job := some {k := 6, deadline := 1000000, window := 100}}), 9, true, {k := 6, deadline := 1000000, window := 100}, by decide +kernel⟩,
    ⟨run9 (fun r => {r with job := some {k := 6, deadline := 999999, window := 100}}), 9, true, {k := 6, deadline := 999999, window := 100}, by decide +kernel⟩⟩

theorem witness_IdentificationRunsItsRows :
    (∃ (s : State) (n : Nat),
      s.unitsOn = true ∧
      s.dev.hasAxis n = true ∧
      s.dev.axState n = axIdentifying ∧
      (s.dev.axis n).faultReq = none ∧
      s.dev.bit (K.BUS_FLAGS (n / 4)) 0 = true) ∧
    (∃ (s : State) (n : Nat),
      s.unitsOn = true ∧
      s.dev.hasAxis n = true ∧
      s.dev.axState n = axIdentifying ∧
      (s.dev.axis n).faultReq = none ∧
      s.dev.bit (K.BUS_FLAGS (n / 4)) 0 = false ∧
      (s.dev.axis n).ident.row = 0 ∧
      s.dev.atBoundary (2 * n) = true ∧
      (s.dev.axis n).ident.entered + 2000 ≤ s.dev.now) ∧
    (∃ (s : State) (n : Nat),
      s.unitsOn = true ∧
      s.dev.hasAxis n = true ∧
      s.dev.axState n = axIdentifying ∧
      (s.dev.axis n).faultReq = none ∧
      s.dev.bit (K.BUS_FLAGS (n / 4)) 0 = false ∧
      (s.dev.axis n).ident.row = 2 ∧
      s.dev.now ≤ 8 * (s.dev.axis n).ident.began + 20000000 ∧
      8 * (s.dev.axis n).ident.began + 300000 ≤ s.dev.now + 7) ∧
    (∃ (s : State) (n : Nat),
      s.unitsOn = true ∧
      s.dev.hasAxis n = true ∧
      s.dev.axState n = axIdentifying ∧
      (s.dev.axis n).faultReq = none ∧
      s.dev.bit (K.BUS_FLAGS (n / 4)) 0 = false ∧
      (s.dev.axis n).ident.row = 2 ∧
      s.dev.now ≤ 8 * (s.dev.axis n).ident.began + 20000000 ∧
      s.dev.now + 7 < 8 * (s.dev.axis n).ident.began + 300000) ∧
    (∃ (s : State) (n : Nat),
      s.unitsOn = true ∧
      s.dev.hasAxis n = true ∧
      s.dev.axState n = axIdentifying ∧
      (s.dev.axis n).faultReq = none ∧
      (s.dev.axis n).ident.row = 6 ∧
      (s.dev.axis n).ident.ls.length ≤ 32 ∧
      s.dev.rd (K.TEST_EN n) = 0 ∧
      (s.dev.axis n).ident.rowAt + 100000 ≤ s.dev.now + 7 ∧
      s.dev.atBoundary (2 * n) = true) ∧
    (∃ (s : State) (n : Nat),
      s.unitsOn = true ∧
      s.dev.hasAxis n = true ∧
      s.dev.axState n = axIdentifying ∧
      (s.dev.axis n).faultReq = none ∧
      (s.dev.axis n).ident.row = 7 ∧
      1 ≤ (s.dev.axis n).ident.step ∧
      (s.dev.axis n).ident.step ≤ s.dev.rd (K.TEST_STEPS n) ∧
      (s.dev.axis n).ident.step ≤ 8 ∧
      (s.dev.axis n).ident.stepStart ≠ 0 ∧
      (s.dev.axis n).ident.stepStart + s.dev.stepHold n ≤ s.dev.nt + 7) :=
  ⟨⟨idn {} fun d => d.wr (K.BUS_FLAGS 0) 1, 1, by decide +kernel⟩,
    ⟨idn {entered := 7998000} fun d => (d.setCoil 2 {running := true, begun := true, nextAt := 1000000}).wr (K.BUS_FLAGS 0) 0, 1, by decide +kernel⟩,
    ⟨idn {row := 2, began := 962500} fun d => d.wr (K.BUS_FLAGS 0) 0, 1, by decide +kernel⟩,
    ⟨idn {row := 2, began := 970000} fun d => d.wr (K.BUS_FLAGS 0) 0, 1, by decide +kernel⟩,
    ⟨idn {row := 6, rowAt := 7900007} fun d => (d.setCoil 2 {running := true, begun := true, nextAt := 1000000}), 1, by decide +kernel⟩,
    ⟨idn {row := 7, step := 8, stepStart := 5} fun d => (d.wr (K.TEST_STEPS 1) 8).wr (K.TEST_HOLD 1) 1, 1, by decide +kernel⟩⟩

theorem witness_AxesRestAndWake :
    (∃ (s : State) (n : Nat),
      s.unitsOn = true ∧
      s.dev.hasAxis n = true ∧
      s.dev.axState n = axHolding ∧
      (s.dev.mot n).follow.engaged = false ∧
      s.dev.eff n (K.T_REST n) ≠ 0 ∧
      1000 * s.dev.eff n (K.T_REST n) ≤ (s.dev.mot n).restUs ∧
      (s.dev.mot n).cadence = some (s.dev.nt - s.dev.nt % 1000) ∧
      s.dev.nt % 1000 < 8 ∧
      (s.dev.mot n).move = Move.idle ∧
      (s.dev.mot n).playing = false ∧
      (s.dev.axis n).inbox.any startsMotion = false) ∧
    (∃ (s : State) (n : Nat),
      s.unitsOn = true ∧
      s.dev.hasAxis n = true ∧
      s.dev.axState n = axResting ∧
      (s.dev.axis n).eng.wake = none ∧
      ((∃ l, List.find? startsMotion (s.dev.axis n).inbox = some l ∧ l.due ≤ s.dev.nt + 7 + 1000 * s.dev.eff n (K.REST_WAKE n)) ∨ List.find? startsMotion (s.dev.axis n).inbox = none ∧ s.dev.followComes n = true)) ∧
    (∃ (s : State) (n : Nat),
      s.unitsOn = true ∧
      s.dev.hasAxis n = true ∧
      s.dev.axState n = axResting ∧
      (s.dev.axis n).eng.wake.isSome = true ∧
      (s.dev.axis n).inbox.any startsMotion = false ∧
      s.dev.followComes n = false ∧
      (s.dev.mot n).move = Move.idle) :=
  ⟨⟨on fun d => ((d.setMot 1 {restUs := 1000000, cadence := some 8000000}).wr (K.STATE_4000 1) 2).wr (K.T_REST 1) 1, 1, by decide +kernel⟩,
    ⟨on fun d => ((d.wr (K.STATE_4000 1) 4).setMot 1 {follow := {armed := true}}).wrs [(K.SRC 1, 2), (K.CONTROL 1, 5)], 1, by decide +kernel⟩,
    ⟨on fun d => (d.setAxis 1 {d.axis 1 with eng := {(d.axis 1).eng with wake := some 5}}).wrs [(K.STATE_4000 1, 4), (K.REST_FLAGS 1, 5)], 1, by decide +kernel⟩⟩

theorem witness_PostmasterAndFirmware :
    (∃ (s : State),
      4 ≤ s.dev.start.stage ∧
      s.dev.post.halted = none ∧
      s.dev.post.mismatch = none) ∧
    (∃ (s : State) (t : Nat),
      4 ≤ s.dev.start.stage ∧
      s.dev.post.halted = none ∧
      s.dev.post.mismatch = some t ∧
      s.dev.now < t + 1000000000 ∧
      s.pow.devState ≠ DevState.off ∧
      s.pow.devState ≠ DevState.safe) ∧
    (∃ (s : State) (t : Nat),
      s.dev.post.halted = some t ∧
      t + 100000 ≤ s.dev.now + 7) ∧
    (∃ (s : State),
      s.dev.post.halted.isSome = true ∧
      s.dev.post.restarted = true ∧
      s.dev.badPostWord = none) ∧
    (∃ (s : State),
      s.dev.post.halted.isSome = true ∧
      s.dev.post.restarted = true ∧
      s.dev.badPostWord ≠ none) ∧
    (∃ (s : State) (p : Sys2Proof.Path),
      Reaches s p ∧
      s.fwRefused = false ∧
      s.dev.rd K.FW_GO = 0 ∧
      s.dev.rd K.FW_BANK < 32) ∧
    (∃ (s : State) (b : Nat) (owner : Nat) (result : Nat) (version : Nat),
      s.dev.fw = some (b, owner) ∧
      b < 32 ∧
      owner < 256 ∧
      s.dev.postRuns = true ∧
      2 ≤ result ∧
      result ≤ 5) ∧
    (∃ (s : State) (b : Nat) (owner : Nat) (result : Nat) (version : Nat),
      s.dev.fw = some (b, owner) ∧
      b < 32 ∧
      owner < 256 ∧
      s.dev.postRuns = true ∧
      result = 1 ∧
      s.dev.rd K.FW_FLOOR ≤ version ∧
      version < 2 ^ 32) :=
  ⟨⟨up, by decide +kernel⟩,
    ⟨on fun d => {d with post := {d.post with mismatch := some 8000000}}, 8000000, by decide +kernel⟩,
    ⟨on fun d => {d with post := {d.post with halted := some 7900007}}, 7900007, by decide +kernel⟩,
    ⟨on fun d => {d with post := {d.post with halted := some 7900007, restarted := true, react := [0]}}, by decide +kernel⟩,
    ⟨on fun d => {d with memu := {d.memu with poison := [d.wordNo 28 5]}, post := {d.post with halted := some 7900007, restarted := true}}, by decide +kernel⟩,
    ⟨rdy fun d => (d.wr K.FW_BANK 7).wr (K.OWNER 7) (if ownerHost = 0 then 0 else ownerHost), .bar0, by decide +kernel⟩,
    ⟨rdy fun d => {d with fw := some (7, 32)}, 7, 32, 5, 0, by decide +kernel⟩,
    ⟨{(rdy fun d => {d with objs := (K.FW_FLOOR, 1) :: d.objs, fw := some (7, 32)}) with mem := memWrites [] (7*bankSize) [1,2,3]}, 7, 32, 1, 2^32-1, by decide +kernel⟩⟩

theorem witness_SlicePatchRunsToItsTakeover :
    (∃ (s : State) (a : PatchAsk) (sp : Nat) (rest : List Nat),
      s.unitsOn = true ∧
      s.dev.fray.slice = none ∧
      (List.find? (fun a => decide (a.kind = 0) && s.dev.mayShadow a.inst) s.dev.fray.asks = some a) ∧
      s.dev.hasAxis a.inst = true ∧
      s.dev.spareSlices = sp :: rest) ∧
    (∃ (s : State) (p : PatchRt),
      s.unitsOn = true ∧
      s.dev.fray.slice = some p ∧
      p.loaded = false) ∧
    (∃ (s : State) (p : PatchRt),
      s.unitsOn = true ∧
      s.dev.fray.slice = some p ∧
      p.loaded = true ∧
      s.dev.hasAxis p.axis = true ∧
      (s.dev.axState p.axis = axDisabled ∨ p.cur = some true ∧ 63 ≤ p.matched ∧ (s.dev.coil (2 * p.axis)).begun = true ∧ (s.dev.coil (2 * p.axis)).start = s.dev.ticks ∧ s.dev.inGoSpan p.axis = false) ∧
      16 ≤ p.spare ∧
      p.spare < 18 ∧
      s.dev.sliceOf p.axis ≠ p.spare) ∧
    (∃ (s : State) (b : Bytes) (rest : List Bytes),
      s.dev.fray.writing = b :: rest ∧
      List.length b = 16 ∧
      s.dev.fray.store.length < 64) :=
  ⟨⟨fr fun r => {r with asks := [ask 0 3 0]}, ask 0 3 0, 16, [17], by decide +kernel⟩,
    ⟨fr fun r => {r with slice := some {axis := 3, spare := 16, cause := 1}}, {axis := 3, spare := 16, cause := 1}, by decide +kernel⟩,
    ⟨fr (fun r => {r with slice := some {axis := 3, spare := 17, cause := 1, loaded := true, cur := some true, matched := 63}}) (fun d => ((d.setCoil 6 {running := true, begun := true, start := 1000000}).setCoil 7 {running := true, begun := true, start := 5}).wr (K.STATE_4000 3) 2), {axis := 3, spare := 17, cause := 1, loaded := true, cur := some true, matched := 63}, by decide +kernel⟩,
    ⟨fr fun r => {r with store := [(true, padTo 16 [])], writing := [padTo 16 [1,2,3], []]}, padTo 16 [1,2,3], [[]], by decide +kernel⟩⟩

theorem witness_SparesReplaceWornResources :
    (∃ (s : State) (q : Nat) (c : Nat) (cause : Nat) (k : Nat),
      s.unitsOn = true ∧
      s.dev.hasQuarter q = true ∧
      c / 8 = q ∧
      s.dev.fray.adc.find q = some (c, cause, k) ∧
      ((s.dev.coil c).running = false ∨ s.dev.atBoundary c = true ∧ k + 64 ≤ (s.dev.coil c).next) ∧
      s.dev.fray.asks = []) ∧
    (∃ (s : State) (l : Nat) (o : Nat) (g : Nat) (i : Nat) (gains : List Int) (a : PatchAsk),
      s.unitsOn = true ∧
      s.dev.hasLeg l = true ∧
      o < 4 ∧
      (List.find? (fun a => decide (a.kind = 2) && decide (a.inst = l) && decide (a.sub = 256 * o)) s.dev.fray.asks = some a) ∧
      wornSegment gains = some g ∧
      gains.length ≤ 64 ∧
      (List.find? (fun i => !(s.dev.rd (K.SEGMAP l o)).testBit (8 * i + 7)) (List.range 4) = some i)) ∧
    (∃ (s : State) (q : Nat) (a : PatchAsk),
      s.unitsOn = true ∧
      s.dev.hasQuarter q = true ∧
      a.sub < 2 ∧
      (List.find? (fun a => decide (a.kind = 3) && decide (a.inst = q)) s.dev.fray.asks = some a) ∧
      s.dev.bit K.SPARES_2900 (12 + q) = true) ∧
    (∃ (s : State) (m : FrayMeasures),
      s.unitsOn = true ∧
      s.pow.devState ≠ DevState.stowed ∧
      s.dev.rd K.FRAY_EN = 1 ∧
      s.dev.postRuns = true ∧
      s.dev.fray.lastAt + 60000000000 * s.dev.rd K.FRAY_INT ≤ s.dev.now + 7) :=
  ⟨⟨fr (fun r => {r with adc := [(1,(9,1,3))], adcSum := [(1,(-30,4))]}) (fun d => d.setCoil 9 {running := true, begun := true, start := 1000000, next := 67}), 1, 9, 1, 3, by decide +kernel⟩,
    ⟨fr (fun r => {r with asks := [ask 2 5 768]}) (fun d => d.wr (K.SEGMAP 5 3) 0x0000009F), 5, 3, 31, 1, List.replicate 31 0 ++ [9, 2], ask 2 5 768, by decide +kernel⟩,
    ⟨fr (fun r => {r with asks := [ask 3 1 1]}), 1, ask 3 1 1, by decide +kernel⟩,
    ⟨fr (fun r => r) (fun d => {d with ticks := 2^50}), {roSlice := List.range 18, roQuarter := [1,2,3,4]}, by decide +kernel⟩⟩

theorem witness_CoreVoltageFollowsTheSlack :
    (∃ (s : State) (fsi : Nat),
      1 ≤ s.dev.start.stage ∧
      s.dev.vcore.settleEnd = none ∧
      (s.dev.vcore.held = true ∨ s.dev.vcore.last + 1000000 ≤ s.dev.now + 7) ∧
      s.dev.bit K.V_STATUS 4 = false ∧
      fsi < 2 ^ 16 ∧
      (s.dev.vcore.held || decide (s.dev.shortSlices ≠ []) || decide (fsi < 3414)) = true ∧
      s.dev.rd K.V_MODE = 0 ∧
      s.dev.rd K.V_SET < s.dev.rd K.V_MAX) ∧
    (∃ (s : State) (fsi : Nat),
      1 ≤ s.dev.start.stage ∧
      s.dev.vcore.settleEnd = none ∧
      (s.dev.vcore.held = true ∨ s.dev.vcore.last + 1000000 ≤ s.dev.now + 7) ∧
      s.dev.bit K.V_STATUS 4 = false ∧
      fsi < 2 ^ 16 ∧
      (s.dev.vcore.held || decide (s.dev.shortSlices ≠ []) || decide (fsi < 3414)) = true ∧
      s.dev.rd K.V_SET = s.dev.rd K.V_MAX) ∧
    (∃ (s : State) (fsi : Nat),
      1 ≤ s.dev.start.stage ∧
      s.dev.vcore.settleEnd = none ∧
      (s.dev.vcore.held = true ∨ s.dev.vcore.last + 1000000 ≤ s.dev.now + 7) ∧
      s.dev.bit K.V_STATUS 4 = false ∧
      fsi < 2 ^ 16 ∧
      (s.dev.vcore.held || decide (s.dev.shortSlices ≠ []) || decide (fsi < 3414)) = false ∧
      s.dev.vcore.busy = false ∧
      3600 ≤ fsi ∧
      99 ≤ s.dev.vcore.quiet ∧
      s.dev.rd K.V_MODE = 0 ∧
      s.dev.rd K.V_MIN < s.dev.rd K.V_SET) ∧
    (∃ (s : State) (t : Nat),
      s.dev.vcore.settleEnd = some t ∧
      t ≤ s.dev.now + 7) ∧
    (∃ (s : State) (cmd : PmbCommand) (data : Nat),
      1 ≤ s.dev.start.stage ∧
      2 ≤ s.dev.vcore.fails ∧
      s.dev.bit K.V_STATUS 4 = false) ∧
    (∃ (s : State) (cmd : PmbCommand) (data : Nat),
      1 ≤ s.dev.start.stage ∧
      data < 2 ^ 16) ∧
    (∃ (s : State) (cmd : PmbCommand) (data : Nat) (ok : Bool),
      1 ≤ s.dev.start.stage) ∧
    (∃ (s : State) (cmd : PmbCommand) (data : Nat),
      1 ≤ s.dev.start.stage ∧
      s.dev.vcore.retry = true) ∧
    (∃ (s : State) (cmd : PmbCommand) (data : Nat),
      1 ≤ s.dev.start.stage ∧
      s.dev.vcore.retry = true) ∧
    (∃ (s : State) (cmd : PmbCommand) (data : Nat) (on : Bool),
      1 ≤ s.dev.start.stage) :=
  ⟨⟨on id, 3413, by decide +kernel⟩,
    ⟨on fun d => d.wr K.V_SET (d.rd K.V_MAX), 0, by decide +kernel⟩,
    ⟨on fun d => {d with vcore := {quiet := 99}}, 3600, by decide +kernel⟩,
    ⟨on fun d => {d with vcore := {settleEnd := some 8000007}}, 8000007, by decide +kernel⟩,
    ⟨on fun d => {d with vcore := {fails := 2}}, .voutCommand, 65535, by decide +kernel⟩,
    ⟨on id, .readVout, 65535, by decide +kernel⟩,
    ⟨on id, .readVout, 65535, false, by decide +kernel⟩,
    ⟨on fun d => {(d.wr K.PMB_RETRY 1).wr K.V_STATUS 16 with vcore := {fails := 2, retry := true}}, .voutCommand, 65535, by decide +kernel⟩,
    ⟨on fun d => {(d.wr K.PMB_RETRY 1).wr K.V_STATUS 16 with vcore := {fails := 2, retry := true}}, .voutCommand, 65535, by decide +kernel⟩,
    ⟨on id, .voutCommand, 65535, false, by decide +kernel⟩⟩

theorem witness_StartUpReachesReady :
    (∃ (s : State),
      s.pow.devState = DevState.off ∧
      s.dev.start.up = false) ∧
    (∃ (s : State),
      s.pow.devState = DevState.off ∧
      s.dev.start.up = true ∧
      s.dev.start.stage = 0 ∧
      s.dev.fray.store = []) ∧
    (∃ (s : State),
      s.pow.devState = DevState.off ∧
      s.dev.start.up = true ∧
      s.dev.start.stage = 1) ∧
    (∃ (s : State),
      s.pow.devState = DevState.off ∧
      s.dev.start.up = true ∧
      s.dev.start.stage = 2) ∧
    (∃ (s : State) (b : Nat),
      s.pow.devState = DevState.off ∧
      s.dev.start.up = true ∧
      b < 32 ∧
      s.dev.start.stage = 2 ∧
      s.dev.rd K.START_RESULT = 0) ∧
    (∃ (s : State),
      s.pow.devState = DevState.off ∧
      s.dev.start.up = true ∧
      s.dev.start.stage = 3 ∧
      s.dev.rd K.START_RESULT = 0) ∧
    (∃ (s : State),
      s.pow.devState = DevState.off ∧
      s.dev.start.up = true ∧
      s.dev.start.stage = 3) ∧
    (∃ (s : State),
      s.pow.devState = DevState.off ∧
      s.dev.start.up = true ∧
      s.dev.start.stage = 4) ∧
    (∃ (s : State),
      s.pow.devState = DevState.off ∧
      s.dev.start.up = true ∧
      s.dev.start.stage = 5 ∧
      s.dev.memu.dead = []) ∧
    (∃ (s : State) (tref : Bool),
      s.pow.devState = DevState.off ∧
      s.dev.start.up = true ∧
      s.dev.start.stage = 6 ∧
      (tref = true ∨ s.dev.lockedHello = true)) ∧
    (∃ (s : State),
      s.pow.devState = DevState.off ∧
      s.dev.start.up = true ∧
      s.dev.start.stage = 6 ∧
      s.dev.start.at_ + 16000000 ≤ s.dev.now + 7 ∧
      s.dev.rd K.START_RESULT = 0 ∧
      s.dev.lockedHello = false) :=
  ⟨⟨{off 4 (fun d => {d with nt := 77, start := {}}) with mem := []}, by decide +kernel⟩,
    ⟨off 0, by decide +kernel⟩,
    ⟨off 1, by decide +kernel⟩,
    ⟨off 2, by decide +kernel⟩,
    ⟨off 2, 31, by decide +kernel⟩,
    ⟨off 3, by decide +kernel⟩,
    ⟨off 3, by decide +kernel⟩,
    ⟨off 4, by decide +kernel⟩,
    ⟨off 5, by decide +kernel⟩,
    ⟨off 6 fun d => (d.wr (K.PLINK 1) 1).setPort 1 {nbrState := 2}, false, by decide +kernel⟩,
    ⟨off 6 fun d => {d with ticks := 2000000}, by decide +kernel⟩⟩

theorem witness_RequestsAndLossesOfPowerMoveTheDevice :
    (∃ (s : State),
      True) ∧
    (∃ (s : State),
      True) ∧
    (∃ (s : State) (p : Sys2Proof.Path),
      s.reachable p = true ∧
      s.dev.fab.ready = true ∧
      s.pow.devState = DevState.ready ∧
      s.pow.locked = true ∧
      s.dev.rd K.RUN = 0) ∧
    (∃ (s : State) (p : Sys2Proof.Path),
      s.reachable p = true ∧
      s.dev.fab.ready = true ∧
      s.pow.devState = DevState.operating ∧
      s.dev.allDisabled s.dev.axisList = true ∧
      s.dev.rd K.STOP = 0) ∧
    (∃ (s : State) (p : Sys2Proof.Path),
      s.reachable p = true ∧
      s.dev.fab.ready = true ∧
      s.pow.devState = DevState.ready ∧
      s.dev.fw = none ∧
      s.dev.rd K.STOW = 0) ∧
    (∃ (s : State) (p : Sys2Proof.Path),
      s.reachable p = true ∧
      s.dev.fab.ready = true ∧
      s.pow.devState = DevState.stowed ∧
      s.dev.rd K.WAKE = 0) ∧
    (∃ (s : State) (p : Sys2Proof.Path),
      s.reachable p = true ∧
      s.dev.fab.ready = true ∧
      s.pow.devState = DevState.safe ∧
      s.dev.incOpen = false ∧
      s.dev.allDisabled s.dev.axisList = true ∧
      s.dev.rd K.SAFE_CAUSE ≠ 3 ∧
      s.dev.rd K.SAFE_EXIT = 0) :=
  ⟨⟨on fun d => (d.wr K.WAKES 5).wr 0x202003 77, by decide +kernel⟩,
    ⟨on fun d => (d.wr K.WAKES 5).wr 0x202003 77, by decide +kernel⟩,
    ⟨st .ready true, .bar0, by decide +kernel⟩,
    ⟨st .operating true, .bar0, by decide +kernel⟩,
    ⟨{(rg id) with pow := {devState := .ready, locked := true}}, .bar0, by decide +kernel⟩,
    ⟨st .stowed true, .bar0, by decide +kernel⟩,
    ⟨st .safe true, .bar0, by decide +kernel⟩⟩

theorem witness_LossesAreDetectedAndEnd :
    (∃ (s : State),
      s.dev.part.full = true ∧
      s.dev.loss.linked = true ∧
      s.dev.rd K.LINK_STATE ≠ 3 ∧
      s.dev.loss.host.testBit 0 = false ∧
      s.dev.bit K.LOSS_FLAGS 0 = false) ∧
    (∃ (s : State),
      s.dev.rd K.HOST_WD ≠ 0 ∧
      s.dev.loss.kick + 1000000 * s.dev.rd K.HOST_WD ≤ s.dev.now + 7 ∧
      s.dev.loss.host.testBit 1 = false ∧
      s.dev.bit K.LOSS_FLAGS 0 = false) ∧
    (∃ (s : State) (t : Nat),
      s.dev.loss.portsDown = some t ∧
      s.dev.loss.listed = true ∧
      t + 1000000 * s.dev.rd K.RING_TO ≤ s.dev.now + 7 ∧
      s.dev.bit K.LOSS_FLAGS 1 = false) ∧
    (∃ (s : State) (p : Sys2Proof.Path) (v : Nat),
      s.reachable p = true ∧
      s.dev.fab.ready = true ∧
      s.dev.loss.host = 2 ∧
      s.dev.bit K.LOSS_FLAGS 0 = true) ∧
    (∃ (s : State),
      s.dev.loss.portsDown = none ∧
      s.dev.loss.ring.testBit 1 = false ∧
      s.dev.bit K.LOSS_FLAGS 1 = true) :=
  ⟨⟨on fun d => {(d.wr (K.STATE_4000 3) 3).wr K.LOSS_AXES 8 |>.wr K.HOST_REACT 1 with loss := {linked := true}}, by decide +kernel⟩,
    ⟨on fun d => {(d.wr (K.STATE_4000 3) 3).wr K.LOSS_AXES 8 |>.wr K.HOST_REACT 1 |>.wr K.HOST_WD 8 with loss := {kick := 7}}, by decide +kernel⟩,
    ⟨on fun d => {(d.wr (K.STATE_4000 3) 3).wr K.LOSS_AXES 8 |>.wr K.RING_REACT 1 with ticks := 2^40, loss := {portsDown := some 0, listed := true}}, 0, by decide +kernel⟩,
    ⟨fq fun d => {d.wr K.LOSS_FLAGS 3 with loss := {host := 2}}, .bar0, 5, by decide +kernel⟩,
    ⟨fq fun d => {d.wr K.LOSS_FLAGS 2 with loss := {ring := 1, portsDown := none}}, by decide +kernel⟩⟩

theorem witness_HostLinkAndItsFunction :
    (∃ (s : State) (speed : Nat) (width : Nat) (mps : Nat),
      s.dev.part.full = true ∧
      s.dev.mail.perst = true ∧
      s.dev.ringLive = true ∧
      s.dev.rd K.LINK_STATE ≠ 3 ∧
      1 ≤ speed ∧
      speed ≤ 4 ∧
      (width = 1 ∨ width = 2 ∨ width = 4) ∧
      (mps = 128 ∨ mps = 256 ∨ mps = 512)) ∧
    (∃ (s : State),
      s.dev.hostUp = true) ∧
    (∃ (s : State),
      s.dev.hostUp = true) ∧
    (∃ (s : State),
      s.dev.hostUp = true) ∧
    (∃ (s : State),
      s.dev.hostUp = true) ∧
    (∃ (s : State),
      s.dev.hostUp = true ∧
      s.dev.mail.perst = true) ∧
    (∃ (s : State) (on : Bool),
      s.dev.hostUp = true) ∧
    (∃ (s : State) (on : Bool),
      s.dev.hostUp = true) ∧
    (∃ (s : State) (on : Bool),
      s.dev.hostUp = true) ∧
    (∃ (s : State) (on : Bool),
      s.dev.hostUp = true) ∧
    (∃ (s : State) (n : Nat),
      s.dev.hostUp = true ∧
      n ∈ [128, 256, 512]) ∧
    (∃ (s : State) (v : Nat) (e : MsixEntry),
      s.dev.hostUp = true ∧
      v < 32) ∧
    (∃ (s : State) (head : Nat),
      s.dev.passive = false ∧
      s.dev.fwdHead = some head ∧
      s.dev.mail.fwd.length = 8) ∧
    (∃ (s : State) (body : Bytes),
      s.dev.passive = false ∧
      List.length body = 32 ∧
      s.dev.forwarding = false ∧
      s.dev.mail.staging.length < stagingSize ∧
      ((if s.dev.rd K.FWD_QUEUE = 255 then s.dev.rd (K.QUEUE (recOf body).src) else s.dev.rd K.FWD_QUEUE) ≠ 255)) :=
  ⟨⟨on fun d => {d.wr K.LOSS_FLAGS 1 with loss := {host := 1}}, 1, 1, 128, by decide +kernel⟩,
    ⟨fq fun d => (d.wr (K.Q_EN 7) 1).wr K.LINK_FLAGS 15 |>.wr K.MPS 512, by decide +kernel⟩,
    ⟨fq fun d => (d.wr (K.Q_EN 7) 1).wr K.LINK_FLAGS 15 |>.wr K.MPS 512, by decide +kernel⟩,
    ⟨fq fun d => (d.wr (K.Q_EN 7) 1).wr K.LINK_FLAGS 15 |>.wr K.MPS 512, by decide +kernel⟩,
    ⟨fq fun d => (d.wr (K.Q_EN 7) 1).wr K.LINK_FLAGS 15 |>.wr K.MPS 512, by decide +kernel⟩,
    ⟨fq fun d => (d.wr (K.Q_EN 7) 1).wr K.LINK_FLAGS 15 |>.wr K.MPS 512, by decide +kernel⟩,
    ⟨fq id, true, by decide +kernel⟩,
    ⟨fq id, true, by decide +kernel⟩,
    ⟨fq id, true, by decide +kernel⟩,
    ⟨fq id, true, by decide +kernel⟩,
    ⟨fq id, 512, by decide +kernel⟩,
    ⟨fq id, 31, {addr := 5, data := 7, masked := false}, by decide +kernel⟩,
    ⟨rg fun d => {d.wr K.FWD_HEAD 5 with mail := {fwd := (List.range 8).map evt}}, 5, by decide +kernel⟩,
    ⟨rg id, recBytes (evt 3), by decide +kernel⟩⟩

theorem witness_WordsAreCheckedAndReadBack :
    (∃ (s : State) (unit : Nat) (b : Nat) (w : Nat),
      b < 32 ∧
      w < 32768 ∧
      s.dev.portReads unit b = true ∧
      NoMemoryErrors s) ∧
    (∃ (s : State) (unit : Nat) (b : Nat) (w : Nat) (ecc : Nat),
      b < 32 ∧
      w < 32768 ∧
      s.dev.portReads unit b = true ∧
      NoMemoryErrors s ∧
      1 ≤ ecc ∧
      ecc ≤ 72) ∧
    (∃ (s : State) (unit : Nat) (b : Nat) (w : Nat) (ecc : Nat),
      b < 32 ∧
      w < 32768 ∧
      s.dev.portReads unit b = true ∧
      NoMemoryErrors s ∧
      72 < ecc) ∧
    (∃ (s : State),
      NoMemoryErrors s) ∧
    (∃ (s : State) (ofs : Nat) (len : Nat),
      s.dev.hostUp = true ∧
      ofs < 8388608 ∧
      ofs % bankSize + len ≤ bankSize ∧
      s.dev.portReads ownerHost (ofs / bankSize) = true ∧
      s.dev.destroyed (ofs / bankSize) = false ∧
      NoMemoryErrors s) ∧
    (∃ (s : State) (ofs : Nat) (len : Nat),
      s.dev.hostUp = true ∧
      8388608 ≤ ofs ∧
      ofs + len ≤ 16777216 ∧
      len ≤ bankSize ∧
      ofs % bankSize + len ≤ bankSize) ∧
    (∃ (s : State) (p : Sys2Proof.Path),
      Reaches s p ∧
      s.dev.rd K.WIN_OFS < bankSize ∧
      s.dev.rd K.WIN_OFS % 8 = 0 ∧
      NoMemoryErrors s ∧
      s.dev.portReads ownerDma (s.dev.rd K.WIN_BANK) = true ∧
      s.dev.destroyed (s.dev.rd K.WIN_BANK) = false) :=
  ⟨⟨up, 3, 31, 32767, by decide +kernel⟩,
    ⟨up, 3, 31, 32767, 72, by decide +kernel⟩,
    ⟨up, 3, 31, 32767, 73, by decide +kernel⟩,
    ⟨on fun d => {d with memu := {d.memu with scrubAt := 32*32768-1}}, by decide +kernel⟩,
    ⟨cells (fq id), 4*0x40000, 9, by decide +kernel⟩,
    ⟨cells (fq id), 0x800003, 9, by decide +kernel⟩,
    ⟨cells (fq fun d => (d.wr K.WIN_BANK 31).wr K.WIN_OFS 0x3FFF8), .bar0, by decide +kernel⟩⟩

theorem witness_OnlyTheOwnerStoresInABank :
    (∃ (s : State) (unit : Nat) (b : Nat) (ofs : Nat) (data : Bytes) (clash : Bool),
      b < 32 ∧
      ofs + List.length data ≤ bankSize ∧
      s.dev.ownerWrites unit b = true ∧
      NoMemoryErrors s) ∧
    (∃ (s : State) (unit : Nat) (b : Nat) (ofs : Nat) (data : Bytes) (clash : Bool),
      b < 32 ∧
      ofs + List.length data ≤ bankSize ∧
      s.dev.ownerWrites unit b = false ∧
      s.dev.bit K.MAINT_MAP b = false) ∧
    (∃ (s : State) (unit : Nat) (b : Nat) (ofs : Nat) (data : Bytes),
      b < 32 ∧
      ofs + List.length data ≤ bankSize ∧
      s.dev.ownerWrites unit b = false ∧
      s.dev.bit K.MAINT_MAP b = true ∧
      unit = ownerPostmaster ∧
      s.dev.deadBank b = false) ∧
    (∃ (s : State) (ofs : Nat) (data : Bytes),
      s.dev.hostUp = true ∧
      data ≠ [] ∧
      ofs < 8388608 ∧
      ofs % bankSize + List.length data ≤ bankSize ∧
      s.dev.ownerWrites ownerHost (ofs / bankSize) = true ∧
      NoMemoryErrors s) ∧
    (∃ (s : State) (ofs : Nat) (data : Bytes),
      s.dev.hostUp = true ∧
      data ≠ [] ∧
      ofs < 8388608 ∧
      ofs % bankSize + List.length data ≤ bankSize ∧
      s.dev.ownerWrites ownerHost (ofs / bankSize) = false) ∧
    (∃ (s : State) (p : Sys2Proof.Path) (v : Nat),
      Reaches s p ∧
      s.dev.rd K.WIN_OFS < bankSize ∧
      v < 2 ^ 64 ∧
      s.dev.ownerWrites ownerDma (s.dev.rd K.WIN_BANK) = true ∧
      s.dev.rd K.WIN_OFS % 8 = 0 ∧
      NoMemoryErrors s) ∧
    (∃ (s : State) (p : Sys2Proof.Path) (v : Nat),
      Reaches s p ∧
      s.dev.rd K.WIN_OFS < bankSize ∧
      v < 2 ^ 64 ∧
      s.dev.ownerWrites ownerDma (s.dev.rd K.WIN_BANK) = false) :=
  ⟨⟨cells (on fun d => (d.wr (K.OWNER 4) 7)), 7, 4, 1, [1,0,3,4,5,6,7,8,9,10,11,0,0,0,0,0,0], true, by decide +kernel⟩,
    ⟨cells (on fun d => (d.wr (K.OWNER 4) 7).wr K.MAINT_MAP 0), 6, 4, 1, [1,0,3,4,5,6,7,8,9,10,11,0,0,0,0,0,0], true, by decide +kernel⟩,
    ⟨cells (on fun d => (d.wr (K.OWNER 4) 7).wr K.MAINT_MAP 16), ownerPostmaster, 4, 1, [1,0,3,4,5,6,7,8,9,10,11,0,0,0,0,0,0], by decide +kernel⟩,
    ⟨cells (fq fun d => (d.wr (K.OWNER 4) ownerHost)), 0x100001, [1,0,3,4,5,6,7,8,9,10,11,0,0,0,0,0,0], by decide +kernel⟩,
    ⟨cells (fq fun d => (d.wr (K.OWNER 4) 9)), 0x100001, [1,0,3,4,5,6,7,8,9,10,11,0,0,0,0,0,0], by decide +kernel⟩,
    ⟨cells (rg fun d => (d.wr (K.OWNER 4) ownerDma).wr K.WIN_BANK 4), .ring 1, 0, by decide +kernel⟩,
    ⟨cells (rg fun d => (d.wr (K.OWNER 4) 9).wr K.WIN_BANK 4), .ring 1, 0, by decide +kernel⟩⟩

theorem witness_BanksChangeHandsAndAreTested :
    (∃ (s : State) (b : Nat) (p : Sys2Proof.Path),
      b < 32 ∧
      Reaches s p ∧
      s.dev.handRefused b = false ∧
      s.dev.rd (K.HAND b) = 0) ∧
    (∃ (s : State) (b : Nat) (old : Nat) (new : Nat) (t : Nat),
      b < 32 ∧
      s.dev.memu.hands.find b = some (old, new, t) ∧
      old < 256 ∧
      new < 256 ∧
      s.dev.rd (K.STATE_2810 b) = 1) ∧
    (∃ (s : State) (b : Nat) (old : Nat) (new : Nat) (t : Nat) (p : Sys2Proof.Path),
      b < 32 ∧
      s.dev.memu.hands.find b = some (old, new, t) ∧
      old < 256 ∧
      new < 256 ∧
      s.dev.mayAccept b = true ∧
      s.dev.rd (K.ACCEPT b) = 0 ∧
      Reaches s p) ∧
    (∃ (s : State) (b : Nat) (old : Nat) (new : Nat) (t : Nat),
      b < 32 ∧
      s.dev.memu.hands.find b = some (old, new, t) ∧
      old < 256 ∧
      new < 256 ∧
      s.dev.rd (K.STATE_2810 b) = 2 ∧
      s.dev.mayAccept b = false) ∧
    (∃ (s : State) (b : Nat) (old : Nat) (new : Nat) (t : Nat),
      b < 32 ∧
      s.dev.memu.hands.find b = some (old, new, t) ∧
      old < 256 ∧
      new < 256 ∧
      t + 1000000 * s.dev.rd (K.HAND_TO b) ≤ s.dev.now + 7) ∧
    (∃ (s : State) (b : Nat) (p : Sys2Proof.Path),
      b < 32 ∧
      Reaches s p ∧
      s.dev.testRefused b (s.dev.rd (K.TEST_MODE b)) = false ∧
      s.dev.rd (K.TEST b) = 0) ∧
    (∃ (s : State) (b : Nat) (x : TestRt),
      b < 32 ∧
      s.dev.memu.tests.find b = some x ∧
      x.line = none ∧
      s.dev.fray.asks = []) :=
  ⟨⟨hd id fun d => d.wr (K.OWNER 5) ownerHost |>.wr (K.NEXT_OWNER 5) 34, 5, .bar0, by decide +kernel⟩,
    ⟨hd (fun m => {m with hands := [(5,(33,34,8))]}) fun d => d.wr (K.STATE_2810 5) 1, 5, 33, 34, 8, by decide +kernel⟩,
    ⟨hd (fun m => {m with hands := [(5,(34,33,8))]}) fun d => d.wr (K.STATE_2810 5) 2 |>.wr (K.HAND 5) 1|>.wr (K.OWNER 5) 33, 5, 34, 33, 8, .bar0, by decide +kernel⟩,
    ⟨hd (fun m => {m with hands := [(5,(33,35,8))]}) fun d => d.wr (K.STATE_2810 5) 2 |>.wr (K.HAND 5) 1, 5, 33, 35, 8, by decide +kernel⟩,
    ⟨hd (fun m => {m with hands := [(5,(33,35,8))]}) fun d => {d.wr (K.STATE_2810 5) 2 |>.wr (K.HAND 5) 1 with ticks := 2^50}, 5, 33, 35, 8, by decide +kernel⟩,
    ⟨hd id fun d => d.wr (K.OWNER 5) 33 |>.wr (K.TEST_MODE 5) 1, 5, .bar0, by decide +kernel⟩,
    ⟨cells (hd (fun m => {m with tests := [(4,{reserve := some 31})]}) fun d => d.wr (K.OWNER 4) 33 |>.wr K.MAINT_MAP 16), 4, {reserve := some 31}, by decide +kernel⟩⟩

theorem witness_RaisesOpenIncidentsOrMerge :
    (∃ (s : State) (r : Raise) (rest : List Raise),
      s.dev.flt.raises = r :: rest ∧
      r.src < 656 ∧
      r.nt < 2 ^ 64 ∧
      s.dev.rd (K.CFG r.src) % 4 = 0) ∧
    (∃ (s : State) (r : Raise) (rest : List Raise),
      s.dev.flt.raises = r :: rest ∧
      r.src < 656 ∧
      r.nt < 2 ^ 64 ∧
      s.dev.rd (K.CFG r.src) % 4 = 1 ∧
      ((List.filter (fun x => decide (x ≤ r.nt)) (s.dev.window r.src r.nt ++ [r.nt])).length < s.dev.rd (K.N r.src))) ∧
    (∃ (s : State) (r : Raise) (rest : List Raise),
      s.dev.flt.raises = r :: rest ∧
      r.src < 656 ∧
      r.nt < 2 ^ 64 ∧
      s.dev.rd (K.CFG r.src) % 4 = 1 ∧
      (s.dev.rd (K.N r.src) ≤ (List.filter (fun x => decide (x ≤ r.nt)) (s.dev.window r.src r.nt ++ [r.nt])).length) ∧
      s.dev.rd K.INC_OPEN = 0) ∧
    (∃ (s : State) (r : Raise) (rest : List Raise),
      s.dev.flt.raises = r :: rest ∧
      r.src < 656 ∧
      r.nt < 2 ^ 64 ∧
      s.dev.rd (K.CFG r.src) % 4 = 2 ∧
      s.dev.rd K.INC_OPEN = 0) ∧
    (∃ (s : State) (r : Raise) (rest : List Raise),
      s.dev.flt.raises = r :: rest ∧
      r.src < 656 ∧
      r.nt < 2 ^ 64 ∧
      s.dev.rd (K.CFG r.src) % 4 = 2 ∧
      s.dev.rd K.INC_OPEN = 1) :=
  ⟨⟨rs [R5, RF] 0x7C, R5, [RF], by decide +kernel⟩,
    ⟨rs [R5, RF] 0x7D (fun d => d.wr (K.N 0x285) 2), R5, [RF], by decide +kernel⟩,
    ⟨rs [R5, RF] 0x7D (fun d => d.wr (K.N 0x285) 1), R5, [RF], by decide +kernel⟩,
    ⟨rs [R5, RF] 0x7E (fun d => d.wr K.INC_NO 0xFFFF), R5, [RF], by decide +kernel⟩,
    ⟨rs [R5, RF] 0x7E (fun d => d.wr K.INC_OPEN 1), R5, [RF], by decide +kernel⟩⟩

theorem witness_LadderLogAndInjections :
    (∃ (s : State),
      s.dev.rd K.INC_OPEN = 1 ∧
      s.dev.rd K.STEP_2010 < s.dev.rd K.CEIL ∧
      s.dev.rd K.CEIL ≤ 3 ∧
      s.dev.rd K.NEXT_STEP_NT ≤ s.dev.nt + 7) ∧
    (∃ (s : State) (p : Sys2Proof.Path) (v : Nat),
      Reaches s p ∧
      v < 2 ^ 16 ∧
      s.dev.rd K.INC_OPEN = 1 ∧
      s.dev.rd K.INC_NO = v) ∧
    (∃ (s : State) (p : Sys2Proof.Path) (v : Nat),
      Reaches s p ∧
      v < 2 ^ 16 ∧
      s.dev.rd K.INC_OPEN = 1 ∧
      s.dev.rd K.INC_NO ≠ v) ∧
    (∃ (s : State) (t : Nat),
      s.dev.flt.pulseEnd = some t ∧
      t ≤ s.dev.now + 7) ∧
    (∃ (s : State),
      s.dev.rd K.INJ_GO = 1 ∧
      s.dev.rd K.INJ_LEFT = 0) ∧
    (∃ (s : State) (p : Sys2Proof.Path) (on : Bool),
      Reaches s p) ∧
    (∃ (s : State) (p : Sys2Proof.Path),
      Reaches s p ∧
      s.dev.rd K.LOG_CLEAR = 0) ∧
    (∃ (s : State) (p : Sys2Proof.Path),
      Reaches s p ∧
      s.injRefused = false ∧
      s.dev.rd K.INJ_GO = 0) ∧
    (∃ (s : State) (p : Sys2Proof.Path),
      Reaches s p ∧
      s.dev.rd K.INJ_STOP = 0 ∧
      s.dev.rd K.INJ_GO = 1) :=
  ⟨⟨inc fun d => d.wr K.STEP_2010 2, by decide +kernel⟩,
    ⟨inc id, .bar0, 3, by decide +kernel⟩,
    ⟨inc id, .ring 4, 2, by decide +kernel⟩,
    ⟨on fun d => {d.wr K.ERR_STATE 3 with flt := {d.flt with pulseEnd := some 8000007}}, 8000007, by decide +kernel⟩,
    ⟨on fun d => d.wr K.INJ_GO 1, by decide +kernel⟩,
    ⟨rg id, .ring 1, false, by decide +kernel⟩,
    ⟨rg id, .ring 1, by decide +kernel⟩,
    ⟨rg fun d => (d.wr K.INJ_TARGET 2).wr K.INJ_N 3, .ring 1, by decide +kernel⟩,
    ⟨rg fun d => (d.wr K.INJ_GO 1), .ring 1, by decide +kernel⟩⟩

theorem witness_QueuesDeliverRecords :
    (∃ (s : State) (j : Nat) (p : Sys2Proof.Path),
      j < 8 ∧
      Reaches s p ∧
      s.dev.part.full = true) ∧
    (∃ (s : State) (j : Nat) (p : Sys2Proof.Path),
      j < 8 ∧
      Reaches s p ∧
      s.dev.part.full = true) ∧
    (∃ (s : State) (j : Nat) (p : Sys2Proof.Path) (v : Nat),
      j < 8 ∧
      Reaches s p ∧
      s.dev.part.full = true ∧
      v < 2 ^ 32 ∧
      s.dev.consBad j v = false) ∧
    (∃ (s : State) (j : Nat) (n : Nat),
      j < 8 ∧
      s.dev.burstLen j = n ∧
      n ≠ 0) ∧
    (∃ (s : State) (j : Nat) (e : MsixEntry),
      j < 8 ∧
      s.dev.modExpired j = true ∧
      s.dev.mayWrite = true ∧
      s.dev.burstLen j = 0 ∧
      s.dev.bit K.LINK_FLAGS 1 = true ∧
      s.dev.bit K.LINK_FLAGS 2 = false ∧
      s.dev.mail.msix.find (s.dev.rd (K.VECTOR j)) = some e ∧
      e.masked = false) :=
  ⟨⟨rg id, 7, .bar0, by decide +kernel⟩,
    ⟨rg id, 7, .bar0, by decide +kernel⟩,
    ⟨rg (fun d => d.wr (K.PROD 7) 5), 7, .bar0, 5, by decide +kernel⟩,
    ⟨rg fun d => {d.wr K.LINK_FLAGS 3 |>.wr (K.Q_EN 5) 1 |>.wr (K.LOG2SIZE 5) 4 |>.wr (K.PROD 5) 14 |>.wr (K.CONS 5) 14 with mail := {d.mail with staging := stg 7, queues := [(5,{zeroShadow := true})]}}, 5, 2, by decide +kernel⟩,
    ⟨rg fun d => {d.wr K.LINK_FLAGS 3 |>.wr (K.MOD_TIME 5) 10 |>.wr (K.VECTOR 5) 4 with mail := {d.mail with msix := [(4,{addr := 9, data := 8, masked := false})], queues := [(5,{modCount := 1, modStart := 7990007})]}}, 5, {addr := 9, data := 8, masked := false}, by decide +kernel⟩⟩

theorem witness_ReadsReturnLatchAndClear :
    (∃ (s : State) (p : Sys2Proof.Path),
      Reaches s p) ∧
    (∃ (s : State) (p : Sys2Proof.Path) (n : Nat),
      Reaches s p ∧
      s.dev.hasAxis n = true ∧
      s.pow.devState ≠ DevState.stowed) ∧
    (∃ (s : State) (p : Sys2Proof.Path) (n : Nat),
      Reaches s p ∧
      s.dev.hasAxis n = true ∧
      s.pow.devState ≠ DevState.stowed) ∧
    (∃ (s : State) (p : Sys2Proof.Path) (n : Nat) (i : Nat),
      Reaches s p ∧
      s.dev.hasAxis n = true ∧
      s.pow.devState ≠ DevState.stowed ∧
      i < 3) ∧
    (∃ (s : State) (p : Sys2Proof.Path) (n : Nat),
      Reaches s p ∧
      n < 16 ∧
      s.dev.hasAxis n = false ∧
      s.pow.devState ≠ DevState.stowed) ∧
    (∃ (s : State) (key : Nat) (r : Dict.Row),
      s.dev.hostUp = true ∧
      key < 2 ^ 24 ∧
      s.object key = Except.ok r ∧
      r.acc ≠ Dict.Acc.wo ∧
      (¬(K.WIN_DATA ≤ key ∧ key ≤ K.WIN_BLOCK 127))) ∧
    (∃ (s : State) (key : Nat) (r : Dict.Row),
      s.dev.hostUp = true ∧
      key < 2 ^ 24 ∧
      s.object key = Except.ok r ∧
      r.acc ≠ Dict.Acc.wo ∧
      (¬(K.WIN_DATA ≤ key ∧ key ≤ K.WIN_BLOCK 127)) ∧
      (r.acc = Dict.Acc.ro ∨ r.acc = Dict.Acc.rw) ∧
      key ≠ K.TFLAGS) ∧
    (∃ (s : State),
      s.dev.hostUp = true ∧
      s.dev.fab.ready = true) ∧
    (∃ (s : State) (key : Nat) (e : Nat),
      s.dev.hostUp = true ∧
      key < 2 ^ 24 ∧
      s.object key = Except.error e ∧
      e ≠ abWriteOnly) :=
  ⟨⟨rg id, .ring 4, by decide +kernel⟩,
    ⟨rg (fun d => d.wr (K.CMD_VEL 15) 5), .bar0, 15, by decide +kernel⟩,
    ⟨rg (fun d => d.wr (K.ENC_CNT 15) 5), .bar0, 15, by decide +kernel⟩,
    ⟨rg (fun d => d.wr (K.ENC_CNT 15) 5), .bar0, 15, 2, by decide +kernel⟩,
    ⟨{(rg id) with dev := {(rg id).dev with part := .fq8}}, .ring 3, 8, by decide +kernel⟩,
    ⟨rg id, K.NT, row (K.NT), by decide +kernel⟩,
    ⟨rg id, K.CMD_POS 5, row (K.CMD_POS 5), by decide +kernel⟩,
    ⟨rg fun d => d.wr K.LAST_ABORT 0x203, by decide +kernel⟩,
    ⟨rg id, 0x100099, 0x0102, by decide +kernel⟩⟩

theorem witness_WritesLandOrAreRefused :
    (∃ (s : State) (p : Sys2Proof.Path) (key : Nat) (v : Nat) (e : Nat),
      s.reachable p = true ∧
      key < 2 ^ 24 ∧
      s.object key = Except.error e) ∧
    (∃ (s : State) (p : Sys2Proof.Path) (key : Nat) (v : Nat) (r : Dict.Row),
      s.reachable p = true ∧
      key < 2 ^ 24 ∧
      s.object key = Except.ok r ∧
      (r.acc = Dict.Acc.ro ∨ r.acc = Dict.Acc.rc)) ∧
    (∃ (s : State) (p : Sys2Proof.Path) (key : Nat) (v : Nat) (r : Dict.Row),
      s.reachable p = true ∧
      key < 2 ^ 24 ∧
      s.object key = Except.ok r ∧
      r.acc = Dict.Acc.rwl ∧
      (s.pow.locked = true ∨ s.dev.rd K.LOCK = 1)) ∧
    (∃ (s : State) (p : Sys2Proof.Path) (key : Nat) (v : Nat) (data : Bytes),
      s.reachable p = true ∧
      key < 2 ^ 24 ∧
      p = Path.bar0 ∧
      List.length data = 8 ∧
      (∃ r, s.object key = Except.ok r)) ∧
    (∃ (s : State) (n : Nat) (v : Nat) (key : Nat) (data : Bytes),
      s.dev.hostUp = true ∧
      s.dev.fab.ready = true ∧
      s.dev.hasAxis n = true ∧
      s.pow.devState ≠ DevState.stowed ∧
      1 ≤ v ∧
      v < 2 ^ 31 ∧
      key ∈ [K.V_LIM n, K.A_LIM n, K.D_LIM n, K.J_LIM n, K.D_STOP n] ∧
      data ∈ [le 4 v, le 8 v]) ∧
    (∃ (s : State) (p : Sys2Proof.Path) (n : Nat) (v : Nat) (key : Nat),
      Reaches s p ∧
      s.dev.hasAxis n = true ∧
      s.pow.devState ≠ DevState.stowed ∧
      1 ≤ v ∧
      v < 2 ^ 31 ∧
      key ∈ [K.V_LIM n, K.A_LIM n, K.D_LIM n, K.J_LIM n, K.D_STOP n]) ∧
    (∃ (s : State) (p : Sys2Proof.Path),
      Reaches s p ∧
      s.pow.devState = DevState.ready ∧
      s.pow.locked = false ∧
      s.dev.rd K.LOCK = 0) ∧
    (∃ (s : State),
      s.dev.rd K.LOCK = 1) :=
  ⟨⟨rg id, .bar0, 0x100099, 3, match (rg id).object 0x100099 with | .ok _ => 0 | .error e => e, by decide +kernel⟩,
    ⟨rg id, .ring 1, K.LAST_ABORT, 3, row (K.LAST_ABORT), by decide +kernel⟩,
    ⟨rg id, .ring 1, K.TSOURCE, 3, row (K.TSOURCE), by decide +kernel⟩,
    ⟨rg id, .bar0, K.V_LIM 3, 3, [1,2,3,4,0,0,0,0], by decide +kernel, by decide +kernel, rfl, by decide +kernel, ⟨row (K.V_LIM 3), by decide +kernel⟩⟩,
    ⟨rg id, 15, 1, K.D_STOP 15, le 8 1, by decide +kernel⟩,
    ⟨rg id, .ring 3, 15, 2^31-1, K.V_LIM 15, by decide +kernel⟩,
    ⟨rdy2 id, .bar0, by decide +kernel⟩,
    ⟨rdy2 fun d => d.wr K.LOCK 1, by decide +kernel⟩⟩

theorem witness_RingRequestsAreAnsweredOnce :
    (∃ (s : State) (r : ObjRequest) (row : Dict.Row),
      s.dev.passive = false ∧
      s.dev.hasPort r.port = true ∧
      (List.find? (fun x => decide (x.src = r.src ∧ x.tag = r.tag)) s.dev.fab.replies = none) ∧
      ((List.filter (fun x => decide (s.dev.now < x)) s.dev.fab.executing).length < 32) ∧
      s.object (reqKey r) = Except.ok row ∧
      row.ty.size = r.size ∧
      row.acc ≠ Dict.Acc.wo ∧
      (¬(K.WIN_DATA ≤ reqKey r ∧ reqKey r ≤ K.WIN_BLOCK 127))) ∧
    (∃ (s : State) (r : ObjRequest) (row : Dict.Row),
      s.dev.passive = false ∧
      s.dev.hasPort r.port = true ∧
      (List.find? (fun x => decide (x.src = r.src ∧ x.tag = r.tag)) s.dev.fab.replies = none) ∧
      ((List.filter (fun x => decide (s.dev.now < x)) s.dev.fab.executing).length < 32) ∧
      s.object (reqKey r) = Except.ok row ∧
      row.ty.size = r.size ∧
      row.acc ≠ Dict.Acc.wo ∧
      (¬(K.WIN_DATA ≤ reqKey r ∧ reqKey r ≤ K.WIN_BLOCK 127))) ∧
    (∃ (s : State) (r : ObjRequest) (n : Nat),
      s.dev.passive = false ∧
      s.dev.hasPort r.port = true ∧
      (List.find? (fun x => decide (x.src = r.src ∧ x.tag = r.tag)) s.dev.fab.replies = none) ∧
      ((List.filter (fun x => decide (s.dev.now < x)) s.dev.fab.executing).length < 32) ∧
      s.dev.hasAxis n = true ∧
      s.dev.fab.ready = true ∧
      s.pow.devState ≠ DevState.stowed ∧
      reqKey r = K.V_LIM n ∧
      r.size = 4 ∧
      1 ≤ r.data ∧
      r.data < 2 ^ 31) ∧
    (∃ (s : State) (r : ObjRequest) (row : Dict.Row),
      s.dev.passive = false ∧
      s.dev.hasPort r.port = true ∧
      (List.find? (fun x => decide (x.src = r.src ∧ x.tag = r.tag)) s.dev.fab.replies = none) ∧
      ((List.filter (fun x => decide (s.dev.now < x)) s.dev.fab.executing).length < 32) ∧
      s.object (reqKey r) = Except.ok row ∧
      row.acc ≠ Dict.Acc.wo ∧
      1 ≤ r.size ∧
      r.size ≤ 128 ∧
      r.sub + r.size ≤ 256) ∧
    (∃ (s : State) (r : ObjRequest) (row : Dict.Row),
      s.dev.passive = false ∧
      s.dev.hasPort r.port = true ∧
      (List.find? (fun x => decide (x.src = r.src ∧ x.tag = r.tag)) s.dev.fab.replies = none) ∧
      ((List.filter (fun x => decide (s.dev.now < x)) s.dev.fab.executing).length < 32) ∧
      s.object (reqKey r) = Except.ok row ∧
      row.acc ≠ Dict.Acc.wo ∧
      1 ≤ r.size ∧
      r.size ≤ 128 ∧
      r.sub + r.size ≤ 256) ∧
    (∃ (s : State) (r : ObjRequest) (x : Reply) (c : Instr),
      s.dev.passive = false ∧
      s.dev.hasPort r.port = true ∧
      (List.find? (fun x => decide (x.src = r.src ∧ x.tag = r.tag)) s.dev.fab.replies = some x) ∧
      c ∈ [Instr.ringRead r, Instr.ringPeekRead r, Instr.ringWrite r, Instr.blockRead r, Instr.blockPeekRead r]) ∧
    (∃ (s : State) (k : Nat),
      s.dev.fab.ready = true ∧
      s.dev.rd K.INJ_GO = 0 ∧
      (List.find? (fun k => decide (s.dev.fab.scrubAt < k)) (s.dev.slotsWhere parityRow) = some k) ∧
      s.dev.fab.upset.find k = none) ∧
    (∃ (s : State) (k : Nat) (flip : Nat),
      s.dev.fab.ready = true ∧
      s.dev.rd K.INJ_GO = 0 ∧
      (List.find? (fun k => decide (s.dev.fab.scrubAt < k)) (s.dev.slotsWhere parityRow) = some k) ∧
      s.dev.fab.upset.find k = none ∧
      1 ≤ flip ∧
      flip ≤ 8 ∧
      k ∉ [K.PAR_OBJ, K.PAR_COUNT, K.PASS_NT]) ∧
    (∃ (s : State) (k : Nat),
      s.dev.fab.ready = true ∧
      s.dev.rd K.INJ_GO = 0 ∧
      (List.find? (fun k => decide (s.dev.fab.scrubAt < k)) (s.dev.slotsWhere parityRow) = some k) ∧
      s.dev.fab.upset.find k = none) ∧
    (∃ (s : State) (k : Nat) (bad : Nat),
      s.dev.fab.ready = true ∧
      s.dev.rd K.INJ_GO = 0 ∧
      (List.find? (fun k => decide (s.dev.fab.scrubAt < k)) (s.dev.slotsWhere parityRow) = some k) ∧
      s.dev.fab.upset.find k = some bad ∧
      bad ≠ 0) :=
  ⟨⟨rg id, rq (K.NT) 8, row (K.NT), by decide +kernel⟩,
    ⟨rg id, rq (K.LAST_ABORT) 2, row (K.LAST_ABORT), by decide +kernel⟩,
    ⟨rg id, rq (K.V_LIM 3) 4 (2^31-1), 3, by decide +kernel⟩,
    ⟨rg id, rq2 (K.CMD_POS 0) 128, row (K.CMD_POS 0), by decide +kernel⟩,
    ⟨rg id, rq2 (K.V_LIM 3) 1, row (K.V_LIM 3), by decide +kernel⟩,
    ⟨rg fun d => {d with fab := {d.fab with replies := [rp]}}, rq (K.V_LIM 3) 4, rp, .blockPeekRead (rq (K.V_LIM 3) 4), by decide +kernel⟩,
    ⟨rg id, pk, by decide +kernel⟩,
    ⟨rg id, pk, 8, by decide +kernel⟩,
    ⟨rg id, pk, by decide +kernel⟩,
    ⟨rg fun d => {d with fab := {d.fab with upset := [(pk, 3)]}}, pk, 3, by decide +kernel⟩⟩

theorem witness_ControlWritesChangeOneField :
    (∃ (s : State) (p : Sys2Proof.Path) (n : Nat),
      Reaches s p ∧
      s.dev.hasAxis n = true ∧
      s.pow.devState ≠ DevState.stowed ∧
      s.dev.rd (K.CONTROL n) < 16 ∧
      (s.enableRefused n = false ∨ (s.dev.rd (K.CONTROL n)).testBit 0 = true)) ∧
    (∃ (s : State) (p : Sys2Proof.Path) (n : Nat),
      Reaches s p ∧
      s.dev.hasAxis n = true ∧
      s.pow.devState ≠ DevState.stowed ∧
      s.dev.rd (K.CONTROL n) < 16 ∧
      s.enableRefused n = true ∧
      (s.dev.rd (K.CONTROL n)).testBit 0 = false) ∧
    (∃ (s : State) (p : Sys2Proof.Path) (n : Nat),
      Reaches s p ∧
      s.dev.hasAxis n = true ∧
      s.pow.devState ≠ DevState.stowed ∧
      s.dev.rd (K.CONTROL n) < 16) ∧
    (∃ (s : State) (p : Sys2Proof.Path) (n : Nat) (on : Bool),
      Reaches s p ∧
      s.dev.hasAxis n = true ∧
      s.pow.devState ≠ DevState.stowed ∧
      s.dev.rd (K.CONTROL n) < 16) ∧
    (∃ (s : State) (p : Sys2Proof.Path) (n : Nat),
      Reaches s p ∧
      s.dev.hasAxis n = true ∧
      s.pow.devState ≠ DevState.stowed ∧
      s.dev.rd (K.CONTROL n) < 16 ∧
      (s.dev.rd (K.CONTROL n)).testBit 2 = false ∧
      s.dev.followRefused n = false) ∧
    (∃ (s : State) (p : Sys2Proof.Path) (n : Nat),
      Reaches s p ∧
      s.dev.hasAxis n = true ∧
      s.pow.devState ≠ DevState.stowed ∧
      s.dev.rd (K.CONTROL n) < 16 ∧
      (s.dev.rd (K.CONTROL n)).testBit 2 = false ∧
      s.dev.followRefused n = true) ∧
    (∃ (s : State) (p : Sys2Proof.Path) (n : Nat),
      Reaches s p ∧
      s.dev.hasAxis n = true ∧
      s.pow.devState ≠ DevState.stowed ∧
      s.dev.rd (K.CONTROL n) < 16 ∧
      (s.dev.rd (K.CONTROL n)).testBit 2 = true ∧
      (s.dev.mot n).follow.engaged = false) ∧
    (∃ (s : State) (p : Sys2Proof.Path) (n : Nat),
      Reaches s p ∧
      s.dev.hasAxis n = true ∧
      s.pow.devState ≠ DevState.stowed ∧
      s.dev.rd (K.CONTROL n) < 16 ∧
      (s.dev.rd (K.CONTROL n)).testBit 3 = false) ∧
    (∃ (s : State) (p : Sys2Proof.Path) (n : Nat),
      Reaches s p ∧
      s.dev.hasAxis n = true ∧
      s.pow.devState ≠ DevState.stowed ∧
      s.dev.rd (K.CONTROL n) < 16 ∧
      (s.dev.rd (K.CONTROL n)).testBit 3 = true) :=
  ⟨⟨ctl 15, .bar0, 3, by decide +kernel⟩,
    ⟨{(ctl 14) with pow := {devState := .ready}}, .bar0, 3, by decide +kernel⟩,
    ⟨ctl 15, .bar0, 3, by decide +kernel⟩,
    ⟨ctl 0, .ring 5, 3, true, by decide +kernel⟩,
    ⟨ctl 0 (fun d => d.wr (K.SRC 3) 1 |>.wr (K.IN_MODE 3) 1), .ring 5, 3, by decide +kernel⟩,
    ⟨ctl 0 (fun d => d.wr (K.SRC 3) 3 |>.wr (K.MASTER 3) 3), .ring 5, 3, by decide +kernel⟩,
    ⟨ctl 4, .ring 5, 3, by decide +kernel⟩,
    ⟨ctl 1, .ring 5, 3, by decide +kernel⟩,
    ⟨ctl 8, .ring 5, 3, by decide +kernel⟩⟩

theorem witness_PositionsOutputsAndHomingAreSet :
    (∃ (s : State) (p : Sys2Proof.Path) (n : Nat) (v : Int),
      Reaches s p ∧
      s.dev.hasAxis n = true ∧
      s.pow.devState ≠ DevState.stowed ∧
      -2 ^ 63 ≤ v ∧
      v < 2 ^ 63 ∧
      s.dev.axState n = axDisabled) ∧
    (∃ (s : State) (p : Sys2Proof.Path) (n : Nat) (v : Int),
      Reaches s p ∧
      s.dev.hasAxis n = true ∧
      s.pow.devState ≠ DevState.stowed ∧
      -2 ^ 63 ≤ v ∧
      v < 2 ^ 63 ∧
      s.dev.axState n ≠ axDisabled) ∧
    (∃ (s : State) (p : Sys2Proof.Path) (n : Nat) (v : Int),
      Reaches s p ∧
      s.dev.hasAxis n = true ∧
      s.pow.devState ≠ DevState.stowed ∧
      -2 ^ 63 ≤ v ∧
      v < 2 ^ 63) ∧
    (∃ (s : State) (p : Sys2Proof.Path) (n : Nat) (v : Int),
      Reaches s p ∧
      s.dev.hasAxis n = true ∧
      s.pow.devState ≠ DevState.stowed ∧
      -2 ^ 63 ≤ v ∧
      v < 2 ^ 63 ∧
      s.dev.homeRefused n = false ∧
      s.dev.rd (K.HOME_START n) = 0) ∧
    (∃ (s : State) (p : Sys2Proof.Path) (m : Nat),
      Reaches s p ∧
      s.dev.hasEmu m = true) ∧
    (∃ (s : State) (p : Sys2Proof.Path) (m : Nat),
      Reaches s p ∧
      s.dev.hasEmu m = true) :=
  ⟨⟨rg id, .ring 5, 0, 2^63-1, by decide +kernel⟩,
    ⟨rg fun d => d.wr (K.STATE_4000 0) 4, .ring 5, 0, 2^63-1, by decide +kernel⟩,
    ⟨rg fun d => d.wr (K.DEC_CFG 0) 3, .ring 5, 0, -2^63, by decide +kernel⟩,
    ⟨rg fun d => d.wr (K.STATE_4000 15) 2 |>.wr (K.SW_CFG 15) 0x70, .ring 5, 15, 0, by decide +kernel⟩,
    ⟨rg id, .ring 5, 3, by decide +kernel⟩,
    ⟨rg fun d => {d.wr (K.EMU_EN 3) 1 |>.wr (K.EMU_FLAGS 3) 3 |>.wr (K.EMU_LAG 3) 3 with emu := [(3, {edges := [(5,0,8)], emz := true, shown := -9})]}, .ring 5, 3, by decide +kernel⟩⟩

theorem witness_RequestsStartTheirActions :
    (∃ (s : State) (p : Sys2Proof.Path) (k : Nat),
      Reaches s p ∧
      k < 256 ∧
      s.dev.rd (K.VALIDATE k) = 0) ∧
    (∃ (s : State) (p : Sys2Proof.Path),
      Reaches s p ∧
      s.dev.rd K.TSTATE = 3 ∧
      s.dev.bit K.TFLAGS 0 = true ∧
      s.dev.rd K.STEP_1200 = 0) ∧
    (∃ (s : State) (p : Sys2Proof.Path),
      Reaches s p ∧
      s.dev.rd K.TSTATE ≠ 3) ∧
    (∃ (s : State) (p : Sys2Proof.Path) (v : Nat),
      Reaches s p ∧
      s.dev.isRoot = true ∧
      s.dev.rd K.TSTATE ≤ 1 ∧
      v < 2 ^ 64) ∧
    (∃ (s : State) (p : Sys2Proof.Path),
      Reaches s p ∧
      s.dev.rd K.CANCEL = 0) ∧
    (∃ (s : State) (p : Sys2Proof.Path),
      Reaches s p ∧
      s.dev.rd K.PMB_RETRY = 0) ∧
    (∃ (s : State) (p : Sys2Proof.Path),
      Reaches s p ∧
      s.dev.reqRefused = false ∧
      s.dev.rd K.REQ_GO = 0 ∧
      s.dev.fray.asks = [] ∧
      (s.dev.rd K.REQ_KIND = 0 ∨ s.dev.rd K.REQ_KIND = 3)) ∧
    (∃ (s : State) (p : Sys2Proof.Path),
      Reaches s p ∧
      s.pow.devState ≠ DevState.off ∧
      s.dev.rd K.BUILD = 0) ∧
    (∃ (s : State),
      s.dev.rd K.BUILD = 1 ∧
      s.dev.postRuns = true) :=
  ⟨⟨rg id, .bar0, 255, by decide +kernel⟩,
    ⟨rg fun d => (d.wr K.TSTATE 3).wr K.TFLAGS 1 |>.wr K.PENDING_OFS (2^64-5), .bar0, by decide +kernel⟩,
    ⟨rg id, .bar0, by decide +kernel⟩,
    ⟨rg fun d => d.wr K.TSTATE 1 |>.wr K.ROLE 2, .bar0, 2^64-1, by decide +kernel⟩,
    ⟨rg fun d => {(d.setAxis 1 {d.axis 1 with inbox := [lt 1 []]}).wr K.CANCEL_TAG 5 with desp := {d.desp with table := [lt 1 [], lt 1 [] 1]}}, .bar0, by decide +kernel⟩,
    ⟨rg id, .bar0, by decide +kernel⟩,
    ⟨rg fun d => d.wr K.REQ_KIND 3, .bar0, by decide +kernel⟩,
    ⟨rg id, .bar0, by decide +kernel⟩,
    ⟨on fun d => d.wr K.BUILD 1, by decide +kernel⟩⟩

theorem witness_PortsComeUpAndGoDown :
    (∃ (s : State) (p : Nat) (fast : Bool),
      p < 3 ∧
      s.dev.portOn p = true ∧
      (s.dev.port p).synced = false ∧
      (if s.dev.rd (K.PMODE p) = 0 then fast = (s.dev.port p).trying else fast = decide (s.dev.rd (K.PMODE p) = 1))) ∧
    (∃ (s : State) (p : Nat),
      p < 3 ∧
      s.dev.portOn p = true ∧
      (s.dev.port p).synced = true ∧
      s.dev.rd (K.AN_EN p) = 1) ∧
    (∃ (s : State) (p : Nat),
      p < 3 ∧
      s.dev.portOn p = true ∧
      (s.dev.port p).synced = false ∧
      s.dev.rd (K.PMODE p) = 0 ∧
      max (s.dev.port p).tryAt (s.dev.start.tp + 1000000) + 50000000 ≤ s.dev.now + 7) ∧
    (∃ (s : State) (p : Nat) (body : Bytes),
      p < 3 ∧
      s.dev.portReady p = true ∧
      List.length body = 16) ∧
    (∃ (s : State) (p : Nat) (t : Nat),
      p < 3 ∧
      (s.dev.port p).stable = some t ∧
      s.dev.rd (K.PLINK p) = 3 ∧
      t + 1000000 * s.dev.rd K.LINK_HOLD ≤ s.dev.now + 7) ∧
    (∃ (s : State) (p : Nat) (cause : Nat),
      p < 3 ∧
      s.dev.hasPort p = true ∧
      s.dev.portUp p = true ∧
      (s.dev.port p).synced = true ∧
      (cause = 1 ∨ cause = 2 ∧ s.dev.rd (K.AN_EN p) = 1 ∨ cause = 3 ∧ (s.dev.port p).last + 1000 * s.dev.rd K.LINK_TO ≤ s.dev.now + 7)) ∧
    (∃ (s : State) (p : Nat),
      p < 3 ∧
      s.dev.ringLive = true ∧
      s.dev.post.halted = none ∧
      s.dev.ring.lastHello + 100000 ≤ s.dev.now + 7 ∧
      s.dev.portReady p = true ∧
      (s.dev.port p).sending = none ∧
      (s.dev.port p).queue = []) ∧
    (∃ (s : State) (p : Nat) (f : QFrame),
      p < 3 ∧
      s.dev.portReady p = true ∧
      (s.dev.port p).sending = some f ∧
      f.open_ = none ∧
      (s.dev.port p).queue = []) :=
  ⟨⟨pt 2 {} (fun d => d.wr K.PORTC_MODE 1), 2, true, by decide +kernel⟩,
    ⟨pt 1 {synced := true, hello := true}, 1, by decide +kernel⟩,
    ⟨pt 1 {} (fun d => {d with ticks := 6375000}), 1, by decide +kernel⟩,
    ⟨pt 1 {synced := true, an := true}, 1, le 8 77 ++ le 8 5, by decide +kernel⟩,
    ⟨pt 1 {synced := true, an := true, stable := some 0, fast := true} (fun d => d.wr (K.PLINK 1) 3 |>.wr (K.WRAPPING 1) 1 |>.wr K.LINK_HOLD 8), 1, 0, by decide +kernel⟩,
    ⟨pt 1 {synced := true, an := true, stable := some 0, fast := true} (fun d => d.wr (K.PLINK 1) 2), 1, 3, by decide +kernel⟩,
    ⟨pt 1 {synced := true, an := true}, 1, by decide +kernel⟩,
    ⟨pt 1 {synced := true, an := true, sending := some fh}, 1, fh, by decide +kernel⟩⟩

theorem witness_EnvelopesAreRoutedAndDelivered :
    (∃ (s : State) (p : Nat) (h : Bytes) (other : Nat),
      p < 2 ∧
      s.dev.portReady p = true ∧
      List.length h = 16 ∧
      (s.dev.port p).inHdr = none ∧
      other ≠ s.dev.rd K.ETYPE ∧
      other ≠ 35063) ∧
    (∃ (s : State) (p : Nat) (h : Bytes),
      p < 2 ∧
      s.dev.portReady p = true ∧
      List.length h = 16 ∧
      (s.dev.port p).inHdr = none ∧
      hcrcOk h = false) ∧
    (∃ (s : State) (p : Nat) (h : Bytes),
      p < 2 ∧
      s.dev.portReady p = true ∧
      List.length h = 16 ∧
      (s.dev.port p).inHdr = none ∧
      hcrcOk h = true ∧
      s.dev.portUp p = true ∧
      isHello h = false ∧
      hdrKnown h = true ∧
      s.dev.passive = false ∧
      (hdrEntry h ≠ s.dev.station ∨ hdrWraps h = 1) ∧
      s.dev.consumes h = true) ∧
    (∃ (s : State) (p : Nat) (h : Bytes),
      p < 2 ∧
      s.dev.portReady p = true ∧
      List.length h = 16 ∧
      (s.dev.port p).inHdr = none ∧
      hcrcOk h = true ∧
      s.dev.portUp p = true ∧
      isHello h = false ∧
      hdrKnown h = true ∧
      s.dev.passive = false ∧
      (hdrEntry h ≠ s.dev.station ∨ hdrWraps h = 1) ∧
      s.dev.consumes h = false ∧
      destMulticast (hdrDest h) = false ∧
      destSegment (hdrDest h) = s.dev.ownSegment ∧
      hdrHops h = 0) ∧
    (∃ (s : State) (p : Nat) (h : Bytes) (body : Bytes),
      p < 3 ∧
      s.dev.portReady p = true ∧
      s.dev.rd K.INJ_GO = 0 ∧
      (s.dev.port p).inHdr = some h) ∧
    (∃ (s : State) (p : Nat) (h : Bytes) (body : Bytes),
      p < 3 ∧
      s.dev.portReady p = true ∧
      s.dev.rd K.INJ_GO = 0 ∧
      (s.dev.port p).inHdr = some h ∧
      hdrKnown h = true ∧
      s.dev.forMe h = true ∧
      isHello h = false ∧
      (hdrSrc h).testBit 15 = false ∧
      (s.dev.duplicate (hdrSrc h) (hdrSeq h)).1 = false ∧
      oddRequest p h body = none) ∧
    (∃ (s : State) (p : Nat) (h : Bytes) (body : Bytes) (op : Nat) (r : ObjRequest),
      p < 3 ∧
      s.dev.portReady p = true ∧
      s.dev.rd K.INJ_GO = 0 ∧
      (s.dev.port p).inHdr = some h ∧
      hdrKnown h = true ∧
      s.dev.forMe h = true ∧
      isHello h = false ∧
      (hdrSrc h).testBit 15 = false ∧
      (s.dev.duplicate (hdrSrc h) (hdrSeq h)).1 = false ∧
      oddRequest p h body = some (op, r) ∧
      s.dev.passive = false ∧
      (∀ x ∈ s.dev.fab.replies, ¬(x.src = r.src ∧ x.tag = r.tag)) ∧
      s.dev.fab.executing.length < 32) ∧
    (∃ (s : State) (p : Nat) (h : Bytes) (body : Bytes),
      p < 3 ∧
      s.dev.portReady p = true ∧
      s.dev.rd K.INJ_GO = 0 ∧
      (s.dev.port p).inHdr = some h ∧
      hdrKnown h = true ∧
      s.dev.forMe h = true ∧
      isHello h = false ∧
      (hdrSrc h).testBit 15 = false ∧
      (s.dev.duplicate (hdrSrc h) (hdrSeq h)).1 = true) ∧
    (∃ (s : State) (p : Nat) (src : Nat) (tIn : Nat) (data : Bytes),
      s.dev.portUp p = true ∧
      s.dev.passive = false ∧
      List.length data = 8 ∧
      src < 2 ^ 15 ∧
      destSegment src = s.dev.ownSegment ∧
      s.dev.portUp (s.dev.shorterPort (s.dev.stationToward src)) = true ∧
      (s.dev.port (s.dev.shorterPort (s.dev.stationToward src))).sending = none ∧
      (s.dev.port (s.dev.shorterPort (s.dev.stationToward src))).queue = []) :=
  ⟨⟨pt 1 {synced := true, an := true}, 1, hdr 2 5 9 7, 0x0800, by decide +kernel⟩,
    ⟨pt 1 {synced := true, an := true}, 1, List.replicate 16 7, by decide +kernel⟩,
    ⟨upp 1, 1, hdr 2 5 9 7, by decide +kernel⟩,
    ⟨upp 1, 1, hdr 2 6 0 7, by decide +kernel⟩,
    ⟨upp 1 id {inHdr := some (hdr 2 5 9 7)}, 1, hdr 2 5 9 7, [1,2,3], by decide +kernel⟩,
    ⟨upp 1 id {inHdr := some (hdr 2 5 9 7)}, 1, hdr 2 5 9 7, [1,2,3], by decide +kernel⟩,
    ⟨upp 1 id {inHdr := some (hdr 2 5 9 7)}, 1, hdr 2 5 9 7, [6, 4, 0x10, 0x11, 1, 0, 0x34, 0x12, 0, 0, 0, 0, 0, 0, 0, 0], 6, ({port := 1, src := 9, size := 4, index := 0x1110, sub := 1, tag := 0x1234, data := 0} : ObjRequest), by decide +kernel⟩,
    ⟨upp 1 (fun d => {d with ring := {d.ring with seen := [{src := 9, high := 3, below := 0, at_ := 8000000}]}}) {inHdr := some (hdr 2 5 9 7)}, 1, hdr 2 5 9 7, [1,2,3], by decide +kernel⟩,
    ⟨upp 0 (fun d => {d.wr (K.PLINK 0) 2 |>.wr (K.PLINK 1) 2 with ring := {d.ring with map := [{serial := 1, station := 5, tport := 0},{serial := 2, station := 6, tport := 0}]}}), 0, 6, 77, le 8 12345, by decide +kernel⟩⟩

theorem witness_MapsGiveAddresses :
    (∃ (s : State) (body : Bytes),
      s.dev.postRuns = true ∧
      List.length body = 40) ∧
    (∃ (s : State),
      s.dev.postRuns = true ∧
      (s.dev.portUp 0 || s.dev.portUp 1) = true ∧
      (s.dev.ring.reportNow = true ∨ s.dev.ring.lastReport + 10000000 ≤ s.dev.now + 7)) ∧
    (∃ (s : State) (body : Bytes),
      List.length body = 8 + 8 * hdrByte body 2 ∧
      (s.dev.ring.mapped = false ∨ 1 ≤ (ofLe (slice body 0 2) + 65536 - s.dev.rd K.EPOCH) % 65536 ∧ (ofLe (slice body 0 2) + 65536 - s.dev.rd K.EPOCH) % 65536 < 32768)) ∧
    (∃ (s : State) (body : Bytes),
      List.length body = 8 + 2 * hdrByte body 2 ∧
      s.dev.ring.sysEpoch = none) ∧
    (∃ (s : State) (r : ReportRt) (g : Nat),
      electHead (ringOrder s.dev.ownReport s.dev.allReports).1 = some r ∧
      r.serial = s.dev.serial ∧
      s.dev.headSegment = some g ∧
      s.dev.postRuns = true ∧
      s.dev.ring.dirty = true) ∧
    (∃ (s : State) (station : Nat) (serial : Nat) (t : Nat),
      (List.find? (fun h => decide (h.2.1 = station)) s.dev.ring.held = some (serial, station, t)) ∧
      s.dev.postRuns = true ∧
      t + 1000000000 * s.dev.rd K.ADDR_HOLD ≤ s.dev.now + 7) :=
  ⟨⟨rg id, le 8 3 ++ List.replicate 32 9, by decide +kernel⟩,
    ⟨upp 1, by decide +kernel⟩,
    ⟨rg fun d => {d.wr K.EPOCH 65535 with ring := {d.ring with mapped := true}}, smap 32766 [(1,3),(7777, 9)], by decide +kernel⟩,
    ⟨rg id, le 2 5 ++ le 1 2 ++ le 5 0 ++ [1,2,3,4], by decide +kernel⟩,
    ⟨hdm, hdm.dev.ownReport, 0, by decide +kernel⟩,
    ⟨rg fun d => {d with ticks := 2^60, ring := {d.ring with held := [(77,(9,5))], stations := [(77,9)]}}, 9, 77, 5, by decide +kernel⟩⟩

theorem witness_TimeFollowsItsSource :
    (∃ (s : State),
      s.dev.wantedSource true = 1 ∧
      s.dev.bit K.TFLAGS 1 = false ∧
      s.dev.rd K.TSTATE = 0) ∧
    (∃ (s : State),
      s.dev.bit K.TFLAGS 1 = true ∧
      s.dev.rd K.TIME_PORT = 1 ∧
      s.dev.rd K.TSOURCE = 0 ∧
      s.dev.rootRole = true ∧
      s.dev.rd K.PORTC_MODE ≠ 4 ∧
      s.dev.rd K.TSTATE = 1) ∧
    (∃ (s : State),
      s.dev.bit K.TFLAGS 1 = true ∧
      s.dev.rd K.TIME_PORT = 1 ∧
      s.dev.rd K.TSOURCE = 0 ∧
      s.dev.rootRole = true ∧
      s.dev.rd K.PORTC_MODE ≠ 4 ∧
      s.dev.rd K.TSTATE = 2) ∧
    (∃ (s : State) (p : Nat) (t1 : Int) (t2 : Int),
      p < 3 ∧
      s.dev.portReady p = true ∧
      s.dev.rd K.TIME_PORT ≠ p + 2) ∧
    (∃ (s : State) (p : Nat) (t1 : Int) (t2 : Int),
      p < 3 ∧
      s.dev.portReady p = true ∧
      s.dev.rd K.TIME_PORT = p + 2 ∧
      s.dev.rd K.TSTATE ≤ 1 ∧
      1000000 < (t2 - t1 - (↑(s.dev.rd (K.MEAN_DELAY p)) : Int) - s.dev.rdI 32 (K.ASYM p)).natAbs) ∧
    (∃ (s : State) (x : Int) (t : Nat),
      s.dev.rd K.TIME_PORT = 1 ∧
      s.dev.time.tref = true ∧
      s.dev.rd K.TSTATE = 1 ∧
      x.natAbs ≤ 1000 ∧
      s.dev.time.trefSince = some t ∧
      t + 100000000 ≤ s.dev.now + 7 ∧
      (s.dev.rd K.PPS_EN = 0 ∨ s.dev.time.ppsSet = true)) ∧
    (∃ (s : State),
      s.dev.rd K.TSTATE = 2 ∧
      2 ≤ s.dev.rd K.TIME_PORT ∧
      s.dev.time.lastSync + s.dev.rd K.HOLD_N * logInterval (s.dev.rdI 16 K.LOG_SYNC) ≤ s.dev.now + 7) :=
  ⟨⟨rg fun d => (d.wr K.TSOURCE 1).wr K.TSTATE 0, by decide +kernel⟩,
    ⟨rg fun d => d.wr K.TFLAGS 2 |>.wr K.TSTATE 1 |>.wr K.RATE 5 |>.wr K.TIME_PORT 1 |>.wr K.ROLE 2, by decide +kernel⟩,
    ⟨rg fun d => d.wr K.TFLAGS 2 |>.wr K.TSTATE 2 |>.wr K.RATE 5 |>.wr K.TIME_PORT 1 |>.wr K.ROLE 2, by decide +kernel⟩,
    ⟨upp 1, 1, 5, 6, by decide +kernel⟩,
    ⟨upp 1 fun d => d.wr K.TSTATE 1 |>.wr K.TIME_PORT 3, 1, 5, -1000006, by decide +kernel⟩,
    ⟨rg fun d => {d.wr K.TSTATE 1 |>.wr K.TIME_PORT 1 with ticks := 2^40, time := {d.time with tref := true, trefSince := some 5}}, -1000, 5, by decide +kernel⟩,
    ⟨rg fun d => {d.wr K.TSTATE 2 |>.wr K.TIME_PORT 2 with ticks := 2^40}, by decide +kernel⟩⟩

theorem witness_TimeStepsAndPulses :
    (∃ (s : State) (x : Int),
      s.dev.time.step = some x ∧
      s.dev.rd K.TSTATE = 2) ∧
    (∃ (s : State) (x : Int),
      s.dev.time.step = some x ∧
      s.dev.mayStep = true) ∧
    (∃ (s : State) (ts : Nat) (v : Nat),
      s.dev.rd K.PPS_EN = 1 ∧
      s.dev.isRoot = true ∧
      s.dev.rd K.TSTATE ≤ 1 ∧
      s.dev.time.tod = some v) ∧
    (∃ (s : State) (t : Nat),
      s.dev.secondNow = some t ∧
      s.dev.start.up = true ∧
      s.dev.time.ppsRise ≠ some s.dev.ticks) ∧
    (∃ (s : State) (t : Nat) (rest : List Nat),
      s.dev.time.ppsFall = t :: rest ∧
      t ≤ s.dev.ticks) ∧
    (∃ (s : State) (ts : Nat) (width : Nat),
      s.dev.start.up = true ∧
      ts < 2 ^ 64 ∧
      100 ≤ width) ∧
    (∃ (s : State) (ts : Nat) (width : Nat),
      s.dev.start.up = true ∧
      ts < 2 ^ 64 ∧
      width < 100) :=
  ⟨⟨rg fun d => {d.wr K.STEP_1200 1 |>.wr K.PENDING_OFS 7 with time := {d.time with step := some (-65537)}}, -65537, by decide +kernel⟩,
    ⟨rg fun d => {d.wr K.STEP_1200 1 |>.wr K.PENDING_OFS 7 |>.wr K.TSTATE 1 with time := {d.time with step := some (65537 * 100)}}, 65537 * 100, by decide +kernel⟩,
    ⟨rg fun d => {d.wr K.PPS_EN 1 |>.wr K.TSTATE 1 |>.wr K.ROLE 2 with time := {d.time with tod := some 77}}, 5, 77, by decide +kernel⟩,
    ⟨rg fun d => {d with nt := 999999993}, 1000000000, by decide +kernel⟩,
    ⟨rg fun d => {d with time := {d.time with ppsFall := [1000000, 8]}}, 1000000, [8], by decide +kernel⟩,
    ⟨rg id, 5, 100, by decide +kernel⟩,
    ⟨rg id, 5, 99, by decide +kernel⟩⟩

theorem witness_TimingMessagesAreStamped :
    (∃ (s : State) (p : Nat),
      p < 3 ∧
      (s.dev.port p).sending = none ∧
      (s.dev.port p).queue = [] ∧
      p < 2 ∧
      s.dev.portUp p = true ∧
      s.dev.rd K.TIME_PORT ≠ p + 2 ∧
      s.dev.time.lastSyncSend + logInterval (s.dev.rdI 16 K.LOG_SYNC) ≤ s.dev.now + 7) ∧
    (∃ (s : State) (p : Nat) (tIn : Nat),
      p < 3 ∧
      (s.dev.port p).sending = none ∧
      (s.dev.port p).queue = [] ∧
      s.dev.portReady p = true ∧
      s.dev.peerDelay p = true) ∧
    (∃ (s : State) (p : Nat),
      p < 3 ∧
      (s.dev.port p).sending = none ∧
      (s.dev.port p).queue = [] ∧
      s.dev.portReady p = true ∧
      (s.dev.port p).lastPd + logInterval (s.dev.rdI 16 K.LOG_PDELAY) ≤ s.dev.now + 7) ∧
    (∃ (s : State) (p : Nat),
      p < 3 ∧
      (s.dev.port p).sending = none ∧
      (s.dev.port p).queue = [] ∧
      p = 2 ∧
      s.dev.rd K.PORTC_MODE = 3 ∧
      s.dev.portUp 2 = true ∧
      s.dev.time.lastAnnounce + 1000000000 ≤ s.dev.now + 7) ∧
    (∃ (s : State) (p : Nat) (t1 : Int) (t2 : Int) (t3 : Int) (t4 : Int),
      p < 3 ∧
      (s.dev.port p).sending = none ∧
      (s.dev.port p).queue = [] ∧
      s.dev.portReady p = true) ∧
    (∃ (s : State) (p : Nat) (master : Nat) (data : AnnounceData),
      p < 3 ∧
      (s.dev.port p).sending = none ∧
      (s.dev.port p).queue = [] ∧
      p = 2 ∧
      s.dev.portReady 2 = true ∧
      s.dev.rd K.PORTC_MODE = 4) :=
  ⟨⟨upp 1 (fun d => {d with ticks := 2^40}), 1, by decide +kernel⟩,
    ⟨tm, 2, 5, by decide +kernel⟩,
    ⟨tm2, 2, by decide +kernel⟩,
    ⟨tm, 2, by decide +kernel⟩,
    ⟨tm, 2, 2000, 7, 9, 5, by decide +kernel⟩,
    ⟨tm fun d => d.wr K.PORTC_MODE 4, 2, 5, {priority1 := 1, clockClass := 2, accuracy := 3, variance := 4, priority2 := 5, steps := 7, identity := 8}, by decide +kernel⟩⟩

theorem witness_TemperaturesAndBoundaryScan :
    (∃ (s : State) (die : Nat) (temp : Int),
      s.dev.start.up = true ∧
      die < s.dev.dies ∧
      2240 < temp ∧
      temp < 2 ^ 15) ∧
    (∃ (s : State) (temps : List Int),
      temps.length = s.dev.dies ∧
      (∀ t ∈ temps, t < 2080) ∧
      s.dev.bit (K.SRC_STATUS 649) 0 = true) ∧
    (∃ (s : State) (rising : Bool) (tms : Bool) (tdi : Bool),
      True) ∧
    (∃ (s : State) (rising : Bool) (tms : Bool) (tdi : Bool),
      s.dev.tap.tck = false) ∧
    (∃ (s : State) (rising : Bool) (tms : Bool) (tdi : Bool),
      s.dev.tap.tck = true ∧
      s.dev.tap.st = TapState.shiftDr ∧
      s.dev.allBypass = true) :=
  ⟨⟨up, 0, 32767, by decide +kernel⟩,
    ⟨on fun d => d.wr K.OT_FLAGS 3 |>.raiseOn 0x289 4, [1,2,3,-4,2079], by decide +kernel⟩,
    ⟨on fun d => {d with tap := {st := .shiftIr, tck := true}}, false, true, true, by decide +kernel⟩,
    ⟨on fun d => {d with tap := {st := .shiftIr, tck := false}}, false, true, true, by decide +kernel⟩,
    ⟨on fun d => {d with tap := {ir := d.bypassAll, st := .shiftDr, tck := true, data := [true]}}, false, true, true, rfl, rfl, decide_eq_true rfl⟩⟩

/-! ## Effects that the manual's tables and worked cases give -/

/-- Table 9-1, row 00. -/
theorem test_quadrature_from_00 :
    quadStep false false true false = some 1 ∧ quadStep false false true true = none ∧ quadStep false false false true = some (-1) := by decide

/-- Table 9-1, row 11. -/
theorem test_quadrature_from_11 :
    quadStep true true false false = none ∧ quadStep true true true false = some (-1) ∧ quadStep true true false true = some 1 := by decide

/-- The period example of chapter 04: 125 ticks at 3,200,000 counts add 858,993,459.2 units, of which the register shows the whole ones. -/
theorem test_one_cadence_of_the_rate_multiplier :
    let m := (List.range 125).foldl (fun m _ => m.advance) ({ vOut := 3200000 } : MotionRt)
    m.pos = 858993459 ∧ m.rem = 200000000 := by decide +kernel

/-- Worked case "slack of axis 9, coil A": T = 8,000,000 ns, deadline T + 9,904 ns, window 2,408 ns, a completion that leaves 125 ticks. -/
def slackCase (now : Nat) : State :=
  let j : JobRt := { k := 5, deadline := 1001238, window := 301, slice := 9 }
  let r : CoilRt := { running := true, begun := true, start := 1000000, nextAt := 1001250, next := 5, jobFor := some 5, job := some j }
  up.onDev fun d => { d.setCoil 18 r with ticks := now }

theorem test_slack_above_its_floor :
    let t := after (.jobComplete 18 true) (slackCase 1001113)
    t.dev.rdI 16 (K.MIN_SLACK 9) = 125 ∧ t.dev.rd (K.BELOW_FLOOR 9) = 0 ∧ t.dev.rd (K.HELD 9) = 0 := by decide +kernel

/-- The same case: 59 ticks are below the floor of 60. -/
theorem test_slack_below_its_floor :
    let t := after (.jobComplete 18 true) (slackCase 1001179)
    t.dev.rdI 16 (K.MIN_SLACK 9) = 59 ∧ t.dev.rd (K.BELOW_FLOOR 9) = 1 ∧ t.dev.rd (K.HELD 9) = 0 := by decide +kernel

/-- Worked case "a counter and a minimum": a 2-byte read at 0x0090_8050 returns MIN_SLACK of slice 9 and resets it to 0x7FFF. -/
theorem test_normal_read_resets_a_minimum :
    let t := after (.bar0Read 0x00908050 2) (fq fun d => d.wr (K.MIN_SLACK 9) 52)
    t.dev.out = [.completion [52, 0]] ∧ t.dev.rd (K.MIN_SLACK 9) = 0x7FFF := by decide +kernel

/-- The same case: the peek slot at 0x0890_8050 leaves it. -/
theorem test_peek_read_keeps_a_minimum :
    let t := after (.bar0Read 0x08908050 2) (fq fun d => d.wr (K.MIN_SLACK 9) 58)
    t.dev.out = [.completion [58, 0]] ∧ t.dev.rd (K.MIN_SLACK 9) = 58 := by decide +kernel

/-- The same case: a 4-byte write of 0 at 0x0090_8850 lands in BELOW_FLOOR of slice 9. -/
theorem test_counter_written_to_zero :
    (after (.bar0Write 0x00908850 [0, 0, 0, 0]) (fq fun d => d.wr (K.BELOW_FLOOR 9) 7)).dev.rd (K.BELOW_FLOOR 9) = 0 := by decide +kernel

/-- Worked case "a short during blanking", run A: LS37 trips; legs 36 to 39 turn off, leg fault 0x065 (LS VDS, leg 37). -/
theorem test_low_side_trip_turns_its_axis_off :
    let t := after (.vdsTrip 37 false 0x10 0 false) (on fun d => (d.setLeg 37 { pos := .low }).setLeg 36 { pos := .high })
    (t.dev.leg 36).pos = .off ∧ (t.dev.leg 37).pos = .off ∧ t.dev.flt.raises.map (·.src) = [0x065] := by decide +kernel

/-- Worked case "a short that merges": 0x024 opens incident 3, and its bit is byte 4, bit 4 of the map. -/
theorem test_first_source_opens_the_incident :
    let t := after .faultRaise (on fun d => { d.wr K.INC_NO 2 with flt := { d.flt with raises := [{ src := 0x024, nt := 8000000 }] } })
    t.dev.rd K.INC_NO = 3 ∧ t.dev.rd K.CEIL = 3 ∧ t.dev.bit (K.SRC_MAP 0) 36 = true ∧ t.dev.bit K.ERR_STATE 0 = true := by decide +kernel

/-- The same case: 0x164 merges, and its bit is byte 44, bit 4: bit 36 of the slot 0x2010:0F. -/
theorem test_second_source_merges :
    let t := after .faultRaise (on fun d =>
      { (d.wr K.INC_NO 3).wr K.INC_OPEN 1 with flt := { d.flt with raises := [{ src := 0x164, nt := 8000250 }] } })
    t.dev.rd K.INC_NO = 3 ∧ t.dev.rd K.MERGES = 1 ∧ t.dev.bit (K.SRC_MAP 5) 36 = true := by decide +kernel

/-- Worked case "clearing the capture bank of axis 9": HAND of bank 13 toward 0x21, then its arrival. -/
theorem test_handover_of_bank_13 :
    let t := after (.hand .bar0 13) (fq fun d => (d.wr (K.NEXT_OWNER 13) 0x21).wr K.MAINT_MAP 0)
    let u := after (.transitComplete 13) t
    t.dev.rd (K.STATE_2810 13) = 1 ∧ u.dev.rd (K.STATE_2810 13) = 2 ∧ u.dev.rd (K.OWNER 13) = 0x21 := by decide +kernel

/-- The same case: the host accepts, and HAND_RESULT reads 1. -/
theorem test_host_accepts_bank_13 :
    let t := after (.accept .bar0 13) (on fun d => { ((d.wr K.LINK_STATE 3).wr (K.STATE_2810 13) 2).wr (K.OWNER 13) 0x21 with
      memu := { d.memu with hands := [(13, (0x23, 0x21, 0))] } })
    t.dev.rd (K.STATE_2810 13) = 0 ∧ t.dev.rd (K.HAND 13) = 0 ∧ t.dev.rd (K.HAND_RESULT 13) = 1 := by decide +kernel

/-- R460: a pulse of 99 ns is discarded, one of 100 ns counts. -/
theorem test_sync_pulse_width :
    (after (.syncIn 5 99) up).dev.rd K.SYNC_CNT = 0 ∧ (after (.syncIn 5 100) up).dev.rd K.SYNC_CNT = 1 := by decide +kernel

/-- R93: RUN is ignored while the start lock is clear. -/
theorem test_run_needs_the_lock :
    (after (.run .bar0) (st .ready false)).pow.devState = .ready ∧ (after (.run .bar0) (st .ready true)).pow.devState = .operating := by
  decide +kernel

end Sys2Proof.Tests
end

namespace Sys2Proof.Machine

/-! ## Bit fields -/

/-- A field replaced, as the bits above it, the new field and the bits below it. -/
theorem withField_eq (v hi lo x : Nat) :
    withField v hi lo x =
      2 ^ (lo + (hi + 1 - lo)) * (v / 2 ^ (lo + (hi + 1 - lo))) + (2 ^ lo * (x % 2 ^ (hi + 1 - lo)) + v % 2 ^ lo) := by
  unfold withField field
  generalize hi + 1 - lo = w
  have h1 := Nat.div_add_mod v (2 ^ lo)
  have h2 := Nat.div_add_mod (v / 2 ^ lo) (2 ^ w)
  rw [Nat.pow_add, ← Nat.div_div_eq_div_mul]
  generalize v / 2 ^ lo / 2 ^ w = a at *
  generalize v / 2 ^ lo % 2 ^ w = b at *
  have h3 : v = 2 ^ lo * 2 ^ w * a + b * 2 ^ lo + v % 2 ^ lo := by
    rw [← h2] at h1
    rw [← h1, Nat.mul_add_mod, Nat.mod_mod]
    ring
  have h4 : v - b * 2 ^ lo = 2 ^ lo * 2 ^ w * a + v % 2 ^ lo := by omega
  rw [h4, Nat.mul_comm (2 ^ lo) (x % 2 ^ w)]
  omega

/-- The bits of a number with a field replaced. -/
theorem testBit_withField (v hi lo x i : Nat) :
    (withField v hi lo x).testBit i = if lo ≤ i ∧ i ≤ hi then x.testBit (i - lo) else v.testBit i := by
  have hlow : v % 2 ^ lo < 2 ^ lo := Nat.mod_lt _ (Nat.two_pow_pos _)
  have hx : x % 2 ^ (hi + 1 - lo) < 2 ^ (hi + 1 - lo) := Nat.mod_lt _ (Nat.two_pow_pos _)
  have hmid : 2 ^ lo * (x % 2 ^ (hi + 1 - lo)) + v % 2 ^ lo < 2 ^ (lo + (hi + 1 - lo)) := by
    have := Nat.mul_le_mul_left (2 ^ lo) (Nat.succ_le_of_lt hx)
    rw [Nat.pow_add]
    rw [Nat.mul_succ] at this
    omega
  rw [withField_eq, Nat.testBit_two_pow_mul_add _ hmid, Nat.testBit_two_pow_mul_add _ hlow, Nat.testBit_mod_two_pow,
    Nat.testBit_mod_two_pow, Nat.testBit_div_two_pow]
  by_cases h1 : i < lo
  · simp [h1, show i < lo + (hi + 1 - lo) by omega, show ¬ lo ≤ i by omega]
  · by_cases h2 : i ≤ hi
    · simp [h1, h2, show i < lo + (hi + 1 - lo) by omega, show lo ≤ i by omega, show i - lo < hi + 1 - lo by omega]
    · simp only [h2, and_false, if_false, show ¬ i < lo + (hi + 1 - lo) by omega]
      congr 1
      omega

theorem testBit_field (v hi lo i : Nat) : (field v hi lo).testBit i = (decide (i < hi + 1 - lo) && v.testBit (i + lo)) := by
  rw [field, Nat.testBit_mod_two_pow, Nat.testBit_div_two_pow]

/-- The field that was set is read back. -/
theorem field_withField (v hi lo x : Nat) (h : lo ≤ hi + 1) : field (withField v hi lo x) hi lo = x % 2 ^ (hi + 1 - lo) := by
  refine Nat.eq_of_testBit_eq fun i => ?_
  rw [testBit_field, testBit_withField, Nat.testBit_mod_two_pow]
  by_cases hi' : i < hi + 1 - lo
  · simp [hi', show i + lo ≤ hi by omega]
  · simp [hi']

/-- A field replaced inside a 64-bit slot keeps the slot's width. -/
theorem withField_lt {v hi lo x n : Nat} (hv : v < 2 ^ n) (h : hi < n) : withField v hi lo x < 2 ^ n := by
  refine Nat.lt_pow_two_of_testBit _ fun i hi' => ?_
  rw [testBit_withField, if_neg (by omega)]
  exact Nat.testBit_lt_two_pow (lt_of_lt_of_le hv (Nat.pow_le_pow_right (by omega) hi'))

/-! ## Fields and bits of a slot -/

theorem Dev.rd_setField_self (d : Dev) (k : Nat) {hi : Nat} (lo x : Nat) (h : hi < 64) :
    (d.setField k hi lo x).rd k = withField (d.rd k) hi lo x := by
  rw [Dev.setField_eq, Dev.rd_wr_self, Nat.mod_eq_of_lt (withField_lt (d.rd_lt k) h)]

theorem Dev.rd_setField_ne (d : Dev) {k x : Nat} (hi lo v : Nat) (h : k ≠ x) : (d.setField k hi lo v).rd x = d.rd x :=
  Dev.rd_wr_ne _ _ h

theorem Dev.rd_setBit_ne (d : Dev) {k x : Nat} (i : Nat) (b : Bool) (h : k ≠ x) : (d.setBit k i b).rd x = d.rd x :=
  Dev.rd_wr_ne _ _ h

theorem Dev.bit_setField (d : Dev) (k : Nat) {hi : Nat} (lo x i : Nat) (h : hi < 64) :
    (d.setField k hi lo x).bit k i = if lo ≤ i ∧ i ≤ hi then x.testBit (i - lo) else d.bit k i := by
  rw [Dev.bit, Dev.rd_setField_self d k lo x h, testBit_withField, Dev.bit]

theorem Dev.bit_setBit (d : Dev) (k : Nat) {i : Nat} (b : Bool) (j : Nat) (h : i < 64) :
    (d.setBit k i b).bit k j = if i = j then b else d.bit k j := by
  have he : d.setBit k i b = d.setField k i i b.toNat := rfl
  rw [he, Dev.bit_setField d k _ _ _ h]
  by_cases hij : i = j
  · subst hij
    cases b <;> simp
  · rw [if_neg (by omega), if_neg hij]

theorem Dev.bit_setBit_self (d : Dev) (k : Nat) {i : Nat} (b : Bool) (h : i < 64) : (d.setBit k i b).bit k i = b := by
  rw [Dev.bit_setBit d k b i h, if_pos rfl]

theorem Dev.bit_congr {d e : Dev} {k : Nat} (h : e.rd k = d.rd k) (i : Nat) : e.bit k i = d.bit k i := by
  rw [Dev.bit, Dev.bit, h]

/-! ## Signed slots -/

theorem sext_enc16 {x : Int} (h1 : -(2 : Int) ^ 15 ≤ x) (h2 : x < (2 : Int) ^ 15) : sext 16 (enc 16 x) = x := by
  rw [sext, enc, BitVec.ofNat_toNat, BitVec.setWidth_eq, BitVec.toInt_ofInt, Int.bmod_eq_of_le (by omega) (by omega)]

theorem sext16_bounds (v : Nat) : -(2 : Int) ^ 15 ≤ sext 16 v ∧ sext 16 v < (2 : Int) ^ 15 :=
  ⟨BitVec.le_toInt _, BitVec.toInt_lt⟩

/-- A signed 16-bit value stored is read back. -/
theorem Dev.rdI_wrI16 (d : Dev) (k : Nat) {x : Int} (h1 : -(2 : Int) ^ 15 ≤ x) (h2 : x < (2 : Int) ^ 15) :
    (d.wrI 16 k x).rdI 16 k = x := by
  have hlt : enc 16 x < 2 ^ 64 := lt_of_lt_of_le (BitVec.isLt _) (by decide)
  rw [Dev.rdI, Dev.wrI_eq, Dev.rd_wr_self, Nat.mod_eq_of_lt hlt, sext_enc16 h1 h2]

theorem Dev.rdI_wrI_ne (d : Dev) {k x : Nat} (w w' : Nat) (v : Int) (h : k ≠ x) : (d.wrI w k v).rdI w' x = d.rdI w' x := by
  rw [Dev.rdI, Dev.wrI_eq, Dev.rd_wr_ne _ _ h, Dev.rdI]

/-! ## Slots that stay -/

/-- Between two devices the object store changes at most in the slots listed. -/
def Dev.SlotsSame (a b : Dev) (keys : List Nat) : Prop := ∀ k, k ∉ keys → b.rd k = a.rd k

theorem Dev.SlotsSame.refl (a : Dev) (keys : List Nat) : a.SlotsSame a keys := fun _ _ => rfl

/-- A listed slot written. -/
theorem Dev.SlotsSame.wr {a b : Dev} {keys : List Nat} (h : a.SlotsSame b keys) {k : Nat} (v : Nat) (hk : k ∈ keys) :
    a.SlotsSame (b.wr k v) keys := fun x hx => by
  have hne : k ≠ x := by rintro rfl; exact hx hk
  rw [Dev.rd_wr_ne _ _ hne, h x hx]

/-- Units changed beside the store. -/
theorem Dev.SlotsSame.of_rd {a b c : Dev} {keys : List Nat} (h : a.SlotsSame b keys) (hc : ∀ k, c.rd k = b.rd k) :
    a.SlotsSame c keys := fun x hx => (hc x).trans (h x hx)

theorem Dev.SlotsSame.trans {a b c : Dev} {keys : List Nat} (h : a.SlotsSame b keys) (h' : b.SlotsSame c keys) :
    a.SlotsSame c keys := fun x hx => (h' x hx).trans (h x hx)

theorem Dev.SlotsSame.mono {a b : Dev} {keys more : List Nat} (h : a.SlotsSame b keys) (hs : keys ⊆ more) : a.SlotsSame b more :=
  fun x hx => h x fun hk => hx (hs hk)

end Sys2Proof.Machine

namespace Sys2Proof

open Sys2Proof.Machine

theorem slotsKept_of_same {s t : State} {keys : List Nat} (h : s.dev.SlotsSame t.dev keys) : SlotsKept s t keys :=
  fun k hk _ => h k hk

end Sys2Proof

namespace Sys2Proof.Machine

/-! ## A valid flit at one end of a seam (R253) -/

/-- A flit on a lane of a seam that is there, with no injection at its checker. -/
structure Dev.Hears (d : Dev) (q lane : Nat) : Prop where
  quarter : d.hasQuarter q = true
  lane : lane < 3
  noInjection : d.rd K.INJ_GO = 0

/-- What the reception of a valid flit leaves. -/
def Dev.received (d : Dev) (q : Nat) (toQ : Bool) (lane : Nat) (err : Bool) : Dev :=
  (if err then d.count (K.ERR_RX q) else d).rxGood q toQ lane

/-- A checker is fed nothing while no injection runs. -/
theorem Dev.injCheck_off {d : Dev} (h : d.rd K.INJ_GO = 0) (target : Nat) (inst : Nat → Bool) : d.injCheck target inst = (false, d) := by
  simp [Dev.injCheck, Dev.injects, h]

/-- A flit with a matching CRC and an assigned type is valid. -/
theorem Dev.rxFlit_valid {d : Dev} {q lane type : Nat} (h : d.Hears q lane) (ht : flitReserved type = false) (toQ err : Bool) :
    d.rxFlit q toQ lane type true err = (true, d.received q toQ lane err) := by
  have hc : d.rxCheck q toQ lane type true err = (true, if err then d.count (K.ERR_RX q) else d) := by
    simp [Dev.rxCheck, Dev.injCheck_off h.noInjection, h.quarter, h.lane, ht]
  rw [Dev.rxFlit, hc]
  rfl

section
variable (d : Dev) (q : Nat) (toQ : Bool) (lane : Nat) (err : Bool)

@[simp] theorem Dev.received_legs : (d.received q toQ lane err).legs = d.legs := by cases err <;> rfl
@[simp] theorem Dev.received_coils : (d.received q toQ lane err).coils = d.coils := by cases err <;> rfl
@[simp] theorem Dev.received_out : (d.received q toQ lane err).out = d.out := by cases err <;> rfl
@[simp] theorem Dev.received_nt : (d.received q toQ lane err).nt = d.nt := by cases err <;> rfl
@[simp] theorem Dev.received_ticks : (d.received q toQ lane err).ticks = d.ticks := by cases err <;> rfl
@[simp] theorem Dev.received_leg (l : Nat) : (d.received q toQ lane err).leg l = d.leg l := by simp [Dev.leg]
@[simp] theorem Dev.received_coil (c : Nat) : (d.received q toQ lane err).coil c = d.coil c := by simp [Dev.coil]
@[simp] theorem Dev.received_ntToQ (g : Nat) : (d.received q toQ lane err).ntToQ g = d.ntToQ g := by simp [Dev.ntToQ, Dev.nowQ]

/-- A received flit changes ERR_RX alone in the store. -/
theorem Dev.received_same : d.SlotsSame (d.received q toQ lane err) [K.ERR_RX q] := by
  cases err
  · exact .refl d _
  · exact (Dev.SlotsSame.refl d _).wr _ (by simp)

theorem Dev.received_rd {k : Nat} (h : k ≠ K.ERR_RX q) : (d.received q toQ lane err).rd k = d.rd k :=
  d.received_same q toQ lane err k (by simpa using h)

@[simp] theorem Dev.received_settings (p : Nat) : ((d.received q toQ lane err).quarter p).settings = (d.quarter p).settings := by
  by_cases h : q = p
  · subst h
    cases err <;> cases toQ <;> simp [Dev.received, Dev.rxGood, QuarterRt.setLane] <;> rfl
  · cases err
    · simp [Dev.received, Dev.rxGood, Dev.quarter_setQuarter_ne _ _ h]
    · simp [Dev.received, Dev.rxGood, Dev.quarter_setQuarter_ne _ _ h]
      rfl

end

end Sys2Proof.Machine

namespace Sys2Proof.Machine

/-! ## Commands that a seam brings to a quarter (Table 8-9) -/

section
variable {s : State} {q lane : Nat} (h : s.dev.Hears q lane) (err : Bool)
include h

theorem exec_setting (addr value : Nat) : exec (.setting q lane addr value true err) s =
    .next (s.onDev fun d => ((d.received q true lane err).takeSetting q (settingKey q addr) value).emit (.settingAck q addr)) := by
  show execSetting q lane addr value true err s = _
  simp only [execSetting, onDev, State.onDev, Dev.rxFlit_valid h (type := 3) rfl]

theorem exec_settingAcknowledge (addr : Nat) : exec (.settingAcknowledge q lane addr true err) s =
    .next (s.onDev fun d => (d.received q false lane err).setQuarter q
      { (d.received q false lane err).quarter q with
        acked := addr :: ((d.received q false lane err).quarter q).acked.filter (· ≠ addr) }) := by
  show execSettingAcknowledge q lane addr true err s = _
  simp only [execSettingAcknowledge, onDev, State.onDev, Dev.rxFlit_valid h (type := 0xC) rfl]

theorem exec_modeChange (change : ModeChange) : exec (.modeChange q lane change true err) s =
    .next (s.onDev fun d => (d.received q true lane err).takeMode q change) := by
  show execModeChange q lane change true err s = _
  simp only [execModeChange, onDev, State.onDev, Dev.rxFlit_valid h (type := 4) rfl]

end

/-! ## Settings in effect (R86, R233, R235) -/

theorem Dev.tailorReset_same (d : Dev) (l : Nat) : d.SlotsSame (d.tailorReset l) [K.CODES l, K.TAIL_FLAGS l] :=
  ((Dev.SlotsSame.refl d _).wr _ (by simp)).wr _ (by simp)

theorem Dev.fixedCodes_same (d : Dev) (l : Nat) : d.SlotsSame (d.fixedCodes l) [K.CODES l, K.TAIL_FLAGS l] := by
  unfold Dev.fixedCodes
  split_ifs
  · exact (Dev.SlotsSame.refl d _).wr _ (by simp)
  · exact .refl d _

theorem Dev.fixedCodes_frame (d : Dev) (l : Nat) : ∃ o, d.fixedCodes l = { d with objs := o } := by
  unfold Dev.fixedCodes
  split_ifs <;> exact ⟨_, rfl⟩

/-- A setting takes effect: the settings of its quarter and, for a leg setting, the leg and its codes change. -/
theorem Dev.applySetting_frame (d : Dev) (q key value : Nat) : ∃ o ls, d.applySetting q key value =
    { d.setQuarter q { d.quarter q with settings := Tab.put (d.quarter q).settings key value } with objs := o, legs := ls } := by
  unfold Dev.applySetting
  dsimp only
  split_ifs
  · exact ⟨_, _, rfl⟩
  · exact ⟨_, _, rfl⟩
  · obtain ⟨o, ho⟩ := Dev.fixedCodes_frame
      (d.setQuarter q { d.quarter q with settings := Tab.put (d.quarter q).settings key value }) ((key / 256 - 0x5400) / 16)
    exact ⟨o, _, ho⟩
  · exact ⟨_, _, rfl⟩

theorem Dev.applySetting_same (d : Dev) (q key value : Nat) :
    d.SlotsSame (d.applySetting q key value) [K.CODES ((key / 256 - 0x5400) / 16), K.TAIL_FLAGS ((key / 256 - 0x5400) / 16)] := by
  have hset (r : QuarterRt) (keys : List Nat) : d.SlotsSame (d.setQuarter q r) keys := fun _ _ => rfl
  unfold Dev.applySetting
  dsimp only
  split_ifs
  · exact hset _ _
  · exact (hset _ _).trans (Dev.tailorReset_same _ _)
  · exact (hset _ _).trans (Dev.fixedCodes_same _ _)
  · exact hset _ _

/-- The entry of a setting just taken, in effect. -/
theorem Dev.applySetting_find (d : Dev) (q key value : Nat) :
    Tab.find ((d.applySetting q key value).quarter q).settings key = some value := by
  obtain ⟨o, ls, hf⟩ := d.applySetting_frame q key value
  rw [hf]
  show Tab.find ((d.setQuarter q _).quarter q).settings key = _
  simp

theorem Dev.applySetting_out (d : Dev) (q key value : Nat) : (d.applySetting q key value).out = d.out := by
  obtain ⟨o, ls, hf⟩ := d.applySetting_frame q key value
  rw [hf]
  rfl

/-! ## Mode changes (R229) -/

theorem Dev.takeMode_legDisable (d : Dev) (q leg : Nat) : d.takeMode q (.legEnable leg false) =
    ((d.setLeg (16 * q + leg) { d.leg (16 * q + leg) with enabled := false }).legOff (16 * q + leg)).dropLetters (16 * q + leg) := rfl

/-- A leg disabled is off, with nothing held. -/
theorem Dev.legDisabled (d : Dev) (l : Nat) :
    let e := ((d.setLeg l { d.leg l with enabled := false }).legOff l).dropLetters l
    (e.leg l).enabled = false ∧ (e.leg l).pos = .off ∧ (e.leg l).held = [] ∧ (e.leg l).goSet = [] := by
  refine ⟨?_, ?_, ?_, ?_⟩ <;> simp only [Dev.dropLetters, Dev.leg_setLeg_self]
  · unfold Dev.legOff
    dsimp only
    split_ifs <;> simp
  · exact (Dev.legOff_off _ l).1

theorem Dev.legDisabled_rd (d : Dev) (l k : Nat) :
    (((d.setLeg l { d.leg l with enabled := false }).legOff l).dropLetters l).rd k = d.rd k := by
  obtain ⟨t, ht⟩ := Dev.legOff_frame (d.setLeg l { d.leg l with enabled := false }) l
  rw [Dev.dropLetters, Dev.setLeg_rd, ht]
  rfl

end Sys2Proof.Machine

namespace Sys2Proof

open Sys2Proof.Machine

section
variable {s : State} {q lane : Nat} (h : s.dev.Hears q lane) (err : Bool)
include h

/-- A setting that no running coil holds back is in effect at once and acknowledged. -/
theorem setting_atOnce (addr value : Nat)
    (hw : ((List.range 8).any fun j => settingFor (settingKey q addr) (8 * q + j) && (s.dev.coil (8 * q + j)).running) = false) :
    Completes (.setting q lane addr value true err) s fun u =>
      Tab.find (u.dev.quarter q).settings (settingKey q addr) = some value ∧ u.dev.out = s.dev.out ++ [.settingAck q addr] ∧
      SlotsKept s u [K.ERR_RX q, K.CODES ((settingKey q addr / 256 - 0x5400) / 16),
        K.TAIL_FLAGS ((settingKey q addr / 256 - 0x5400) / 16)] := by
  have ht : (s.dev.received q true lane err).takeSetting q (settingKey q addr) value =
      (s.dev.received q true lane err).applySetting q (settingKey q addr) value := by
    simp only [Dev.takeSetting, Dev.received_coil, hw]
    rfl
  have hx := exec_setting h err addr value
  rw [State.onDev, ht] at hx
  refine completes_of_eq hx ⟨Dev.applySetting_find _ _ _ _, ?_, ?_⟩
  · simp only [Dev.emit, Dev.applySetting_out, Dev.received_out]
  · intro k hk _
    simp only [List.mem_cons, List.not_mem_nil, or_false, not_or] at hk
    obtain ⟨herr, hcodes, hflags⟩ := hk
    show ((s.dev.received q true lane err).applySetting q (settingKey q addr) value).rd k = _
    rw [Dev.applySetting_same _ _ _ _ k (by simp [hcodes, hflags]), Dev.received_rd _ _ _ _ _ herr]

/-- A setting that a running coil holds back waits for a period boundary; it is acknowledged all the same. -/
theorem setting_waits (addr value : Nat)
    (hw : ((List.range 8).any fun j => settingFor (settingKey q addr) (8 * q + j) && (s.dev.coil (8 * q + j)).running) = true) :
    Completes (.setting q lane addr value true err) s fun u =>
      Tab.find (u.dev.quarter q).settingsNew (settingKey q addr) = some value ∧
      (u.dev.quarter q).settings = (s.dev.quarter q).settings ∧ u.dev.out = s.dev.out ++ [.settingAck q addr] ∧
      SlotsKept s u [K.ERR_RX q] := by
  have ht : (s.dev.received q true lane err).takeSetting q (settingKey q addr) value =
      (s.dev.received q true lane err).setQuarter q { (s.dev.received q true lane err).quarter q with
        settingsNew := Tab.put ((s.dev.received q true lane err).quarter q).settingsNew (settingKey q addr) value } := by
    simp only [Dev.takeSetting, Dev.received_coil, hw, if_true]
  have hx := exec_setting h err addr value
  rw [State.onDev, ht] at hx
  refine completes_of_eq hx ⟨?_, ?_, ?_, slotsKept_of_same (Dev.received_same _ q true lane err)⟩
  · show Tab.find ((Dev.setQuarter _ q _).quarter q).settingsNew _ = _
    simp
  · show ((Dev.setQuarter _ q _).quarter q).settings = _
    simp
  · simp only [Dev.emit, Dev.setQuarter_out, Dev.received_out]

theorem settingAcknowledge_noted (addr : Nat) :
    Completes (.settingAcknowledge q lane addr true err) s fun u => addr ∈ (u.dev.quarter q).acked ∧ SlotsKept s u [K.ERR_RX q] :=
  completes_of_eq (exec_settingAcknowledge h err addr) ⟨by simp, slotsKept_of_same (Dev.received_same _ q false lane err)⟩

theorem modeChange_legEnabled (leg : Nat) :
    Completes (.modeChange q lane (.legEnable leg true) true err) s fun u =>
      u.dev.leg (16 * q + leg) = { s.dev.leg (16 * q + leg) with enabled := true } ∧ SlotsKept s u [K.ERR_RX q] :=
  completes_of_eq (exec_modeChange h err _)
    ⟨by simp [Dev.takeMode], slotsKept_of_same (Dev.received_same _ q true lane err)⟩

theorem modeChange_legDisabled (leg : Nat) :
    Completes (.modeChange q lane (.legEnable leg false) true err) s fun u => (u.dev.leg (16 * q + leg)).enabled = false ∧
      (u.dev.leg (16 * q + leg)).pos = .off ∧ (u.dev.leg (16 * q + leg)).held = [] ∧ (u.dev.leg (16 * q + leg)).goSet = [] ∧
      SlotsKept s u [K.ERR_RX q] := by
  obtain ⟨hen, hpos, hheld, hgo⟩ := Dev.legDisabled (s.dev.received q true lane err) (16 * q + leg)
  have hx := exec_modeChange h err (.legEnable leg false)
  rw [State.onDev, Dev.takeMode_legDisable] at hx
  exact completes_of_eq hx ⟨hen, hpos, hheld, hgo,
    slotsKept_of_same ((Dev.received_same s.dev q true lane err).of_rd (Dev.legDisabled_rd _ _))⟩

theorem modeChange_laneSelected (i : Nat) (on : Bool) (hi : i < 3) :
    Completes (.modeChange q lane (.laneSelect i on) true err) s fun u => u.dev.bit (K.LANES q) i = on ∧
      u.dev.legs = s.dev.legs ∧ SlotsKept s u [K.LANES q, K.ERR_RX q] :=
  completes_of_eq (exec_modeChange h err _) ⟨Dev.bit_setBit_self _ _ _ (by omega), Dev.received_legs _ q true lane err,
    slotsKept_of_same (((Dev.received_same s.dev q true lane err).mono (by simp)).wr _ (by simp))⟩

theorem modeChange_segmentMapped (leg output spare segment : Nat) (hs : spare < 4) (hg : segment < 32) :
    Completes (.modeChange q lane (.segmentMap leg output spare segment) true err) s fun u =>
      field (u.dev.rd (K.SEGMAP (16 * q + leg) output)) (8 * spare + 7) (8 * spare) = 0x80 + segment ∧
      SlotsKept s u [K.SEGMAP (16 * q + leg) output, K.ERR_RX q] := by
  refine completes_of_eq (exec_modeChange h err _) ⟨?_,
    slotsKept_of_same (((Dev.received_same s.dev q true lane err).mono (by simp)).wr _ (by simp))⟩
  show field ((Dev.setField _ _ _ _ _).rd _) _ _ = _
  rw [Dev.rd_setField_self _ _ _ _ (by omega), field_withField _ _ _ _ (by omega),
    show 8 * spare + 7 + 1 - 8 * spare = 8 by omega, Nat.mod_eq_of_lt (by omega)]

end

/-- Settles O17: each flit is valid at its end, and what the quarter does with it is one lemma per kind. -/
theorem settingsAndModeChangesLand : Obligations.SettingsAndModeChangesLand := by
  unfold Obligations.SettingsAndModeChangesLand
  intro s q lane err hq hl hi
  have h : s.dev.Hears q lane := ⟨hq, hl, hi⟩
  exact ⟨fun addr value => ⟨setting_atOnce h err addr value, setting_waits h err addr value⟩, settingAcknowledge_noted h err,
    modeChange_legEnabled h err, modeChange_legDisabled h err, modeChange_laneSelected h err, modeChange_segmentMapped h err⟩

end Sys2Proof

namespace Sys2Proof.Machine

/-! ## Flits that a quarter sends (Table 8-9) -/

/-- What leg measurements do with a switching time (R236). -/
def Dev.takeTsw (d : Dev) (l : Nat) (m : LegMeasure) : Dev :=
  if m.tsw = 0 then d else if m.up then d.setField (K.TSW_MEAS l) 15 0 m.tsw else d.setField (K.TSW_MEAS l) 31 16 m.tsw

/-- What leg measurements do with a delay (R236). -/
def Dev.takeDelay (d : Dev) (l : Nat) (m : LegMeasure) : Dev :=
  if m.delay = 0 then d else
    ((d.setLeg l { d.leg l with known := Tab.put (d.leg l).known m.kind m.delay }).setBit (K.TAIL_FLAGS l) (8 + m.kind) true).wr
      (K.DELAYS l) (meanDelay (Tab.put (d.leg l).known m.kind m.delay) 0 1 % 2 ^ 16 +
        meanDelay (Tab.put (d.leg l).known m.kind m.delay) 2 3 % 2 ^ 16 * 2 ^ 16)

/-- What leg measurements do with a bootstrap voltage. -/
def Dev.takeVbst (d : Dev) (l : Nat) (m : LegMeasure) : Dev :=
  match m.vbst with
  | some v => d.wr (K.VBST l) v
  | none => d

/-- What a sample of a channel does at the controller (R26, R35). -/
def Dev.takeSample (d : Dev) (q ch : Nat) (x : Int × Nat) : Dev :=
  match d.channelCoil q ch with
  | some c =>
    let d := { d with fray := { d.fray with ownAdc := Tab.put d.fray.ownAdc c x } }
    (if (d.coil c).running then d.setCoil c { d.coil c with samples := (d.coil c).samples ++ [x] } else d).pairSpare q
  | none => if ch = 8 then { d with fray := { d.fray with spareAdc := Tab.put d.fray.spareAdc q x } }.pairSpare q else d

section
variable {s : State} {q lane : Nat} (h : s.dev.Hears q lane) (err : Bool)
include h

theorem exec_adcSample (ch : Nat) (code : Int) (ts : Nat) : exec (.adcSample q lane ch code ts true err) s =
    .next (s.onDev fun d => (d.received q false lane err).takeSample q ch (code, s.dev.ntToQ ts)) := by
  show execAdcSample q lane ch code ts true err s = _
  simp only [execAdcSample, onDev, State.onDev, Dev.rxFlit_valid h (type := 8) rfl, Dev.received_ntToQ]
  rfl

theorem exec_legMeasurements (m : LegMeasure) : exec (.legMeasurements q lane m true err) s =
    .next (s.onDev fun d =>
      (((d.received q false lane err).takeTsw (16 * q + m.leg) m).takeDelay (16 * q + m.leg) m).takeVbst (16 * q + m.leg) m) := by
  show execLegMeasurements q lane m true err s = _
  simp only [execLegMeasurements, onDev, State.onDev, Dev.rxFlit_valid h (type := 9) rfl]
  rfl

theorem exec_protectionReport (kind : ReportKind) (nt : Nat) : exec (.protectionReport q lane kind nt true err) s =
    .next (s.onDev fun d => (d.received q false lane err).setQuarter q
      { (d.received q false lane err).quarter q with
        reports := (kind, nt) :: ((d.received q false lane err).quarter q).reports.take 63 }) := by
  show execProtectionReport q lane kind nt true err s = _
  simp only [execProtectionReport, onDev, State.onDev, Dev.rxFlit_valid h (type := 0xA) rfl]

theorem exec_refreshReport (leg nt : Nat) (hl : leg < 16) : exec (.refreshReport q lane leg nt true err) s =
    .next (s.onDev fun d => (d.received q false lane err).setCoil ((16 * q + leg) / 2)
      { s.dev.coil ((16 * q + leg) / 2) with
        refreshes := (s.dev.coil ((16 * q + leg) / 2)).refreshes ++ [(16 * q + leg, s.dev.ntToQ (4 * nt))] }) := by
  show execRefreshReport q lane leg nt true err s = _
  simp only [execRefreshReport, onDev, State.onDev, Dev.rxFlit_valid h (type := 0xB) rfl, Nat.mod_eq_of_lt hl,
    Dev.received_coil, Dev.received_ntToQ]

theorem exec_quarterStatus (temp : Int) (vgl : Nat) : exec (.quarterStatus q lane temp vgl true err) s =
    .next (s.onDev fun d => ((d.received q false lane err).wr (K.VGL q) vgl).dieTemp (1 + q) temp) := by
  show execQuarterStatus q lane temp vgl true err s = _
  simp only [execQuarterStatus, onDev, State.onDev, Dev.rxFlit_valid h (type := 0xD) rfl]

end

/-! ## Samples (R26, R409) -/

theorem Dev.received_channelCoil (d : Dev) (q : Nat) (toQ : Bool) (lane : Nat) (err : Bool) (ch : Nat) :
    (d.received q toQ lane err).channelCoil q ch = d.channelCoil q ch := by
  rw [Dev.channelCoil, Dev.received_rd _ _ _ _ _ (by simp only [K.ADC_MAP, K.ERR_RX]; omega), Dev.channelCoil]

theorem Dev.closeTurn_frame (d : Dev) (q now : Nat) : ∃ f, d.closeTurn q now = { d with fray := f } := by
  unfold Dev.closeTurn
  dsimp only
  split
  · split_ifs <;> exact ⟨_, rfl⟩
  · exact ⟨_, rfl⟩

/-- The pairing of spare and own samples changes the fray monitor alone. -/
theorem Dev.pairSpare_frame (d : Dev) (q : Nat) : ∃ f, d.pairSpare q = { d with fray := f } := by
  unfold Dev.pairSpare
  dsimp only
  split
  · exact ⟨_, rfl⟩
  · split
    · exact ⟨_, rfl⟩
    · split_ifs
      · exact ⟨_, rfl⟩
      · exact ⟨_, rfl⟩
      · obtain ⟨f, hf⟩ := Dev.closeTurn_frame { d with fray := { d.fray with spareAdc := Tab.del d.fray.spareAdc q } } q
          (spareTurn _)
        exact ⟨_, by rw [hf]⟩

/-- A sample of a running coil is kept for its next job. -/
theorem Dev.takeSample_coil (d : Dev) {q ch c : Nat} (x : Int × Nat) (hc : d.channelCoil q ch = some c)
    (hr : (d.coil c).running = true) :
    ∃ f, d.takeSample q ch x = { d.setCoil c { d.coil c with samples := (d.coil c).samples ++ [x] } with fray := f } := by
  rw [Dev.takeSample, hc]
  generalize hf : ({ d.fray with ownAdc := Tab.put d.fray.ownAdc c x } : FrayRt) = f
  have hr' : (({ d with fray := f } : Dev).coil c).running = true := hr
  obtain ⟨g, hg⟩ := Dev.pairSpare_frame
    (Dev.setCoil { d with fray := f } c { d.coil c with samples := (d.coil c).samples ++ [x] }) q
  refine ⟨g, ?_⟩
  dsimp only
  rw [hf, if_pos hr']
  exact hg

/-- A sample of a spare channel that serves no coil reaches the fray monitor alone. -/
theorem Dev.takeSample_spare (d : Dev) {q : Nat} (x : Int × Nat) (hc : d.channelCoil q 8 = none) :
    ∃ f, d.takeSample q 8 x = { d with fray := f } := by
  rw [Dev.takeSample, hc]
  obtain ⟨g, hg⟩ := Dev.pairSpare_frame { d with fray := { d.fray with spareAdc := Tab.put d.fray.spareAdc q x } } q
  exact ⟨g, hg⟩

/-! ## Leg measurements (R236) -/

theorem Dev.takeTsw_same (d : Dev) (l : Nat) (m : LegMeasure) : d.SlotsSame (d.takeTsw l m) [K.TSW_MEAS l] := by
  unfold Dev.takeTsw
  split_ifs
  · exact .refl d _
  all_goals exact (Dev.SlotsSame.refl d _).wr _ (by simp)

theorem Dev.takeDelay_same (d : Dev) (l : Nat) (m : LegMeasure) : d.SlotsSame (d.takeDelay l m) [K.TAIL_FLAGS l, K.DELAYS l] := by
  have hleg (r : LegRt) (keys : List Nat) : d.SlotsSame (d.setLeg l r) keys := fun _ _ => rfl
  unfold Dev.takeDelay
  split_ifs
  · exact .refl d _
  · exact ((hleg _ _).wr _ (by simp)).wr _ (by simp)

theorem Dev.takeVbst_same (d : Dev) (l : Nat) (m : LegMeasure) : d.SlotsSame (d.takeVbst l m) [K.VBST l] := by
  unfold Dev.takeVbst
  split
  · exact (Dev.SlotsSame.refl d _).wr _ (by simp)
  · exact .refl d _

theorem Dev.takeVbst_legs (d : Dev) (l : Nat) (m : LegMeasure) : (d.takeVbst l m).legs = d.legs := by
  unfold Dev.takeVbst
  split <;> rfl

/-- The switching time measured stands in its half of TSW_MEAS. -/
theorem Dev.takeTsw_field (d : Dev) (l : Nat) (m : LegMeasure) (h0 : m.tsw ≠ 0) (hlt : m.tsw < 2 ^ 16) :
    field ((d.takeTsw l m).rd (K.TSW_MEAS l)) (if m.up then 15 else 31) (if m.up then 0 else 16) = m.tsw := by
  have hmod : m.tsw % 2 ^ 16 = m.tsw := Nat.mod_eq_of_lt hlt
  unfold Dev.takeTsw
  rw [if_neg h0]
  cases m.up
  · show field ((d.setField (K.TSW_MEAS l) 31 16 m.tsw).rd (K.TSW_MEAS l)) 31 16 = m.tsw
    rw [Dev.rd_setField_self _ _ _ _ (by omega), field_withField _ _ _ _ (by omega), hmod]
  · show field ((d.setField (K.TSW_MEAS l) 15 0 m.tsw).rd (K.TSW_MEAS l)) 15 0 = m.tsw
    rw [Dev.rd_setField_self _ _ _ _ (by omega), field_withField _ _ _ _ (by omega), hmod]

/-- A delay measured is known, and its flag stands. -/
theorem Dev.takeDelay_known (d : Dev) (l : Nat) (m : LegMeasure) (h0 : m.delay ≠ 0) (hk : m.kind < 4) :
    Tab.find ((d.takeDelay l m).leg l).known m.kind = some m.delay ∧ (d.takeDelay l m).bit (K.TAIL_FLAGS l) (8 + m.kind) = true := by
  have hne : K.DELAYS l ≠ K.TAIL_FLAGS l := by simp only [K.DELAYS, K.TAIL_FLAGS]; omega
  rw [Dev.takeDelay, if_neg h0]
  refine ⟨?_, ?_⟩
  · show Tab.find ((Dev.setLeg d l _).leg l).known m.kind = _
    simp
  · rw [Dev.bit, Dev.rd_wr_ne _ _ hne]
    exact Dev.bit_setBit_self _ _ _ (by omega)

/-! ## Temperatures (R463) -/

/-- The store with a temperature of quarter die q and the hottest one. -/
def Dev.showTemp (d : Dev) (q : Nat) (t : Int) : Dev :=
  (d.wrI 16 (K.TDIE q) t).wrI 16 K.T_HOT (max ((d.wrI 16 (K.TDIE q) t).rdI 16 K.T_HOT) t)

theorem Dev.dieTemp_quarter (d : Dev) (q : Nat) (t : Int) : d.dieTemp (1 + q) t =
    if t ≤ 2240 ∨ (d.showTemp q t).bit K.OT_FLAGS (1 + q) then d.showTemp q t
    else ((d.showTemp q t).setBit K.OT_FLAGS (1 + q) true).raiseOn 0x289 d.nt := by
  simp only [Dev.dieTemp, if_neg (show ¬ 1 + q = 0 by omega), Nat.add_sub_cancel_left]
  rfl

theorem Dev.raiseOn_same (d : Dev) (src nt : Nat) (i : Bool) : d.SlotsSame (d.raiseOn src nt i) [K.SRC_STATUS src] := by
  unfold Dev.raiseOn
  split_ifs
  · exact .refl d _
  · exact ((Dev.SlotsSame.refl d _).wr _ (by simp)).of_rd (Dev.raise_rd _ _ _ _)

theorem Dev.showTemp_same (d : Dev) (q : Nat) (t : Int) : d.SlotsSame (d.showTemp q t) [K.TDIE q, K.T_HOT] :=
  ((Dev.SlotsSame.refl d _).wr _ (by simp)).wr _ (by simp)

/-- A temperature of a quarter die stands in TDIE, the hottest one in T_HOT. -/
theorem Dev.showTemp_rdI (d : Dev) (q : Nat) {t : Int} (h1 : -(2 : Int) ^ 15 ≤ t) (h2 : t < (2 : Int) ^ 15) :
    (d.showTemp q t).rdI 16 (K.TDIE q) = t ∧ (d.showTemp q t).rdI 16 K.T_HOT = max (d.rdI 16 K.T_HOT) t := by
  have hne : K.T_HOT ≠ K.TDIE q := by simp only [K.T_HOT, K.TDIE]; omega
  have hb := sext16_bounds (d.rd K.T_HOT)
  unfold Dev.showTemp
  rw [Dev.rdI_wrI_ne _ _ _ _ hne, Dev.rdI_wrI16 _ _ h1 h2, Dev.rdI_wrI_ne d _ _ _ hne.symm]
  refine ⟨rfl, Dev.rdI_wrI16 _ _ (le_max_of_le_right h1) (max_lt ?_ h2)⟩
  exact hb.2

/-- Beside the temperatures, a die above 140 degrees sets its flag and raises source 0x289. -/
theorem Dev.dieTemp_same (d : Dev) (q : Nat) (t : Int) :
    (d.showTemp q t).SlotsSame (d.dieTemp (1 + q) t) [K.OT_FLAGS, K.SRC_STATUS 0x289] := by
  rw [Dev.dieTemp_quarter]
  split_ifs
  · exact .refl _ _
  · exact ((Dev.SlotsSame.refl _ _).wr _ (by simp)).trans ((Dev.raiseOn_same _ _ _ _).mono (by simp))

theorem Dev.dieTemp_flag (d : Dev) {q : Nat} {t : Int} (hq : q < 4) (ht : 2240 < t) :
    (d.dieTemp (1 + q) t).bit K.OT_FLAGS (1 + q) = true := by
  rw [Dev.dieTemp_quarter]
  split_ifs with h
  · exact h.resolve_left (by omega)
  · rw [Dev.bit_congr (Dev.raiseOn_same _ _ _ _ K.OT_FLAGS (by simp)), Dev.bit_setBit_self _ _ _ (by omega)]

end Sys2Proof.Machine

namespace Sys2Proof

open Sys2Proof.Machine

section
variable {s : State} {q lane : Nat} (h : s.dev.Hears q lane) (err : Bool)
include h

theorem adcSample_reachesCoil (ch c : Nat) (code : Int) (ts : Nat) (hc : s.dev.channelCoil q ch = some c)
    (hr : (s.dev.coil c).running = true) :
    Completes (.adcSample q lane ch code ts true err) s fun u =>
      (u.dev.coil c).samples = (s.dev.coil c).samples ++ [(code, s.dev.ntToQ ts)] ∧
      (∀ e, e ≠ c → u.dev.coil e = s.dev.coil e) ∧ SlotsKept s u [K.ERR_RX q] := by
  obtain ⟨f, hf⟩ := Dev.takeSample_coil (s.dev.received q false lane err) (code, s.dev.ntToQ ts)
    ((Dev.received_channelCoil s.dev q false lane err ch).trans hc) (by rw [Dev.received_coil]; exact hr)
  have hx := exec_adcSample h err ch code ts
  rw [State.onDev, hf] at hx
  refine completes_of_eq hx ⟨?_, fun e he => ?_, slotsKept_of_same (Dev.received_same s.dev q false lane err)⟩
  · show ((Dev.setCoil _ c _).coil c).samples = _
    rw [Dev.coil_setCoil_self, Dev.received_coil]
  · show (Dev.setCoil _ c _).coil e = _
    rw [Dev.coil_setCoil_ne _ _ he.symm, Dev.received_coil]

theorem adcSample_ofSpareChannel (code : Int) (ts : Nat) (hc : s.dev.channelCoil q 8 = none) :
    Completes (.adcSample q lane 8 code ts true err) s fun u => u.dev.coils = s.dev.coils ∧ SlotsKept s u [K.ERR_RX q] := by
  obtain ⟨f, hf⟩ := Dev.takeSample_spare (s.dev.received q false lane err) (code, s.dev.ntToQ ts)
    ((Dev.received_channelCoil s.dev q false lane err 8).trans hc)
  have hx := exec_adcSample h err 8 code ts
  rw [State.onDev, hf] at hx
  exact completes_of_eq hx ⟨Dev.received_coils s.dev q false lane err, slotsKept_of_same (Dev.received_same s.dev q false lane err)⟩

theorem legMeasurements_reachLeg (m : LegMeasure) (hk : m.kind < 4) :
    Completes (.legMeasurements q lane m true err) s fun u =>
      (m.delay ≠ 0 → Tab.find (u.dev.leg (16 * q + m.leg)).known m.kind = some m.delay ∧
        u.dev.bit (K.TAIL_FLAGS (16 * q + m.leg)) (8 + m.kind) = true) ∧
      (∀ v, m.vbst = some v → v < 2 ^ 16 → u.dev.rd (K.VBST (16 * q + m.leg)) = v) ∧
      (m.tsw ≠ 0 → m.tsw < 2 ^ 16 →
        field (u.dev.rd (K.TSW_MEAS (16 * q + m.leg))) (if m.up then 15 else 31) (if m.up then 0 else 16) = m.tsw) ∧
      SlotsKept s u [K.ERR_RX q, K.TSW_MEAS (16 * q + m.leg), K.TAIL_FLAGS (16 * q + m.leg), K.DELAYS (16 * q + m.leg),
        K.VBST (16 * q + m.leg)] := by
  have hx := exec_legMeasurements h err m
  rw [State.onDev] at hx
  generalize 16 * q + m.leg = l at hx ⊢
  generalize hd0 : s.dev.received q false lane err = d0 at hx
  generalize hd1 : d0.takeTsw l m = d1 at hx
  generalize hd2 : d1.takeDelay l m = d2 at hx
  have hflags : K.TAIL_FLAGS l ∉ [K.VBST l] := by simp [K.TAIL_FLAGS, K.VBST]
  have htsw : K.TSW_MEAS l ∉ [K.VBST l] := by simp [K.TSW_MEAS, K.VBST]
  have htsw' : K.TSW_MEAS l ∉ [K.TAIL_FLAGS l, K.DELAYS l] := by simp [K.TSW_MEAS, K.TAIL_FLAGS, K.DELAYS]
  refine completes_of_eq hx ⟨fun h0 => ?_, fun v hv hlt => ?_, fun h0 hlt => ?_, slotsKept_of_same ?_⟩
  · obtain ⟨hknown, hbit⟩ := Dev.takeDelay_known d1 l m h0 hk
    rw [hd2] at hknown hbit
    refine ⟨?_, ?_⟩
    · show Tab.find (Tab.get _ (d2.takeVbst l m).legs l).known m.kind = _
      rw [Dev.takeVbst_legs]
      exact hknown
    · rw [← hbit]
      exact Dev.bit_congr (Dev.takeVbst_same d2 l m _ hflags) _
  · show (d2.takeVbst l m).rd _ = v
    rw [Dev.takeVbst, hv]
    exact (Dev.rd_wr_self _ _ _).trans (Nat.mod_eq_of_lt (by omega))
  · show field ((d2.takeVbst l m).rd _) _ _ = _
    rw [Dev.takeVbst_same d2 l m _ htsw, ← hd2, Dev.takeDelay_same d1 l m _ htsw', ← hd1, Dev.takeTsw_field d0 l m h0 hlt]
  · have r0 : s.dev.SlotsSame d0 [K.ERR_RX q] := hd0 ▸ Dev.received_same s.dev q false lane err
    have r1 : d0.SlotsSame d1 [K.TSW_MEAS l] := hd1 ▸ Dev.takeTsw_same d0 l m
    have r2 : d1.SlotsSame d2 [K.TAIL_FLAGS l, K.DELAYS l] := hd2 ▸ Dev.takeDelay_same d1 l m
    have r3 := Dev.takeVbst_same d2 l m
    exact (((r0.mono (by simp)).trans (r1.mono (by simp))).trans (r2.mono (by simp))).trans (r3.mono (by simp))

theorem protectionReport_kept (kind : ReportKind) (nt : Nat) :
    Completes (.protectionReport q lane kind nt true err) s fun u => (u.dev.quarter q).reports.head? = some (kind, nt) ∧
      SlotsKept s u [K.ERR_RX q] :=
  completes_of_eq (exec_protectionReport h err kind nt) ⟨by simp, slotsKept_of_same (Dev.received_same _ q false lane err)⟩

theorem refreshReport_reachesCoil (leg nt : Nat) (hl : leg < 16) :
    Completes (.refreshReport q lane leg nt true err) s fun u =>
      (u.dev.coil ((16 * q + leg) / 2)).refreshes =
        (s.dev.coil ((16 * q + leg) / 2)).refreshes ++ [(16 * q + leg, s.dev.ntToQ (4 * nt))] ∧ SlotsKept s u [K.ERR_RX q] :=
  completes_of_eq (exec_refreshReport h err leg nt hl) ⟨by simp, slotsKept_of_same (Dev.received_same _ q false lane err)⟩

theorem quarterStatus_shown (temp : Int) (vgl : Nat) (h1 : -(2 : Int) ^ 15 ≤ temp) (h2 : temp < (2 : Int) ^ 15) (hv : vgl < 2 ^ 16) :
    Completes (.quarterStatus q lane temp vgl true err) s fun u => u.dev.rdI 16 (K.TDIE q) = temp ∧ u.dev.rd (K.VGL q) = vgl ∧
      u.dev.rdI 16 K.T_HOT = max (s.dev.rdI 16 K.T_HOT) temp ∧
      (temp ≤ 2240 → SlotsKept s u [K.ERR_RX q, K.TDIE q, K.VGL q, K.T_HOT]) ∧
      (2240 < temp → u.dev.bit K.OT_FLAGS (1 + q) = true ∧
        SlotsKept s u [K.ERR_RX q, K.TDIE q, K.VGL q, K.T_HOT, K.OT_FLAGS, K.SRC_STATUS 0x289]) := by
  have hq : q < 4 := by
    have := h.quarter
    simp only [Dev.hasQuarter, decide_eq_true_eq] at this
    exact lt_of_lt_of_le this (by cases s.dev.part <;> decide)
  have hx := exec_quarterStatus h err temp vgl
  rw [State.onDev] at hx
  generalize hd0 : (s.dev.received q false lane err).wr (K.VGL q) vgl = d0 at hx
  have r0 : s.dev.SlotsSame d0 [K.ERR_RX q, K.VGL q] :=
    hd0 ▸ ((Dev.received_same s.dev q false lane err).mono (by simp)).wr _ (by simp)
  have r1 := Dev.showTemp_same d0 q temp
  have r2 := Dev.dieTemp_same d0 q temp
  have hvgl : d0.rd (K.VGL q) = vgl := hd0 ▸ (Dev.rd_wr_self _ _ _).trans (Nat.mod_eq_of_lt (lt_trans hv (by decide)))
  have hhot : d0.rdI 16 K.T_HOT = s.dev.rdI 16 K.T_HOT :=
    congrArg (sext 16) (r0 _ (by simp only [K.T_HOT, K.ERR_RX, K.VGL, List.mem_cons, List.not_mem_nil, or_false]; omega))
  obtain ⟨ht1, ht2⟩ := Dev.showTemp_rdI d0 q h1 h2
  have hkept : ∀ k ∈ [K.TDIE q, K.T_HOT, K.VGL q], (d0.dieTemp (1 + q) temp).rd k = (d0.showTemp q temp).rd k := fun k hk =>
    r2 k (by
      simp only [K.TDIE, K.T_HOT, K.VGL, K.OT_FLAGS, K.SRC_STATUS, List.mem_cons, List.not_mem_nil, or_false] at hk ⊢
      omega)
  refine completes_of_eq hx ⟨?_, ?_, ?_, fun hcool => ?_, fun hot => ⟨Dev.dieTemp_flag d0 hq hot, ?_⟩⟩
  · exact (congrArg (sext 16) (hkept (K.TDIE q) (by simp))).trans ht1
  · refine (hkept (K.VGL q) (by simp)).trans ((r1 _ ?_).trans hvgl)
    simp only [K.VGL, K.TDIE, K.T_HOT, List.mem_cons, List.not_mem_nil, or_false]
    omega
  · exact (congrArg (sext 16) (hkept K.T_HOT (by simp))).trans (ht2.trans (by rw [hhot]))
  · have hq' : d0.dieTemp (1 + q) temp = d0.showTemp q temp := by rw [Dev.dieTemp_quarter, if_pos (Or.inl hcool)]
    rw [hq']
    exact slotsKept_of_same ((r0.mono (by simp)).trans (r1.mono (by simp)))
  · exact slotsKept_of_same (((r0.mono (by simp)).trans (r1.mono (by simp))).trans (r2.mono (by simp)))

end

/-- Settles O18: each flit is valid at the controller, and what the controller does with it is one lemma per kind. -/
theorem quarterFlitsReachTheController : Obligations.QuarterFlitsReachTheController := by
  unfold Obligations.QuarterFlitsReachTheController
  intro s q lane err hq hl hi
  have h : s.dev.Hears q lane := ⟨hq, hl, hi⟩
  exact ⟨adcSample_reachesCoil h err, adcSample_ofSpareChannel h err, fun m hk _ => legMeasurements_reachLeg h err m hk,
    protectionReport_kept h err, refreshReport_reachesCoil h err, quarterStatus_shown h err⟩

end Sys2Proof

namespace Sys2Proof.Machine

/-! ## Posting slots -/

/-- The slots that posting writes stand in the objects 0x1430, 0x1431 and 0x1440. -/
theorem postingSlot_outside {k : Nat} (h : k < 0x1430 * 256 ∨ 0x1441 * 256 ≤ k) : postingSlot k = false := by
  simp only [postingSlot, Bool.or_eq_false_iff, decide_eq_false_iff_not, List.any_eq_false, List.mem_range, Bool.not_eq_true]
  refine ⟨⟨by lia, by lia⟩, fun src hsrc => ⟨by lia, by lia⟩⟩

theorem Dev.sliceOf_lt (d : Dev) (n : Nat) : d.sliceOf n < 64 := lt_of_lt_of_le (Nat.mod_lt _ (by decide)) (by decide)

/-- A slot outside the posting objects reads as before an event of an axis was posted. -/
theorem Dev.axisEvent_rd (d : Dev) (n type obj nt : Nat) (b : Bytes) {k : Nat} (h : k < 0x1430 * 256 ∨ 0x1441 * 256 ≤ k) :
    (d.axisEvent n type obj nt b).rd k = d.rd k := Dev.event_rd _ _ _ _ _ _ _ (d.sliceOf_lt n) (postingSlot_outside h)

theorem Dev.axisEvent_frame (d : Dev) (n type obj nt : Nat) (b : Bytes) :
    ∃ o m f, d.axisEvent n type obj nt b = { d with objs := o, mail := m, flt := f } := Dev.event_frame _ _ _ _ _ _

/-! ## What the preparation of a job leaves (R34) -/

/-- The slots on which the job of an axis's coil is due, served and recorded. -/
abbrev jobSlots (n : Nat) : List Nat := [K.GUARD, K.SLICE_MAP n, K.STATE_4000 n, K.CAP_EN n]

/-- What the job of coil c of axis n rests on, from its start to its completion: the coil's next period, the go generation, the
slice, whether the axis regulates; legs change only in Identifying, where a test may fail (R200). -/
structure Dev.JobKeeps (c n : Nat) (a b : Dev) : Prop where
  next : (b.coil c).next = (a.coil c).next
  nextAt : (b.coil c).nextAt = (a.coil c).nextAt
  goGen : (b.axis n).goGen = (a.axis n).goGen
  oldSlice : (b.axis n).oldSlice = (a.axis n).oldSlice
  stops : (b.mot n).stops = (a.mot n).stops
  slots : ∀ k ∈ jobSlots n, b.rd k = a.rd k
  legs : a.axState n ≠ axIdentifying → b.legs = a.legs

namespace Dev.JobKeeps

variable {c n : Nat} {a b : Dev}

theorem refl (a : Dev) : JobKeeps c n a a := ⟨rfl, rfl, rfl, rfl, rfl, fun _ _ => rfl, fun _ => rfl⟩

theorem axState (h : JobKeeps c n a b) : b.axState n = a.axState n := h.slots _ (by simp)

theorem sliceOf (h : JobKeeps c n a b) : b.sliceOf n = a.sliceOf n := congrArg (· % 32) (h.slots _ (by simp))

theorem trans {e : Dev} (h : JobKeeps c n a b) (h' : JobKeeps c n b e) : JobKeeps c n a e :=
  ⟨h'.next.trans h.next, h'.nextAt.trans h.nextAt, h'.goGen.trans h.goGen, h'.oldSlice.trans h.oldSlice, h'.stops.trans h.stops,
    fun k hk => (h'.slots k hk).trans (h.slots k hk), fun hs => (h'.legs (by rwa [h.axState])).trans (h.legs hs)⟩

theorem regulates (h : JobKeeps c n a b) : b.regulates n = a.regulates n := by
  simp only [Dev.regulates, Dev.axLive, h.axState, h.stops]

/-- A slot written on which the job does not rest. -/
theorem wr (h : JobKeeps c n a b) (k v : Nat) (hk : k ∉ jobSlots n := by grind) : JobKeeps c n a (b.wr k v) :=
  ⟨h.next, h.nextAt, h.goGen, h.oldSlice, h.stops,
    fun x hx => (Dev.rd_wr_ne _ _ (by rintro rfl; exact hk hx)).trans (h.slots x hx), h.legs⟩

theorem ite {p : Prop} [Decidable p] {x y : Dev} (hx : JobKeeps c n a x) (hy : JobKeeps c n a y) :
    JobKeeps c n a (if p then x else y) := by
  split_ifs
  · exact hx
  · exact hy

theorem setBit (h : JobKeeps c n a b) (k i : Nat) (v : Bool) (hk : k ∉ jobSlots n := by grind) : JobKeeps c n a (b.setBit k i v) :=
  h.wr k _ hk

theorem count (h : JobKeeps c n a b) (k i : Nat) (hk : k ∉ jobSlots n := by grind) : JobKeeps c n a (b.count k i) := h.wr k _ hk

theorem setCoil (h : JobKeeps c n a b) (r : CoilRt) (hn : r.next = (b.coil c).next := by rfl)
    (ht : r.nextAt = (b.coil c).nextAt := by rfl) : JobKeeps c n a (b.setCoil c r) :=
  ⟨by simpa using hn.trans h.next, by simpa using ht.trans h.nextAt, h.goGen, h.oldSlice, h.stops, h.slots, h.legs⟩

theorem setAxis (h : JobKeeps c n a b) (r : AxisRt) (hg : r.goGen = (b.axis n).goGen := by rfl)
    (ho : r.oldSlice = (b.axis n).oldSlice := by rfl) (hs : r.mot.stops = (b.axis n).mot.stops := by rfl) :
    JobKeeps c n a (b.setAxis n r) :=
  ⟨h.next, h.nextAt, by simpa using hg.trans h.goGen, by simpa using ho.trans h.oldSlice,
    by simpa [Dev.mot] using hs.trans h.stops, h.slots, h.legs⟩

theorem raise (h : JobKeeps c n a b) (src nt : Nat) (i : Bool) : JobKeeps c n a (b.raise src nt i) := by
  obtain ⟨f, hf⟩ := Dev.raise_frame b src nt i
  rw [hf]
  exact ⟨h.next, h.nextAt, h.goGen, h.oldSlice, h.stops, h.slots, h.legs⟩

theorem axisEvent (h : JobKeeps c n a b) (hn : n < 16) (m type obj nt : Nat) (p : Bytes) :
    JobKeeps c n a (b.axisEvent m type obj nt p) := by
  obtain ⟨o, ml, f, he⟩ := Dev.axisEvent_frame b m type obj nt p
  have hslots : ∀ k ∈ jobSlots n, (b.axisEvent m type obj nt p).rd k = b.rd k := fun k hk =>
    Dev.axisEvent_rd _ _ _ _ _ _ (by grind)
  rw [he] at hslots ⊢
  exact ⟨h.next, h.nextAt, h.goGen, h.oldSlice, h.stops, fun k hk => (hslots k hk).trans (h.slots k hk), h.legs⟩

theorem loadEvent (h : JobKeeps c n a b) (hn : n < 16) (i : Nat) (p : Bytes) : JobKeeps c n a (b.loadEvent n i p) := by
  unfold Dev.loadEvent
  dsimp only
  split_ifs
  · exact (h.setBit _ _ _).axisEvent hn _ _ _ _ _
  · exact h.setBit _ _ _

/-! ### Reconstruction and back-EMF (R188, R191, R192) -/

theorem reconstruct (hn : c / 2 < 16) (d : Dev) : JobKeeps c (c / 2) d (d.reconstruct c).2 := by
  unfold Dev.reconstruct
  dsimp only
  refine ite (raise (axisEvent ?seen hn _ _ _ _ _) _ _ _) ?seen
  refine ite ?judged (count ?judged _ _)
  exact ((refl d).setCoil _).setBit _ _ _

theorem showTrack (h : JobKeeps c n a b) (hc : c / 2 = n) (on : Bool) : JobKeeps c n a (b.showTrack c on) := by
  subst hc
  exact (h.setCoil _).setBit _ _ _

theorem trackR (h : JobKeeps c n a b) (hc : c / 2 = n) (e i : Rat) : JobKeeps c n a (b.trackR c e i) := by
  unfold Dev.trackR
  dsimp only
  refine ite ?_ (h.showTrack hc _)
  subst hc
  exact ((h.showTrack rfl _).setCoil _).wr _ _

theorem emfStep (h : JobKeeps c n a b) (hc : c / 2 = n) (x : Recon) : JobKeeps c n a (b.emfStep c x) := by
  unfold Dev.emfStep
  dsimp only
  exact ite (trackR (h.setCoil _) hc _ _) (showTrack (h.setCoil _) hc _)

theorem noteOut (h : JobKeeps c n a b) (hc : c / 2 = n) (x : Recon) (e : Rat) : JobKeeps c n a (b.noteOut c x e) := by
  subst hc
  unfold Dev.noteOut
  dsimp only
  refine ite h ?_
  split
  · exact h.setAxis _
  · exact h

/-! ### Load angle and stall (R211 to R217, R294) -/

theorem learnKe (h : JobKeeps c n a b) (t : Int) (m : Rat) : JobKeeps c n a (b.learnKe n t m) := by
  unfold Dev.learnKe
  dsimp only
  have hs (r : EngineRt) : JobKeeps c n a (b.setAxis n { b.axis n with eng := r }) := h.setAxis _
  exact ite h (ite (((hs _).wr _ _).setBit _ _ _) ((hs _).wr _ _))

theorem observe (h : JobKeeps c n a b) (hn : n < 16) (m : Bool) : JobKeeps c n a (b.observe n m) := by
  unfold Dev.observe
  dsimp only
  generalize hb : (if m = true then _ else b : Dev) = b'
  have h' : JobKeeps c n a b' := hb ▸ ite (h.wr _ _) h
  have hs (x : Dev) (hx : JobKeeps c n a x) (r : EngineRt) : JobKeeps c n a (x.setAxis n { x.axis n with eng := r }) := hx.setAxis _
  refine ite (ite ((hs _ (h'.wr _ _) _).loadEvent hn _ _) (hs _ (h'.wr _ _) _)) (ite ((hs _ h' _).wr _ _) ?_)
  refine ite ?learnt (loadEvent ?learnt hn _ _)
  exact learnKe (((((hs _ h' _).wr _ _).wr _ _).wr _ _).wr _ _) _ _

theorem endStopStep (h : JobKeeps c n a b) (t : Nat) : JobKeeps c n a (b.endStopStep n t) := by
  have hs (r : HomeRt) : JobKeeps c n a (b.setHome n r) := h.setAxis _
  unfold Dev.endStopStep
  dsimp only
  exact ite h (ite (hs _) (ite (hs _) (hs _)))

theorem declareStall (h : JobKeeps c n a b) (hn : n < 16) (t cause : Nat) : JobKeeps c n a (b.declareStall n t cause) := by
  unfold Dev.declareStall
  dsimp only
  refine loadEvent (setAxis ?_ _) hn _ _
  exact ((((h.wr _ _).wr _ _).wr _ _).count _ _).raise _ _ _

theorem stallStep (h : JobKeeps c n a b) (hn : n < 16) (t : Nat) (m : Rat) : JobKeeps c n a (b.stallStep n t m) := by
  unfold Dev.stallStep
  dsimp only
  exact ite (h.wr _ _) (ite (ite ((h.wr _ _).declareStall hn _ _) (h.wr _ _)) (h.wr _ _))

theorem loadStep (h : JobKeeps c n a b) (hn : n < 16) (t : Nat) (m : Bool) : JobKeeps c n a (b.loadStep n t m) :=
  ((h.observe hn m).endStopStep t).stallStep hn t _

end Dev.JobKeeps
end Sys2Proof.Machine

namespace Sys2Proof.Machine

namespace Dev.JobKeeps

variable {c n : Nat} {a b : Dev}

/-! ### Amplitude (R219, R220) -/

theorem stretch (h : JobKeeps c n a b) (hn : n < 16) : JobKeeps c n a (b.stretch n) := by
  unfold Dev.stretch
  dsimp only
  refine ite (h.wr _ _) (ite ?counted ?_)
  · exact (h.wr _ _).count _ _
  · refine ite (axisEvent ?maxed hn _ _ _ _ _) ?maxed
    exact (((h.wr _ _).count _ _).setAxis _).setBit _ _ _

theorem takeAmp (h : JobKeeps c n a b) (hn : n < 16) (hc : c / 2 = n) (mem : List Host.Cell) :
    JobKeeps c n a (b.takeAmp mem c).2 := by
  subst hc
  unfold Dev.takeAmp
  dsimp only
  by_cases hid : b.axState (c / 2) = axIdentifying
  · rw [if_pos hid]
    exact ite ((h.wr _ _).wr _ _) h
  · rw [if_neg hid]
    by_cases hA : c % 2 = 0
    · simp only [if_pos hA]
      exact (((((h.stretch hn).setAxis _).wr _ _).wr _ _).setBit _ _ _).setBit _ _ _
    · simp only [if_neg hA]
      exact h

/-! ### Identification (R198 to R200) -/

theorem legsOff (h : JobKeeps c n a b) (hs : a.axState n = axIdentifying) : JobKeeps c n a (b.axisLegsOff n) := by
  obtain ⟨t, ht⟩ := Dev.axisLegsOff_frame b n
  rw [ht]
  exact ⟨h.next, h.nextAt, h.goGen, h.oldSlice, h.stops, h.slots, fun hne => absurd hs hne⟩

theorem identFail (h : JobKeeps c n a b) (hn : n < 16) (hs : a.axState n = axIdentifying) (cause : Nat) :
    JobKeeps c n a (b.identFail n cause) := by
  unfold Dev.identFail
  dsimp only
  have hl := h.legsOff hs
  generalize b.axisLegsOff n = e at hl ⊢
  refine ite h (raise (axisEvent ?_ hn _ _ _ _ _) _ _ _)
  exact (((hl.setAxis _).wr _ _).wr _ _).wr _ _

theorem nextPoint (h : JobKeeps c n a b) (hc : c / 2 = n) (i : IdentRt) : JobKeeps c n a (b.nextPoint c i).2 := by
  subst hc
  unfold Dev.nextPoint
  dsimp only
  split_ifs <;> exact h.setAxis _

theorem pointJob (h : JobKeeps c n a b) (hn : n < 16) (hc : c / 2 = n) (hs : a.axState n = axIdentifying) (i v : Rat)
    (used : List Rat) : JobKeeps c n a (b.pointJob c i v used).2 := by
  have hset (r : IdentRt) : JobKeeps c n a (b.setAxis n { b.axis n with ident := r }) := h.setAxis _
  have hfail := h.identFail hn hs (2 + c % 2)
  have hnext (r : IdentRt) := h.nextPoint hc r
  unfold Dev.pointJob
  subst hc
  dsimp only
  split_ifs
  · exact hset _
  · split
    · exact hnext _
    · exact hset _
  · split
    · exact hnext _
    · exact hset _
  · exact hset _
  · exact hset _
  · exact hfail
  · exact hset _

theorem identAim (h : JobKeeps c n a b) (hn : n < 16) (hc : c / 2 = n) (hs : a.axState n = axIdentifying) (t : Nat) (i v : Rat)
    (used : List Rat) : JobKeeps c n a (b.identAim c t i v used).2 := by
  have hfail := h.identFail hn hs 7
  have hpoint := h.pointJob hn hc hs i v used
  unfold Dev.identAim
  subst hc
  dsimp only
  split_ifs
  · exact h
  · exact hfail
  · exact hpoint
  · exact h
  · exact h

theorem noteStep (h : JobKeeps c n a b) (hc : c / 2 = n) : JobKeeps c n a (b.noteStep c) := by
  subst hc
  unfold Dev.noteStep
  dsimp only
  exact ite h (ite (h.setAxis _) (ite (h.setAxis _) h))

/-! ### The end of the computation -/

theorem showHalves (h : JobKeeps c n a b) (hc : c / 2 = n) (k : Nat) : JobKeeps c n a (b.showHalves c k) := by
  subst hc
  unfold Dev.showHalves
  dsimp only
  exact ite (((h.wr _ _).wr _ _).wr _ _) h

theorem finishJob (h : JobKeeps c n a b) (hc : c / 2 = n) (mem : List Host.Cell) (aim : Aim) (x : Begin) (lastAt : Option Nat) :
    JobKeeps c n a (b.finishJob mem c aim x lastAt) := by
  subst hc
  unfold Dev.finishJob
  refine showHalves (ite (count ?shown _ _) ?shown) rfl _
  exact (((h.setCoil _).setBit _ _ _).setBit _ _ _).setBit _ _ _

end Dev.JobKeeps

/-! ## The job made (R34, R48) -/

theorem Dev.showHalves_coil (d : Dev) (c k e : Nat) : (d.showHalves c k).coil e = d.coil e := by
  unfold Dev.showHalves
  dsimp only
  split_ifs <;> rfl

/-- What a job is for: the coil's next period, due GUARD before it, on the slice that serves the coil. -/
structure JobFor (d : Dev) (c : Nat) (j : JobRt) : Prop where
  period : j.k = (d.coil c).next
  deadline : j.deadline = (d.coil c).nextAt - d.rd K.GUARD
  slice : j.slice = d.coilSlice c

/-- A job with no schedule: its letters commit only. -/
structure CommitsOnly (d : Dev) (c : Nat) (j : JobRt) : Prop where
  sched : j.sched = []
  goLeft : j.goLeft = []
  goRight : j.goRight = []
  left : j.left = [{ state := 3, gen := (d.axis (c / 2)).goGen % 4, ptag := (d.coil c).next % 16, last := true }]
  right : j.right = [{ state := 3, gen := (d.axis (c / 2)).goGen % 4, ptag := (d.coil c).next % 16, last := true }]

/-- A counter counted where a condition holds leaves the coils. -/
theorem Dev.coil_count_ite (p : Prop) [Decidable p] (d : Dev) (k c : Nat) : (if p then d.count k else d).coil c = d.coil c := by
  split_ifs <;> rfl

/-- The job that a computation ends in: it stands for its coil; an aim of no current commits only. -/
theorem Dev.finishJob_job (d : Dev) (mem : List Host.Cell) (c : Nat) (aim : Aim) (x : Begin) (lastAt : Option Nat) :
    ∃ j, ((d.finishJob mem c aim x lastAt).coil c).job = some j ∧
      ((d.finishJob mem c aim x lastAt).coil c).jobFor = some (d.coil c).next ∧ JobFor d c j ∧ (aim = .off → CommitsOnly d c j) := by
  unfold Dev.finishJob
  simp only [Dev.showHalves_coil, Dev.coil_count_ite]
  refine ⟨_, congrArg CoilRt.job (Dev.coil_setCoil_self d c _), congrArg CoilRt.jobFor (Dev.coil_setCoil_self d c _), ⟨rfl, rfl, rfl⟩, ?_⟩
  rintro rfl
  refine ⟨rfl, ?_, ?_, rfl, rfl⟩ <;> simp

end Sys2Proof.Machine

namespace Sys2Proof.Machine

/-- The job of a coil is computed on a device that it keeps; where the axis does not regulate it aims at no current. -/
theorem Dev.runJob_prepared (d : Dev) (mem : List Host.Cell) (c : Nat) (hn : c / 2 < 16) :
    ∃ e aim x lastAt, (d.runJob mem c).2 = Dev.finishJob e mem c aim x lastAt ∧ JobKeeps c (c / 2) d e ∧
      (d.regulates (c / 2) = false → aim = .off) := by
  unfold Dev.runJob
  have h1 := JobKeeps.reconstruct hn d
  generalize d.reconstruct c = p1 at h1 ⊢
  obtain ⟨x, d1⟩ := p1
  dsimp only at h1 ⊢
  have h2 := JobKeeps.noteOut (JobKeeps.ite (p := d1.driven (c / 2) = true) (h1.emfStep rfl x) h1) rfl x (d1.coil c).emfHat
  generalize Dev.noteOut _ c x _ = d2 at h2 ⊢
  have h3 := JobKeeps.ite (p := c % 2 = 0) (h2.loadStep hn (32 * (d2.coil c).nextAt) (d1.driven (c / 2))) h2
  generalize (if c % 2 = 0 then Dev.loadStep d2 _ _ _ else d2) = d3 at h3 ⊢
  have h4 := h3.takeAmp hn rfl mem
  generalize d3.takeAmp mem c = p4 at h4 ⊢
  obtain ⟨amp, d4⟩ := p4
  dsimp only at h4 ⊢
  generalize ({ i0 := some x.iE, m := d4.nextMirror c, prev := (d4.coil c).endState } : Begin) = start
  by_cases hreg : d4.regulates (c / 2) = true
  · have hd : ¬ d.regulates (c / 2) = false := by rw [← h4.regulates, hreg]; simp
    rw [if_neg (by simpa using hreg)]
    by_cases hid : d4.axState (c / 2) = axIdentifying
    · rw [if_pos hid]
      have h5 := h4.identAim hn rfl (h4.axState ▸ hid) (8 * (d4.coil c).nextAt) x.iE (d4.busVolts (c / 8)) x.used
      generalize d4.identAim c _ _ _ _ = p5 at h5 ⊢
      obtain ⟨aim, d5⟩ := p5
      cases aim with
      | held a => exact ⟨_, _, _, _, rfl, JobKeeps.noteStep (JobKeeps.wr h5 _ _) rfl, fun h => absurd h hd⟩
      | off => exact ⟨_, _, _, _, rfl, JobKeeps.noteStep h5 rfl, fun h => absurd h hd⟩
      | test sg => exact ⟨_, _, _, _, rfl, JobKeeps.noteStep h5 rfl, fun h => absurd h hd⟩
      | counts i => exact ⟨_, _, _, _, rfl, JobKeeps.noteStep h5 rfl, fun h => absurd h hd⟩
    · rw [if_neg hid]
      exact ⟨_, _, _, _, rfl, JobKeeps.noteStep (JobKeeps.wr h4 _ _) rfl, fun h => absurd h hd⟩
  · rw [if_pos hreg]
    exact ⟨_, _, _, _, rfl, h4.noteStep rfl, fun _ => rfl⟩

end Sys2Proof.Machine

namespace Sys2Proof.Machine

/-- A capture record changes the store and the pigeonholes alone, and no byte of memory where capture is off (R207). -/
theorem State.capture_frame (s : State) (n : Nat) (b : Bytes) :
    (∃ o m, (s.capture n b).dev = { s.dev with objs := o, memu := m }) ∧
      (s.dev.rd (K.CAP_EN n) ≠ 1 → (s.capture n b).mem = s.mem) := by
  unfold State.capture
  dsimp only
  by_cases h : s.dev.rd (K.CAP_EN n) = 1
  · refine ⟨?_, fun hne => absurd h hne⟩
    split_ifs <;> exact ⟨_, _, rfl⟩
  · rw [if_neg fun hc => h hc.1]
    exact ⟨⟨_, _, rfl⟩, fun _ => rfl⟩

/-- A coil whose running period has taken its last sample, with no job for the next one yet (R34). -/
structure Dev.JobDue (d : Dev) (c : Nat) : Prop where
  present : d.hasCoil c = true
  running : (d.coil c).running = true
  begun : (d.coil c).begun = true
  idle : (d.coil c).job = none
  open_ : (d.coil c).jobFor ≠ some (d.coil c).next
  sampled : (d.coil c).start + (d.samplePos c).foldl max 0 ≤ d.ticks

theorem Dev.axis_lt {d : Dev} {c : Nat} (h : d.hasCoil c = true) : c / 2 < 4 * d.part.quarters := by
  simp only [Dev.hasCoil, decide_eq_true_eq] at h
  omega

theorem Part.quarters_le (p : Part) : p.quarters ≤ 4 := by cases p <;> decide

/-- The job of a coil that is due is computed; a record of it may be captured. -/
theorem exec_engineJob {s : State} {c : Nat} (hu : s.unitsOn = true) (h : s.dev.JobDue c) :
    ∃ u, exec (.engineJob c) s = .next u ∧ (∃ o m, u.dev = { (s.dev.runJob s.mem c).2 with objs := o, memu := m }) ∧
      ((s.dev.runJob s.mem c).2.rd (K.CAP_EN (c / 2)) ≠ 1 → u.mem = s.mem) := by
  show ∃ u, execEngineJob c s = .next u ∧ _
  rw [execEngineJob, gated_on hu]
  dsimp only
  rw [if_pos ⟨h.present, h.running, h.begun, h.idle, h.open_, h.sampled⟩]
  generalize s.dev.runJob s.mem c = p
  obtain ⟨b, d⟩ := p
  cases b with
  | some b => exact ⟨_, rfl, State.capture_frame { s with dev := d } (c / 2) b⟩
  | none => exact ⟨_, rfl, ⟨_, _, rfl⟩, fun _ => rfl⟩

/-! ## A job completes (R48, R49, R58) -/

/-- The slots of a slice with a slack shown: MIN_SLACK, and BELOW_FLOOR where it counts (R49, R52). -/
def Dev.showSlack (d : Dev) (slice window : Nat) (slack : Int) : Dev :=
  let d' := d.wrI 16 (K.MIN_SLACK slice) (clampI (-32768) 32767 (min (d.rdI 16 (K.MIN_SLACK slice)) slack))
  if slack < (d.rd K.FLOOR_PCT * window / 100 : Nat) then d'.count (K.BELOW_FLOOR slice) else d'

theorem Dev.showSlack_frame (d : Dev) (slice window : Nat) (slack : Int) : ∃ o, d.showSlack slice window slack = { d with objs := o } := by
  unfold Dev.showSlack
  dsimp only
  split_ifs <;> exact ⟨_, rfl⟩

theorem Dev.showSlack_same (d : Dev) (slice window : Nat) (slack : Int) :
    d.SlotsSame (d.showSlack slice window slack) [K.MIN_SLACK slice, K.BELOW_FLOOR slice] := by
  unfold Dev.showSlack
  dsimp only
  split_ifs
  · exact ((Dev.SlotsSame.refl d _).wr _ (by simp)).wr _ (by simp)
  · exact (Dev.SlotsSame.refl d _).wr _ (by simp)

/-- Beside the slice's slots the core-voltage loop and the fray monitor note a slack. -/
theorem Dev.slackOf_eq (d : Dev) (slice window : Nat) (slack : Int) :
    ∃ f v, d.slackOf slice window slack = { d.showSlack slice window slack with fray := f, vcore := v } ∧ f.slice = d.fray.slice := by
  obtain ⟨o, ho⟩ := d.showSlack_frame slice window slack
  have hf : (d.showSlack slice window slack).fray.slice = d.fray.slice := by rw [ho]
  exact ⟨_, _, rfl, hf⟩

/-- Letters sent change the lanes' ends, what leaves the device and the raises alone (R33). -/
theorem Dev.sendLetters_frame (d : Dev) (q l : Nat) (letters : List EdgeLet) :
    ∃ qs out f, d.sendLetters q l letters = { d with quarters := qs, out := out, flt := f } := by
  unfold Dev.sendLetters
  dsimp only
  split_ifs
  · exact ⟨_, _, _, rfl⟩
  · obtain ⟨f, hf⟩ := Dev.raise_frame d 0x288 d.nt false
    exact ⟨_, _, _, hf⟩
  · refine foldl_frame (fun a b => ∃ qs out f, b = { a with quarters := qs, out := out, flt := f }) (fun a => ⟨_, _, _, rfl⟩) ?_ _ ?_ _ d
    · rintro a _ _ ⟨_, _, _, rfl⟩ ⟨_, _, _, rfl⟩
      exact ⟨_, _, _, rfl⟩
    · rintro a ⟨e, i⟩
      dsimp only
      split <;> exact ⟨_, _, _, rfl⟩
  · exact ⟨_, _, _, rfl⟩

theorem Dev.sendJob_frame (d : Dev) (c : Nat) (j : JobRt) :
    ∃ qs out f, d.sendJob c j = { d with quarters := qs, out := out, flt := f } := by
  unfold Dev.sendJob
  dsimp only
  obtain ⟨_, _, _, h1⟩ := Dev.sendLetters_frame d (c / 8) (2 * c) j.left
  rw [h1]
  obtain ⟨_, _, _, h2⟩ := Dev.sendLetters_frame _ (c / 8) (2 * c + 1) j.right
  rw [h2]
  obtain ⟨_, _, _, h3⟩ := Dev.sendLetters_frame _ (c / 8) (2 * c) j.goLeft
  rw [h3]
  obtain ⟨_, _, _, h4⟩ := Dev.sendLetters_frame _ (c / 8) (2 * c + 1) j.goRight
  exact ⟨_, _, _, h4⟩

/-- A coil whose job has completed: nothing in progress; on time, its schedule is posted. -/
def CoilRt.jobEnded (r : CoilRt) (j : JobRt) (onTime : Bool) : CoilRt :=
  { r with job := none, posted := if onTime then some (j.k, j.sched) else r.posted,
           goPosted := if onTime ∧ j.goSched ≠ [] then j.goSched else r.goPosted }

/-- The device with the job of coil c off its engine and its slack noted. -/
def Dev.jobEnded (d : Dev) (c : Nat) (j : JobRt) : Dev :=
  (d.slackOf j.slice j.window (j.deadline - d.ticks)).setCoil c ((d.coil c).jobEnded j (decide (d.ticks ≤ j.deadline)))

theorem Dev.jobEnded_frame (d : Dev) (c : Nat) (j : JobRt) : ∃ o f v, d.jobEnded c j =
    { d.setCoil c ((d.coil c).jobEnded j (decide (d.ticks ≤ j.deadline))) with objs := o, fray := f, vcore := v } ∧
      f.slice = d.fray.slice := by
  obtain ⟨f, v, h, hf⟩ := d.slackOf_eq j.slice j.window (j.deadline - d.ticks)
  obtain ⟨o, ho⟩ := d.showSlack_frame j.slice j.window (j.deadline - d.ticks)
  rw [ho] at h
  exact ⟨o, f, v, by rw [Dev.jobEnded, h]; rfl, hf⟩

theorem Dev.jobEnded_same (d : Dev) (c : Nat) (j : JobRt) :
    d.SlotsSame (d.jobEnded c j) [K.MIN_SLACK j.slice, K.BELOW_FLOOR j.slice] := by
  obtain ⟨f, v, h, -⟩ := d.slackOf_eq j.slice j.window (j.deadline - d.ticks)
  rw [Dev.jobEnded, h]
  exact Dev.showSlack_same _ _ _ _

/-- A patch that does not run compares nothing (R404). -/
theorem Dev.patchCompare_idle {d : Dev} (h : d.fray.slice = none) (c : Nat) (onTime agree : Bool) :
    d.patchCompare c onTime agree = d := by
  rw [Dev.patchCompare, h]

/-- What the core-voltage loop and the coil note of a late job (R53, R58). -/
def Dev.noteLate (d : Dev) (c : Nat) (j : JobRt) : Dev :=
  if j.k = (d.coil c).next then
    { d.setCoil c { d.coil c with lateJob := some j.k } with vcore := { d.vcore with held := true } }
  else d

theorem Dev.lateJob_eq (d : Dev) (c : Nat) (j : JobRt) : d.lateJob c j =
    ((d.noteLate c j).count (K.HELD j.slice)).raise (0x180 + 0x10 * (c / 2)) (d.noteLate c j).nt := rfl

theorem Dev.noteLate_frame (d : Dev) (c : Nat) (j : JobRt) : ∃ cs v, d.noteLate c j = { d with coils := cs, vcore := v } := by
  unfold Dev.noteLate
  split_ifs <;> exact ⟨_, _, rfl⟩

/-- A late job leaves what its coil has in progress and posted. -/
theorem Dev.noteLate_coil (d : Dev) (c : Nat) (j : JobRt) :
    ((d.noteLate c j).coil c).job = (d.coil c).job ∧ ((d.noteLate c j).coil c).posted = (d.coil c).posted := by
  unfold Dev.noteLate
  split_ifs
  · have h (r : CoilRt) : Dev.coil { d.setCoil c r with vcore := { d.vcore with held := true } } c = r := Dev.coil_setCoil_self d c r
    rw [h]
    exact ⟨rfl, rfl⟩
  · exact ⟨rfl, rfl⟩

/-- A late job changes the coils, the loop, the counters and the raises alone. -/
theorem Dev.lateJob_frame (d : Dev) (c : Nat) (j : JobRt) :
    ∃ cs v o f, d.lateJob c j = { d with coils := cs, vcore := v, objs := o, flt := f } := by
  obtain ⟨cs, v, h⟩ := d.noteLate_frame c j
  obtain ⟨f, hf⟩ := Dev.raise_frame ((d.noteLate c j).count (K.HELD j.slice)) (0x180 + 0x10 * (c / 2)) (d.noteLate c j).nt false
  rw [Dev.lateJob_eq, hf, h]
  exact ⟨_, _, _, _, rfl⟩

/-- HELD of the slice counts a late job; every other slot stays. -/
theorem Dev.lateJob_rd (d : Dev) (c : Nat) (j : JobRt) (k : Nat) :
    (d.lateJob c j).rd k = if K.HELD j.slice = k then (d.rd (K.HELD j.slice) + 1) % 2 ^ 32 else d.rd k := by
  obtain ⟨cs, v, h⟩ := d.noteLate_frame c j
  rw [Dev.lateJob_eq, Dev.raise_rd, Dev.rd_count, h]
  rfl

/-- The late-edge fault of every present axis is a source that can raise. -/
theorem axisLate_source {p : Part} {n : Nat} (h : n < 4 * p.quarters) :
    Dict.sourceAssigned (0x180 + 0x10 * n) = true ∧ (Dict.Owner.source (0x180 + 0x10 * n)).present p = true := by
  have h4 := p.quarters_le
  have ha : Dict.sourceAssigned (0x180 + 0x10 * n) = true := by
    simp [Dict.sourceAssigned, show ¬ 0x180 + 0x10 * n < 0x140 by omega, show 0x180 + 0x10 * n < 0x280 by omega]
  refine ⟨ha, ?_⟩
  simp only [Dict.Owner.present, ha, if_true, Dict.sourceQuarter, show ¬ 0x180 + 0x10 * n < 0x140 by omega,
    show ¬ 0x180 + 0x10 * n < 0x180 by omega, show 0x180 + 0x10 * n < 0x280 by omega, if_false, decide_eq_true_eq]
  omega

/-- A late job of a present coil is on its way to the fault unit. -/
theorem Dev.lateJob_raised {d : Dev} {c : Nat} (hc : d.hasCoil c = true) (j : JobRt) :
    ∃ r ∈ (d.lateJob c j).flt.raises, r.src = 0x180 + 0x10 * (c / 2) ∧ r.nt = d.nt := by
  obtain ⟨cs, v, h⟩ := d.noteLate_frame c j
  obtain ⟨ha, hp⟩ := axisLate_source (Dev.axis_lt hc)
  rw [Dev.lateJob_eq, h]
  exact ⟨_, Dev.raised_of_present _ _ _ _ ha hp, rfl, rfl⟩

/-- A job completes while no slice patch runs: on time its letters are sent, late they are discarded. -/
theorem exec_jobComplete {s : State} {c : Nat} {j : JobRt} (agree : Bool) (hu : s.unitsOn = true) (hc : s.dev.hasCoil c = true)
    (hj : (s.dev.coil c).job = some j) (hp : s.dev.fray.slice = none) :
    exec (.jobComplete c agree) s = .next (s.onDev fun d =>
      if d.ticks ≤ j.deadline then (d.jobEnded c j).sendJob c j else (d.jobEnded c j).lateJob c j) := by
  have hidle : (s.dev.slackOf j.slice j.window (j.deadline - s.dev.ticks)).fray.slice = none := by
    obtain ⟨f, v, hs, hf⟩ := s.dev.slackOf_eq j.slice j.window (j.deadline - s.dev.ticks)
    rw [hs]
    exact hf.trans hp
  have htime : decide (0 ≤ (j.deadline : Int) - s.dev.ticks) = decide (s.dev.ticks ≤ j.deadline) := by
    rw [decide_eq_decide]
    omega
  show execJobComplete c agree s = _
  simp only [execJobComplete, gated_on hu, onDev, State.onDev, hj, hc, hidle, htime, not_true_eq_false, if_false]
  refine congrArg (fun d => Host.Outcome.next ({ s with dev := d } : State)) ?_
  show Dev.patchCompare (if decide (s.dev.ticks ≤ j.deadline) = true then (s.dev.jobEnded c j).sendJob c j
    else (s.dev.jobEnded c j).lateJob c j) c _ agree = _
  simp only [decide_eq_true_eq]
  refine Dev.patchCompare_idle ?_ _ _ _
  obtain ⟨o, f, v, hd, hf⟩ := s.dev.jobEnded_frame c j
  have hended : (s.dev.jobEnded c j).fray.slice = none := by rw [hd]; exact hf.trans hp
  split_ifs
  · obtain ⟨qs, out, fl, hsend⟩ := Dev.sendJob_frame (s.dev.jobEnded c j) c j
    rw [hsend]
    exact hended
  · obtain ⟨cs, v', o', fl, hlate⟩ := Dev.lateJob_frame (s.dev.jobEnded c j) c j
    rw [hlate]
    exact hended

end Sys2Proof.Machine

namespace Sys2Proof

open Sys2Proof.Machine

theorem engineJob_made {s : State} {c : Nat} (hu : s.unitsOn = true) (h : s.dev.JobDue c) :
    Completes (.engineJob c) s fun u => ∃ j, (u.dev.coil c).job = some j ∧ j.k = (s.dev.coil c).next ∧
      (u.dev.coil c).jobFor = some (s.dev.coil c).next ∧ j.deadline = (s.dev.coil c).nextAt - s.dev.rd K.GUARD ∧
      j.slice = s.dev.coilSlice c ∧ (s.dev.axState (c / 2) ≠ axIdentifying → u.dev.legs = s.dev.legs) ∧
      (s.dev.regulates (c / 2) = false → j.sched = [] ∧ j.goLeft = [] ∧ j.goRight = [] ∧
        ∀ side ∈ [j.left, j.right],
          side = [{ state := 3, gen := (s.dev.axis (c / 2)).goGen % 4, ptag := (s.dev.coil c).next % 16, last := true }]) ∧
      (s.dev.rd (K.CAP_EN (c / 2)) ≠ 1 → u.mem = s.mem) := by
  obtain ⟨u, hx, ⟨o, m, hdev⟩, hmem⟩ := exec_engineJob hu h
  have hn : c / 2 < 16 := by have := Dev.axis_lt h.present; have := s.dev.part.quarters_le; omega
  obtain ⟨e, aim, x, lastAt, hrun, hk, haim⟩ := s.dev.runJob_prepared s.mem c hn
  rw [hrun] at hdev hmem
  obtain ⟨j, hjob, hfor, hj, hoff⟩ := Dev.finishJob_job e s.mem c aim x lastAt
  have hf := hk.finishJob rfl s.mem aim x lastAt
  refine ⟨u, hx, j, ?_, hj.period.trans hk.next, ?_, ?_, ?_, fun hs => ?_, fun hr => ?_, fun hcap => hmem ?_⟩
  · rw [hdev]; exact hjob
  · rw [hdev]; exact hfor.trans (congrArg some hk.next)
  · rw [hj.deadline, hk.nextAt, hk.slots K.GUARD (by simp)]
  · rw [hj.slice, Dev.coilSlice, Dev.coilSlice, hk.sliceOf, hk.oldSlice]
  · rw [hdev]; exact hf.legs hs
  · obtain ⟨h1, h2, h3, h4, h5⟩ := hoff (haim hr)
    rw [hk.goGen, hk.next] at h4 h5
    exact ⟨h1, h2, h3, by simp [h4, h5]⟩
  · rw [hf.slots (K.CAP_EN (c / 2)) (by simp)]; exact hcap


section
variable {s : State} {c : Nat} {j : JobRt} (agree : Bool) (hu : s.unitsOn = true) (hc : s.dev.hasCoil c = true)
  (hj : (s.dev.coil c).job = some j) (hp : s.dev.fray.slice = none)
include hu hc hj hp

theorem jobComplete_onTime (ht : s.dev.ticks ≤ j.deadline) :
    Completes (.jobComplete c agree) s fun u => (u.dev.coil c).job = none ∧ (u.dev.coil c).posted = some (j.k, j.sched) ∧
      u.dev.legs = s.dev.legs ∧ SlotsKept s u [K.MIN_SLACK j.slice, K.BELOW_FLOOR j.slice] := by
  have hx := exec_jobComplete agree hu hc hj hp
  obtain ⟨qs, out, fl, hsend⟩ := Dev.sendJob_frame (s.dev.jobEnded c j) c j
  rw [State.onDev, if_pos ht, hsend] at hx
  obtain ⟨o, f, v, hd, -⟩ := s.dev.jobEnded_frame c j
  have hcoil : (s.dev.jobEnded c j).coil c = (s.dev.coil c).jobEnded j true := by
    rw [hd, decide_eq_true ht]
    exact Dev.coil_setCoil_self _ _ _
  refine completes_of_eq hx ⟨congrArg CoilRt.job hcoil, congrArg CoilRt.posted hcoil, ?_, slotsKept_of_same (s.dev.jobEnded_same c j)⟩
  show (s.dev.jobEnded c j).legs = _
  rw [hd]
  rfl

theorem jobComplete_late (ht : j.deadline < s.dev.ticks) :
    Completes (.jobComplete c agree) s fun u => (u.dev.coil c).job = none ∧ (u.dev.coil c).posted = (s.dev.coil c).posted ∧
      u.dev.out = s.dev.out ∧ u.dev.rd (K.HELD j.slice) = (s.dev.rd (K.HELD j.slice) + 1) % 2 ^ 32 ∧
      Raised u (0x180 + 0x10 * (c / 2)) s.dev.nt ∧ u.dev.legs = s.dev.legs ∧
      SlotsKept s u [K.MIN_SLACK j.slice, K.BELOW_FLOOR j.slice, K.HELD j.slice] := by
  have hx := exec_jobComplete agree hu hc hj hp
  rw [State.onDev, if_neg (by omega)] at hx
  obtain ⟨o, f, v, hd, -⟩ := s.dev.jobEnded_frame c j
  have hcoil : (s.dev.jobEnded c j).coil c = (s.dev.coil c).jobEnded j false := by
    rw [hd, decide_eq_false (by omega)]
    exact Dev.coil_setCoil_self _ _ _
  obtain ⟨hjob, hposted⟩ := (s.dev.jobEnded c j).noteLate_coil c j
  have hlcoil : ((s.dev.jobEnded c j).lateJob c j).coil c = ((s.dev.jobEnded c j).noteLate c j).coil c := by
    obtain ⟨f, hf⟩ := Dev.raise_frame (((s.dev.jobEnded c j).noteLate c j).count (K.HELD j.slice)) (0x180 + 0x10 * (c / 2))
      ((s.dev.jobEnded c j).noteLate c j).nt false
    rw [Dev.lateJob_eq, hf]
    rfl
  have hsame := s.dev.jobEnded_same c j
  have hheld : (s.dev.jobEnded c j).rd (K.HELD j.slice) = s.dev.rd (K.HELD j.slice) := hsame _ (by grind)
  have hraised := Dev.lateJob_raised (d := s.dev.jobEnded c j) (by rw [hd]; exact hc) j
  have hnt : (s.dev.jobEnded c j).nt = s.dev.nt := by rw [hd]; rfl
  obtain ⟨cs, v', o', fl, hlate⟩ := (s.dev.jobEnded c j).lateJob_frame c j
  refine completes_of_eq hx ⟨?_, ?_, ?_, ?_, ?_, ?_, slotsKept_of_same fun k hk => ?_⟩
  · show (((s.dev.jobEnded c j).lateJob c j).coil c).job = none
    rw [hlcoil, hjob, hcoil]
    rfl
  · show (((s.dev.jobEnded c j).lateJob c j).coil c).posted = _
    rw [hlcoil, hposted, hcoil]
    rfl
  · show ((s.dev.jobEnded c j).lateJob c j).out = _
    rw [hlate, hd]
    rfl
  · show ((s.dev.jobEnded c j).lateJob c j).rd (K.HELD j.slice) = _
    rw [Dev.lateJob_rd, if_pos rfl, hheld]
  · rw [hnt] at hraised
    exact hraised
  · show ((s.dev.jobEnded c j).lateJob c j).legs = _
    rw [hlate, hd]
    rfl
  · show ((s.dev.jobEnded c j).lateJob c j).rd k = _
    rw [Dev.lateJob_rd, if_neg (by grind), hsame k (by grind)]

end

/-- Settles O31: the job is computed by keeping what it stands for, and completes on time or late. -/
theorem jobsAreMadeAndPosted : Obligations.JobsAreMadeAndPosted := by
  unfold Obligations.JobsAreMadeAndPosted
  exact ⟨fun s c hu hc hr hb hj hf hs => engineJob_made hu ⟨hc, hr, hb, hj, hf, hs⟩, fun s c agree j hu hc hj hp =>
    ⟨jobComplete_onTime agree hu hc hj hp, jobComplete_late agree hu hc hj hp⟩⟩

end Sys2Proof

namespace Sys2Proof.Machine

/-! ## Records of bytes -/

theorem ofLe_lt (b : Bytes) : ofLe b < 2 ^ (8 * b.length) := by
  induction b with
  | nil => decide
  | cons x t ih =>
    have hx := x.isLt
    rw [ofLe, List.length_cons, Nat.mul_add, Nat.pow_add]
    omega

/-! ## Events and records of the fray monitor (R414, R417, R418) -/

theorem Dev.frayEvent_frame (d : Dev) (type : Nat) (p : Bytes) :
    ∃ o m f, d.frayEvent type p = { d with objs := o, mail := m, flt := f } := Dev.event_frame _ _ _ _ _ _

theorem Dev.frayEvent_rd (d : Dev) (type : Nat) (p : Bytes) {k : Nat} (h : k < 0x1430 * 256 ∨ 0x1441 * 256 ≤ k) :
    (d.frayEvent type p).rd k = d.rd k := Dev.event_rd _ _ _ _ _ _ _ (by decide) (postingSlot_outside h)

theorem Dev.requestEnd_frame (d : Dev) (cause result : Nat) : ∃ o, d.requestEnd cause result = { d with objs := o } := by
  unfold Dev.requestEnd
  split_ifs <;> exact ⟨_, rfl⟩

theorem Dev.requestEnd_same (d : Dev) (cause result : Nat) :
    d.SlotsSame (d.requestEnd cause result) [K.REQ_GO, K.REQ_RESULT] := by
  unfold Dev.requestEnd
  split_ifs
  · exact ((Dev.SlotsSame.refl d _).wr _ (by simp)).wr _ (by simp)
  · exact .refl d _

/-- A record for the patch store waits to be written, or NOSPARE shows that the store is full. -/
theorem Dev.patchRecord_frame (d : Dev) (nt kind cause inst from_ to_ : Nat) : ∃ o f w,
    (d.patchRecord nt kind cause inst from_ to_).2 = { d with objs := o, flt := f, fray := { d.fray with writing := w } } := by
  unfold Dev.patchRecord
  dsimp only
  split_ifs
  · exact ⟨_, _, _, rfl⟩
  · obtain ⟨f, hf⟩ := Dev.raise_frame (d.setBit K.NOSPARE 7 true) 0x28E d.nt false
    exact ⟨_, _, _, hf⟩

theorem Dev.patchRecord_same (d : Dev) (nt kind cause inst from_ to_ : Nat) :
    d.SlotsSame (d.patchRecord nt kind cause inst from_ to_).2 [K.NOSPARE] := by
  unfold Dev.patchRecord
  dsimp only
  split_ifs
  · exact .of_rd (.refl d _) fun _ => rfl
  · exact ((Dev.SlotsSame.refl d _).wr _ (by simp)).of_rd (Dev.raise_rd _ _ _ _)

theorem Dev.noSpare_frame (d : Dev) (kind inst : Nat) : ∃ o m f, d.noSpare kind inst = { d with objs := o, mail := m, flt := f } := by
  obtain ⟨f, hf⟩ := Dev.raise_frame (d.setBit K.NOSPARE kind true) 0x28E d.nt false
  obtain ⟨o, m, f', he⟩ := Dev.frayEvent_frame ((d.setBit K.NOSPARE kind true).raise 0x28E d.nt) 0x01C4
    (le 1 kind ++ le 1 0 ++ le 2 inst ++ le 8 ((d.setBit K.NOSPARE kind true).raise 0x28E d.nt).nt)
  exact ⟨o, m, f', by rw [Dev.noSpare, Dev.noSpareEvent, he, hf]; rfl⟩

theorem Dev.noSpare_rd (d : Dev) (kind inst : Nat) {k : Nat} (hk : k ≠ K.NOSPARE) (h : k < 0x1430 * 256 ∨ 0x1441 * 256 ≤ k) :
    (d.noSpare kind inst).rd k = d.rd k := by
  rw [Dev.noSpare, Dev.noSpareEvent, Dev.frayEvent_rd _ _ _ h, Dev.raise_rd, Dev.rd_setBit_ne _ _ _ hk.symm]

/-- What follows the count of a completed patch: its event, its request, the last spare. -/
def Dev.patchReported (d : Dev) (kind cause inst : Nat) (last : Bool) (payload : Bytes) : Dev :=
  if last then ((d.frayEvent 0x01C2 payload).requestEnd cause 1).noSpare kind inst
  else (d.frayEvent 0x01C2 payload).requestEnd cause 1

theorem Dev.patchComplete_eq (d : Dev) (nt kind cause inst from_ to_ : Nat) (last : Bool) :
    ∃ payload, d.patchComplete nt kind cause inst from_ to_ last =
      ((d.patchRecord nt kind cause inst from_ to_).2.count K.PATCHES).patchReported kind cause inst last payload := ⟨_, rfl⟩

theorem Dev.patchReported_frame (d : Dev) (kind cause inst : Nat) (last : Bool) (p : Bytes) :
    ∃ o m f, d.patchReported kind cause inst last p = { d with objs := o, mail := m, flt := f } := by
  obtain ⟨o, m, f, he⟩ := d.frayEvent_frame 0x01C2 p
  obtain ⟨o', hr⟩ := (d.frayEvent 0x01C2 p).requestEnd_frame cause 1
  obtain ⟨o2, m2, f2, hn⟩ := ((d.frayEvent 0x01C2 p).requestEnd cause 1).noSpare_frame kind inst
  unfold Dev.patchReported
  rw [hn, hr, he]
  split_ifs <;> exact ⟨_, _, _, rfl⟩

theorem Dev.patchReported_rd (d : Dev) (kind cause inst : Nat) (last : Bool) (p : Bytes) {k : Nat}
    (hk : k ∉ [K.NOSPARE, K.REQ_GO, K.REQ_RESULT]) (h : k < 0x1430 * 256 ∨ 0x1441 * 256 ≤ k) :
    (d.patchReported kind cause inst last p).rd k = d.rd k := by
  simp only [List.mem_cons, List.not_mem_nil, or_false, not_or] at hk
  obtain ⟨hspare, hgo, hres⟩ := hk
  have hend : ((d.frayEvent 0x01C2 p).requestEnd cause 1).rd k = d.rd k :=
    (Dev.requestEnd_same _ _ _ k (by simp [hgo, hres])).trans (Dev.frayEvent_rd _ _ _ h)
  unfold Dev.patchReported
  split_ifs
  · rw [Dev.noSpare_rd _ _ _ hspare h, hend]
  · exact hend

/-- A completed patch changes the store, the mailbag, the raises and the records that wait (R405, R414). -/
theorem Dev.patchComplete_frame (d : Dev) (nt kind cause inst from_ to_ : Nat) (last : Bool) : ∃ o m f w,
    d.patchComplete nt kind cause inst from_ to_ last =
      { d with objs := o, mail := m, flt := f, fray := { d.fray with writing := w } } := by
  obtain ⟨p, hp⟩ := d.patchComplete_eq nt kind cause inst from_ to_ last
  obtain ⟨o, f, w, hr⟩ := d.patchRecord_frame nt kind cause inst from_ to_
  obtain ⟨o', m', f', hrep⟩ := ((d.patchRecord nt kind cause inst from_ to_).2.count K.PATCHES).patchReported_frame kind cause inst last p
  rw [hp, hrep, hr]
  exact ⟨_, _, _, _, rfl⟩

/-- PATCHES counts a completed patch; beside NOSPARE and the request, the other slots stay. -/
theorem Dev.patchComplete_rd (d : Dev) (nt kind cause inst from_ to_ : Nat) (last : Bool) {k : Nat}
    (hk : k ∉ [K.NOSPARE, K.REQ_GO, K.REQ_RESULT]) (h : k < 0x1430 * 256 ∨ 0x1441 * 256 ≤ k) :
    (d.patchComplete nt kind cause inst from_ to_ last).rd k =
      if K.PATCHES = k then (d.rd K.PATCHES + 1) % 2 ^ 32 else d.rd k := by
  obtain ⟨p, hp⟩ := d.patchComplete_eq nt kind cause inst from_ to_ last
  have hrec (x : Nat) (hx : x ≠ K.NOSPARE) : (d.patchRecord nt kind cause inst from_ to_).2.rd x = d.rd x :=
    d.patchRecord_same nt kind cause inst from_ to_ x (by simp [hx])
  rw [hp, Dev.patchReported_rd _ _ _ _ _ _ hk h, Dev.rd_count, hrec _ (by decide), hrec k (by grind)]

end Sys2Proof.Machine

namespace Sys2Proof.Machine

/-! ## Units that write the store alone -/

/-- Between two devices only the object store changes. -/
def Dev.StoreOnly (a b : Dev) : Prop := ∃ o, b = { a with objs := o }

namespace Dev.StoreOnly

variable {a b : Dev}

theorem refl (a : Dev) : StoreOnly a a := ⟨_, rfl⟩

theorem wr (h : StoreOnly a b) (k v : Nat) : StoreOnly a (b.wr k v) := by
  obtain ⟨o, rfl⟩ := h
  exact ⟨_, rfl⟩

theorem wrs (h : StoreOnly a b) (l : List (Nat × Nat)) : StoreOnly a (b.wrs l) := by
  obtain ⟨o, rfl⟩ := h
  rw [Dev.wrs_objs_only]
  exact ⟨_, rfl⟩

end Dev.StoreOnly

/-! ## A slice patch begins (R403) -/

/-- The patch with which a spare begins to shadow the axis of a request. -/
def Dev.patchBegun (d : Dev) (a : PatchAsk) (sp : Nat) : PatchRt := { axis := a.inst, spare := sp, cause := a.cause, started := true, b0 := d.now }

/-- The slots with which a spare begins to shadow an axis: SLICE_STATUS, SLICE_MAP, SPARES, and the patch's own. -/
def Dev.showShadow (d : Dev) (n sp : Nat) : Dev :=
  let e := ((d.setSlice sp 2 n).setBit (K.SLICE_MAP n) 6 true).showSpares
  e.wrs [(K.P_STATE, 1), (K.P_AXIS, n), (K.P_SPARE, sp), (K.MATCHED, 0), (K.P_CAUSE, 0), (K.P_START_NT, e.nt)]

/-- The event of a patch begun, PATCH_START. -/
def Dev.patchStarted (d : Dev) (a : PatchAsk) (sp : Nat) : Dev :=
  d.frayEvent 0x01C1 (le 1 0 ++ le 1 a.cause ++ le 2 a.inst ++ le 2 sp ++ le 2 0 ++ le 4 d.nt)

theorem Dev.showShadow_store (d : Dev) (n sp : Nat) : d.StoreOnly (d.showShadow n sp) :=
  ((((Dev.StoreOnly.refl d).wr _ _).wr _ _).wr _ _).wrs _

/-- The fray unit with the request taken and its patch begun. -/
def Dev.takeShadow (d : Dev) (a : PatchAsk) (sp : Nat) : Dev :=
  let e : Dev := { d with fray := { d.fray with asks := d.fray.asks.filter (· ≠ a) } }
  { e with fray := { e.fray with slice := some (e.patchBegun a sp) } }

/-- A slot of the slices reads, once a spare shadows, as SLICE_STATUS and SLICE_MAP were written. -/
theorem Dev.showShadow_rd (d : Dev) (n sp : Nat) {k : Nat} (hk : k < 0x2900 * 256) :
    (d.showShadow n sp).rd k = ((d.setSlice sp 2 n).setBit (K.SLICE_MAP n) 6 true).rd k := by
  rw [Dev.showShadow, Dev.rd_wrs_ne _ _ _ (by intro e he; grind), Dev.showSpares, Dev.rd_setField_ne _ _ _ _ (by lia)]

theorem Dev.showShadow_patch (d : Dev) {n sp : Nat} (hn : n < 16) (hs : sp < 18) :
    (d.showShadow n sp).rd K.P_STATE = 1 ∧ (d.showShadow n sp).rd K.P_AXIS = n ∧ (d.showShadow n sp).rd K.P_SPARE = sp := by
  refine ⟨?_, ?_, ?_⟩ <;>
    simp only [Dev.showShadow, Dev.wrs_cons, Dev.wrs_nil, Dev.rd_wr]
  · rfl
  · exact Nat.mod_eq_of_lt (by omega)
  · exact Nat.mod_eq_of_lt (by omega)

/-- A slice patch that may begin takes the lowest spare. -/
theorem exec_patchStart {s : State} {a : PatchAsk} {sp : Nat} {rest : List Nat} (hu : s.unitsOn = true) (hs : s.dev.fray.slice = none)
    (ha : (s.dev.fray.asks.find? fun a => a.kind = 0 && s.dev.mayShadow a.inst) = some a) (hsp : s.dev.spareSlices = sp :: rest) :
    exec .patchStart s = .next { s with dev := ((s.dev.takeShadow a sp).showShadow a.inst sp).patchStarted a sp } := by
  show execPatchStart s = _
  have hsp' (f : FrayRt) : ({ s.dev with fray := f } : Dev).spareSlices = sp :: rest := hsp
  simp only [execPatchStart, gated_on hu, onDev, State.onDev, hs, ha, hsp', Dev.showShadow, Dev.takeShadow, Dev.patchBegun, Dev.patchStarted]

end Sys2Proof.Machine
namespace Sys2Proof

open Sys2Proof.Machine

theorem patchStart_shadows {s : State} {a : PatchAsk} {sp : Nat} {rest : List Nat} (hu : s.unitsOn = true)
    (hs : s.dev.fray.slice = none)
    (ha : (s.dev.fray.asks.find? fun a => a.kind = 0 && s.dev.mayShadow a.inst) = some a) (hax : s.dev.hasAxis a.inst = true)
    (hsp : s.dev.spareSlices = sp :: rest) :
    Completes .patchStart s fun u =>
      (∃ p, u.dev.fray.slice = some p ∧ p.axis = a.inst ∧ p.spare = sp ∧ p.loaded = false ∧ p.b0 = s.dev.now) ∧
      u.dev.rd (K.SLICE_STATUS sp) = 2 + 256 * a.inst ∧ u.dev.bit (K.SLICE_MAP a.inst) 6 = true ∧ u.dev.rd K.P_STATE = 1 ∧
      u.dev.rd K.P_AXIS = a.inst ∧ u.dev.rd K.P_SPARE = sp ∧ a ∉ u.dev.fray.asks ∧ u.dev.axes = s.dev.axes ∧ u.dev.legs = s.dev.legs := by
  have hn : a.inst < 16 := by
    have := s.dev.part.quarters_le
    simp only [Dev.hasAxis, decide_eq_true_eq] at hax
    omega
  have hspare : sp < 18 ∧ 16 ≤ sp := by
    have : sp ∈ s.dev.spareSlices := by rw [hsp]; exact List.mem_cons_self
    have := (List.mem_filter.1 this).1
    simp only [List.mem_cons, List.not_mem_nil, or_false] at this
    omega
  have hx := exec_patchStart hu hs ha hsp
  obtain ⟨o, ho⟩ := (s.dev.takeShadow a sp).showShadow_store a.inst sp
  obtain ⟨hstate, haxis, hsparen⟩ := (s.dev.takeShadow a sp).showShadow_patch hn hspare.1
  have hstatus := (s.dev.takeShadow a sp).showShadow_rd a.inst sp (k := K.SLICE_STATUS sp) (by grind)
  have hmap := (s.dev.takeShadow a sp).showShadow_rd a.inst sp (k := K.SLICE_MAP a.inst) (by grind)
  have hunits : ((s.dev.takeShadow a sp).showShadow a.inst sp).fray = (s.dev.takeShadow a sp).fray ∧
      ((s.dev.takeShadow a sp).showShadow a.inst sp).axes = s.dev.axes ∧
      ((s.dev.takeShadow a sp).showShadow a.inst sp).legs = s.dev.legs := by
    rw [ho]
    exact ⟨rfl, rfl, rfl⟩
  generalize (s.dev.takeShadow a sp).showShadow a.inst sp = d at *
  obtain ⟨hfray, haxes, hlegs⟩ := hunits
  rw [Dev.patchStarted] at hx
  generalize le 1 0 ++ _ ++ _ ++ _ ++ _ ++ _ = p at hx
  have hrd (k : Nat) (hk : k < 0x1430 * 256 ∨ 0x1441 * 256 ≤ k) : (d.frayEvent 0x01C1 p).rd k = d.rd k := Dev.frayEvent_rd _ _ _ hk
  obtain ⟨o', m, f, he⟩ := d.frayEvent_frame 0x01C1 p
  have hev : (d.frayEvent 0x01C1 p).fray = (s.dev.takeShadow a sp).fray ∧ (d.frayEvent 0x01C1 p).axes = s.dev.axes ∧
      (d.frayEvent 0x01C1 p).legs = s.dev.legs := by
    rw [he]
    exact ⟨hfray, haxes, hlegs⟩
  obtain ⟨hfray', haxes', hlegs'⟩ := hev
  refine completes_of_eq hx ⟨⟨_, congrArg FrayRt.slice hfray', rfl, rfl, rfl, rfl⟩, ?_, ?_, ?_, ?_, ?_, ?_, haxes', hlegs'⟩
  · refine (hrd _ (by grind)).trans (hstatus.trans ?_)
    rw [Dev.rd_setBit_ne _ _ _ (by grind), Dev.setSlice, Dev.rd_wr_self, Nat.mul_comm]
    exact Nat.mod_eq_of_lt (by omega)
  · exact (Dev.bit_congr ((hrd _ (by grind)).trans hmap) 6).trans (Dev.bit_setBit_self _ _ _ (by decide))
  · exact (hrd _ (by lia)).trans hstate
  · exact (hrd _ (by lia)).trans haxis
  · exact (hrd _ (by lia)).trans hsparen
  · show a ∉ (d.frayEvent 0x01C1 p).fray.asks
    rw [hfray', Dev.takeShadow]
    simp

end Sys2Proof

namespace Sys2Proof.Machine

/-! ## A slice patch takes over (R405) -/

/-- The spare of a patch serves its axis: the patch ends, the old slice serves coil B for a while as `served` says, and is Retired. -/
def Dev.sparePutIn (d : Dev) (p : PatchRt) (served : Option Nat) : Dev :=
  let e : Dev := { d with fray := { d.fray with slice := none } }
  let e := e.setAxis p.axis { e.axis p.axis with oldSlice := served }
  let e := ((e.setSlice (d.sliceOf p.axis) 3 0x1F).setSlice p.spare 0 p.axis).wr (K.SLICE_MAP p.axis) p.spare
  e.showSpares

/-- The patch that has taken over, shown in P_STATE and P_END_NT. -/
def Dev.takenOver (d : Dev) (p : PatchRt) (served : Option Nat) : Dev :=
  (d.sparePutIn p served).wrs [(K.P_STATE, 3), (K.P_END_NT, (d.sparePutIn p served).nt)]

/-- The old slice that serves coil B up to its next boundary (R405). -/
def Dev.servedStill (d : Dev) (n : Nat) : Option Nat :=
  if (d.coil (2 * n + 1)).running && !((d.coil (2 * n + 1)).begun && (d.coil (2 * n + 1)).start = d.ticks) then some (d.sliceOf n) else none

theorem Dev.servedStill_none {d : Dev} {n : Nat} (h : (d.coil (2 * n + 1)).running = false ∨
    ((d.coil (2 * n + 1)).begun = true ∧ (d.coil (2 * n + 1)).start = d.ticks)) : d.servedStill n = none := by
  rcases h with h | ⟨hb, hs⟩
  · simp [Dev.servedStill, h]
  · simp [Dev.servedStill, hb, hs]

theorem Dev.servedStill_some {d : Dev} {n : Nat} (hr : (d.coil (2 * n + 1)).running = true)
    (h : (d.coil (2 * n + 1)).begun = false ∨ (d.coil (2 * n + 1)).start ≠ d.ticks) : d.servedStill n = some (d.sliceOf n) := by
  rcases h with h | h
  · simp [Dev.servedStill, hr, h]
  · simp [Dev.servedStill, hr, h]

/-- The instant at which a loaded patch takes over (R405). -/
def Dev.TakesOver (d : Dev) (p : PatchRt) : Prop :=
  d.axState p.axis = axDisabled ∨
    (p.cur = some true ∧ 63 ≤ p.matched ∧ (d.coil (2 * p.axis)).begun = true ∧ (d.coil (2 * p.axis)).start = d.ticks ∧
      d.inGoSpan p.axis = false)

theorem exec_takeover {s : State} {p : PatchRt} (hu : s.unitsOn = true) (hp : s.dev.fray.slice = some p) (hl : p.loaded = true)
    (ht : s.dev.TakesOver p) :
    ∃ nt last, exec .takeover s = .next { s with
      dev := (s.dev.takenOver p (s.dev.servedStill p.axis)).patchComplete nt 0 p.cause p.axis (s.dev.sliceOf p.axis) p.spare last } := by
  have hat : p.loaded ∧ (s.dev.axState p.axis = axDisabled ∨
      (64 ≤ p.matched + (if p.cur = some true then 1 else 0) && p.cur = some true && (s.dev.coil (2 * p.axis)).begun &&
        (s.dev.coil (2 * p.axis)).start = s.dev.ticks && !s.dev.inGoSpan p.axis) = true) := by
    refine ⟨hl, ht.imp id ?_⟩
    rintro ⟨hcur, hm, hb, hs, hg⟩
    simp [hcur, hb, hs, hg]
    omega
  have hx : exec .takeover s = execTakeover s := rfl
  rw [hx]
  simp only [execTakeover, gated_on hu, onDev, State.onDev, hp]
  rw [if_pos hat]
  exact ⟨_, _, rfl⟩

theorem Dev.sparePutIn_frame (d : Dev) (p : PatchRt) (served : Option Nat) : ∃ o, d.sparePutIn p served =
    { d with objs := o, fray := { d.fray with slice := none },
             axes := Tab.put d.axes p.axis { d.axis p.axis with oldSlice := served } } := ⟨_, rfl⟩

theorem Dev.takenOver_frame (d : Dev) (p : PatchRt) (served : Option Nat) : ∃ o, d.takenOver p served =
    { d with objs := o, fray := { d.fray with slice := none },
             axes := Tab.put d.axes p.axis { d.axis p.axis with oldSlice := served } } := by
  obtain ⟨o, ho⟩ := d.sparePutIn_frame p served
  rw [Dev.takenOver, Dev.wrs_objs_only, ho]
  exact ⟨_, rfl⟩

theorem Dev.takenOver_rd (d : Dev) (p : PatchRt) (served : Option Nat) {k : Nat} (hs : k ≠ K.SPARES_2900) (h1 : k ≠ K.P_STATE)
    (h2 : k ≠ K.P_END_NT) : (d.takenOver p served).rd k =
      if K.SLICE_MAP p.axis = k then p.spare % 2 ^ 64 else if K.SLICE_STATUS p.spare = k then (0 + 256 * p.axis) % 2 ^ 64
      else if K.SLICE_STATUS (d.sliceOf p.axis) = k then (3 + 256 * 0x1F) % 2 ^ 64 else d.rd k := by
  rw [Dev.takenOver, Dev.rd_wrs_ne _ _ _ (by intro e he; grind), Dev.sparePutIn, Dev.showSpares, Dev.rd_setField_ne _ _ _ _ hs.symm]
  simp only [Dev.setSlice, Dev.rd_wr]
  rfl

theorem Dev.takenOver_state (d : Dev) (p : PatchRt) (served : Option Nat) : (d.takenOver p served).rd K.P_STATE = 3 := by
  simp only [Dev.takenOver, Dev.wrs_cons, Dev.wrs_nil, Dev.rd_wr]
  rfl

/-- Only the old slice that it names changes in an axis whose patch takes over. -/
theorem Dev.takenOver_axis (d : Dev) (p : PatchRt) (served : Option Nat) (m : Nat) :
    (d.takenOver p served).axis m = if m = p.axis then { d.axis p.axis with oldSlice := served } else d.axis m := by
  obtain ⟨o, ho⟩ := d.takenOver_frame p served
  rw [ho]
  by_cases h : m = p.axis
  · rw [if_pos h, h]
    exact Dev.axis_setAxis_self d p.axis _
  · rw [if_neg h]
    exact Dev.axis_setAxis_ne d _ (Ne.symm h)

/-! ## The record of a patch (R414) -/

theorem exec_patchRecordWritten {s : State} {b : Bytes} {rest : List Bytes} (hw : s.dev.fray.writing = b :: rest) :
    exec .patchRecordWritten s = .next (s.onDev fun d =>
      { d with fray := { d.fray with writing := rest, store := d.fray.store ++ [(true, b)] } }.wrs
        [(K.RECORD (2 * d.fray.store.length), ofLe (b.take 8)), (K.RECORD (2 * d.fray.store.length + 1), ofLe (b.drop 8)),
          (K.STORE_USED, d.fray.store.length + 1)]) := by
  show execPatchRecordWritten s = _
  simp only [execPatchRecordWritten, State.onDev, hw]

theorem exec_loadingComplete {s : State} {p : PatchRt} (hu : s.unitsOn = true) (hp : s.dev.fray.slice = some p) (hl : p.loaded = false) :
    exec .loadingComplete s = .next (s.onDev fun d =>
      { d with fray := { d.fray with slice := some { p with loaded := true } } }.wr K.P_STATE 2) := by
  show execLoadingComplete s = _
  simp [execLoadingComplete, gated_on hu, onDev, State.onDev, hp, hl]

end Sys2Proof.Machine
namespace Sys2Proof

open Sys2Proof.Machine

theorem loadingComplete_loads {s : State} {p : PatchRt} (hu : s.unitsOn = true) (hp : s.dev.fray.slice = some p) (hl : p.loaded = false) :
    Completes .loadingComplete s fun u => u.dev.fray.slice = some { p with loaded := true } ∧ u.dev.rd K.P_STATE = 2 ∧
      SlotsKept s u [K.P_STATE] :=
  completes_of_eq (exec_loadingComplete hu hp hl) ⟨rfl, Dev.rd_wr_self _ _ _,
    slotsKept_of_same (((Dev.SlotsSame.refl s.dev _).of_rd fun _ => rfl).wr 2 (by simp))⟩

theorem takeover_putsSpareIn {s : State} {p : PatchRt} (hu : s.unitsOn = true) (hp : s.dev.fray.slice = some p) (hl : p.loaded = true)
    (hax : s.dev.hasAxis p.axis = true) (ht : s.dev.TakesOver p) (h16 : 16 ≤ p.spare) (h18 : p.spare < 18)
    (hne : s.dev.sliceOf p.axis ≠ p.spare) :
    Completes .takeover s fun u => u.dev.fray.slice = none ∧ u.dev.rd (K.SLICE_MAP p.axis) = p.spare ∧
      u.dev.rd (K.SLICE_STATUS p.spare) = 256 * p.axis ∧ u.dev.rd (K.SLICE_STATUS (s.dev.sliceOf p.axis)) = 3 + 256 * 0x1F ∧
      u.dev.rd K.P_STATE = 3 ∧ u.dev.rd K.PATCHES = (s.dev.rd K.PATCHES + 1) % 2 ^ 32 ∧
      (∀ m, u.dev.axis m = if m = p.axis then { s.dev.axis p.axis with oldSlice := s.dev.servedStill p.axis } else s.dev.axis m) ∧
      u.dev.legs = s.dev.legs := by
  have hn : p.axis < 16 := by
    have := s.dev.part.quarters_le
    simp only [Dev.hasAxis, decide_eq_true_eq] at hax
    omega
  have hold : s.dev.sliceOf p.axis < 32 := Nat.mod_lt _ (by decide)
  obtain ⟨nt, last, hx⟩ := exec_takeover hu hp hl ht
  obtain ⟨o, ho⟩ := s.dev.takenOver_frame p (s.dev.servedStill p.axis)
  have hrd := fun {k} => s.dev.takenOver_rd p (s.dev.servedStill p.axis) (k := k)
  have hstate := s.dev.takenOver_state p (s.dev.servedStill p.axis)
  have haxis := s.dev.takenOver_axis p (s.dev.servedStill p.axis)
  have hkeep : (s.dev.takenOver p (s.dev.servedStill p.axis)).fray.slice = none ∧
      (s.dev.takenOver p (s.dev.servedStill p.axis)).legs = s.dev.legs := by
    rw [ho]
    exact ⟨rfl, rfl⟩
  clear ho
  generalize s.dev.takenOver p (s.dev.servedStill p.axis) = e at *
  obtain ⟨o', m, f, w, hc⟩ := e.patchComplete_frame nt 0 p.cause p.axis (s.dev.sliceOf p.axis) p.spare last
  have hcrd := fun {k} => e.patchComplete_rd nt 0 p.cause p.axis (s.dev.sliceOf p.axis) p.spare last (k := k)
  generalize e.patchComplete nt 0 p.cause p.axis (s.dev.sliceOf p.axis) p.spare last = d at *
  have hd : d.fray.slice = none ∧ d.axes = e.axes ∧ d.legs = s.dev.legs := by
    rw [hc]
    exact ⟨hkeep.1, rfl, hkeep.2⟩
  obtain ⟨hslice, haxes, hlegs⟩ := hd
  clear hc
  have hread {k : Nat} (h1 : k ∉ [K.NOSPARE, K.REQ_GO, K.REQ_RESULT]) (h2 : k < 0x1430 * 256 ∨ 0x1441 * 256 ≤ k)
      (h3 : k ≠ K.PATCHES) : d.rd k = e.rd k := (hcrd h1 h2).trans (if_neg h3.symm)
  refine completes_of_eq hx ⟨hslice, ?_, ?_, ?_, ?_, ?_, fun m => ?_, hlegs⟩
  · refine (hread (by simp; lia) (by lia) (by lia)).trans ?_
    rw [hrd (by lia) (by lia) (by lia), if_pos rfl]
    exact Nat.mod_eq_of_lt (by omega)
  · refine (hread (by simp; lia) (by lia) (by lia)).trans ?_
    rw [hrd (by lia) (by lia) (by lia), if_neg (by lia), if_pos rfl, Nat.zero_add]
    exact Nat.mod_eq_of_lt (by omega)
  · refine (hread (by simp; lia) (by lia) (by lia)).trans ?_
    rw [hrd (by lia) (by lia) (by lia), if_neg (by lia), if_neg (by lia), if_pos rfl]
    rfl
  · exact (hread (by simp) (by lia) (by lia)).trans hstate
  · refine (hcrd (by simp) (by lia)).trans ?_
    rw [if_pos rfl, hrd (by lia) (by lia) (by lia), if_neg (by lia), if_neg (by lia), if_neg (by lia)]
  · exact (congrArg (Tab.get ({} : AxisRt) · m) haxes).trans (haxis m)

theorem patchRecordWritten_stores {s : State} {b : Bytes} {rest : List Bytes} (hw : s.dev.fray.writing = b :: rest) (hb : b.length = 16)
    (hfree : s.dev.fray.store.length < 64) :
    Completes .patchRecordWritten s fun u => u.dev.fray.store = s.dev.fray.store ++ [(true, b)] ∧ u.dev.fray.writing = rest ∧
      u.dev.rd (K.RECORD (2 * s.dev.fray.store.length)) = ofLe (b.take 8) ∧
      u.dev.rd (K.RECORD (2 * s.dev.fray.store.length + 1)) = ofLe (b.drop 8) ∧ u.dev.rd K.STORE_USED = s.dev.fray.store.length + 1 ∧
      SlotsKept s u [K.RECORD (2 * s.dev.fray.store.length), K.RECORD (2 * s.dev.fray.store.length + 1), K.STORE_USED] := by
  have hlow : ofLe (b.take 8) < 2 ^ 64 := by simpa [hb] using ofLe_lt (b.take 8)
  have hhigh : ofLe (b.drop 8) < 2 ^ 64 := by simpa [hb] using ofLe_lt (b.drop 8)
  refine completes_of_eq (exec_patchRecordWritten hw) ?_
  simp only [State.onDev]
  generalize s.dev.fray.store.length = i at *
  refine ⟨?_, ?_, ?_, ?_, ?_, ?_⟩
  · rw [Dev.wrs_objs_only]
  · rw [Dev.wrs_objs_only]
  · rw [Dev.wrs_cons, Dev.rd_wrs_ne _ _ _ (by intro e he; grind), Dev.rd_wr_self]
    exact Nat.mod_eq_of_lt (by omega)
  · rw [Dev.wrs_cons, Dev.wrs_cons, Dev.rd_wrs_ne _ _ _ (by intro e he; grind), Dev.rd_wr_self]
    exact Nat.mod_eq_of_lt (by omega)
  · rw [Dev.wrs_cons, Dev.wrs_cons, Dev.wrs_cons, Dev.wrs_nil, Dev.rd_wr_self]
    exact Nat.mod_eq_of_lt (by omega)
  · refine slotsKept_of_same ?_
    simp only [Dev.wrs_cons, Dev.wrs_nil]
    exact ((((Dev.SlotsSame.refl s.dev _).of_rd fun _ => rfl).wr _ (by simp)).wr _ (by simp)).wr _ (by simp)

/-- Settles O35: each command's effect is one equation, and only the slots and the unit's fields that it names change. -/
theorem slicePatchRunsToItsTakeover : Obligations.SlicePatchRunsToItsTakeover := by
  unfold Obligations.SlicePatchRunsToItsTakeover
  refine ⟨fun s a sp rest hu hs ha hax hsp => patchStart_shadows hu hs ha hax hsp, fun s p => loadingComplete_loads, ?_,
    fun s b rest => patchRecordWritten_stores⟩
  intro s p hu hp hl hax a b ht h16 h18 hne
  obtain ⟨t, ht, hslice, hmap, hspare, hold, hstate, hcount, haxis, hlegs⟩ := takeover_putsSpareIn hu hp hl hax ht h16 h18 hne
  have hserved : (t.dev.axis p.axis).oldSlice = s.dev.servedStill p.axis := by rw [haxis, if_pos rfl]
  refine ⟨t, ht, hslice, hmap, hspare, hold, hstate, hcount, fun hb => hserved.trans (Dev.servedStill_none hb),
    fun hr hb => hserved.trans (Dev.servedStill_some hr hb), ?_, hlegs⟩
  intro m
  rw [haxis]
  split_ifs with h
  · rw [h]
  · rfl

end Sys2Proof

namespace Sys2Proof.Machine

/-! ## Raises on their way stay (R327) -/

theorem Dev.raise_raises (d : Dev) (src nt : Nat) (i : Bool) : d.flt.raises ⊆ (d.raise src nt i).flt.raises := by
  rcases Dev.raise_cases d src nt i with h | h <;> rw [h]
  · exact List.Subset.refl _
  · exact List.subset_append_left _ _

theorem Dev.dropRecord_raises (d : Dev) (r : EventRec) : d.flt.raises ⊆ (d.dropRecord r).flt.raises := by
  unfold Dev.dropRecord
  dsimp only
  refine List.Subset.trans ?_ (Dev.raise_raises _ _ _ _)
  split_ifs <;> exact List.Subset.refl _

theorem Dev.stage_raises (d : Dev) (q : Nat) (r : EventRec) : d.flt.raises ⊆ (d.stage q r).flt.raises := by
  unfold Dev.stage
  split_ifs
  · exact d.dropRecord_raises r
  · dsimp only
    generalize hx : (Dev.wr ({ d with mail := { d.mail with staging := d.mail.staging ++ [{ queue := q, rcd := r }] } } : Dev)
      K.STAGE_HIGH _) = x
    obtain ⟨m, h⟩ := Dev.fwdFill_frame x
    rw [h, ← hx]
    exact List.Subset.refl _

theorem Dev.event_raises (d : Dev) (src type obj nt : Nat) (b : Bytes) : d.flt.raises ⊆ (d.event src type obj nt b).flt.raises := by
  unfold Dev.event
  dsimp only
  split_ifs
  · exact List.Subset.refl _
  all_goals
    generalize ({ src := src, seq := _, nt := nt, type := type, obj := obj, addr := _, payload := _ } : EventRec) = r
    exact (d.wr (K.NEXT_SEQ src) ((d.rd (K.NEXT_SEQ src) + 1) % 2 ^ 24)).stage_raises _ r

/-! ## The Postmaster halts (R30) -/

/-- What a halt of the Postmaster leaves beside the Postmaster itself: the legs, the part, and every raise on its way. -/
structure Dev.HaltKeeps (a b : Dev) : Prop where
  part : b.part = a.part
  ticks : b.ticks = a.ticks
  legs : b.legs = a.legs
  post : b.post = a.post
  raises : a.flt.raises ⊆ b.flt.raises

namespace Dev.HaltKeeps

variable {a b : Dev}

theorem refl (a : Dev) : HaltKeeps a a := ⟨rfl, rfl, rfl, rfl, List.Subset.refl _⟩

theorem trans {c : Dev} (h : HaltKeeps a b) (h' : HaltKeeps b c) : HaltKeeps a c :=
  ⟨h'.part.trans h.part, h'.ticks.trans h.ticks, h'.legs.trans h.legs, h'.post.trans h.post, List.Subset.trans h.raises h'.raises⟩

theorem ite {p : Prop} [Decidable p] {x y : Dev} (hx : HaltKeeps a x) (hy : HaltKeeps a y) : HaltKeeps a (if p then x else y) := by
  split_ifs
  · exact hx
  · exact hy

theorem wr (h : HaltKeeps a b) (k v : Nat) : HaltKeeps a (b.wr k v) := ⟨h.part, h.ticks, h.legs, h.post, h.raises⟩

theorem setBit (h : HaltKeeps a b) (k i : Nat) (v : Bool) : HaltKeeps a (b.setBit k i v) := h.wr k _

theorem wrs (h : HaltKeeps a b) (l : List (Nat × Nat)) : HaltKeeps a (b.wrs l) := by
  rw [Dev.wrs_objs_only]
  exact ⟨h.part, h.ticks, h.legs, h.post, h.raises⟩

theorem setAxis (h : HaltKeeps a b) (n : Nat) (r : AxisRt) : HaltKeeps a (b.setAxis n r) := ⟨h.part, h.ticks, h.legs, h.post, h.raises⟩

theorem setFray (h : HaltKeeps a b) (f : FrayRt) : HaltKeeps a { b with fray := f } := ⟨h.part, h.ticks, h.legs, h.post, h.raises⟩

theorem raise (h : HaltKeeps a b) (src nt : Nat) (i : Bool) : HaltKeeps a (b.raise src nt i) := by
  have hr := b.raise_raises src nt i
  obtain ⟨f, hf⟩ := b.raise_frame src nt i
  rw [hf] at hr ⊢
  exact ⟨h.part, h.ticks, h.legs, h.post, List.Subset.trans h.raises hr⟩

theorem event (h : HaltKeeps a b) (src type obj nt : Nat) (p : Bytes) : HaltKeeps a (b.event src type obj nt p) := by
  have hr := b.event_raises src type obj nt p
  obtain ⟨o, m, f, he⟩ := b.event_frame src type obj nt p
  rw [he] at hr ⊢
  exact ⟨h.part, h.ticks, h.legs, h.post, List.Subset.trans h.raises hr⟩

theorem requestEnd (h : HaltKeeps a b) (cause result : Nat) : HaltKeeps a (b.requestEnd cause result) := by
  obtain ⟨o, ho⟩ := b.requestEnd_frame cause result
  rw [ho]
  exact ⟨h.part, h.ticks, h.legs, h.post, h.raises⟩

theorem patchRecord (h : HaltKeeps a b) (nt kind cause inst x y : Nat) : HaltKeeps a (b.patchRecord nt kind cause inst x y).2 := by
  unfold Dev.patchRecord
  dsimp only
  split_ifs
  · exact h.setFray _
  · dsimp only
    exact (h.setBit _ _ _).raise _ _ _

/-- A patch abandoned (R406). -/
theorem patchAbandon (h : HaltKeeps a b) (cause : Nat) : HaltKeeps a (b.patchAbandon cause) := by
  unfold Dev.patchAbandon
  split
  · exact h
  next p _ =>
    refine .ite h ?_
    dsimp only
    have hcount := ((h.setFray { b.fray with slice := none }).setBit (K.SLICE_MAP p.axis) 6 false)
    exact (((((HaltKeeps.ite ((HaltKeeps.ite (hcount.wr _ _) hcount).wr _ _ |>.patchRecord _ _ _ _ _ _)
      ((HaltKeeps.ite (hcount.wr _ _) hcount).wr _ _)).wr _ _).wrs _).raise _ _ _).event _ _ _ _ _).requestEnd _ _

/-- Homing ended (R296). -/
theorem homeEnd (h : HaltKeeps a b) (n result : Nat) : HaltKeeps a (b.homeEnd n result) := by
  unfold Dev.homeEnd
  exact .ite h (((h.setAxis _ _).wrs _).event _ _ _ _ _)

/-- A play ended (Table 5-9). -/
theorem endPlay (h : HaltKeeps a b) (n cause nt : Nat) : HaltKeeps a (b.endPlay n cause nt) := by
  unfold Dev.endPlay
  dsimp only
  split
  · exact ((h.setAxis _ _).event _ _ _ _ _).wr _ _
  · split
    · exact (h.setAxis _ _).wr _ _
    · exact h.setAxis _ _

theorem disengage (h : HaltKeeps a b) (n : Nat) (barred : Bool) : HaltKeeps a (b.disengage n barred) :=
  (h.setAxis _ _).setBit _ _ _

/-- A stop begun (Table 4-4). -/
theorem addStop (h : HaltKeeps a b) (n : Nat) (kind : StopKind) (cause : Nat) (barred : Bool) :
    HaltKeeps a (b.addStop n kind cause barred) := by
  unfold Dev.addStop
  have hplay := HaltKeeps.ite (p := (b.mot n).play.isSome ∨ (b.mot n).goWait.isSome) (h.endPlay n cause b.nt) h
  dsimp only
  exact (((HaltKeeps.ite (hplay.disengage n barred) hplay)).setAxis _ _).setBit _ _ _

/-- An uncorrectable error met (R301). -/
theorem uncorrectable (h : HaltKeeps a b) (unit k w : Nat) (i : Bool) : HaltKeeps a (b.uncorrectable unit k w i) :=
  ((((h.wr _ _).wr _ _).wrs _).raise _ _ _).event _ _ _ _ _

end Dev.HaltKeeps

/-- The Postmaster's own fields as it halts. -/
def Dev.postHalted (d : Dev) (lockstep : Bool) : PostRt :=
  { d.post with halted := some d.now, restarted := false, mismatch := if lockstep then some d.now else d.post.mismatch }

theorem Dev.haltPostmaster_keeps (d : Dev) (lockstep : Bool) :
    HaltKeeps (if lockstep then ({ d with post := d.postHalted lockstep } : Dev).raise 0x281 d.nt else { d with post := d.postHalted lockstep })
      (d.haltPostmaster lockstep) := by
  unfold Dev.haltPostmaster
  refine HaltKeeps.trans ((HaltKeeps.refl _).patchAbandon 3) ?_
  refine foldl_frame Dev.HaltKeeps .refl (fun _ _ _ => .trans) _ (fun e n => ?_) _ _
  exact ((HaltKeeps.refl e).homeEnd n 8).addStop n .homing 4 true

/-- The Postmaster's fields as a halt leaves them; the legs and every raise on its way stay. -/
theorem Dev.haltPostmaster_post (d : Dev) (lockstep : Bool) : (d.haltPostmaster lockstep).post = d.postHalted lockstep ∧
    (d.haltPostmaster lockstep).legs = d.legs ∧ (d.haltPostmaster lockstep).part = d.part ∧
    d.flt.raises ⊆ (d.haltPostmaster lockstep).flt.raises := by
  have h := d.haltPostmaster_keeps lockstep
  have hraise := (HaltKeeps.refl ({ d with post := d.postHalted lockstep } : Dev)).raise 0x281 d.nt false
  have hall : HaltKeeps { d with post := d.postHalted lockstep } (d.haltPostmaster lockstep) := by
    cases lockstep
    · exact h
    · exact hraise.trans h
  exact ⟨hall.post, hall.legs, hall.part, hall.raises⟩

/-- The fault sources of the Postmaster, 0x281 and 0x284, are assigned in every part. -/
theorem postmaster_sources (p : Part) : Dict.sourceAssigned 0x281 = true ∧ (Dict.Owner.source 0x281).present p = true ∧
    Dict.sourceAssigned 0x284 = true ∧ (Dict.Owner.source 0x284).present p = true := ⟨rfl, rfl, rfl, rfl⟩

/-- A lockstep mismatch is on its way to the fault unit. -/
theorem Dev.haltPostmaster_raised (d : Dev) : ∃ r ∈ (d.haltPostmaster true).flt.raises, r.src = 0x281 ∧ r.nt = d.nt := by
  obtain ⟨ha, hp, -⟩ := postmaster_sources d.part
  exact ⟨_, (d.haltPostmaster_keeps true).raises (Dev.raised_of_present _ _ _ _ ha hp), rfl, rfl⟩

/-- An uncorrectable error is on its way to the fault unit. -/
theorem Dev.uncorrectable_raised (d : Dev) (unit b w : Nat) (i : Bool) :
    ∃ r ∈ (d.uncorrectable unit b w i).flt.raises, r.src = 0x284 ∧ r.nt = d.nt := by
  obtain ⟨-, -, ha, hp⟩ := postmaster_sources d.part
  have hx := Dev.wrs_objs_only [(K.LAST_UE, b + 256 * w), (K.LAST_UE_NT, d.nt)] ((d.count (K.UE b)).count K.UE_TOTAL)
  rw [Dev.uncorrectable, hx]
  exact ⟨_, Dev.event_raises _ _ _ _ _ _ (Dev.raised_of_present _ _ _ _ ha hp), rfl, rfl⟩

/-! ## Reactions that waited (R442) -/

theorem Dev.lossReact_frame (d : Dev) (kind : Nat) : ∃ o f, d.lossReact kind = { d with objs := o, fab := f } := by
  unfold Dev.lossReact
  dsimp only
  generalize d.rd (if kind = 0 then K.HOST_REACT else K.RING_REACT) = r
  by_cases h : r = 0
  · rw [if_pos h]
    exact ⟨_, _, rfl⟩
  · rw [if_neg h]
    refine foldl_frame (fun a b => ∃ o f, b = { a with objs := o, fab := f }) (fun a => ⟨_, _, rfl⟩) ?_ _ (fun e n => ?_) _ _
    · rintro x _ _ ⟨_, _, rfl⟩ ⟨_, _, rfl⟩
      exact ⟨_, _, rfl⟩
    · split_ifs <;> exact ⟨_, _, rfl⟩

theorem Dev.lossReacts_frame (l : List Nat) (d : Dev) : ∃ o f, l.foldl (fun d k => Dev.lossReact d k) d = { d with objs := o, fab := f } := by
  refine foldl_frame (fun a b => ∃ o f, b = { a with objs := o, fab := f }) (fun a => ⟨_, _, rfl⟩) ?_ _ Dev.lossReact_frame _ _
  rintro x _ _ ⟨_, _, rfl⟩ ⟨_, _, rfl⟩
  exact ⟨_, _, rfl⟩

/-! ## The Postmaster's commands -/

/-- A second mismatch within 1 s (R31). -/
def Dev.mismatchAgain (d : Dev) : Bool :=
  match d.post.mismatch with
  | some t => decide (d.now < t + 1000000000)
  | none => false

theorem exec_lockstepMismatch {s : State} (h4 : 4 ≤ s.dev.start.stage) (hr : s.dev.post.halted = none) :
    exec .lockstepMismatch s = .next
      (if s.dev.mismatchAgain = true ∧ s.pow.devState ≠ .off then (s.onDev fun d => d.haltPostmaster true).enterSafe 2
       else s.onDev fun d => d.haltPostmaster true) := by
  show execLockstepMismatch s = _
  rw [execLockstepMismatch, if_pos ⟨h4, .inl (by rw [hr]; rfl)⟩]
  rfl

theorem exec_postmasterRestart {s : State} {t : Nat} (hh : s.dev.post.halted = some t) (ht : t + 100000 ≤ s.dev.now + 7) :
    exec .postmasterRestart s = .next (s.onDev fun d => { d with post := { d.post with restarted := true } }) := by
  show execPostmasterRestart s = _
  simp only [execPostmasterRestart, onDev, State.onDev, hh, if_pos ht]

section
variable {s : State} (hh : s.dev.post.halted.isSome = true) (hr : s.dev.post.restarted = true)
include hh hr

theorem exec_postmasterResume_bad {b w : Nat} (hw : s.dev.badPostWord = some (b, w)) :
    exec .postmasterResume s = .next (s.onDev fun d => (d.uncorrectable ownerPostmaster b w false).haltPostmaster false) := by
  show execPostmasterResume s = _
  rw [execPostmasterResume, onDev, State.onDev, if_neg (by simp [hh, hr]), hw]
  rfl

theorem exec_postmasterResume_good (hw : s.dev.badPostWord = none) :
    exec .postmasterResume s = .next (s.onDev fun d => d.post.react.foldl (fun d k => d.lossReact k)
      { d with post := { d.post with halted := none, restarted := false, react := [] } }) := by
  show execPostmasterResume s = _
  rw [execPostmasterResume, onDev, State.onDev, if_neg (by simp [hh, hr]), hw]
  rfl

end

end Sys2Proof.Machine
namespace Sys2Proof

open Sys2Proof.Machine

theorem lockstepMismatch_halts {s : State} (h4 : 4 ≤ s.dev.start.stage) (hr : s.dev.post.halted = none) (hm : s.dev.post.mismatch = none) :
    Completes .lockstepMismatch s fun u => u.dev.post.halted = some s.dev.now ∧ u.dev.post.mismatch = some s.dev.now ∧
      u.dev.post.restarted = false ∧ Raised u 0x281 s.dev.nt ∧ u.pow = s.pow ∧ u.dev.legs = s.dev.legs := by
  have hx := exec_lockstepMismatch h4 hr
  rw [if_neg (by simp [Dev.mismatchAgain, hm])] at hx
  obtain ⟨hpost, hlegs, -, -⟩ := s.dev.haltPostmaster_post true
  exact completes_of_eq hx ⟨congrArg PostRt.halted hpost, congrArg PostRt.mismatch hpost, congrArg PostRt.restarted hpost,
    s.dev.haltPostmaster_raised, rfl, hlegs⟩

theorem postmasterResume_resumes {s : State} (hh : s.dev.post.halted.isSome = true) (hr : s.dev.post.restarted = true)
    (hb : s.dev.badPostWord = none) :
    Completes .postmasterResume s fun u => u.dev.post.halted = none ∧ u.dev.post.restarted = false ∧ u.dev.post.react = [] ∧
      (s.dev.post.react = [] → u.dev.objs = s.dev.objs) ∧ u.dev.legs = s.dev.legs := by
  refine completes_of_eq (exec_postmasterResume_good hh hr hb) ?_
  dsimp only [State.onDev]
  refine ⟨?_, ?_, ?_, fun h => by rw [h]; rfl, ?_⟩
  all_goals
    obtain ⟨o, f, hf⟩ := Dev.lossReacts_frame s.dev.post.react
      { s.dev with post := { s.dev.post with halted := none, restarted := false, react := [] } }
    rw [hf]

theorem postmasterResume_haltsAgain {s : State} (hh : s.dev.post.halted.isSome = true) (hr : s.dev.post.restarted = true)
    (hb : s.dev.badPostWord ≠ none) :
    Completes .postmasterResume s fun u => u.dev.post.halted = some s.dev.now ∧ u.dev.post.restarted = false ∧ Raised u 0x284 s.dev.nt ∧
      u.dev.legs = s.dev.legs := by
  obtain ⟨⟨b, w⟩, hw⟩ := Option.ne_none_iff_exists'.1 hb
  have hx := exec_postmasterResume_bad hh hr hw
  rw [State.onDev] at hx
  have hue := (Dev.HaltKeeps.refl s.dev).uncorrectable ownerPostmaster b w false
  obtain ⟨r, hr, hsrc, hnt⟩ := s.dev.uncorrectable_raised ownerPostmaster b w false
  generalize s.dev.uncorrectable ownerPostmaster b w false = d at *
  obtain ⟨hpost, hlegs, -, hraises⟩ := d.haltPostmaster_post false
  refine completes_of_eq hx ⟨(congrArg PostRt.halted hpost).trans ?_, congrArg PostRt.restarted hpost, ⟨r, hraises hr, hsrc, hnt⟩,
    hlegs.trans hue.legs⟩
  simp only [Dev.postHalted, Dev.now, hue.ticks]

end Sys2Proof

namespace Sys2Proof.Machine

/-! ## The device enters Safe (R434) -/

/-- What every step of the entry into Safe keeps: the part, SAFE_CAUSE, the quarters in their safe state, the raises on their way. -/
structure Dev.SafeGoes (a b : Dev) : Prop where
  part : b.part = a.part
  cause : b.rd K.SAFE_CAUSE = a.rd K.SAFE_CAUSE
  safe : ∀ q < 4, a.isSafe q = true → b.isSafe q = true
  raises : a.flt.raises ⊆ b.flt.raises

namespace Dev.SafeGoes

variable {a b : Dev}

theorem refl (a : Dev) : SafeGoes a a := ⟨rfl, rfl, fun _ _ => id, List.Subset.refl _⟩

theorem trans {c : Dev} (h : SafeGoes a b) (h' : SafeGoes b c) : SafeGoes a c :=
  ⟨h'.part.trans h.part, h'.cause.trans h.cause, fun q hq hs => h'.safe q hq (h.safe q hq hs), List.Subset.trans h.raises h'.raises⟩

theorem ite {p : Prop} [Decidable p] {x y : Dev} (hx : SafeGoes a x) (hy : SafeGoes a y) : SafeGoes a (if p then x else y) := by
  split_ifs
  · exact hx
  · exact hy

/-- A step that leaves SAFE_CAUSE and the flags of the quarters alone. -/
theorem of_rd {c : Dev} (h : SafeGoes a b) (hp : c.part = b.part) (hr : b.flt.raises ⊆ c.flt.raises)
    (hc : ∀ k, k = K.SAFE_CAUSE ∨ (0x5002 * 256 ≤ k ∧ k < 0x5401 * 256) → c.rd k = b.rd k) : SafeGoes a c :=
  h.trans ⟨hp, hc _ (.inl rfl), fun q hq hs => (Dev.bit_congr (hc (K.Q_FLAGS q) (.inr (by lia))) 1).trans hs, hr⟩

theorem wr (h : SafeGoes a b) (k v : Nat) (hk : ¬ (k = K.SAFE_CAUSE ∨ (0x5002 * 256 ≤ k ∧ k < 0x5401 * 256)) := by lia) :
    SafeGoes a (b.wr k v) :=
  h.of_rd rfl (List.Subset.refl _) fun _ hx => Dev.rd_wr_ne _ _ fun he => hk (he ▸ hx)

theorem wrs (h : SafeGoes a b) (l : List (Nat × Nat))
    (hl : ∀ e ∈ l, ¬ (e.1 = K.SAFE_CAUSE ∨ (0x5002 * 256 ≤ e.1 ∧ e.1 < 0x5401 * 256))) : SafeGoes a (b.wrs l) := by
  induction l generalizing b with
  | nil => exact h
  | cons e t ih => exact ih (h.wr e.1 e.2 (hl e (by simp))) fun x hx => hl x (by simp [hx])

theorem setBit (h : SafeGoes a b) (k i : Nat) (v : Bool)
    (hk : ¬ (k = K.SAFE_CAUSE ∨ (0x5002 * 256 ≤ k ∧ k < 0x5401 * 256)) := by lia) : SafeGoes a (b.setBit k i v) := h.wr k _ hk

theorem setLeg (h : SafeGoes a b) (l : Nat) (r : LegRt) : SafeGoes a (b.setLeg l r) :=
  h.of_rd rfl (List.Subset.refl _) fun _ _ => rfl

theorem setAxis (h : SafeGoes a b) (n : Nat) (r : AxisRt) : SafeGoes a (b.setAxis n r) :=
  h.of_rd rfl (List.Subset.refl _) fun _ _ => rfl

theorem setQuarter (h : SafeGoes a b) (q : Nat) (r : QuarterRt) : SafeGoes a (b.setQuarter q r) :=
  h.of_rd rfl (List.Subset.refl _) fun _ _ => rfl

theorem raise (h : SafeGoes a b) (src nt : Nat) (i : Bool) : SafeGoes a (b.raise src nt i) := by
  refine h.of_rd ?_ (b.raise_raises _ _ _) fun k _ => b.raise_rd _ _ _ _
  obtain ⟨f, hf⟩ := b.raise_frame src nt i
  rw [hf]

theorem event (h : SafeGoes a b) {src : Nat} (hs : src < 64) (type obj nt : Nat) (p : Bytes) : SafeGoes a (b.event src type obj nt p) := by
  refine h.of_rd ?_ (b.event_raises _ _ _ _ _) fun k hk => b.event_rd _ _ _ _ _ _ hs (postingSlot_outside (by lia))
  obtain ⟨o, m, f, he⟩ := b.event_frame src type obj nt p
  rw [he]

theorem axisEvent (h : SafeGoes a b) (n type obj nt : Nat) (p : Bytes) : SafeGoes a (b.axisEvent n type obj nt p) :=
  h.event (b.sliceOf_lt n) _ _ _ _

/-- The shown cause of a quarter leaves its safe state alone. -/
theorem showCause (h : SafeGoes a b) (q : Nat) : SafeGoes a (b.showCause q) := by
  refine h.trans ⟨rfl, Dev.rd_setField_ne _ _ _ _ (by lia), fun p hp hs => ?_, List.Subset.refl _⟩
  by_cases hq : q = p
  · subst hq
    rw [Dev.isSafe, Dev.showCause, Dev.bit_setField _ _ _ _ _ (by decide)]
    simpa [Dev.isSafe] using hs
  · exact (Dev.bit_congr (Dev.rd_setField_ne _ _ _ _ (by lia)) 1).trans hs

theorem setSafe (h : SafeGoes a b) (q : Nat) : SafeGoes a (b.setBit (K.Q_FLAGS q) 1 true) := by
  refine h.trans ⟨rfl, Dev.rd_setBit_ne _ _ _ (by lia), fun p hp hs => ?_, List.Subset.refl _⟩
  by_cases hq : q = p
  · subst hq
    exact Dev.bit_setBit_self _ _ _ (by decide)
  · exact (Dev.bit_congr (Dev.rd_setBit_ne _ _ _ (by lia)) 1).trans hs

/-- A step over a list, each of whose turns goes safely. -/
theorem fold {α : Type} (h : SafeGoes a b) (f : Dev → α → Dev) (l : List α) (hf : ∀ x ∈ l, ∀ d, SafeGoes d (f d x)) :
    SafeGoes a (l.foldl f b) := by
  induction l generalizing b with
  | nil => exact h
  | cons x t ih => exact ih (h.trans (hf x (by simp) b)) fun y hy => hf y (by simp [hy])

theorem legsOff (h : SafeGoes a b) (n : Nat) : SafeGoes a (b.axisLegsOff n) := by
  obtain ⟨t, ht⟩ := b.axisLegsOff_frame n
  rw [ht]
  exact h.of_rd rfl (List.Subset.refl _) fun _ _ => rfl

theorem requestFault (h : SafeGoes a b) (n : Nat) (r : Bool) : SafeGoes a (b.requestFault n r) := by
  obtain ⟨t, ht⟩ := b.requestFault_frame n r
  rw [ht]
  exact h.of_rd rfl (List.Subset.refl _) fun _ _ => rfl

/-- Identification failed (R200). -/
theorem identFail (h : SafeGoes a b) {n : Nat} (hn : n < 16) (cause : Nat) : SafeGoes a (b.identFail n cause) := by
  unfold Dev.identFail
  refine .ite h ?_
  refine (axisEvent (((h.legsOff n).setAxis _ _).wrs _ ?_) _ _ _ _ _).raise _ _ _
  simp only [List.forall_mem_cons, List.not_mem_nil, IsEmpty.forall_iff, implies_true, and_true]
  and_intros <;> lia

/-- An axis stopped for the entry into Safe. -/
theorem axisFaulted (h : SafeGoes a b) {n : Nat} (hn : n < 16) : SafeGoes a ((b.identFail n 10).requestFault n false) :=
  (h.identFail hn 10).requestFault n false

/-- A slice started (R432). -/
theorem sliceStart (h : SafeGoes a b) {n : Nat} (hn : n < 16) : SafeGoes a (b.sliceStart n) := by
  unfold Dev.sliceStart
  refine .ite (axisEvent ?slots _ _ _ _ _) ?slots
  refine (h.setAxis n _).wrs _ ?_
  simp only [List.forall_mem_cons, List.not_mem_nil, IsEmpty.forall_iff, implies_true, and_true]
  and_intros <;> lia

theorem legOff (h : SafeGoes a b) (l : Nat) : SafeGoes a (b.legOff l) := by
  obtain ⟨t, ht⟩ := b.legOff_frame l
  rw [ht]
  exact h.of_rd rfl (List.Subset.refl _) fun _ _ => rfl

theorem leg (h : SafeGoes a b) (l : Nat) : SafeGoes a (((b.legOff l).dropLetters l).setBit (K.LEG_FLAGS l) 3 true) :=
  ((h.legOff l).setLeg l _).setBit (K.LEG_FLAGS l) 3 true

/-- The axes stopped for the entry into Safe. -/
theorem axesFaulted (h : SafeGoes a b) {l : List Nat} (hl : ∀ n ∈ l, n < 16) :
    SafeGoes a (l.foldl (fun d n => (d.identFail n 10).requestFault n false) b) :=
  h.fold _ _ fun n hn d => (refl d).axisFaulted (hl n hn)

/-- The quarter safe state entered, or a cause joined to it (R240). -/
theorem safeEnter (h : SafeGoes a b) {q : Nat} (hq : q < 4) (cause : Nat) : SafeGoes a (b.safeEnter q cause) := by
  unfold Dev.safeEnter
  dsimp only
  refine .ite ?shown (event (axesFaulted (fold (setSafe ?shown q) _ _ fun l _ d => (refl d).leg l) fun n hn => ?_) (by omega) _ _ _ _)
  case shown => exact (h.setQuarter q _).showCause q
  simp only [quarterAxes, List.mem_map, List.mem_range] at hn
  omega

end Dev.SafeGoes

/-- A cause set leaves the quarter in its safe state. -/
theorem Dev.safeEnter_isSafe (d : Dev) {q : Nat} (hq : q < 4) (cause : Nat) : (d.safeEnter q cause).isSafe q = true := by
  by_cases hs : d.isSafe q = true
  · exact ((SafeGoes.refl d).safeEnter hq cause).safe q hq hs
  · unfold Dev.safeEnter
    dsimp only
    rw [if_neg hs]
    generalize hx : Dev.setBit _ (K.Q_FLAGS q) 1 true = x
    have hsafe : x.isSafe q = true := by
      rw [← hx]
      exact Dev.bit_setBit_self _ _ _ (by decide)
    refine (SafeGoes.event (SafeGoes.axesFaulted (SafeGoes.fold (SafeGoes.refl x) _ _ fun l _ d => (SafeGoes.refl d).leg l) fun n hn => ?_)
      (by omega) _ _ _ _).safe q hq hsafe
    simp only [quarterAxes, List.mem_map, List.mem_range] at hn
    omega

theorem Dev.quarterList_lt {d : Dev} {q : Nat} (h : q ∈ d.quarterList) : q < 4 :=
  lt_of_lt_of_le (List.mem_range.1 h) d.part.quarters_le

theorem Dev.axisList_lt {d : Dev} {n : Nat} (h : n ∈ d.axisList) : n < 16 := by
  have := d.part.quarters_le
  have := List.mem_range.1 h
  omega

/-- A cause set on every quarter (R434). -/
theorem Dev.safeAll_goes (d : Dev) (cause : Nat) : SafeGoes d (d.safeAll cause true) :=
  (SafeGoes.refl d).fold _ _ fun _ hq e => (SafeGoes.refl e).safeEnter (Dev.quarterList_lt hq) cause

theorem Dev.safeAll_isSafe (d : Dev) (cause : Nat) {q : Nat} (hq : q ∈ d.quarterList) : (d.safeAll cause true).isSafe q = true := by
  have hmem : ∀ (l : List Nat) (e : Dev), (∀ p ∈ l, p < 4) → q ∈ l →
      (l.foldl (fun d p => Dev.safeEnter d p cause) e).isSafe q = true := by
    intro l
    induction l with
    | nil => intro e _ h; cases h
    | cons p t ih =>
      intro e hl hqt
      rcases List.mem_cons.1 hqt with rfl | hqt
      · exact ((SafeGoes.refl _).fold _ t fun x hx d => (SafeGoes.refl d).safeEnter (hl x (by simp [hx])) cause).safe q (hl q (by simp))
          (e.safeEnter_isSafe (hl q (by simp)) cause)
      · exact ih _ (fun x hx => hl x (by simp [hx])) hqt
  exact hmem d.quarterList d (fun _ => Dev.quarterList_lt) hq

/-- The quarters as the device enters Safe: cause 4, and cause 5 where it leaves Operating (R434). -/
def Dev.safeQuarters (d : Dev) (was : DevState) (cause : Nat) : Dev :=
  let d := d.wr K.SAFE_CAUSE cause
  let d := if was = .operating then d.safeAll 5 true else d
  d.safeAll 4 true

/-- The axes as the device enters Safe: slices in standby start, and every axis outside Disabled is Faulted (R434). -/
def Dev.safeAxes (d : Dev) (was : DevState) : Dev :=
  let d := if was = .stowed then d.axisList.foldl Dev.sliceStart d else d
  d.axisList.foldl (fun d n => (d.identFail n 10).requestFault n false) d

theorem Dev.safeQuarters_goes (d : Dev) (was : DevState) (cause : Nat) : SafeGoes (d.wr K.SAFE_CAUSE cause) (d.safeQuarters was cause) :=
  (SafeGoes.ite ((d.wr K.SAFE_CAUSE cause).safeAll_goes 5) (SafeGoes.refl _)).trans (Dev.safeAll_goes _ 4)

theorem Dev.safeAxes_goes (d : Dev) (was : DevState) : SafeGoes d (d.safeAxes was) := by
  have hstart : SafeGoes d (d.axisList.foldl Dev.sliceStart d) :=
    (SafeGoes.refl d).fold _ _ fun n hn e => (SafeGoes.refl e).sliceStart (Dev.axisList_lt hn)
  exact (SafeGoes.ite hstart (SafeGoes.refl d)).axesFaulted fun n => Dev.axisList_lt

theorem Dev.quarterList_congr {d e : Dev} (h : e.part = d.part) : e.quarterList = d.quarterList :=
  congrArg (fun p : Part => List.range p.quarters) h

/-- Every present quarter is in its safe state once the device goes to Safe. -/
theorem Dev.safeQuarters_isSafe (d : Dev) (was : DevState) (cause : Nat) {q : Nat} (hq : q ∈ d.quarterList) :
    (d.safeQuarters was cause).isSafe q = true := by
  have h5 := SafeGoes.ite (p := was = .operating) ((d.wr K.SAFE_CAUSE cause).safeAll_goes 5) (SafeGoes.refl _)
  exact Dev.safeAll_isSafe _ 4 ((Dev.quarterList_congr h5.part).symm ▸ hq)

end Sys2Proof.Machine

namespace Sys2Proof.Machine

/-- ERR_N held for Safe: the output is asserted (R341). -/
def Dev.errHeld (d : Dev) : Dev := (d.setBit K.ERR_STATE 2 true).errUpdate

theorem Dev.errHeld_goes (d : Dev) : SafeGoes d d.errHeld := by
  unfold Dev.errHeld Dev.errUpdate
  exact (((SafeGoes.refl d).setBit K.ERR_STATE 2 true).setBit K.ERR_STATE 0 _).setBit K.ERR_STATE 1 _

theorem Dev.errHeld_on (d : Dev) : d.errHeld.bit K.ERR_STATE 0 = true := by
  unfold Dev.errHeld Dev.errUpdate
  dsimp only
  rw [Dev.bit_setBit _ _ _ _ (by decide), if_neg (by decide), Dev.bit_setBit_self _ _ _ (by decide),
    Dev.bit_setBit_self _ _ _ (by decide)]
  simp

theorem State.enterSafe_eq {s : State} (h : s.pow.devState ≠ .safe) (cause : Nat) :
    s.enterSafe cause = State.changeState { s with dev := ((s.dev.safeQuarters s.pow.devState cause).safeAxes s.pow.devState).errHeld } .safe := by
  rw [State.enterSafe, if_neg h]
  rfl

/-- A change of the device state leaves the device in it, with STATE_NT and an event. -/
theorem State.changeState_goes (s : State) (new : DevState) : s.dev.SafeGoes (s.changeState new).dev :=
  ((Dev.SafeGoes.refl s.dev).wr K.STATE_NT _).event (by decide) _ _ _ _

theorem State.changeState_rd (s : State) (new : DevState) {k : Nat} (hk : k ≠ K.STATE_NT) (h : k < 0x1430 * 256 ∨ 0x1441 * 256 ≤ k) :
    (s.changeState new).dev.rd k = s.dev.rd k :=
  (Dev.event_rd _ _ _ _ _ _ _ (by decide) (postingSlot_outside h)).trans (Dev.rd_wr_ne _ _ hk.symm)

/-- The entry into Safe: the cause, every quarter in its safe state, ERR_N asserted (R434). -/
theorem State.enterSafe_safe {s : State} (h : s.pow.devState ≠ .safe) (cause : Nat) :
    (s.enterSafe cause).pow.devState = .safe ∧ (s.enterSafe cause).dev.rd K.SAFE_CAUSE = cause % 2 ^ 64 ∧
      (∀ q ∈ s.dev.quarterList, (s.enterSafe cause).dev.isSafe q = true) ∧ (s.enterSafe cause).dev.bit K.ERR_STATE 0 = true ∧
      s.dev.flt.raises ⊆ (s.enterSafe cause).dev.flt.raises := by
  rw [State.enterSafe_eq h]
  have haxes := (s.dev.safeQuarters s.pow.devState cause).safeAxes_goes s.pow.devState
  have hon := ((s.dev.safeQuarters s.pow.devState cause).safeAxes s.pow.devState).errHeld_on
  have hlast := haxes.trans (Dev.errHeld_goes _)
  have hgo := (s.dev.safeQuarters_goes s.pow.devState cause).trans hlast
  have hsafe := fun q hq => hlast.safe q (Dev.quarterList_lt hq) (s.dev.safeQuarters_isSafe s.pow.devState cause hq)
  generalize ((s.dev.safeQuarters s.pow.devState cause).safeAxes s.pow.devState).errHeld = d at *
  have hch := State.changeState_goes { s with dev := d } .safe
  refine ⟨rfl, (hch.cause.trans hgo.cause).trans (Dev.rd_wr_self _ _ _), fun q hq => hch.safe q (Dev.quarterList_lt hq) (hsafe q hq),
    (Dev.bit_congr (State.changeState_rd _ _ (by lia) (by lia)) 0).trans hon, List.Subset.trans hgo.raises hch.raises⟩

end Sys2Proof.Machine
namespace Sys2Proof

open Sys2Proof.Machine

theorem lockstepMismatch_again {s : State} (h4 : 4 ≤ s.dev.start.stage) (hr : s.dev.post.halted = none) {t : Nat}
    (hm : s.dev.post.mismatch = some t) (ht : s.dev.now < t + 1000000000) (hoff : s.pow.devState ≠ .off) (hsafe : s.pow.devState ≠ .safe) :
    Completes .lockstepMismatch s fun u => u.pow.devState = .safe ∧ u.dev.rd K.SAFE_CAUSE = 2 ∧
      (∀ q ∈ s.dev.quarterList, u.dev.isSafe q = true) ∧ u.dev.bit K.ERR_STATE 0 = true ∧ Raised u 0x281 s.dev.nt := by
  have hx := exec_lockstepMismatch h4 hr
  rw [if_pos ⟨by simp [Dev.mismatchAgain, hm, ht], hoff⟩] at hx
  obtain ⟨r, hr, hsrc, hnt⟩ := s.dev.haltPostmaster_raised
  obtain ⟨-, -, hpart, -⟩ := s.dev.haltPostmaster_post true
  obtain ⟨hstate, hcause, hq, herr, hraises⟩ :=
    State.enterSafe_safe (s := s.onDev fun d => d.haltPostmaster true) hsafe 2
  exact completes_of_eq hx ⟨hstate, hcause, fun q hmem => hq q ((Dev.quarterList_congr hpart).symm ▸ hmem), herr, r, hraises hr, hsrc, hnt⟩

end Sys2Proof

namespace Sys2Proof.Machine

/-! ## FW_GO (R436) -/

theorem State.fwRefused_false {s : State} (h : s.fwRefused = false) : s.pow.devState = .ready := by
  simp only [State.fwRefused, Bool.not_eq_false', Bool.and_eq_true, decide_eq_true_eq] at h
  exact h.1.1

/-- FW_GO is an object of every part, a write of 1 (Table 16-6). -/
theorem State.object_fwGo {s : State} (hf : s.dev.fab.ready = true) (hs : s.pow.devState ≠ .stowed) :
    s.object K.FW_GO = .ok { sub := 0x04, ty := .bool, acc := .w1 } := by
  have hrow : Dict.row 0x1140 4 = some { sub := 0x04, ty := .bool, acc := .w1 } := by decide
  have habsent (p : Part) : Dict.subAbsent p 0x1140 4 = false := by cases p <;> decide
  have hpresent (p : Part) : (Dict.locate 0x1140).owner.present p = true := by cases p <;> decide
  have htmpl : (Dict.locate 0x1140).tmpl = 0x1140 := by decide
  have hidx : K.FW_GO / 256 = 0x1140 := rfl
  have hsub : K.FW_GO % 256 = 4 := rfl
  unfold State.object
  rw [hidx, hsub]
  dsimp only
  rw [if_neg (by simp [hf, hs]), if_neg (by simp [habsent, hpresent, htmpl]), hrow]

/-- FW_GO accepted: the Postmaster takes the bank. -/
theorem exec_fwGo {s : State} {p : Path} (hr : Reaches s p) (hf : s.fwRefused = false) (hg : s.dev.rd K.FW_GO = 0) :
    exec (.fwGo p) s = .next (s.onDev Dev.fwBegin) := by
  obtain ⟨hreach, hready⟩ := hr
  have hobj := State.object_fwGo hready (by rw [State.fwRefused_false hf]; decide)
  have hcode : s.w1Code 0x1140 0 4 = abNone := by
    rw [State.w1Code, if_neg (by simp)]
    simp [hf]
  have hw1 : s.writeW1 p 0x1140 0 4 K.FW_GO 1 = (abNone, s.onDev Dev.fwBegin) := by
    rw [State.writeW1, if_neg (by simp [State.w1Ignored]), hcode]
    simp [hg, State.w1Start]
  have hslot : s.writeSlot p K.FW_GO 1 true = (abNone, s.onDev Dev.fwBegin) := by
    have hloc : Dict.locate (K.FW_GO / 256) = ⟨0x1140, 0, .device⟩ := by decide
    have hsub : K.FW_GO % 256 = 4 := rfl
    have hval : 1 % 2 ^ (8 * Dict.Ty.bool.size) = 1 := rfl
    unfold State.writeSlot
    rw [hobj, hloc, hsub]
    simp [State.writeCode, Dev.rangeBad, hval, hw1]
  show softWrite p K.FW_GO 1 s = _
  rw [softWrite, if_pos hreach, State.write, hslot]
  rfl

/-- A handover begun: the bank's state, its entry, and the capture unit that stops. -/
theorem Dev.handTo_frame (d : Dev) (b new : Nat) : ∃ o, d.handTo b new =
    { d with objs := o, memu := { d.memu with hands := Tab.put d.memu.hands b (d.rd (K.OWNER b), new, d.now) } } := by
  unfold Dev.handTo
  dsimp only
  split_ifs <;> exact ⟨_, rfl⟩

theorem Dev.handTo_state (d : Dev) (b new : Nat) : (d.handTo b new).rd (K.STATE_2810 b) = 1 := by
  unfold Dev.handTo
  dsimp only
  split_ifs
  · exact (Dev.rd_wr_ne _ _ (by lia)).trans (Dev.rd_wr_self _ _ _)
  · exact Dev.rd_wr_self _ _ _

/-- What FW_GO does to the bank: the Postmaster's handover (R306, R436). -/
theorem Dev.fwBegin_bank (d : Dev) {b : Nat} (hb : d.rd K.FW_BANK = b) :
    d.fwBegin.fw = some (b, d.rd (K.OWNER b)) ∧ d.fwBegin.rd (K.STATE_2810 b) = 1 ∧ d.fwBegin.rd K.FW_GO = 1 ∧
      Tab.find d.fwBegin.memu.hands b = some (d.rd (K.OWNER b), ownerPostmaster, d.now) := by
  have heq : d.fwBegin = (({ d with fw := some (b, d.rd (K.OWNER b)) } : Dev).handTo b ownerPostmaster).wr K.FW_GO 1 := by
    rw [Dev.fwBegin, hb]
  obtain ⟨o, ho⟩ := ({ d with fw := some (b, d.rd (K.OWNER b)) } : Dev).handTo_frame b ownerPostmaster
  rw [heq]
  refine ⟨?_, ?_, Dev.rd_wr_self _ _ _, ?_⟩
  · rw [ho]
    rfl
  · rw [Dev.rd_wr_ne _ _ (by lia)]
    exact Dev.handTo_state _ _ _
  · rw [ho]
    exact Tab.find_put_self _ _ _

end Sys2Proof.Machine

namespace Sys2Proof.Machine

/-! ## FW_UPDATE_ENDED (R436) -/

/-- The bank goes back to its owner, and the outcome is shown. -/
def Dev.fwBack (d : Dev) (b owner result : Nat) : Dev :=
  { d with fw := none, fwImage := d.fwImage || result = 1, memu := { d.memu with hands := Tab.del d.memu.hands b } }.wrs
    [(K.OWNER b, owner), (K.STATE_2810 b, 0), (K.FW_GO, 0), (K.FW_RESULT, result)]

/-- A firmware update ended: the bank back, the version that runs, the event. -/
def Dev.fwEnd (d : Dev) (b owner result version : Nat) : Dev :=
  let d := if result = 1 then (d.fwBack b owner result).wr K.FW_ACTIVE (version % 2 ^ 32) else d.fwBack b owner result
  d.event 0x35 0x01D6 0x1100 d.nt (le 1 result ++ le 3 0 ++ le 4 (d.rd K.FW_ACTIVE) ++ le 4 0)

/-- An update that the Postmaster ends with a result that R436 gives, a good image not below the floor. -/
theorem exec_fwUpdateEnded {s : State} {b owner result version : Nat} (hf : s.dev.fw = some (b, owner)) (hp : s.dev.postRuns = true)
    (h1 : 1 ≤ result) (h5 : result ≤ 5) (hv : result = 1 → s.dev.rd K.FW_FLOOR ≤ version) :
    exec (.fwUpdateEnded result version) s =
      .next ((if result = 1 then s.copyBank (s.dev.servedBy b) (s.dev.servedBy 29) else s).onDev fun d =>
        d.fwEnd b owner result version) := by
  have hresult : (if result = 1 ∧ version < s.dev.rd K.FW_FLOOR then 3 else result) = result :=
    if_neg fun ⟨he, hlt⟩ => absurd (hv he) (by omega)
  show execFwUpdateEnded result version s = _
  rw [execFwUpdateEnded, hf]
  dsimp only
  rw [if_neg (by simp [hp, h1, h5]), hresult]
  rfl

theorem Dev.fwBack_frame (d : Dev) (b owner result : Nat) : ∃ o, d.fwBack b owner result =
    { d with objs := o, fw := none, fwImage := d.fwImage || result = 1, memu := { d.memu with hands := Tab.del d.memu.hands b } } := by
  rw [Dev.fwBack, Dev.wrs_objs_only]
  exact ⟨_, rfl⟩

theorem Dev.fwEnd_frame (d : Dev) (b owner result version : Nat) : ∃ o m f, d.fwEnd b owner result version =
    { d with objs := o, mail := m, flt := f, fw := none, fwImage := d.fwImage || result = 1,
             memu := { d.memu with hands := Tab.del d.memu.hands b } } := by
  obtain ⟨o, ho⟩ := d.fwBack_frame b owner result
  rw [Dev.fwEnd, ho]
  dsimp only
  split_ifs
  all_goals
    obtain ⟨o', m, f, he⟩ := Dev.event_frame _ _ _ _ _ _
    rw [he]
    exact ⟨_, _, _, rfl⟩

/-- Posting aside, the end of an update writes the bank, the outcome and, for a good image, FW_ACTIVE. -/
theorem Dev.fwEnd_rd (d : Dev) (b owner result version : Nat) {k : Nat} (h : k < 0x1430 * 256 ∨ 0x1441 * 256 ≤ k) :
    (d.fwEnd b owner result version).rd k =
      if result = 1 ∧ k = K.FW_ACTIVE then version % 2 ^ 32 else (d.fwBack b owner result).rd k := by
  rw [Dev.fwEnd, Dev.event_rd _ _ _ _ _ _ _ (by decide) (postingSlot_outside h)]
  by_cases h1 : result = 1
  · rw [if_pos h1, Dev.rd_wr]
    simp only [h1, true_and, eq_comm (a := K.FW_ACTIVE)]
    refine if_congr Iff.rfl (Nat.mod_eq_of_lt ?_) rfl
    omega
  · rw [if_neg h1, if_neg (by tauto)]

theorem Dev.fwBack_rd (d : Dev) {b owner result : Nat} (ho : owner < 256) (hr : result < 256) :
    (d.fwBack b owner result).rd (K.OWNER b) = owner ∧ (d.fwBack b owner result).rd (K.STATE_2810 b) = 0 ∧
      (d.fwBack b owner result).rd K.FW_GO = 0 ∧ (d.fwBack b owner result).rd K.FW_RESULT = result ∧
      (d.fwBack b owner result).rd K.FW_ACTIVE = d.rd K.FW_ACTIVE := by
  simp only [Dev.fwBack]
  refine ⟨?_, ?_, ?_, ?_, ?_⟩
  · rw [Dev.wrs_cons, Dev.rd_wrs_ne _ _ _ (by intro e he; grind), Dev.rd_wr_self]
    omega
  · rw [Dev.wrs_cons, Dev.wrs_cons, Dev.rd_wrs_ne _ _ _ (by intro e he; grind), Dev.rd_wr_self]
    rfl
  · rw [Dev.wrs_cons, Dev.wrs_cons, Dev.wrs_cons, Dev.rd_wrs_ne _ _ _ (by intro e he; grind), Dev.rd_wr_self]
    rfl
  · rw [Dev.wrs_cons, Dev.wrs_cons, Dev.wrs_cons, Dev.wrs_cons, Dev.wrs_nil, Dev.rd_wr_self]
    omega
  · rw [Dev.rd_wrs_ne _ _ _ (by intro e he; grind)]
    rfl

/-- A firmware update ended: the bank is back with its owner, and the outcome is shown. -/
theorem Dev.fwEnd_shows (d : Dev) {b owner result : Nat} (version : Nat) (ho : owner < 256) (hr : result < 256) :
    (d.fwEnd b owner result version).fw = none ∧ (d.fwEnd b owner result version).rd (K.OWNER b) = owner ∧
      (d.fwEnd b owner result version).rd (K.STATE_2810 b) = 0 ∧ (d.fwEnd b owner result version).rd K.FW_GO = 0 ∧
      (d.fwEnd b owner result version).rd K.FW_RESULT = result ∧
      (d.fwEnd b owner result version).rd K.FW_ACTIVE = (if result = 1 then version % 2 ^ 32 else d.rd K.FW_ACTIVE) ∧
      (d.fwEnd b owner result version).fwImage = (d.fwImage || decide (result = 1)) := by
  obtain ⟨howner, hstate, hgo, hres, hactive⟩ := d.fwBack_rd (b := b) ho hr
  obtain ⟨o, m, f, hf⟩ := d.fwEnd_frame b owner result version
  have hrd {k : Nat} (h : k < 0x1430 * 256 ∨ 0x1441 * 256 ≤ k) (hk : k ≠ K.FW_ACTIVE) :
      (d.fwEnd b owner result version).rd k = (d.fwBack b owner result).rd k :=
    (d.fwEnd_rd b owner result version h).trans (if_neg fun hx => hk hx.2)
  refine ⟨by rw [hf], (hrd (by lia) (by lia)).trans howner, (hrd (by lia) (by lia)).trans hstate, (hrd (by lia) (by lia)).trans hgo,
    (hrd (by lia) (by lia)).trans hres, ?_, by rw [hf]⟩
  rw [d.fwEnd_rd b owner result version (by lia), hactive]
  simp

/-! ## A bank copied (R312) -/

theorem memRead_filter_kept (p : Host.Cell → Bool) (m : List Host.Cell) {a : Nat} (h : ∀ c ∈ m, c.1 = a → p c = true) :
    memRead (m.filter p) a = memRead m a := by
  suffices hfind : Tab.find (m.filter p) a = Tab.find m a from congrArg (Option.getD · memDefault) hfind
  induction m with
  | nil => rfl
  | cons c t ih =>
    obtain ⟨k, v⟩ := c
    have ht := ih fun x hx => h x (by simp [hx])
    by_cases hk : k = a
    · rw [List.filter_cons_of_pos (h (k, v) (by simp) hk), Tab.find_cons, Tab.find_cons, if_pos hk, if_pos hk]
    · rw [Tab.find_cons, if_neg hk, ← ht]
      by_cases hp : p (k, v) = true
      · rw [List.filter_cons_of_pos hp, Tab.find_cons, if_neg hk]
      · rw [List.filter_cons_of_neg hp]

/-- Writes to one side of an address leave it alone. -/
theorem memRead_foldl_memWrite (f : Host.Cell → Nat) (l : List Host.Cell) {a : Nat} (h : ∀ c ∈ l, f c ≠ a) (m : List Host.Cell) :
    memRead (l.foldl (fun m c => memWrite m (f c) c.2) m) a = memRead m a := by
  induction l generalizing m with
  | nil => rfl
  | cons c t ih =>
    rw [List.foldl_cons, ih (fun x hx => h x (by simp [hx])), memRead_memWrite, if_neg (h c (by simp))]

/-- A bank copied leaves every byte outside its destination as it was. -/
theorem State.copyBank_outside (s : State) (src dst : Nat) {a : Nat} (h : a < dst * bankSize ∨ (dst + 1) * bankSize ≤ a) :
    memRead (s.copyBank src dst).mem a = memRead s.mem a := by
  rw [Nat.succ_mul] at h
  unfold State.copyBank State.clearBank
  dsimp only
  rw [memRead_foldl_memWrite (fun c => c.1 - src * bankSize + dst * bankSize), memRead_filter_kept]
  · intro c _ hc
    simp only [Bool.or_eq_true, decide_eq_true_eq]
    rw [hc]
    omega
  · intro c hc
    have hsrc := (List.mem_filter.1 hc).2
    simp only [Bool.and_eq_true, decide_eq_true_eq, Nat.succ_mul] at hsrc
    omega

end Sys2Proof.Machine
namespace Sys2Proof

open Sys2Proof.Machine

theorem fwGo_handsBank {s : State} {p : Path} (hr : Reaches s p) (hf : s.fwRefused = false) (hg : s.dev.rd K.FW_GO = 0) :
    let b := s.dev.rd K.FW_BANK
    Completes (.fwGo p) s fun u => u.dev.fw = some (b, s.dev.rd (K.OWNER b)) ∧ u.dev.rd (K.STATE_2810 b) = 1 ∧ u.dev.rd K.FW_GO = 1 ∧
      u.mem = s.mem ∧ Tab.find u.dev.memu.hands b = some (s.dev.rd (K.OWNER b), ownerPostmaster, s.dev.now) := by
  obtain ⟨hfw, hstate, hgo, hhands⟩ := s.dev.fwBegin_bank rfl
  exact completes_of_eq (exec_fwGo hr hf hg) ⟨hfw, hstate, hgo, rfl, hhands⟩

theorem fwUpdateEnded_bad {s : State} {b owner result version : Nat} (hf : s.dev.fw = some (b, owner)) (ho : owner < 256)
    (hp : s.dev.postRuns = true) (h2 : 2 ≤ result) (h5 : result ≤ 5) :
    Completes (.fwUpdateEnded result version) s fun u => (u.dev.fw = none ∧ u.dev.rd (K.OWNER b) = owner ∧
      u.dev.rd (K.STATE_2810 b) = 0 ∧ u.dev.rd K.FW_GO = 0) ∧ u.dev.rd K.FW_RESULT = result ∧ u.mem = s.mem ∧
      u.dev.rd K.FW_ACTIVE = s.dev.rd K.FW_ACTIVE ∧ u.dev.fwImage = s.dev.fwImage := by
  have h1 : result ≠ 1 := by omega
  have hx := exec_fwUpdateEnded (version := version) hf hp (by omega) h5 (absurd · h1)
  rw [if_neg h1] at hx
  obtain ⟨hfw, howner, hstate, hgo, hres, hactive, himage⟩ := s.dev.fwEnd_shows (b := b) version ho (show result < 256 by omega)
  exact completes_of_eq hx ⟨⟨hfw, howner, hstate, hgo⟩, hres, rfl, hactive.trans (if_neg h1), himage.trans (by simp [h1])⟩

theorem fwUpdateEnded_good {s : State} {b owner version : Nat} (hf : s.dev.fw = some (b, owner)) (ho : owner < 256)
    (hp : s.dev.postRuns = true) (hfloor : s.dev.rd K.FW_FLOOR ≤ version) (hv : version < 2 ^ 32) :
    Completes (.fwUpdateEnded 1 version) s fun u => (u.dev.fw = none ∧ u.dev.rd (K.OWNER b) = owner ∧
      u.dev.rd (K.STATE_2810 b) = 0 ∧ u.dev.rd K.FW_GO = 0) ∧ u.dev.rd K.FW_RESULT = 1 ∧ u.dev.rd K.FW_ACTIVE = version ∧
      u.dev.fwImage = true ∧
      ∀ a, (a < s.dev.servedBy 29 * bankSize ∨ (s.dev.servedBy 29 + 1) * bankSize ≤ a) → memRead u.mem a = memRead s.mem a := by
  have hx := exec_fwUpdateEnded hf hp (le_refl 1) (by omega) fun _ => hfloor
  rw [if_pos rfl] at hx
  obtain ⟨hfw, howner, hstate, hgo, hres, hactive, himage⟩ :=
    (s.copyBank (s.dev.servedBy b) (s.dev.servedBy 29)).dev.fwEnd_shows (b := b) version ho (show 1 < 256 by omega)
  exact completes_of_eq hx ⟨⟨hfw, howner, hstate, hgo⟩, hres, hactive.trans (Nat.mod_eq_of_lt hv), himage.trans (by simp),
    fun a ha => s.copyBank_outside _ _ ha⟩

/-- Settles O34: the halt keeps legs and raises, the entry into Safe keeps what it has set, and an update writes bank 29 alone. -/
theorem postmasterAndFirmware : Obligations.PostmasterAndFirmware := by
  unfold Obligations.PostmasterAndFirmware
  refine ⟨⟨fun s h4 hr => ⟨lockstepMismatch_halts h4 hr, fun t => lockstepMismatch_again h4 hr⟩,
    fun s t => exec_postmasterRestart, fun s hh hr => ⟨postmasterResume_resumes hh hr, postmasterResume_haltsAgain hh hr⟩⟩,
    fun s p hr hf hg _ => fwGo_handsBank hr hf hg, fun s b owner result version hf _ ho hp => ⟨fwUpdateEnded_bad hf ho hp, ?_⟩⟩
  rintro rfl hfloor hv
  exact fwUpdateEnded_good hf ho hp hfloor hv

end Sys2Proof

namespace Sys2Proof.Machine

/-! ## A tick (R38, R41, R100, R269) -/

/-- What no index and no rate multiplier touches: NT, the physical clock, the legs. -/
def Dev.clocks (d : Dev) : Nat × Nat × Nat × Tab LegRt := (d.nt, d.ntFrac, d.ticks, d.legs)

@[simp] theorem Dev.clocks_wr (d : Dev) (k v : Nat) : (d.wr k v).clocks = d.clocks := rfl
@[simp] theorem Dev.clocks_wrI (d : Dev) (w k : Nat) (x : Int) : (d.wrI w k x).clocks = d.clocks := rfl
@[simp] theorem Dev.clocks_setBit (d : Dev) (k i : Nat) (b : Bool) : (d.setBit k i b).clocks = d.clocks := rfl
@[simp] theorem Dev.clocks_setField (d : Dev) (k hi lo x : Nat) : (d.setField k hi lo x).clocks = d.clocks := rfl
@[simp] theorem Dev.clocks_count (d : Dev) (k n : Nat) : (d.count k n).clocks = d.clocks := rfl
@[simp] theorem Dev.clocks_setAxis (d : Dev) (n : Nat) (r : AxisRt) : (d.setAxis n r).clocks = d.clocks := rfl
@[simp] theorem Dev.clocks_setDec (d : Dev) (n : Nat) (x : DecRt) : (d.setDec n x).clocks = d.clocks := rfl
@[simp] theorem Dev.clocks_encShift (d : Dev) (n : Nat) (x : Int) : (d.encShift n x).clocks = d.clocks := rfl

@[simp] theorem Dev.clocks_wrs (d : Dev) (l : List (Nat × Nat)) : (d.wrs l).clocks = d.clocks := by
  rw [Dev.wrs_objs_only]
  rfl

@[simp] theorem Dev.clocks_raise (d : Dev) (src nt : Nat) (i : Bool) : (d.raise src nt i).clocks = d.clocks := by
  obtain ⟨f, h⟩ := d.raise_frame src nt i
  rw [h]
  rfl

@[simp] theorem Dev.clocks_encEvent (d : Dev) (n type : Nat) (p : Bytes) : (d.encEvent n type p).clocks = d.clocks := by
  obtain ⟨o, m, f, h⟩ := d.axisEvent_frame n type 0x4801 d.nt p
  rw [Dev.encEvent, h]
  rfl

@[simp] theorem Dev.clocks_encInvalid (d : Dev) (n cause t : Nat) : (d.encInvalid n cause t).clocks = d.clocks := by
  unfold Dev.encInvalid
  dsimp only
  split_ifs
  · rw [Dev.clocks_encEvent]
    rfl
  · rfl

@[simp] theorem Dev.clocks_encValid (d : Dev) (n cause t : Nat) : (d.encValid n cause t).clocks = d.clocks := by
  unfold Dev.encValid
  dsimp only
  split_ifs
  · rfl
  · rw [Dev.clocks_encEvent]
    rfl

theorem Dev.clocks_ite (p : Prop) [Decidable p] (a b : Dev) : (if p then a else b).clocks = if p then a.clocks else b.clocks :=
  apply_ite Dev.clocks p a b

@[simp] theorem Dev.clocks_takeIndex (d : Dev) (n ts : Nat) : (d.takeIndex n ts).clocks = d.clocks := by
  simp only [Dev.takeIndex, Dev.clocks_ite, Dev.clocks_setDec, Dev.clocks_encEvent, Dev.clocks_raise, Dev.clocks_encInvalid,
    Dev.clocks_count, Dev.clocks_setBit, Dev.clocks_wr, Dev.clocks_wrs, Dev.clocks_encValid, Dev.clocks_wrI, Dev.clocks_encShift, ite_self]

@[simp] theorem Dev.clocks_homeIndex (d : Dev) (n ts : Nat) : (d.homeIndex n ts).clocks = d.clocks := by
  simp only [Dev.homeIndex, Dev.homeFind, Dev.clocks_ite, Dev.clocks_setAxis, ite_self]

theorem Dev.clocks_takeZ (d : Dev) (n : Nat) : (d.takeZ n).clocks = d.clocks := by
  unfold Dev.takeZ
  split
  · rfl
  · dsimp only
    split_ifs
    · rw [Dev.clocks_homeIndex, Dev.clocks_takeIndex]
      rfl
    · rfl

theorem Dev.takeZs_eq (d : Dev) : d.takeZs = d.axes.foldl (fun d e => d.takeZ e.1) d := rfl

theorem Dev.clocks_takeZs (d : Dev) : d.takeZs.clocks = d.clocks :=
  foldl_keeps Dev.clocks (fun d (e : Nat × AxisRt) => d.takeZ e.1) (fun d e => d.clocks_takeZ e.1) d.axes d

theorem Tab.find_mem {α : Type} (t : Tab α) {k : Nat} {v : α} (h : Tab.find t k = some v) : (k, v) ∈ t := by
  induction t with
  | nil => simp at h
  | cons e t ih =>
    obtain ⟨k', v'⟩ := e
    rw [Tab.find_cons] at h
    split_ifs at h with hk
    · simp_all
    · exact List.mem_cons_of_mem _ (ih h)

/-- Where no entry of the axes holds an index that waits, none is taken. -/
theorem Dev.takeZs_none (d : Dev) (h : ∀ e ∈ d.axes, e.2.enc.zAt = none) : d.takeZs = d := by
  have hz : ∀ n, d.takeZ n = d := fun n => by
    have hn : (d.encRt n).zAt = none := by
      unfold Dev.encRt Dev.axis Tab.get
      cases hf : Tab.find d.axes n with
      | none => rfl
      | some r => exact h _ (Tab.find_mem _ hf)
    simp only [Dev.takeZ, hn]
  rw [Dev.takeZs_eq]
  generalize d.axes = l
  induction l with
  | nil => rfl
  | cons e t ih => rw [List.foldl_cons, hz, ih]

/-- The rate multipliers of the axes over one tick (R100). -/
def Dev.advanceAll (d : Dev) : Dev :=
  d.axisList.foldl (fun d n => if (d.mot n).vOut = 0 then d else d.setMot n (d.mot n).advance) d

/-- The rate multipliers change the axes alone. -/
theorem Dev.advanceAll_frame (d : Dev) : ∃ a, d.advanceAll = { d with axes := a } := by
  refine foldl_frame (fun a b => ∃ x, b = { a with axes := x }) (fun a => ⟨_, rfl⟩) ?_ _ (fun e n => ?_) _ d
  · rintro a _ _ ⟨_, rfl⟩ ⟨_, rfl⟩
    exact ⟨_, rfl⟩
  · split_ifs <;> exact ⟨_, rfl⟩

/-- The steering on its way changes RATE alone (R41). -/
theorem Dev.rampRate_frame (d : Dev) : ∃ o, d.rampRate = { d with objs := o } := by
  unfold Dev.rampRate
  dsimp only
  split_ifs <;> exact ⟨_, rfl⟩

theorem Dev.rampRate_reached {d : Dev} (h : d.rdI 32 K.RATE = d.time.rateGoal) : d.rampRate = d := if_pos h

/-- The clocks one tick on. -/
def Dev.advanceClocks (d : Dev) : Dev := { d with ticks := d.ticks + 1, nt := (d.nt + 8) % 2 ^ 64 }

theorem tick_eq (s : State) : tick s = s.onDev fun d => d.takeZs.advanceAll.advanceClocks.rampRate := rfl

theorem tick_clocks (s : State) : (tick s).dev.clocks = ((s.dev.nt + 8) % 2 ^ 64, s.dev.ntFrac, s.dev.ticks + 1, s.dev.legs) := by
  have hz := s.dev.clocks_takeZs
  obtain ⟨a, ha⟩ := s.dev.takeZs.advanceAll_frame
  obtain ⟨o, ho⟩ := s.dev.takeZs.advanceAll.advanceClocks.rampRate_frame
  simp only [Dev.clocks, Prod.mk.injEq] at hz ⊢
  obtain ⟨hnt, hfrac, hticks, hlegs⟩ := hz
  rw [tick_eq, State.onDev, ho, ha]
  exact ⟨by rw [← hnt]; rfl, hfrac, by rw [← hticks]; rfl, hlegs⟩

/-- Where no index waits and RATE has reached its goal, a tick writes no slot. -/
theorem tick_objs {s : State} (hz : ∀ e ∈ s.dev.axes, e.2.enc.zAt = none) (hr : s.dev.rdI 32 K.RATE = s.dev.time.rateGoal) :
    (tick s).dev.objs = s.dev.objs := by
  obtain ⟨a, ha⟩ := s.dev.advanceAll_frame
  have hx : (tick s).dev = s.dev.advanceAll.advanceClocks.rampRate := by rw [tick_eq, State.onDev, Dev.takeZs_none _ hz]
  rw [hx, ha, Dev.rampRate_reached]
  · rfl
  · exact hr

end Sys2Proof.Machine

namespace Sys2Proof

open Sys2Proof.Machine

/-- Settles O1: the step function's own equation. -/
theorem stepRunsFrontCommand : Obligations.StepRunsFrontCommand := by
  unfold Obligations.StepRunsFrontCommand
  intro c rest s h
  rw [step, h]

/-- Settles O2: an index taken, the rate multipliers and the steering leave both clocks and the legs to the tick. -/
theorem emptyQueueStepIsOneTick : Obligations.EmptyQueueStepIsOneTick := by
  unfold Obligations.EmptyQueueStepIsOneTick
  intro s h
  have hc := tick_clocks s
  simp only [Dev.clocks, Prod.mk.injEq] at hc
  obtain ⟨hnt, hfrac, hticks, hlegs⟩ := hc
  exact ⟨tick s, by rw [step, h], hnt, hfrac, hticks, hlegs, h, rfl, rfl, tick_objs⟩

end Sys2Proof

namespace Sys2Proof.Machine

/-! ## Edges at a leg (R44, R228, R237) -/

/-- Leg l stands at p since t, with a turn-on and edges to come; the object store is o. -/
structure Dev.LegStands (e : Dev) (o : Tab Slot) (l : Nat) (p : LegPos) (t : Nat) (on : Option (LegPos × Nat)) (due : List (Nat × Nat × Nat)) :
    Prop where
  pos : (e.leg l).pos = p
  since : (e.leg l).since = t
  turnOn : (e.leg l).turnOn = on
  due : (e.leg l).due = due
  objs : e.objs = o

/-- A change of a leg's device leaves what is to come for the leg. -/
theorem Dev.legTo_stands (d : Dev) (l : Nat) (p : LegPos) (t : Nat) :
    (d.legTo l p t).LegStands d.objs l p t (d.leg l).turnOn (d.leg l).due := by
  have ho : (d.legTo l p t).objs = d.objs := by
    obtain ⟨x, r, h⟩ := d.legTo_frame l p t
    rw [h]
  refine ⟨?_, ?_, ?_, ?_, ho⟩ <;> simp [Dev.legTo]

/-- A turn-on to wait for is the only change that a leg's state sees of it. -/
theorem Dev.LegStands.await {e : Dev} {o : Tab Slot} {l t : Nat} {p : LegPos} {on : Option (LegPos × Nat)} {due : List (Nat × Nat × Nat)}
    (h : e.LegStands o l p t on due) (p' : LegPos) (t0 t1 : Nat) : (e.await l p' t0 t1).LegStands o l p t (some (p', t1)) due := by
  obtain ⟨hpos, hsince, -, hdue, hobjs⟩ := h
  refine ⟨?_, ?_, ?_, ?_, hobjs⟩ <;> simp [Dev.await, hpos, hsince, hdue]

/-- A delay measured changes the leg's delays alone. -/
theorem Dev.noteDelay_leg (d : Dev) (l : Nat) (was : LegPos) (delay : Nat) :
    (∃ t, (d.noteDelay l was delay).leg l = { d.leg l with delays := t }) ∧ (d.noteDelay l was delay).objs = d.objs := by
  unfold Dev.noteDelay
  dsimp only
  split_ifs
  · exact ⟨⟨_, rfl⟩, rfl⟩
  · exact ⟨⟨_, Dev.leg_setLeg_self _ _ _⟩, rfl⟩

/-- Where the leg's device is as before, no delay is measured. -/
theorem Dev.noteDelay_same {d : Dev} {l : Nat} {was : LegPos} (h : (d.leg l).pos = was) (delay : Nat) : d.noteDelay l was delay = d :=
  if_pos (.inl h)

theorem Dev.LegStands.noteDelay {e : Dev} {o : Tab Slot} {l t : Nat} {p : LegPos} {on : Option (LegPos × Nat)} {due : List (Nat × Nat × Nat)}
    (h : e.LegStands o l p t on due) (was : LegPos) (delay : Nat) : (e.noteDelay l was delay).LegStands o l p t on due := by
  obtain ⟨⟨x, hx⟩, ho⟩ := e.noteDelay_leg l was delay
  obtain ⟨hpos, hsince, hon, hdue, hobjs⟩ := h
  exact ⟨by rw [hx]; exact hpos, by rw [hx]; exact hsince, by rw [hx]; exact hon, by rw [hx]; exact hdue, ho.trans hobjs⟩

/-- A leg whose next edge is due, with no turn-on and no refresh before it. -/
structure Dev.EdgeDue (d : Dev) (l t st ctrl : Nat) (rest : List (Nat × Nat × Nat)) : Prop where
  turnOn : (d.leg l).turnOn = none
  refresh : (d.leg l).refresh = none
  due : (d.leg l).due = (t, st, ctrl) :: rest
  now : t ≤ d.nowQ + 31

/-- The leg with its next edge taken off the list. -/
def Dev.edgeTaken (d : Dev) (l : Nat) (rest : List (Nat × Nat × Nat)) : Dev := d.setLeg l { d.leg l with due := rest }

@[simp] theorem Dev.edgeTaken_pos (d : Dev) (l : Nat) (rest : List (Nat × Nat × Nat)) : ((d.edgeTaken l rest).leg l).pos = (d.leg l).pos := by
  simp [Dev.edgeTaken]

@[simp] theorem Dev.edgeTaken_due (d : Dev) (l : Nat) (rest : List (Nat × Nat × Nat)) : ((d.edgeTaken l rest).leg l).due = rest := by
  simp [Dev.edgeTaken]

section
variable {d : Dev} {l t st ctrl : Nat} {rest : List (Nat × Nat × Nat)} (h : d.EdgeDue l t st ctrl rest)
include h

/-- The edge that is due: one that commits only leaves the leg, any other sets it. -/
theorem Dev.legAction_edge (gateLow : Bool) : d.legAction l gateLow =
    if st = 3 then d.edgeTaken l rest else (d.edgeTaken l rest).edgeSet l (d.edgeTarget l st) t gateLow := by
  simp only [Dev.legAction, Dev.edgeDue, Dev.edgeTaken, h.turnOn, h.refresh, h.due, if_pos h.now]
  rfl

theorem Dev.edgeTaken_turnOn : ((d.edgeTaken l rest).leg l).turnOn = none := by simp [Dev.edgeTaken, h.turnOn]

/-- A change between high and low: off at the instant, the other device on DEAD_TIME later. -/
theorem Dev.edge_crosses {p : LegPos} (gateLow : Bool) (hp : d.edgeTarget l st = p) (h3 : st ≠ 3) (h0 : (d.leg l).pos ≠ .off)
    (hne : (d.leg l).pos ≠ p) (hoff : p ≠ .off) : (d.legAction l gateLow).LegStands d.objs l .off t (some (p, t + d.deadTime l)) rest := by
  have hx := ((d.edgeTaken l rest).legTo_stands l .off t).await p t (t + d.deadTime l)
  rw [d.legAction_edge h, if_neg h3, hp, Dev.edgeSet, Dev.edgeTaken_turnOn h, Dev.edgeTaken_pos, if_neg (by simp), if_neg hne, if_pos ⟨h0, hoff⟩]
  rw [Dev.edgeTaken_due] at hx
  exact hx

/-- A change to off has no dead time. -/
theorem Dev.edge_turnsOff (gateLow : Bool) (hp : d.edgeTarget l st = .off) (h3 : st ≠ 3) (h0 : (d.leg l).pos ≠ .off) :
    (d.legAction l gateLow).LegStands d.objs l .off t none rest := by
  have hs := (d.edgeTaken l rest).legTo_stands l .off t
  rw [Dev.edgeTaken_turnOn h, Dev.edgeTaken_due] at hs
  rw [d.legAction_edge h, if_neg h3, hp, Dev.edgeSet, Dev.edgeTaken_turnOn h, Dev.edgeTaken_pos, if_neg (by simp), if_neg h0, if_neg (by simp),
    if_pos (.inl rfl)]
  exact hs

/-- A turn-on from off takes place at once where the other gate is low. -/
theorem Dev.edge_turnsOn {p : LegPos} (hp : d.edgeTarget l st = p) (h3 : st ≠ 3) (h0 : (d.leg l).pos = .off) (hoff : p ≠ .off) :
    (d.legAction l true).LegStands d.objs l p t none rest := by
  have hs := (d.edgeTaken l rest).legTo_stands l p t
  rw [Dev.edgeTaken_turnOn h, Dev.edgeTaken_due] at hs
  rw [d.legAction_edge h, if_neg h3, hp, Dev.edgeSet, Dev.edgeTaken_turnOn h, Dev.edgeTaken_pos, h0, if_neg (by simp), if_neg hoff.symm, if_neg (by simp),
    if_pos (.inr rfl)]
  exact hs

/-- A turn-on from off waits while the other gate is not low. -/
theorem Dev.edge_awaits {p : LegPos} (hp : d.edgeTarget l st = p) (h3 : st ≠ 3) (h0 : (d.leg l).pos = .off) (hoff : p ≠ .off) :
    d.legAction l false = (d.edgeTaken l rest).await l p t t := by
  rw [d.legAction_edge h, if_neg h3, hp, Dev.edgeSet, Dev.edgeTaken_turnOn h, Dev.edgeTaken_pos, h0, if_neg (by simp), if_neg hoff.symm, if_neg (by simp),
    if_neg (by simp [hoff])]

end

/-- A turn-on whose instant has come, the other gate being low. -/
theorem Dev.turnOn_due {d : Dev} {l t : Nat} {p : LegPos} (hr : (d.leg l).refresh = none) (ht : (d.leg l).turnOn = some (p, t))
    (hn : t ≤ d.nowQ + 31) : (d.legAction l true).LegStands d.objs l p (max t d.nowQ) none (d.leg l).due := by
  have hx : d.legAction l true = (d.setLeg l { d.leg l with turnOn := none }).legTo l p (max t d.nowQ) := by
    simp only [Dev.legAction, ht, hn, Dev.turnOnNow, hr, and_self, if_true]
  have hs := (d.setLeg l { d.leg l with turnOn := none }).legTo_stands l p (max t d.nowQ)
  rw [Dev.leg_setLeg_self] at hs
  rw [hx]
  exact hs

/-- A turn-on whose gate does not allow it waits; with no edge due nothing happens. -/
theorem Dev.turnOn_held {d : Dev} {l t : Nat} {p : LegPos} (ht : (d.leg l).turnOn = some (p, t)) (hd : (d.leg l).due = []) :
    d.legAction l false = d := by
  simp [Dev.legAction, Dev.edgeDue, ht, hd]

theorem exec_edgeApply {s : State} {l : Nat} (hu : s.unitsOn = true) (hl : s.dev.hasLeg l = true) (gateLow : Bool) (delay : Nat) :
    exec (.edgeApply l gateLow delay) s = .next (s.onDev fun d => (d.legAction l gateLow).noteDelay l (d.leg l).pos delay) := by
  show execEdgeApply l gateLow delay s = _
  simp only [execEdgeApply, gated_on hu, onDev, State.onDev, hl, if_true]

end Sys2Proof.Machine

namespace Sys2Proof

open Sys2Proof.Machine

/-- A leg's action leaves the leg as it stands after it, whatever delay has been measured. -/
theorem edgeApply_stands {s : State} {l t delay : Nat} {p : LegPos} {on : Option (LegPos × Nat)} {due : List (Nat × Nat × Nat)}
    {gateLow : Bool} (hu : s.unitsOn = true) (hl : s.dev.hasLeg l = true)
    (h : (s.dev.legAction l gateLow).LegStands s.dev.objs l p t on due) :
    Completes (.edgeApply l gateLow delay) s fun u => (u.dev.leg l).pos = p ∧ (u.dev.leg l).since = t ∧ (u.dev.leg l).turnOn = on ∧
      (u.dev.leg l).due = due ∧ u.dev.objs = s.dev.objs := by
  obtain ⟨hpos, hsince, hon, hdue, hobjs⟩ := h.noteDelay (s.dev.leg l).pos delay
  exact completes_of_eq (exec_edgeApply hu hl gateLow delay) ⟨hpos, hsince, hon, hdue, hobjs⟩

section
variable {s : State} {l t st ctrl : Nat} {rest : List (Nat × Nat × Nat)} (hu : s.unitsOn = true) (hl : s.dev.hasLeg l = true)
  (h : s.dev.EdgeDue l t st ctrl rest) (delay : Nat)
include hu hl h

theorem edgeApply_awaits (h0 : (s.dev.leg l).pos = .off) (hst : st = 2) :
    Completes (.edgeApply l false delay) s fun u => (u.dev.leg l).pos = .off ∧ (u.dev.leg l).turnOn = some (.low, t) ∧
      (u.dev.leg l).giveUp = t + s.dev.deadTime l + 800 ∧ (u.dev.leg l).due = rest ∧ u.dev.objs = s.dev.objs := by
  have hx := exec_edgeApply hu hl false delay
  rw [State.onDev, Dev.edge_awaits h (p := .low) (by simp [Dev.edgeTarget, hst]) (by omega) h0 (by simp),
    Dev.noteDelay_same (by simp [Dev.await, Dev.edgeTaken])] at hx
  refine completes_of_eq hx ?_
  simp [Dev.await, Dev.edgeTaken, h0]
  rfl

theorem edgeApply_commitsOnly (gateLow : Bool) (hst : st = 3) :
    exec (.edgeApply l gateLow delay) s = .next (s.onDev fun d => d.setLeg l { d.leg l with due := rest }) := by
  rw [exec_edgeApply hu hl, State.onDev, Dev.legAction_edge h, if_pos hst, Dev.noteDelay_same (by simp [Dev.edgeTaken])]
  rfl

end

/-- Settles O9: the leg's action is one equation per edge, and a measured delay leaves the leg's state. -/
theorem edgesMoveALegWithItsDeadTime : Obligations.EdgesMoveALegWithItsDeadTime := by
  unfold Obligations.EdgesMoveALegWithItsDeadTime
  intro s l t st ctrl delay gateLow rest hu hl hr
  refine ⟨fun hon hdue hnow => ?_, fun p hon hnow => ⟨?_, fun hdue => ?_⟩⟩
  · have h : s.dev.EdgeDue l t st ctrl rest := ⟨hon, hr, hdue, hnow⟩
    refine ⟨fun hpos hst => ?_, fun hpos hst hls => ?_, fun hpos hst hls => ?_, fun hpos hst => ?_, fun hpos hst => ⟨?_, ?_⟩, fun hst => ?_⟩
    · exact edgeApply_stands hu hl (Dev.edge_crosses h gateLow (by simp [Dev.edgeTarget, hst]) (by omega) (by simp [hpos])
        (by simp [hpos]) (by simp))
    · exact edgeApply_stands hu hl (Dev.edge_crosses h gateLow (by simp [Dev.edgeTarget, hst, hls]) (by omega) (by simp [hpos])
        (by simp [hpos]) (by simp))
    · exact edgeApply_stands hu hl (Dev.edge_turnsOff h gateLow (by simp [Dev.edgeTarget, hst, hls]) (by omega) (by simp [hpos]))
    · exact edgeApply_stands hu hl (Dev.edge_turnsOff h gateLow (by simp [Dev.edgeTarget, hst]) (by omega) hpos)
    · exact edgeApply_stands hu hl (Dev.edge_turnsOn h (by simp [Dev.edgeTarget, hst]) (by omega) hpos (by simp))
    · exact edgeApply_awaits hu hl h delay hpos hst
    · exact completes_of_eq (edgeApply_commitsOnly hu hl h delay gateLow hst) rfl
  · exact edgeApply_stands hu hl (Dev.turnOn_due hr hon hnow)
  · rw [exec_edgeApply hu hl, State.onDev, Dev.turnOn_held hon hdue, Dev.noteDelay_same rfl]

end Sys2Proof

namespace Sys2Proof.Machine

/-! ## The time state (R40, R393) -/

theorem Dev.timeEvent_frame (d : Dev) (type : Nat) (p : Bytes) : ∃ o m f, d.timeEvent type p = { d with objs := o, mail := m, flt := f } :=
  Dev.event_frame _ _ _ _ _ _

theorem Dev.timeEvent_rd (d : Dev) (type : Nat) (p : Bytes) {k : Nat} (h : k < 0x1430 * 256 ∨ 0x1441 * 256 ≤ k) :
    (d.timeEvent type p).rd k = d.rd k := Dev.event_rd _ _ _ _ _ _ _ (by decide) (postingSlot_outside h)

theorem Dev.showMember_frame (d : Dev) : ∃ o l, d.showMember = { d with objs := o, loss := l } := ⟨_, _, rfl⟩

theorem Dev.showMember_same (d : Dev) : d.SlotsSame d.showMember [K.MEMBER] :=
  ((Dev.SlotsSame.refl d _).of_rd fun _ => rfl).wr _ (by simp)

/-- The time unit as it enters a time state, before its event. -/
def Dev.enterTState (d : Dev) (new : Nat) : Dev :=
  let d := { d with time := { d.time with lockRun := 0, badRun := 0, trefSince := none } }.wr K.TSTATE new
  let d := if new = 0 then (d.wr K.RATE 0).aimRate 0 else if new = 3 then d.aimRate (d.rdI 32 K.RATE) else d
  if new = 3 then d else d.setBit K.TFLAGS 0 false

/-- The event of a change of the time state, and source 0x28A where it leaves Locked. -/
def Dev.reportTState (d : Dev) (old new : Nat) : Dev :=
  if old = 2 then (d.stateEvent old new).raise 0x28A (d.stateEvent old new).nt else d.stateEvent old new

theorem Dev.setTState_eq {d : Dev} {new : Nat} (h : d.rd K.TSTATE ≠ new) :
    d.setTState new = ((d.enterTState new).reportTState (d.rd K.TSTATE) new).showMember := if_neg h

theorem Dev.enterTState_frame (d : Dev) (new : Nat) :
    ∃ o t, d.enterTState new = { d with objs := o, time := t } ∧ t.tref = d.time.tref := by
  unfold Dev.enterTState
  dsimp only
  split_ifs <;> exact ⟨_, _, rfl, rfl⟩

theorem Dev.aimRate_rd (d : Dev) (x : Int) (k : Nat) : (d.aimRate x).rd k = d.rd k := rfl

/-- The slots that the entry into a time state writes: the state, RATE where it is Free-running, a pending step's flag. -/
theorem Dev.enterTState_rd (d : Dev) {new : Nat} (hn : new < 4) (k : Nat) (hk : k ≠ K.TFLAGS) : (d.enterTState new).rd k =
    if k = K.TSTATE then new else if new = 0 ∧ k = K.RATE then 0 else d.rd k := by
  have hlt : new % 2 ^ 64 = new := Nat.mod_eq_of_lt (lt_trans hn (by decide))
  have hplain : ({ d with time := { d.time with lockRun := 0, badRun := 0, trefSince := none } }.wr K.TSTATE new).rd k =
      if k = K.TSTATE then new else d.rd k := by
    rw [Dev.rd_wr, hlt, eq_comm]
    exact if_congr eq_comm rfl rfl
  have hne : K.RATE ≠ K.TSTATE := by decide
  unfold Dev.enterTState
  dsimp only
  by_cases h3 : new = 3
  · rw [if_pos h3, if_neg (by omega), if_pos h3, Dev.aimRate_rd, hplain, if_neg (c := new = 0 ∧ _) (by omega)]
  · rw [if_neg h3, if_neg h3, Dev.rd_setBit_ne _ _ _ hk.symm]
    by_cases h0 : new = 0
    · rw [if_pos h0, Dev.aimRate_rd, Dev.rd_wr, hplain]
      by_cases hr : k = K.RATE
      · simp [hr, h0]
      · rw [if_neg (Ne.symm hr), if_neg (c := new = 0 ∧ _) (by tauto)]
    · rw [if_neg h0, hplain, if_neg (c := new = 0 ∧ _) (by tauto)]

/-- Beside bit 0 the entry into a time state leaves TFLAGS. -/
theorem Dev.enterTState_flag (d : Dev) (new : Nat) {i : Nat} (hi : i ≠ 0) : (d.enterTState new).bit K.TFLAGS i = d.bit K.TFLAGS i := by
  have hplain : ({ d with time := { d.time with lockRun := 0, badRun := 0, trefSince := none } }.wr K.TSTATE new).rd K.TFLAGS =
      d.rd K.TFLAGS := Dev.rd_wr_ne _ _ (by decide)
  have hflag (e : Dev) (he : e.rd K.TFLAGS = d.rd K.TFLAGS) :
      (if new = 3 then e else e.setBit K.TFLAGS 0 false).bit K.TFLAGS i = d.bit K.TFLAGS i := by
    split_ifs
    · exact Dev.bit_congr he i
    · rw [Dev.bit_setBit _ _ _ _ (by decide), if_neg (Ne.symm hi)]
      exact Dev.bit_congr he i
  unfold Dev.enterTState
  refine hflag _ ?_
  split_ifs
  · rw [Dev.aimRate_rd, Dev.rd_wr_ne _ _ (by decide), hplain]
  · rw [Dev.aimRate_rd, hplain]
  · exact hplain

theorem Dev.reportTState_frame (d : Dev) (old new : Nat) :
    ∃ o m f, d.reportTState old new = { d with objs := o, mail := m, flt := f } := by
  obtain ⟨o, m, f, he⟩ : ∃ o m f, d.stateEvent old new = { d with objs := o, mail := m, flt := f } := d.timeEvent_frame _ _
  obtain ⟨f', hf⟩ := (d.stateEvent old new).raise_frame 0x28A (d.stateEvent old new).nt false
  unfold Dev.reportTState
  split_ifs
  · rw [hf, he]
    exact ⟨_, _, _, rfl⟩
  · exact ⟨_, _, _, he⟩

theorem Dev.reportTState_rd (d : Dev) (old new : Nat) {k : Nat} (h : k < 0x1430 * 256 ∨ 0x1441 * 256 ≤ k) :
    (d.reportTState old new).rd k = d.rd k := by
  have he : (d.stateEvent old new).rd k = d.rd k := d.timeEvent_rd _ _ h
  unfold Dev.reportTState
  split_ifs
  · rw [Dev.raise_rd, he]
  · exact he

/-- A change of the time state changes the store, the mailbag, the raises, the time unit and what is known of losses. -/
theorem Dev.setTState_frame {d : Dev} {new : Nat} (h : d.rd K.TSTATE ≠ new) :
    ∃ o m f t l, d.setTState new = { d with objs := o, mail := m, flt := f, time := t, loss := l } ∧ t.tref = d.time.tref := by
  obtain ⟨o, t, he, ht⟩ := d.enterTState_frame new
  obtain ⟨o', m, f, hr⟩ := (d.enterTState new).reportTState_frame (d.rd K.TSTATE) new
  obtain ⟨o2, l, hm⟩ := ((d.enterTState new).reportTState (d.rd K.TSTATE) new).showMember_frame
  rw [Dev.setTState_eq h, hm, hr, he]
  exact ⟨_, _, _, _, _, rfl, ht⟩

theorem Dev.setTState_rd {d : Dev} {new k : Nat} (h : d.rd K.TSTATE ≠ new) (hk : k < 0x1430 * 256 ∨ 0x1441 * 256 ≤ k)
    (hm : k ≠ K.MEMBER) : (d.setTState new).rd k = (d.enterTState new).rd k := by
  rw [Dev.setTState_eq h, Dev.showMember_same _ k (by simpa using hm), Dev.reportTState_rd _ _ _ hk]

/-- Leaving Locked raises source 0x28A (R393). -/
theorem Dev.setTState_raised {d : Dev} {new : Nat} (h2 : d.rd K.TSTATE = 2) (hn : new ≠ 2) :
    ∃ r ∈ (d.setTState new).flt.raises, r.src = 0x28A ∧ r.nt = d.nt := by
  obtain ⟨o, t, he, -⟩ := d.enterTState_frame new
  obtain ⟨o', m, f, hs⟩ : ∃ o m f, (d.enterTState new).stateEvent 2 new = { d.enterTState new with objs := o, mail := m, flt := f } :=
    Dev.timeEvent_frame _ _ _
  have hnt : ((d.enterTState new).stateEvent 2 new).nt = d.nt := by rw [hs, he]
  rw [Dev.setTState_eq (by omega), h2, Dev.reportTState, if_pos rfl, hnt]
  obtain ⟨_, _, hm⟩ := (((d.enterTState new).stateEvent 2 new).raise 0x28A d.nt).showMember_frame
  rw [hm]
  exact ⟨_, Dev.raised_of_present _ _ _ _ rfl rfl, rfl, rfl⟩

/-! ## The time source (R390, R393) -/

/-- The new time port stored, its event to come. -/
def Dev.portStored (d : Dev) (new : Nat) : Dev :=
  { d with time := { d.time with oldPort := some (d.time.oldPort.getD (d.rd K.TIME_PORT)), lockRun := 0, badRun := 0, trefSince := none,
                                 lastSync := d.now } }.wr K.TIME_PORT new

theorem Dev.setTimePort_eq {d : Dev} {new : Nat} (h : d.rd K.TIME_PORT ≠ new) : d.setTimePort new =
    if (d.portStored new).rd K.TSTATE = 2 then (d.portStored new).setTState 3
    else if new = 0 ∧ (d.portStored new).rd K.TSTATE = 1 then ((d.portStored new).setBit K.TFLAGS 1 false).setTState 0
    else d.portStored new := if_neg h

theorem Dev.portStored_rd (d : Dev) (new : Nat) {k : Nat} (h : k ≠ K.TIME_PORT) : (d.portStored new).rd k = d.rd k :=
  Dev.rd_wr_ne _ _ h.symm

/-- In Free-running a new time port is stored, and nothing else changes beside the time unit. -/
theorem Dev.setTimePort_freeRunning {d : Dev} (h0 : d.rd K.TSTATE = 0) (new : Nat) (hn : new < 2 ^ 64) :
    ∃ o t, d.setTimePort new = { d with objs := o, time := t } ∧ t.tref = d.time.tref ∧
      (d.setTimePort new).rd K.TIME_PORT = new ∧ (d.setTimePort new).rd K.TSTATE = 0 := by
  by_cases h : d.rd K.TIME_PORT = new
  · have he : d.setTimePort new = d := if_pos h
    rw [he]
    exact ⟨_, _, rfl, rfl, h, h0⟩
  · have hs : (d.portStored new).rd K.TSTATE = 0 := (d.portStored_rd new (by decide)).trans h0
    rw [Dev.setTimePort_eq h, hs, if_neg (by decide), if_neg (by simp)]
    exact ⟨_, _, rfl, rfl, (Dev.rd_wr_self _ _ _).trans (Nat.mod_eq_of_lt hn), hs⟩

/-- TREF present no more, at a device that takes its time from it. -/
def Dev.trefLost (d : Dev) : Dev := { d with time := { d.time with tref := false } }.setBit K.TFLAGS 1 false

theorem Dev.trefLost_rd (d : Dev) {k : Nat} (h : k ≠ K.TFLAGS) : d.trefLost.rd k = d.rd k := Dev.rd_setBit_ne _ _ _ h.symm

/-- Without TREF a root of no plant port runs free. -/
theorem Dev.trefLost_wanted {d : Dev} (hs : d.rd K.TSOURCE = 0) (hr : d.rootRole = true) (hp : d.rd K.PORTC_MODE ≠ 4) :
    d.trefLost.wantedSource d.trefLost.time.tref = 0 := by
  have hs' : d.trefLost.rd K.TSOURCE = 0 := (d.trefLost_rd (by decide)).trans hs
  have hp' : d.trefLost.rd K.PORTC_MODE ≠ 4 := by rwa [d.trefLost_rd (by decide)]
  have hr' : d.trefLost.rootRole = true := by
    rw [Dev.rootRole, d.trefLost_rd (by decide), d.trefLost_rd (by decide), ← Dev.rootRole]
    exact hr
  have ht : d.trefLost.time.tref = false := rfl
  simp [Dev.wantedSource, hs', hr', hp', ht]

/-- The loss of a source in Acquiring or Locked ends in the state that the change of the time port has brought. -/
theorem Dev.sourceLost_after {d : Dev} (h1 : d.rd K.TSTATE ≠ 1) (h2 : d.rd K.TSTATE ≠ 2) : d.sourceLost = d.setBit K.TFLAGS 1 false := by
  have hs : (d.setBit K.TFLAGS 1 false).rd K.TSTATE = d.rd K.TSTATE := Dev.rd_setBit_ne _ _ _ (by decide)
  rw [Dev.sourceLost, hs, if_neg h1, if_neg h2]

theorem exec_timeSourceLost {s : State} (hf : s.dev.bit K.TFLAGS 1 = true) (hp : s.dev.rd K.TIME_PORT = 1) :
    exec .timeSourceLost s = .next (s.onDev fun d => d.trefLost.retime.sourceLost) := by
  show execTimeSourceLost s = _
  simp only [execTimeSourceLost, onDev, State.onDev, hf, hp, not_true_eq_false, if_false, if_true]
  rfl

/-- TREF lost where it serves as the source: the time port is 0. -/
theorem Dev.trefLost_retime {d : Dev} (hs : d.rd K.TSOURCE = 0) (hr : d.rootRole = true) (hm : d.rd K.PORTC_MODE ≠ 4)
    (hp : d.rd K.TIME_PORT = 1) : d.trefLost.retime =
      if d.rd K.TSTATE = 2 then (d.trefLost.portStored 0).setTState 3
      else if d.rd K.TSTATE = 1 then ((d.trefLost.portStored 0).setBit K.TFLAGS 1 false).setTState 0
      else d.trefLost.portStored 0 := by
  have hport : d.trefLost.rd K.TIME_PORT ≠ 0 := by rw [d.trefLost_rd (by decide), hp]; decide
  have hstate : (d.trefLost.portStored 0).rd K.TSTATE = d.rd K.TSTATE := by
    rw [Dev.portStored_rd _ _ (by decide), d.trefLost_rd (by decide)]
  rw [Dev.retime, Dev.trefLost_wanted hs hr hm, Dev.setTimePort_eq hport, hstate]
  simp

/-! ## Measurements (R392, R393) -/

/-- A measurement's offset shown changes OFFSET. -/
theorem Dev.showOffset_same (d : Dev) (x : Int) : d.SlotsSame (d.showOffset x) [K.OFFSET] := (Dev.SlotsSame.refl d _).wr _ (by simp)

/-- The event of a new source changes posting, the raises and the time port before it. -/
theorem Dev.portChanged_frame (d : Dev) :
    ∃ o m f x, d.portChanged = { d with objs := o, mail := m, flt := f, time := { d.time with oldPort := x } } := by
  unfold Dev.portChanged
  split
  · dsimp only
    split_ifs
    · exact ⟨_, _, _, _, rfl⟩
    · obtain ⟨o, m, f, he⟩ := Dev.timeEvent_frame _ _ _
      rw [he]
      exact ⟨_, _, _, _, rfl⟩
  · exact ⟨_, _, _, _, rfl⟩

theorem Dev.portChanged_rd (d : Dev) {k : Nat} (h : postingSlot k = false) : d.portChanged.rd k = d.rd k := by
  unfold Dev.portChanged
  split
  · dsimp only
    split_ifs
    · rfl
    · exact (Dev.event_rd _ _ _ _ _ _ _ (by decide) h).trans rfl
  · rfl

/-- A Sync far off before the lock: its offset is shown, and a step waits. -/
theorem Dev.syncTheta_steps {d : Dev} (p : Nat) {x : Int} (hs : d.rd K.TSTATE ≤ 1) (hx : 1000000 < x.natAbs) : d.syncTheta p x =
    { (d.showOffset x).portChanged with
      time := { (d.showOffset x).portChanged.time with step := some (-(x * 65536 / 1000)), lockRun := 0 } } := by
  have hs' : (d.showOffset x).portChanged.rd K.TSTATE = d.rd K.TSTATE := by
    rw [Dev.portChanged_rd _ (postingSlot_outside (by lia)), Dev.showOffset_same _ _ _ (by simp)]
  rw [Dev.syncTheta, hs']
  exact if_pos ⟨hs, hx⟩

end Sys2Proof.Machine

namespace Sys2Proof.Machine

theorem exec_timeSourceFound_tref {s : State} (hw : s.dev.wantedSource true = 1) (hf : s.dev.bit K.TFLAGS 1 = false) :
    exec .timeSourceFound s = .next (s.onDev fun d =>
      let e := (({ d with time := { d.time with tref := true } } : Dev).setTimePort 1).setBit K.TFLAGS 1 true
      if e.rd K.TSTATE = 0 then e.setTState 1 else e) := by
  show execTimeSourceFound s = _
  simp [execTimeSourceFound, onDev, State.onDev, hw, hf]

/-- A Sync received on a port, where it is the time port. -/
def Dev.syncHeard (d : Dev) (p : Nat) : Dev :=
  let d := d.setPort p { d.port p with last := d.now }
  { d with time := { d.time with lastSync := d.now } }

theorem exec_sync_timePort {s : State} {p : Nat} (hr : s.dev.portReady p = true) (hp : s.dev.rd K.TIME_PORT = p + 2) (t1 t2 : Int) :
    exec (.sync p t1 t2) s = .next (s.onDev fun d =>
      (d.syncHeard p).syncTheta p (t2 - t1 - d.rd (K.MEAN_DELAY p) - d.rdI 32 (K.ASYM p))) := by
  have hp' : (s.dev.setPort p { s.dev.port p with last := s.dev.now }).rd K.TIME_PORT = p + 2 := hp
  show execSync p t1 t2 s = _
  simp only [execSync, onDev, State.onDev, hr, not_true_eq_false, if_false, hp', ne_eq]
  rfl

theorem exec_sync_other {s : State} {p : Nat} (hr : s.dev.portReady p = true) (hp : s.dev.rd K.TIME_PORT ≠ p + 2) (t1 t2 : Int) :
    exec (.sync p t1 t2) s = .next (s.onDev fun d => d.setPort p { d.port p with last := d.now }) := by
  have hp' : (s.dev.setPort p { s.dev.port p with last := s.dev.now }).rd K.TIME_PORT ≠ p + 2 := hp
  show execSync p t1 t2 s = _
  simp only [execSync, onDev, State.onDev, hr, not_true_eq_false, if_false, hp', ne_eq, if_true, not_false_eq_true]

/-- The tick has followed TREF since t, and the servo steers by the comparison. -/
def Dev.trefFollowed (d : Dev) (x : Int) (t : Nat) : Dev :=
  { (d.showOffset x).portChanged with time := { (d.showOffset x).portChanged.time with trefSince := some t } }.steer x

/-- TREF followed for 100 ms, the seconds set where they have to be: the time unit locks (R393). -/
theorem exec_trefComparison_locks {s : State} {x : Int} {t : Nat} (hp : s.dev.rd K.TIME_PORT = 1) (ht : s.dev.time.tref = true)
    (hs : s.dev.rd K.TSTATE = 1) (hx : x.natAbs ≤ 1000) (hsince : s.dev.time.trefSince = some t) (hnow : t + 100000000 ≤ s.dev.now + 7)
    (hpps : s.dev.rd K.PPS_EN = 0 ∨ s.dev.time.ppsSet = true) :
    exec (.trefComparison x) s = .next (s.onDev fun d => (d.trefFollowed x t).setTState 2) := by
  obtain ⟨o, m, f, y, hframe⟩ := (s.dev.showOffset x).portChanged_frame
  have hrd (k : Nat) (hk : k < 0x1430 * 256 ∨ 0x1441 * 256 ≤ k) (hk' : k ≠ K.OFFSET) :
      (s.dev.showOffset x).portChanged.rd k = s.dev.rd k := by
    rw [Dev.portChanged_rd _ (postingSlot_outside hk), Dev.showOffset_same _ _ _ (by simpa using hk')]
  have hstate := (hrd K.TSTATE (by lia) (by lia)).trans hs
  have hsince' : (s.dev.showOffset x).portChanged.time.trefSince = some t := by rw [hframe]; exact hsince
  have hnow' : (s.dev.showOffset x).portChanged.now = s.dev.now := by rw [hframe]; rfl
  have hpps' : (s.dev.trefFollowed x t).rd K.PPS_EN = 0 ∨ (s.dev.trefFollowed x t).time.ppsSet = true := by
    refine hpps.imp (fun h => (hrd K.PPS_EN (by lia) (by lia)).trans h) fun h => ?_
    show (s.dev.showOffset x).portChanged.time.ppsSet = true
    rw [hframe]
    exact h
  have hat : t + 100000000 ≤ (s.dev.trefFollowed x t).now + 7 := by
    show t + 100000000 ≤ (s.dev.showOffset x).portChanged.now + 7
    rwa [hnow']
  show execTrefComparison x s = _
  simp only [execTrefComparison, onDev, State.onDev, hp, ht, ne_eq, not_true_eq_false, or_self, if_false, hstate, hsince', hx, if_true,
    Option.getD_some]
  exact congrArg (fun d => Host.Outcome.next ({ s with dev := d } : State)) (if_pos ⟨hat, hpps'⟩)

end Sys2Proof.Machine

namespace Sys2Proof

open Sys2Proof.Machine

theorem timeSourceFound_acquires {s : State} (hw : s.dev.wantedSource true = 1) (hf : s.dev.bit K.TFLAGS 1 = false)
    (h0 : s.dev.rd K.TSTATE = 0) :
    Completes .timeSourceFound s fun u => u.dev.time.tref = true ∧ u.dev.rd K.TIME_PORT = 1 ∧ u.dev.bit K.TFLAGS 1 = true ∧
      u.dev.rd K.TSTATE = 1 ∧ u.dev.nt = s.dev.nt := by
  obtain ⟨o, t, hp, htref, hport, hstate⟩ :=
    Dev.setTimePort_freeRunning (d := { s.dev with time := { s.dev.time with tref := true } }) h0 1 (by decide)
  have hx := exec_timeSourceFound_tref hw hf
  dsimp only [State.onDev] at hx
  generalize hy : ({ s.dev with time := { s.dev.time with tref := true } } : Dev).setTimePort 1 = y at *
  generalize he : y.setBit K.TFLAGS 1 true = e at hx
  have hstate' : e.rd K.TSTATE = 0 := by rw [← he, Dev.rd_setBit_ne _ _ _ (by decide), hstate]
  have hne : e.rd K.TSTATE ≠ 1 := by rw [hstate']; decide
  have hflag : e.bit K.TFLAGS 1 = true := by rw [← he]; exact Dev.bit_setBit_self _ _ _ (by decide)
  rw [if_pos hstate'] at hx
  obtain ⟨o', m, f, t', l, hframe, ht'⟩ := Dev.setTState_frame hne
  have hrd {k : Nat} (hk : k < 0x1430 * 256) (hm : k ≠ K.MEMBER) := Dev.setTState_rd hne (.inl hk) hm
  refine completes_of_eq hx ⟨?_, ?_, ?_, ?_, ?_⟩
  · show (e.setTState 1).time.tref = true
    rw [hframe]
    refine ht'.trans ?_
    rw [← he, hp]
    exact htref
  · refine (hrd (by lia) (by lia)).trans ?_
    rw [Dev.enterTState_rd _ (by decide) _ (by decide), if_neg (by decide), if_neg (by decide), ← he,
      Dev.rd_setBit_ne _ _ _ (by decide), hport]
  · exact (Dev.bit_congr (hrd (by lia) (by lia)) 1).trans ((e.enterTState_flag 1 (by decide)).trans hflag)
  · refine (hrd (by lia) (by lia)).trans ?_
    rw [Dev.enterTState_rd _ (by decide) _ (by decide), if_pos rfl]
  · show (e.setTState 1).nt = _
    rw [hframe, ← he, hp]
    rfl

section
variable {s : State} (hf : s.dev.bit K.TFLAGS 1 = true) (hp : s.dev.rd K.TIME_PORT = 1) (hs : s.dev.rd K.TSOURCE = 0)
  (hr : s.dev.rootRole = true) (hm : s.dev.rd K.PORTC_MODE ≠ 4)
include hf hp hs hr hm

theorem timeSourceLost_runsFree (h1 : s.dev.rd K.TSTATE = 1) :
    Completes .timeSourceLost s fun u => u.dev.bit K.TFLAGS 1 = false ∧ u.dev.rd K.TSTATE = 0 ∧ u.dev.rd K.RATE = 0 := by
  have hx := exec_timeSourceLost hf hp
  rw [State.onDev, Dev.trefLost_retime hs hr hm hp, if_neg (by omega), if_pos h1] at hx
  generalize he : (s.dev.trefLost.portStored 0).setBit K.TFLAGS 1 false = e at hx
  have hstate : e.rd K.TSTATE = 1 := by
    rw [← he, Dev.rd_setBit_ne _ _ _ (by decide), Dev.portStored_rd _ _ (by decide), Dev.trefLost_rd _ (by decide), h1]
  have hne : e.rd K.TSTATE ≠ 0 := by rw [hstate]; decide
  have hrd {k : Nat} (hk : k < 0x1430 * 256) (hm : k ≠ K.MEMBER) := Dev.setTState_rd hne (.inl hk) hm
  have hnew : (e.setTState 0).rd K.TSTATE = 0 := by
    rw [hrd (by lia) (by lia), Dev.enterTState_rd _ (by decide) _ (by decide), if_pos rfl]
  rw [Dev.sourceLost_after (by rw [hnew]; decide) (by rw [hnew]; decide)] at hx
  refine completes_of_eq hx ⟨Dev.bit_setBit_self _ _ _ (by decide), (Dev.rd_setBit_ne _ _ _ (by decide)).trans hnew, ?_⟩
  refine (Dev.rd_setBit_ne _ _ _ (by decide)).trans ?_
  rw [hrd (by lia) (by lia), Dev.enterTState_rd _ (by decide) _ (by decide), if_neg (by decide), if_pos ⟨rfl, rfl⟩]

theorem timeSourceLost_holdsOver (h2 : s.dev.rd K.TSTATE = 2) :
    Completes .timeSourceLost s fun u => u.dev.bit K.TFLAGS 1 = false ∧ u.dev.rd K.TSTATE = 3 ∧ u.dev.rd K.RATE = s.dev.rd K.RATE ∧
      Raised u 0x28A s.dev.nt := by
  have hx := exec_timeSourceLost hf hp
  rw [State.onDev, Dev.trefLost_retime hs hr hm hp, if_pos h2] at hx
  generalize he : s.dev.trefLost.portStored 0 = e at hx
  have hkeep {k : Nat} (h1 : k ≠ K.TIME_PORT) (h2 : k ≠ K.TFLAGS) : e.rd k = s.dev.rd k := by
    rw [← he, Dev.portStored_rd _ _ h1, Dev.trefLost_rd _ h2]
  have hstate : e.rd K.TSTATE = 2 := (hkeep (by decide) (by decide)).trans h2
  have hne : e.rd K.TSTATE ≠ 3 := by rw [hstate]; decide
  have hrd {k : Nat} (hk : k < 0x1430 * 256) (hm : k ≠ K.MEMBER) := Dev.setTState_rd hne (.inl hk) hm
  have hnew : (e.setTState 3).rd K.TSTATE = 3 := by
    rw [hrd (by lia) (by lia), Dev.enterTState_rd _ (by decide) _ (by decide), if_pos rfl]
  rw [Dev.sourceLost_after (by rw [hnew]; decide) (by rw [hnew]; decide)] at hx
  refine completes_of_eq hx ⟨Dev.bit_setBit_self _ _ _ (by decide), (Dev.rd_setBit_ne _ _ _ (by decide)).trans hnew, ?_, ?_⟩
  · refine (Dev.rd_setBit_ne _ _ _ (by decide)).trans ?_
    rw [hrd (by lia) (by lia), Dev.enterTState_rd _ (by decide) _ (by decide), if_neg (by decide), if_neg (by decide),
      hkeep (by decide) (by decide)]
  · have hraised := Dev.setTState_raised hstate (show 3 ≠ 2 by decide)
    rw [← he] at hraised ⊢
    exact hraised

end

theorem sync_beforeLock {s : State} {p : Nat} (hr : s.dev.portReady p = true) (hp : s.dev.rd K.TIME_PORT = p + 2) (t1 t2 : Int)
    (hs : s.dev.rd K.TSTATE ≤ 1) (hx : 1000000 < (t2 - t1 - s.dev.rd (K.MEAN_DELAY p) - s.dev.rdI 32 (K.ASYM p)).natAbs) :
    Completes (.sync p t1 t2) s fun u =>
      u.dev.time.step = some (-((t2 - t1 - s.dev.rd (K.MEAN_DELAY p) - s.dev.rdI 32 (K.ASYM p)) * 65536 / 1000)) ∧
      u.dev.time.lastSync = s.dev.now ∧ u.dev.rd K.TSTATE = s.dev.rd K.TSTATE ∧ u.dev.nt = s.dev.nt ∧ SlotsKept s u [K.OFFSET] := by
  have he := exec_sync_timePort hr hp t1 t2
  rw [State.onDev] at he
  generalize t2 - t1 - s.dev.rd (K.MEAN_DELAY p) - s.dev.rdI 32 (K.ASYM p) = x at *
  rw [Dev.syncTheta_steps p (d := s.dev.syncHeard p) hs hx] at he
  have hsame := (s.dev.syncHeard p).showOffset_same x
  have hkept (k : Nat) (hk : k ∉ [K.OFFSET]) (hpost : postingSlot k = false) :
      ((s.dev.syncHeard p).showOffset x).portChanged.rd k = s.dev.rd k :=
    (Dev.portChanged_rd _ hpost).trans ((hsame k hk).trans rfl)
  obtain ⟨o, m, f, y, hframe⟩ := ((s.dev.syncHeard p).showOffset x).portChanged_frame
  refine completes_of_eq he ⟨rfl, ?_, hkept _ (by decide) (postingSlot_outside (by lia)), ?_, hkept⟩
  · show ((s.dev.syncHeard p).showOffset x).portChanged.time.lastSync = _
    rw [hframe]
    rfl
  · show ((s.dev.syncHeard p).showOffset x).portChanged.nt = _
    rw [hframe]
    rfl

theorem trefComparison_locks {s : State} {x : Int} {t : Nat} (hp : s.dev.rd K.TIME_PORT = 1) (ht : s.dev.time.tref = true)
    (hs : s.dev.rd K.TSTATE = 1) (hx : x.natAbs ≤ 1000) (hsince : s.dev.time.trefSince = some t) (hnow : t + 100000000 ≤ s.dev.now + 7)
    (hpps : s.dev.rd K.PPS_EN = 0 ∨ s.dev.time.ppsSet = true) :
    Completes (.trefComparison x) s fun u => u.dev.rd K.TSTATE = 2 ∧ u.dev.nt = s.dev.nt ∧ u.dev.legs = s.dev.legs := by
  have he := exec_trefComparison_locks hp ht hs hx hsince hnow hpps
  obtain ⟨o, m, f, y, hframe⟩ := (s.dev.showOffset x).portChanged_frame
  have hstate : (s.dev.trefFollowed x t).rd K.TSTATE = 1 := by
    show (s.dev.showOffset x).portChanged.rd K.TSTATE = 1
    rw [Dev.portChanged_rd _ (postingSlot_outside (by lia)), Dev.showOffset_same _ _ _ (by decide), hs]
  have hkeep : (s.dev.trefFollowed x t).nt = s.dev.nt ∧ (s.dev.trefFollowed x t).legs = s.dev.legs := by
    rw [Dev.trefFollowed, hframe]
    exact ⟨rfl, rfl⟩
  have hne : (s.dev.trefFollowed x t).rd K.TSTATE ≠ 2 := by rw [hstate]; decide
  obtain ⟨o', m', f', t', l, hf, -⟩ := Dev.setTState_frame hne
  refine completes_of_eq he ⟨?_, ?_, ?_⟩
  · refine (Dev.setTState_rd hne (by lia) (by lia)).trans ?_
    rw [Dev.enterTState_rd _ (by decide) _ (by decide), if_pos rfl]
  · show ((s.dev.trefFollowed x t).setTState 2).nt = _
    rw [hf]
    exact hkeep.1
  · show ((s.dev.trefFollowed x t).setTState 2).legs = _
    rw [hf]
    exact hkeep.2

theorem syncTimeout_holdsOver {s : State} (h2 : s.dev.rd K.TSTATE = 2) (hp : 2 ≤ s.dev.rd K.TIME_PORT)
    (ht : s.dev.time.lastSync + s.dev.rd K.HOLD_N * logInterval (s.dev.rdI 16 K.LOG_SYNC) ≤ s.dev.now + 7) :
    Completes .syncTimeout s fun u => u.dev.rd K.TSTATE = 3 ∧ Raised u 0x28A s.dev.nt ∧ u.dev.rd K.RATE = s.dev.rd K.RATE := by
  have he : exec .syncTimeout s = .next (s.onDev fun d => d.setTState 3) := by
    show execSyncTimeout s = _
    rw [execSyncTimeout, onDev, State.onDev, if_pos ⟨h2, hp, ht⟩]
    rfl
  have hne : s.dev.rd K.TSTATE ≠ 3 := by rw [h2]; decide
  refine completes_of_eq he ⟨?_, Dev.setTState_raised h2 (by decide), ?_⟩
  · refine (Dev.setTState_rd hne (by lia) (by lia)).trans ?_
    rw [Dev.enterTState_rd _ (by decide) _ (by decide), if_pos rfl]
  · refine (Dev.setTState_rd hne (by lia) (by lia)).trans ?_
    rw [Dev.enterTState_rd _ (by decide) _ (by decide), if_neg (by decide), if_neg (by decide)]

/-- Settles O57: the changes of the time port and of the time state are one equation each, and every source reaches them. -/
theorem timeFollowsItsSource : Obligations.TimeFollowsItsSource := by
  unfold Obligations.TimeFollowsItsSource
  refine ⟨fun s => timeSourceFound_acquires, fun s hf hp hs hr hm => ⟨timeSourceLost_runsFree hf hp hs hr hm,
    timeSourceLost_holdsOver hf hp hs hr hm⟩, fun s p t1 t2 _ hr => ⟨fun hp => ?_, fun hp => sync_beforeLock hr hp t1 t2⟩,
    fun s x t => trefComparison_locks, fun s => syncTimeout_holdsOver⟩
  exact completes_of_eq (exec_sync_other hr hp t1 t2) ⟨rfl, rfl, rfl⟩

end Sys2Proof

namespace Sys2Proof

open Sys2Proof.Machine

/-- A slack below its floor, kept under an index whose SLICE_STATUS address is that of FSI: the slice counts as short while FSI's last
value was a multiple of eight, and no longer once FSI takes the value 4097. -/
def strayLoopMin : State :=
  let d := State.reset.dev
  { State.reset with
    dev := { d with start := { d.start with stage := 1 }, ticks := 125000, vcore := { d.vcore with loopMin := [(65287, (-1, 0, 0))] } } }

theorem strayLoopMin_short : strayLoopMin.dev.shortSlices = [65287] := by decide

/-- The evaluation reads the slices after FSI has been written, finds none short and commands no voltage. -/
theorem strayLoopMin_vcoreLoop : (answer (.vcoreLoop 4097) strayLoopMin).map (·.dev.vcore.settleEnd) = some none := by decide

/-- Refutes O37: `loopMin` may hold an entry for any index, and the one whose SLICE_STATUS address is FSI's own slot counts as short before
the evaluation writes FSI and as quiet after it, so the short evaluation of the first clause commands no voltage. -/
theorem not_coreVoltageFollowsTheSlack : ¬ Obligations.CoreVoltageFollowsTheSlack := by
  intro h
  obtain ⟨t, ht, -, hsettle, -⟩ := (h.1 strayLoopMin 4097 (by decide) rfl (by decide) (by decide) (by decide)).1
    (by simp [strayLoopMin_short]) (by decide) (by decide)
  have hnone : t.dev.vcore.settleEnd = none := by simpa [answer, ht] using strayLoopMin_vcoreLoop
  simp [hnone] at hsettle

end Sys2Proof

namespace Sys2Proof.Machine

/-! ## The quarter safe state: its causes, its legs (R240) -/

/-- A leg off, with no letters, no turn-on to come and no go set. -/
def LegRt.Empty (r : LegRt) : Prop := r.pos = .off ∧ r.turnOn = none ∧ r.due = [] ∧ r.held = [] ∧ r.goSet = []

/-- What stopping legs and axes keeps: the records of the quarters, and every leg that is off and empty. -/
structure Dev.Stills (a b : Dev) : Prop where
  quarters : b.quarters = a.quarters
  empty : ∀ m, (a.leg m).Empty → (b.leg m).Empty

namespace Dev.Stills

theorem refl (a : Dev) : Stills a a := ⟨rfl, fun _ => id⟩

theorem trans {a b c : Dev} (h : Stills a b) (h' : Stills b c) : Stills a c :=
  ⟨h'.quarters.trans h.quarters, fun m hm => h'.empty m (h.empty m hm)⟩

/-- A step that leaves the quarters and the legs alone. -/
theorem of_legs {a b : Dev} (hq : b.quarters = a.quarters) (hl : b.legs = a.legs) : Stills a b :=
  ⟨hq, fun m hm => by rw [Dev.leg, hl]; exact hm⟩

theorem axisLegsOff {a b : Dev} (h : Stills a b) (n : Nat) : Stills a (b.axisLegsOff n) := by
  refine h.trans ⟨?_, fun m hm => (b.legsOff_legs (axisLegs n) m).1 (.inr hm)⟩
  obtain ⟨t, ht⟩ := b.axisLegsOff_frame n
  rw [ht]

theorem wrs {a b : Dev} (h : Stills a b) (l : List (Nat × Nat)) : Stills a (b.wrs l) := by
  rw [Dev.wrs_objs_only]
  exact h.trans (of_legs rfl rfl)

theorem event {a b : Dev} (h : Stills a b) (src type obj nt : Nat) (p : Bytes) : Stills a (b.event src type obj nt p) := by
  obtain ⟨o, m, f, he⟩ := b.event_frame src type obj nt p
  rw [he]
  exact h.trans (of_legs rfl rfl)

theorem axisEvent {a b : Dev} (h : Stills a b) (n type obj nt : Nat) (p : Bytes) : Stills a (b.axisEvent n type obj nt p) :=
  h.event _ _ _ _ _

theorem setAxis {a b : Dev} (h : Stills a b) (n : Nat) (r : AxisRt) : Stills a (b.setAxis n r) := h.trans (of_legs rfl rfl)

theorem raise {a b : Dev} (h : Stills a b) (src nt : Nat) (i : Bool) : Stills a (b.raise src nt i) := by
  obtain ⟨f, hf⟩ := b.raise_frame src nt i
  rw [hf]
  exact h.trans (of_legs rfl rfl)

theorem identFail (d : Dev) (n cause : Nat) : Stills d (d.identFail n cause) := by
  unfold Dev.identFail
  split_ifs
  · exact refl d
  · dsimp only
    refine raise (axisEvent (wrs (setAxis ?_ n _) _) _ _ _ _ _) _ _ _
    exact (refl d).axisLegsOff n

theorem requestFault {a b : Dev} (h : Stills a b) (n : Nat) (r : Bool) : Stills a (b.requestFault n r) := by
  obtain ⟨t, ht⟩ := b.requestFault_frame n r
  rw [ht]
  exact h.trans (of_legs rfl rfl)

/-- The axes stopped for the entry into the safe state. -/
theorem axesFaulted (d : Dev) (l : List Nat) : Stills d (l.foldl (fun d n => (d.identFail n 10).requestFault n false) d) :=
  foldl_frame Stills refl (fun _ _ _ => trans) _ (fun d n => (identFail d n 10).requestFault n false) l d

end Dev.Stills

/-- A leg off with its letters discarded is off and empty. -/
theorem Dev.dropLetters_legOff_empty (d : Dev) (l : Nat) : (((d.legOff l).dropLetters l).leg l).Empty := by
  obtain ⟨hpos, hturn, hdue⟩ := d.legOff_off l
  simp [Dev.dropLetters, LegRt.Empty, hpos, hturn, hdue]

/-- A leg taken off leaves the other legs alone. -/
theorem Dev.dropLetters_legOff_other (d : Dev) {l m : Nat} (h : l ≠ m) : ((d.legOff l).dropLetters l).leg m = d.leg m := by
  rw [Dev.dropLetters, Dev.leg_setLeg_ne _ _ h, Dev.legOff_other d h]

/-- One leg of a quarter as its safe state is entered: off and empty, its SAFE flag set (Table 8-11). -/
def Dev.legSafe (d : Dev) (l : Nat) : Dev := ((d.legOff l).dropLetters l).setBit (K.LEG_FLAGS l) 3 true

theorem Dev.legSafe_empty (d : Dev) (l : Nat) : ((d.legSafe l).leg l).Empty := d.dropLetters_legOff_empty l

theorem Dev.legSafe_stills (d : Dev) (l : Nat) : d.Stills (d.legSafe l) := by
  refine ⟨?_, fun m hm => ?_⟩
  · obtain ⟨t, ht⟩ := d.legOff_frame l
    rw [Dev.legSafe, ht]
    rfl
  · by_cases h : l = m
    · subst h
      exact d.legSafe_empty l
    · exact (d.dropLetters_legOff_other h).symm ▸ hm

/-- The legs of a list, each taken off in turn, are all off and empty. -/
theorem Dev.legsSafe (ls : List Nat) : ∀ d : Dev, d.Stills (ls.foldl Dev.legSafe d) ∧ ∀ l ∈ ls, ((ls.foldl Dev.legSafe d).leg l).Empty := by
  induction ls with
  | nil => exact fun d => ⟨.refl d, by simp⟩
  | cons a t ih =>
    intro d
    obtain ⟨hstill, hempty⟩ := ih (d.legSafe a)
    exact ⟨(d.legSafe_stills a).trans hstill,
      List.forall_mem_cons.2 ⟨hstill.empty a (d.legSafe_empty a), hempty⟩⟩

/-- A cause joins the safe state, with the bookkeeping of the cause that the quarter shows (Table 8-2). -/
def Dev.safeCauseOn (d : Dev) (q cause : Nat) : Dev :=
  let r := d.quarter q
  (d.setQuarter q
    { r with causes := if cause = 3 then r.causes else withBit r.causes cause true
             lastCause := if r.causes.testBit cause then r.lastCause else cause
             leftCause := if cause = 3 ∧ r.causes = 0 then 3 else r.leftCause }).showCause q

/-- The units of a quarter that is not yet in its safe state stop for it (R240). -/
def Dev.safeStop (d : Dev) (q cause : Nat) : Dev :=
  let d := (quarterLegs q).foldl Dev.legSafe (d.setBit (K.Q_FLAGS q) 1 true)
  let d := (quarterAxes q).foldl (fun d n => (d.identFail n 10).requestFault n false) d
  d.quarterEvent q 0x0165 0x5002 (le 1 cause ++ le 3 0 ++ le 8 d.nt)

theorem Dev.safeEnter_eq (d : Dev) (q cause : Nat) :
    d.safeEnter q cause = if d.isSafe q = true then d.safeCauseOn q cause else (d.safeCauseOn q cause).safeStop q cause := rfl

theorem Dev.safeStop_stills (d : Dev) (q cause : Nat) : d.Stills (d.safeStop q cause) := by
  have hset : d.Stills (d.setBit (K.Q_FLAGS q) 1 true) := .of_legs rfl rfl
  exact .event ((hset.trans (Dev.legsSafe (quarterLegs q) _).1).trans (.axesFaulted _ (quarterAxes q))) _ _ _ _ _

/-- Every leg of the quarter is off and empty once its units have stopped. -/
theorem Dev.safeStop_empty (d : Dev) (q cause : Nat) : ∀ l ∈ quarterLegs q, ((d.safeStop q cause).leg l).Empty := fun l hl =>
  (Dev.Stills.event (.axesFaulted _ (quarterAxes q)) _ _ _ _ _).empty l
    ((Dev.legsSafe (quarterLegs q) (d.setBit (K.Q_FLAGS q) 1 true)).2 l hl)

/-- The record of the quarter after a cause has joined: the causes and the two kept for the display alone change. -/
theorem Dev.safeEnter_quarter (d : Dev) (q : Nat) {cause : Nat} (hc : cause ≠ 3) :
    ∃ last left, (d.safeEnter q cause).quarter q =
      { d.quarter q with causes := withBit (d.quarter q).causes cause true, lastCause := last, leftCause := left } := by
  have hon : ∃ last left, (d.safeCauseOn q cause).quarter q =
      { d.quarter q with causes := withBit (d.quarter q).causes cause true, lastCause := last, leftCause := left } := by
    have hself := Dev.quarter_setQuarter_self d q
      { d.quarter q with
        causes := if cause = 3 then (d.quarter q).causes else withBit (d.quarter q).causes cause true
        lastCause := if (d.quarter q).causes.testBit cause then (d.quarter q).lastCause else cause
        leftCause := if cause = 3 ∧ (d.quarter q).causes = 0 then 3 else (d.quarter q).leftCause }
    exact ⟨_, _, hself.trans (by rw [if_neg hc])⟩
  rw [Dev.safeEnter_eq]
  split_ifs
  · exact hon
  · rw [Dev.quarter, (Dev.safeStop_stills _ q cause).quarters]
    exact hon

/-- A quarter that was not in its safe state has all its legs off once it enters it (R240). -/
theorem Dev.safeEnter_empty {d : Dev} {q : Nat} (h : d.isSafe q = false) (cause : Nat) :
    ∀ l ∈ quarterLegs q, ((d.safeEnter q cause).leg l).Empty := by
  rw [Dev.safeEnter_eq, if_neg (by simp [h])]
  exact Dev.safeStop_empty _ q cause

theorem testBit_withBit_self (v i : Nat) (b : Bool) : (withBit v i b).testBit i = b := by
  cases b <;> simp [withBit, testBit_withField]

/-- Neither the entry nor the end of a cause moves NT. -/
theorem Dev.safeEnter_nt (d : Dev) (q cause : Nat) : (d.safeEnter q cause).nt = d.nt := by
  obtain ⟨t, r, a, o, m, f, h⟩ := d.safeEnter_frame q cause
  rw [h]

end Sys2Proof.Machine

namespace Sys2Proof.Machine

/-! ## Heartbeats (R39, R253) -/

/-- ERR_RX counts where a flit shows that the far end saw a bad one (R253). -/
def Dev.errShown (d : Dev) (q : Nat) (err : Bool) : Dev := if err then d.count (K.ERR_RX q) else d

section
variable (d : Dev) (q : Nat) (err : Bool)

/-- ERR_RX alone changes, and only in the store. -/
theorem Dev.errShown_objs : d.errShown q err = { d with objs := (d.errShown q err).objs } := by cases err <;> rfl

@[simp] theorem Dev.errShown_quarter (p : Nat) : (d.errShown q err).quarter p = d.quarter p := by rw [Dev.errShown_objs]; rfl
@[simp] theorem Dev.errShown_nt : (d.errShown q err).nt = d.nt := by rw [Dev.errShown_objs]
@[simp] theorem Dev.errShown_now : (d.errShown q err).now = d.now := by rw [Dev.errShown_objs]; rfl
@[simp] theorem Dev.errShown_legs : (d.errShown q err).legs = d.legs := by rw [Dev.errShown_objs]
@[simp] theorem Dev.errShown_quarterTick (p : Nat) : (d.errShown q err).quarterTick p = d.quarterTick p := by simp [Dev.quarterTick]

theorem Dev.errShown_same : d.SlotsSame (d.errShown q err) [K.ERR_RX q] := d.received_same q true 0 err

theorem Dev.errShown_rd {k : Nat} (h : k ≠ K.ERR_RX q) : (d.errShown q err).rd k = d.rd k :=
  d.errShown_same q err k (by simpa using h)

end

/-- A flit with a matching CRC and an assigned type passes the checks of its end. -/
theorem Dev.rxCheck_valid {d : Dev} {q lane type : Nat} (h : d.Hears q lane) (ht : flitReserved type = false) (toQ err : Bool) :
    d.rxCheck q toQ lane type true err = (true, d.errShown q err) := by
  simp [Dev.rxCheck, Dev.injCheck_off h.noInjection, h.quarter, h.lane, ht, Dev.errShown]

/-- A heartbeat that its end has checked. -/
def Dev.heartbeatAt (d : Dev) (q : Nat) (toQ : Bool) (lane : Nat) (f : Flit) : Dev :=
  if toQ then d.heartbeatQ q lane f else d.heartbeatC q lane f

theorem exec_heartbeat {s : State} {q lane : Nat} {f : Flit} (h : s.dev.Hears q lane) (hc : flitCrcOk f = true)
    (ht : flitField f 63 60 = 0) (toQ : Bool) : exec (.heartbeat q toQ lane f) s =
      .next (s.onDev fun d => (d.errShown q (flitField f 59 59 = 1)).heartbeatAt q toQ lane f) := by
  show execHeartbeat q toQ lane f s = _
  have hcheck := Dev.rxCheck_valid h (show flitReserved (flitField f 63 60) = false by rw [ht]; rfl) toQ (flitField f 59 59 = 1)
  simp only [execHeartbeat, onDev, State.onDev, hc, hcheck]
  simp [ht, Dev.heartbeatAt]

/-- A valid flit at the quarter leaves its NT copy alone and is the lane's latest. -/
theorem Dev.rxGood_quarter (d : Dev) (q lane : Nat) :
    ((d.rxGood q true lane).quarter q).ntOfs = (d.quarter q).ntOfs ∧ ((d.rxGood q true lane).quarter q).takeNt = (d.quarter q).takeNt ∧
      ((d.rxGood q true lane).quarter q).causes = (d.quarter q).causes ∧
      (((d.rxGood q true lane).quarter q).lane true lane).lastValid = d.now := by
  simp [Dev.rxGood, QuarterRt.setLane, QuarterRt.lane]

/-- The quarter's record as it takes a heartbeat whose NT it accepts: a copy that is to be set takes the heartbeat's tick (R39). -/
def Dev.copyNt (d : Dev) (q tick : Nat) : Dev :=
  let r := d.quarter q
  d.setQuarter q { r with takeNt := false, ntOfs := if r.takeNt then (tick : Int) - (d.nt / 8 % 2 ^ 38 : Nat) else r.ntOfs }

/-- SAFE_REQ of a heartbeat sets cause 4, or ends it where nothing holds it (R253). -/
def Dev.safeReq (d : Dev) (q : Nat) (f : Flit) : Dev :=
  if flitField f 20 20 = 1 then d.safeEnter q 4
  else if d.flt.stepSafe.testBit q ∨ d.bit K.ERR_STATE 2 then d
  else d.safeCauseOff q 4

theorem Dev.heartbeatQ_taken {d : Dev} {q lane : Nat} {f : Flit}
    (h : (d.quarter q).takeNt = true ∨ flitField f 58 21 = d.quarterTick q) :
    d.heartbeatQ q lane f = ((d.copyNt q (flitField f 58 21)).rxGood q true lane).safeReq q f := by
  unfold Dev.heartbeatQ
  exact if_pos h

theorem Dev.heartbeatQ_erroneous {d : Dev} {q lane : Nat} {f : Flit} (ht : (d.quarter q).takeNt = false)
    (h : flitField f 58 21 ≠ d.quarterTick q) :
    d.heartbeatQ q lane f = (d.rxBad q true lane).setQuarter q { (d.rxBad q true lane).quarter q with takeNt := true } := by
  unfold Dev.heartbeatQ
  exact if_neg (by simp [ht, h])

theorem exec_heartbeat_taken {s : State} {q lane : Nat} {f : Flit} (h : s.dev.Hears q lane) (hc : flitCrcOk f = true)
    (ht : flitField f 63 60 = 0) (hv : (s.dev.quarter q).takeNt = true ∨ flitField f 58 21 = s.dev.quarterTick q) :
    exec (.heartbeat q true lane f) s = .next { s with
      dev := (((s.dev.errShown q (flitField f 59 59 = 1)).copyNt q (flitField f 58 21)).rxGood q true lane).safeReq q f } := by
  rw [exec_heartbeat h hc ht, ← Dev.heartbeatQ_taken (by simpa using hv)]
  rfl

theorem exec_heartbeat_erroneous {s : State} {q lane : Nat} {f : Flit} (h : s.dev.Hears q lane) (hc : flitCrcOk f = true)
    (ht : flitField f 63 60 = 0) (hn : (s.dev.quarter q).takeNt = false) (htick : flitField f 58 21 ≠ s.dev.quarterTick q) :
    exec (.heartbeat q true lane f) s = .next { s with
      dev := ((s.dev.errShown q (flitField f 59 59 = 1)).rxBad q true lane).setQuarter q
        { ((s.dev.errShown q (flitField f 59 59 = 1)).rxBad q true lane).quarter q with takeNt := true } } := by
  rw [exec_heartbeat h hc ht, ← Dev.heartbeatQ_erroneous (by simpa using hn) (by simpa using htick)]
  rfl

/-- SAFE_REQ leaves NT and the quarter's copy of it alone. -/
theorem Dev.safeReq_ntCopy (d : Dev) (q : Nat) (f : Flit) : (d.safeReq q f).nt = d.nt ∧
    ((d.safeReq q f).quarter q).ntOfs = (d.quarter q).ntOfs ∧ ((d.safeReq q f).quarter q).takeNt = (d.quarter q).takeNt := by
  unfold Dev.safeReq
  split_ifs
  · obtain ⟨last, left, hq⟩ := d.safeEnter_quarter q (cause := 4) (by decide)
    rw [hq]
    exact ⟨d.safeEnter_nt q 4, rfl, rfl⟩
  · exact ⟨rfl, rfl, rfl⟩
  · refine ⟨rfl, ?_⟩
    rw [Dev.safeCauseOff, show ∀ e : Dev, (e.showCause q).quarter q = e.quarter q from fun _ => rfl, Dev.quarter_setQuarter_self]
    exact ⟨rfl, rfl⟩

theorem Dev.quarterTick_congr {d e : Dev} {q : Nat} (hnt : e.nt = d.nt) (ho : (e.quarter q).ntOfs = (d.quarter q).ntOfs) :
    e.quarterTick q = d.quarterTick q := by
  rw [Dev.quarterTick, Dev.quarterTick, hnt, ho]

theorem field_lt (v hi lo : Nat) : field v hi lo < 2 ^ (hi + 1 - lo) := Nat.mod_lt _ (Nat.two_pow_pos _)

/-- A copy that takes the heartbeat's NT reads its tick. -/
theorem Dev.copyNt_quarterTick {d : Dev} {q : Nat} (h : (d.quarter q).takeNt = true) (f : Flit) :
    (d.copyNt q (flitField f 58 21)).quarterTick q = flitField f 58 21 := by
  have hlt : flitField f 58 21 < 2 ^ 38 := field_lt _ _ _
  simp only [Dev.copyNt, h, Dev.quarterTick, Dev.quarter_setQuarter_self, Dev.setQuarter_nt, if_true]
  omega

/-- A bad flit leaves the legs and counts CRC_ERR alone. -/
theorem Dev.rxBad_counts (d : Dev) (q : Nat) (toQ : Bool) (lane : Nat) : (d.rxBad q toQ lane).legs = d.legs ∧
    (d.rxBad q toQ lane).rd (K.CRC_ERR q) = (d.rd (K.CRC_ERR q) + 1) % 2 ^ 32 ∧ d.SlotsSame (d.rxBad q toQ lane) [K.CRC_ERR q] := by
  refine ⟨rfl, ?_, fun k hk => ?_⟩
  · exact (Dev.rd_count _ _ _ _).trans (if_pos rfl)
  · exact (Dev.rd_count _ _ _ _).trans (if_neg fun h => hk (by simp [h]))

/-- VBUS of a quarter with its extrema, as the controller keeps them. -/
def Dev.showBus (d : Dev) (q v : Nat) : Dev :=
  d.wrs [(K.VBUS q, v), (K.VBUS_MAX q, max (d.rd (K.VBUS_MAX q)) v), (K.VBUS_MIN q, min (d.rd (K.VBUS_MIN q)) v)]

theorem Dev.showBus_rd (d : Dev) (q : Nat) {v : Nat} (hv : v < 2 ^ 64) : (d.showBus q v).rd (K.VBUS q) = v ∧
    (d.showBus q v).rd (K.VBUS_MAX q) = max (d.rd (K.VBUS_MAX q)) v ∧
    (d.showBus q v).rd (K.VBUS_MIN q) = min (d.rd (K.VBUS_MIN q)) v := by
  simp only [Dev.showBus, Dev.wrs_cons, Dev.wrs_nil]
  refine ⟨?_, ?_, ?_⟩
  · rw [Dev.rd_wr_ne _ _ (by lia), Dev.rd_wr_ne _ _ (by lia), Dev.rd_wr_self, Nat.mod_eq_of_lt hv]
  · rw [Dev.rd_wr_ne _ _ (by lia), Dev.rd_wr_self, Nat.mod_eq_of_lt (max_lt (d.rd_lt _) hv)]
  · rw [Dev.rd_wr_self, Nat.mod_eq_of_lt (lt_of_le_of_lt (min_le_right _ _) hv)]

theorem Dev.showBus_same (d : Dev) (q v : Nat) : d.SlotsSame (d.showBus q v) [K.VBUS q, K.VBUS_MAX q, K.VBUS_MIN q] :=
  (((Dev.SlotsSame.refl d _).wr _ (by simp)).wr _ (by simp)).wr _ (by simp)

end Sys2Proof.Machine

namespace Sys2Proof

open Sys2Proof.Machine

section
variable {s : State} {q lane : Nat} {f : Flit} (h : s.dev.Hears q lane) (hc : flitCrcOk f = true) (ht : flitField f 63 60 = 0)
include h hc ht

/-- A heartbeat with SAFE_REQ puts the quarter into its safe state with cause 4 (R253). -/
theorem heartbeat_safeReq (htick : flitField f 58 21 = s.dev.quarterTick q)
    (hreq : flitField f 20 20 = 1) :
    Completes (.heartbeat q true lane f) s fun u => u.dev.isSafe q = true ∧ (u.dev.quarter q).causes.testBit 4 = true ∧
      (s.dev.isSafe q = false → QuarterOff u q) ∧ ((u.dev.quarter q).lane true lane).lastValid = s.dev.now := by
  have hq : q < 4 := lt_of_lt_of_le (by simpa [Dev.hasQuarter] using h.quarter) s.dev.part.quarters_le
  have hx := exec_heartbeat_taken h hc ht (.inr htick)
  rw [Dev.safeReq, if_pos hreq] at hx
  refine completes_of_eq hx ?_
  dsimp only
  generalize hd : s.dev.errShown q (flitField f 59 59 = 1) = d
  obtain ⟨-, -, -, hlast⟩ := (d.copyNt q (flitField f 58 21)).rxGood_quarter q lane
  have hsafe : ((d.copyNt q (flitField f 58 21)).rxGood q true lane).isSafe q = s.dev.isSafe q :=
    Dev.bit_congr (hd ▸ Dev.errShown_rd s.dev q _ (k := K.Q_FLAGS q) (by lia)) 1
  have hnow : (d.copyNt q (flitField f 58 21)).now = s.dev.now := by
    rw [← hd]
    exact Dev.errShown_now _ _ _
  generalize (d.copyNt q (flitField f 58 21)).rxGood q true lane = e at *
  obtain ⟨last, left, he⟩ := e.safeEnter_quarter q (cause := 4) (by decide)
  refine ⟨e.safeEnter_isSafe hq 4, ?_, fun hoff => ?_, ?_⟩
  · rw [he]
    exact testBit_withBit_self _ _ _
  · exact Dev.safeEnter_empty (hsafe.trans hoff) 4
  · rw [he]
    exact hlast.trans hnow

/-- A heartbeat whose NT differs from the quarter's copy is an erroneous flit (R39). -/
theorem heartbeat_mismatch (hn : (s.dev.quarter q).takeNt = false) (htick : flitField f 58 21 ≠ s.dev.quarterTick q) :
    Completes (.heartbeat q true lane f) s fun u => (u.dev.quarter q).takeNt = true ∧
      u.dev.rd (K.CRC_ERR q) = (s.dev.rd (K.CRC_ERR q) + 1) % 2 ^ 32 ∧ u.dev.legs = s.dev.legs ∧
      SlotsKept s u [K.CRC_ERR q, K.ERR_RX q] := by
  refine completes_of_eq (exec_heartbeat_erroneous h hc ht hn htick) ?_
  have hshown := s.dev.errShown_same q (flitField f 59 59 = 1)
  obtain ⟨hlegs, hcount, hsame⟩ := (s.dev.errShown q (flitField f 59 59 = 1)).rxBad_counts q true lane
  refine ⟨by simp, hcount.trans ?_, hlegs.trans (Dev.errShown_legs _ _ _), ?_⟩
  · rw [Dev.errShown_rd _ _ _ (by lia)]
  · exact slotsKept_of_same ((hshown.mono (by simp)).trans (hsame.mono (by simp)))

/-- After a mismatch the copy takes the NT of the next valid heartbeat (R39). -/
theorem heartbeat_takesNt (hn : (s.dev.quarter q).takeNt = true) :
    Completes (.heartbeat q true lane f) s fun u => (u.dev.quarter q).takeNt = false ∧ u.dev.quarterTick q = flitField f 58 21 := by
  refine completes_of_eq (exec_heartbeat_taken h hc ht (.inl hn)) ?_
  dsimp only
  have hn' : ((s.dev.errShown q (flitField f 59 59 = 1)).quarter q).takeNt = true := by simpa using hn
  generalize s.dev.errShown q (flitField f 59 59 = 1) = d at *
  obtain ⟨hofs, htake, -, -⟩ := (d.copyNt q (flitField f 58 21)).rxGood_quarter q lane
  obtain ⟨hnt, hofs', htake'⟩ := ((d.copyNt q (flitField f 58 21)).rxGood q true lane).safeReq_ntCopy q f
  refine ⟨htake'.trans (htake.trans ?_), ?_⟩
  · simp [Dev.copyNt]
  · exact (Dev.quarterTick_congr (d := d.copyNt q (flitField f 58 21)) hnt (hofs'.trans hofs)).trans (Dev.copyNt_quarterTick hn' f)

/-- A heartbeat at the controller stores the quarter's VBUS with its extrema. -/
theorem heartbeat_controller :
    Completes (.heartbeat q false lane f) s fun u =>
      u.dev.rd (K.VBUS q) = flitField f 20 8 ∧ u.dev.rd (K.VBUS_MAX q) = max (s.dev.rd (K.VBUS_MAX q)) (flitField f 20 8) ∧
      u.dev.rd (K.VBUS_MIN q) = min (s.dev.rd (K.VBUS_MIN q)) (flitField f 20 8) ∧ u.dev.legs = s.dev.legs ∧
      SlotsKept s u [K.VBUS q, K.VBUS_MAX q, K.VBUS_MIN q, K.ERR_RX q] := by
  have hx : exec (.heartbeat q false lane f) s = .next { s with
      dev := (s.dev.received q false lane (flitField f 59 59 = 1)).showBus q (flitField f 20 8) } := exec_heartbeat h hc ht false
  have hrx := s.dev.received_same q false lane (flitField f 59 59 = 1)
  obtain ⟨hv, hmax, hmin⟩ := (s.dev.received q false lane (flitField f 59 59 = 1)).showBus_rd q
    (lt_trans (field_lt f.toNat 20 8) (by norm_num))
  refine completes_of_eq hx ⟨hv, hmax.trans ?_, hmin.trans ?_, ?_, slotsKept_of_same
    (((hrx.mono (by simp)).trans ((Dev.showBus_same _ q _).mono (by simp))))⟩
  · rw [Dev.received_rd _ _ _ _ _ (by lia)]
    rfl
  · rw [Dev.received_rd _ _ _ _ _ (by lia)]
    rfl
  · exact s.dev.received_legs q false lane _

end

end Sys2Proof

namespace Sys2Proof.Machine

/-! ## Heartbeats sent (R253, R256) -/

theorem QuarterRt.lane_setLane_ne (r : QuarterRt) (toQ : Bool) {i j : Nat} (x : LaneRt) (h : i ≠ j) :
    (r.setLane toQ i x).lane toQ j = r.lane toQ j := by
  cases toQ <;> exact Tab.get_put_ne _ _ _ h

/-- One heartbeat sent on a lane: ERR shows a bad flit of the lane once. -/
def Dev.sendHeartbeat (q : Nat) (toQ : Bool) (tick last : Nat) (d : Dev) (i : Nat) : Dev :=
  let r := d.quarter q
  let x := r.lane (!toQ) i
  (d.setQuarter q (r.setLane (!toQ) i { x with errPending := false })).emit (.flit q toQ i (heartbeatFlit x.errPending tick last))

/-- Heartbeats sent on different lanes: each carries what its own lane shows, and the store stays. -/
theorem Dev.sendHeartbeats (q : Nat) (toQ : Bool) (tick last : Nat) (ls : List Nat) (hn : ls.Nodup) : ∀ d : Dev,
    (ls.foldl (Dev.sendHeartbeat q toQ tick last) d).objs = d.objs ∧
    (ls.foldl (Dev.sendHeartbeat q toQ tick last) d).out =
      d.out ++ ls.map fun i => .flit q toQ i (heartbeatFlit ((d.quarter q).lane (!toQ) i).errPending tick last) := by
  induction ls with
  | nil => simp
  | cons a t ih =>
    intro d
    obtain ⟨ha, ht⟩ := List.nodup_cons.1 hn
    obtain ⟨hobjs, hout⟩ := ih ht (Dev.sendHeartbeat q toQ tick last d a)
    have hlane : ∀ i ∈ t, ((Dev.sendHeartbeat q toQ tick last d a).quarter q).lane (!toQ) i = (d.quarter q).lane (!toQ) i := by
      intro i hi
      have hne : a ≠ i := fun h => ha (h ▸ hi)
      exact (congrArg (fun r : QuarterRt => r.lane (!toQ) i) (Dev.quarter_setQuarter_self _ _ _)).trans
        (QuarterRt.lane_setLane_ne _ _ _ hne)
    refine ⟨hobjs, hout.trans ?_⟩
    rw [List.map_congr_left (fun i hi => by rw [hlane i hi])]
    simp [Dev.sendHeartbeat, Dev.emit]

theorem Dev.sendLanes_nodup (d : Dev) (q : Nat) : (d.sendLanes q).Nodup := List.nodup_range.filter _

/-- The fields that a heartbeat of an end carries beside its tick: SAFE_REQ to the quarter, VBUS from it. -/
def Dev.heartbeatLast (d : Dev) (q : Nat) (toQ : Bool) : Nat :=
  if toQ then (d.flt.stepSafe.testBit q || d.bit K.ERR_STATE 2).toNat * 2 ^ 12 else (d.quarter q).vbus

def Dev.heartbeatTick (d : Dev) (q : Nat) (toQ : Bool) : Nat := if toQ then d.nt / 8 else d.quarterTick q

theorem exec_heartbeatSend {s : State} {q : Nat} (hq : s.dev.hasQuarter q = true) (ht : (s.dev.quarter q).trained = true) {toQ : Bool}
    (hs : toQ = true → (s.dev.quarter q).silent = false) : exec (.heartbeatSend q toQ) s =
      .next (s.onDev fun d => (d.sendLanes q).foldl (Dev.sendHeartbeat q toQ (d.heartbeatTick q toQ) (d.heartbeatLast q toQ)) d) := by
  have hrun : ¬ (¬ s.dev.hasQuarter q = true ∨ ¬ (s.dev.quarter q).trained = true ∨ (toQ = true ∧ (s.dev.quarter q).silent = true)) := by
    simpa [hq, ht] using hs
  show execHeartbeatSend q toQ s = _
  simp only [execHeartbeatSend, onDev, State.onDev, if_neg hrun]
  rfl

/-- A controller that has stopped sends nothing (R256). -/
theorem exec_heartbeatSend_silent {s : State} {q : Nat} (h : (s.dev.quarter q).silent = true) :
    exec (.heartbeatSend q true) s = .next s := by
  show execHeartbeatSend q true s = _
  simp [execHeartbeatSend, onDev, State.onDev, h]

end Sys2Proof.Machine

namespace Sys2Proof

open Sys2Proof.Machine

/-- An end that sends puts one heartbeat on every lane of its. -/
theorem heartbeatSend_sent {s : State} {q : Nat} (hq : s.dev.hasQuarter q = true) (ht : (s.dev.quarter q).trained = true) {toQ : Bool}
    (hs : toQ = true → (s.dev.quarter q).silent = false) : Completes (.heartbeatSend q toQ) s fun u => u.dev.objs = s.dev.objs ∧
      u.dev.out = s.dev.out ++ (s.dev.sendLanes q).map fun i => .flit q toQ i
        (heartbeatFlit ((s.dev.quarter q).lane (!toQ) i).errPending (s.dev.heartbeatTick q toQ) (s.dev.heartbeatLast q toQ)) :=
  completes_of_eq (exec_heartbeatSend hq ht hs) (Dev.sendHeartbeats q toQ _ _ _ (s.dev.sendLanes_nodup q) s.dev)

/-- Settles O15: reception by the three outcomes of a heartbeat at the quarter and the one at the controller, sending by a walk over the
lanes of the end. -/
theorem heartbeatsAreComparedAndSent : Obligations.HeartbeatsAreComparedAndSent := by
  refine ⟨fun s q lane f hq hl hi hc ht => ?_, fun s q hq ht => ⟨?_, fun hs => ?_, exec_heartbeatSend_silent⟩⟩
  · have h : s.dev.Hears q lane := ⟨hq, hl, hi⟩
    exact ⟨fun _ => heartbeat_safeReq h hc ht, heartbeat_mismatch h hc ht, heartbeat_takesNt h hc ht, heartbeat_controller h hc ht⟩
  · exact heartbeatSend_sent hq ht (by simp)
  · exact heartbeatSend_sent hq ht fun _ => hs

end Sys2Proof

namespace Sys2Proof.Machine

/-! ## Edge letters at the franker (R45, R170, R240, R249) -/

section
variable (d : Dev) (q : Nat) (toQ : Bool) (lane : Nat) (err : Bool)

@[simp] theorem Dev.received_axis (n : Nat) : (d.received q toQ lane err).axis n = d.axis n := by cases err <;> rfl
@[simp] theorem Dev.received_part : (d.received q toQ lane err).part = d.part := by cases err <;> rfl

@[simp] theorem Dev.received_nowQ : (d.received q toQ lane err).nowQ = d.nowQ := by simp [Dev.nowQ]

theorem Dev.rxGood_clamp (p : Nat) : ((d.rxGood q toQ lane).quarter p).clamp = (d.quarter p).clamp := by
  by_cases h : q = p
  · subst h
    rw [Dev.rxGood, Dev.quarter_setQuarter_self, QuarterRt.setLane]
    split_ifs <;> rfl
  · rw [Dev.rxGood, Dev.quarter_setQuarter_ne _ _ h]

theorem Dev.received_clamp (p : Nat) : ((d.received q toQ lane err).quarter p).clamp = (d.quarter p).clamp := by
  rw [Dev.received, Dev.rxGood_clamp]
  split_ifs <;> rfl

/-- A valid flit shuts and opens no leg. -/
theorem Dev.received_legShut (l : Nat) : (d.received q toQ lane err).legShut l = d.legShut l := by
  rw [Dev.legShut, Dev.legShut, Dev.isSafe, Dev.isSafe, Dev.bit_congr (Dev.received_rd d q toQ lane err (by lia)),
    Dev.bit_congr (Dev.received_rd d q toQ lane err (by lia)), Dev.received_clamp]

theorem Dev.received_periodAt (c k : Nat) : (d.received q toQ lane err).periodAt c k = d.periodAt c k := by
  rw [Dev.periodAt, Dev.periodAt, Dev.received_coil, Dev.received_rd d q toQ lane err (by lia)]

end

theorem exec_edgeLetter {s : State} {q lane : Nat} {f : Flit} (h : s.dev.Hears q lane) (hc : flitCrcOk f = true)
    (ht : flitField f 63 60 = 1) : exec (.edgeLetter q lane f) s =
      .next (s.onDev fun d => (d.received q true lane (flitField f 59 59 = 1)).takeEdge (16 * q + flitField f 58 55) (flitEdge f)) := by
  show execEdgeLetter q lane f s = _
  simp only [execEdgeLetter, onDev, State.onDev, ht, hc, Dev.rxFlit_valid h (type := 1) rfl, if_true]

/-- A letter for a leg that is shut, or whose coil does not run, is discarded. -/
theorem Dev.takeEdge_shut {d : Dev} {l : Nat} (h : d.legShut l = true ∨ (d.coil (l / 2)).running = false) (e : EdgeLet) :
    d.takeEdge l e = d := by
  unfold Dev.takeEdge
  exact if_pos (by simpa using h)

section
variable {d : Dev} {l : Nat} {e : EdgeLet} (hs : d.legShut l = false) (hr : (d.coil (l / 2)).running = true)
include hs hr

/-- A letter of the generation that the next go raises, with LAST: the go set that arrives is complete. -/
theorem Dev.takeEdge_goSet (hg : e.gen = ((d.axis (l / 4)).goGen + 1) % 4) (hl : e.last = true) :
    d.takeEdge l e = d.setLeg l
      { d.leg l with goSet := ((d.leg l).goNew.filter fun x => x.ptag = e.ptag) ++ [e], goNew := [] } := by
  unfold Dev.takeEdge
  dsimp only
  rw [if_neg (by simp [hs, hr]), if_pos hg, if_pos hl]

/-- A letter of the current generation that comes later than 20 ns before its instant. -/
theorem Dev.takeEdge_late (hg : e.gen = (d.axis (l / 4)).goGen % 4)
    (ht : d.periodAt (l / 2) ((d.coil (l / 2)).tagged e.ptag) + e.offset < d.nowQ + 80) :
    d.takeEdge l e =
      ((d.count (K.LATE_EDGES (l / 16))).raise (0x147 + 0x10 * (l / 16)) d.nt).emit (.report (l / 16) (.lateEdge (l % 16)) d.nt) := by
  unfold Dev.takeEdge
  dsimp only
  rw [if_neg (by simp [hs, hr]), if_neg (by omega), if_neg (by omega), if_pos ht]

/-- A letter of the current generation that comes in time for a period to come. -/
theorem Dev.takeEdge_held (hg : e.gen = (d.axis (l / 4)).goGen % 4)
    (ht : d.nowQ + 80 ≤ d.periodAt (l / 2) ((d.coil (l / 2)).tagged e.ptag) + e.offset)
    (hn : (d.coil (l / 2)).next ≤ (d.coil (l / 2)).tagged e.ptag) :
    d.takeEdge l e = d.setLeg l { d.leg l with held := (d.leg l).held ++ [e] } := by
  unfold Dev.takeEdge
  dsimp only
  rw [if_neg (by simp [hs, hr]), if_neg (by omega), if_neg (by omega), if_neg (by omega), if_neg (by omega)]

end

/-- The source of a quarter's erroneous edges is assigned and there. -/
theorem Dev.edgeSource_present {d : Dev} {q : Nat} (h : d.hasQuarter q = true) :
    Dict.sourceAssigned (0x147 + 0x10 * q) = true ∧ (Dict.Owner.source (0x147 + 0x10 * q)).present d.part = true := by
  have hlt : q < d.part.quarters := by simpa [Dev.hasQuarter] using h
  have hq : q < 4 := lt_of_lt_of_le hlt d.part.quarters_le
  have ha : Dict.sourceAssigned (0x147 + 0x10 * q) = true := by
    simp [Dict.sourceAssigned, show ¬ 0x147 + 0x10 * q < 0x140 by omega, show 0x147 + 0x10 * q < 0x180 by omega]
  refine ⟨ha, ?_⟩
  have hs : Dict.sourceQuarter (0x147 + 0x10 * q) = some q := by
    rw [Dict.sourceQuarter, if_neg (by omega), if_pos (by omega)]
    congr 1
    omega
  simp [Dict.Owner.present, ha, hs, hlt]

/-- A late letter: LATE_EDGES counts, the source is raised and reported (R45). -/
def Dev.lateEdge (d : Dev) (q i : Nat) : Dev :=
  ((d.count (K.LATE_EDGES q)).raise (0x147 + 0x10 * q) d.nt).emit (.report q (.lateEdge i) d.nt)

theorem Dev.lateEdge_frame (d : Dev) (q i : Nat) : ∃ f, d.lateEdge q i =
    { (d.count (K.LATE_EDGES q)) with flt := f, out := d.out ++ [.report q (.lateEdge i) d.nt] } := by
  obtain ⟨f, hf⟩ := (d.count (K.LATE_EDGES q)).raise_frame (0x147 + 0x10 * q) d.nt false
  rw [Dev.lateEdge, hf]
  exact ⟨f, rfl⟩

theorem Dev.lateEdge_rd (d : Dev) (q i k : Nat) : (d.lateEdge q i).rd k = (d.count (K.LATE_EDGES q)).rd k :=
  Dev.raise_rd _ _ _ _ _

theorem Dev.lateEdge_raised {d : Dev} {q : Nat} (h : d.hasQuarter q = true) (i : Nat) :
    ∃ r ∈ (d.lateEdge q i).flt.raises, r.src = 0x147 + 0x10 * q ∧ r.nt = d.nt := by
  obtain ⟨ha, hp⟩ := Dev.edgeSource_present h
  exact ⟨_, Dev.raised_of_present (d.count (K.LATE_EDGES q)) _ _ _ ha hp, rfl, rfl⟩

end Sys2Proof.Machine

namespace Sys2Proof

open Sys2Proof.Machine

section
variable {s : State} {q lane : Nat} {f : Flit} (h : s.dev.Hears q lane) (hc : flitCrcOk f = true) (ht : flitField f 63 60 = 1)
include h hc ht

theorem edgeLetter_discarded {l : Nat} (hl : l = 16 * q + flitField f 58 55)
    (hs : s.dev.legShut l = true ∨ (s.dev.coil (l / 2)).running = false) :
    Completes (.edgeLetter q lane f) s fun u => u.dev.legs = s.dev.legs ∧ SlotsKept s u [K.ERR_RX q] := by
  have hx := exec_edgeLetter h hc ht
  rw [← hl, State.onDev, Dev.takeEdge_shut (by rwa [Dev.received_legShut, Dev.received_coil])] at hx
  exact completes_of_eq hx ⟨Dev.received_legs _ _ _ _ _, slotsKept_of_same (Dev.received_same _ _ _ _ _)⟩

end

section
variable {s : State} {q lane l : Nat} {f : Flit} (h : s.dev.Hears q lane) (hc : flitCrcOk f = true) (ht : flitField f 63 60 = 1)
  (hl : l = 16 * q + flitField f 58 55) (hs : s.dev.legShut l = false) (hr : (s.dev.coil (l / 2)).running = true)
include h hc ht hl hs hr

theorem edgeLetter_late (hg : (flitEdge f).gen = (s.dev.axis (l / 4)).goGen % 4)
    (hi : s.dev.periodAt (l / 2) ((s.dev.coil (l / 2)).tagged (flitEdge f).ptag) + (flitEdge f).offset < s.dev.nowQ + 80) :
    Completes (.edgeLetter q lane f) s fun u => u.dev.legs = s.dev.legs ∧
      u.dev.rd (K.LATE_EDGES q) = (s.dev.rd (K.LATE_EDGES q) + 1) % 2 ^ 32 ∧ Raised u (0x147 + 0x10 * q) s.dev.nt ∧
      u.dev.out = s.dev.out ++ [.report q (.lateEdge (l % 16)) s.dev.nt] ∧ SlotsKept s u [K.ERR_RX q, K.LATE_EDGES q] := by
  have hq : l / 16 = q := by
    have : flitField f 58 55 < 2 ^ 4 := field_lt _ _ _
    omega
  have hrx := s.dev.received_same q true lane (flitField f 59 59 = 1)
  have hx := exec_edgeLetter h hc ht
  rw [← hl, State.onDev, Dev.takeEdge_late (by rwa [Dev.received_legShut]) (by rwa [Dev.received_coil]) (by rwa [Dev.received_axis])
    (by rwa [Dev.received_periodAt, Dev.received_coil, Dev.received_nowQ]), hq] at hx
  have hlate := s.dev.received_rd q true lane (flitField f 59 59 = 1) (k := K.LATE_EDGES q) (by lia)
  generalize hd : s.dev.received q true lane (flitField f 59 59 = 1) = d at *
  have hlegs : d.legs = s.dev.legs := by rw [← hd, Dev.received_legs]
  have hnt : d.nt = s.dev.nt := by rw [← hd, Dev.received_nt]
  have hout : d.out = s.dev.out := by rw [← hd, Dev.received_out]
  have hhas : d.hasQuarter q = true := by rw [← hd, Dev.hasQuarter, Dev.received_part]; exact h.quarter
  obtain ⟨fl, hf⟩ := d.lateEdge_frame q (l % 16)
  refine completes_of_eq (t := { s with dev := d.lateEdge q (l % 16) }) hx ⟨?_, ?_, ?_, ?_, slotsKept_of_same fun k hk => ?_⟩
  · rw [hf]
    exact hlegs
  · dsimp only
    rw [Dev.lateEdge_rd, Dev.rd_count, if_pos rfl, hlate]
  · exact hnt ▸ Dev.lateEdge_raised hhas (l % 16)
  · rw [hf, ← hout, ← hnt]
  · rw [Dev.lateEdge_rd, Dev.rd_count, if_neg fun he => hk (by simp [← he])]
    exact hrx k (by simp_all)

theorem edgeLetter_held (hg : (flitEdge f).gen = (s.dev.axis (l / 4)).goGen % 4)
    (hi : s.dev.nowQ + 80 ≤ s.dev.periodAt (l / 2) ((s.dev.coil (l / 2)).tagged (flitEdge f).ptag) + (flitEdge f).offset)
    (hn : (s.dev.coil (l / 2)).next ≤ (s.dev.coil (l / 2)).tagged (flitEdge f).ptag) :
    Completes (.edgeLetter q lane f) s fun u => u.dev.leg l = { s.dev.leg l with held := (s.dev.leg l).held ++ [flitEdge f] } ∧
      (∀ m, m ≠ l → u.dev.leg m = s.dev.leg m) ∧ SlotsKept s u [K.ERR_RX q] := by
  have hx := exec_edgeLetter h hc ht
  rw [← hl, State.onDev, Dev.takeEdge_held (by rwa [Dev.received_legShut]) (by rwa [Dev.received_coil]) (by rwa [Dev.received_axis])
    (by rwa [Dev.received_periodAt, Dev.received_coil, Dev.received_nowQ]) (by rwa [Dev.received_coil])] at hx
  refine completes_of_eq hx ⟨?_, fun m hm => ?_, slotsKept_of_same (Dev.received_same s.dev q true lane _)⟩
  · rw [Dev.leg_setLeg_self, Dev.received_leg]
  · exact (Dev.leg_setLeg_ne _ _ hm.symm).trans (Dev.received_leg _ _ _ _ _ _)

theorem edgeLetter_goSet (hg : (flitEdge f).gen = ((s.dev.axis (l / 4)).goGen + 1) % 4) (he : (flitEdge f).last = true) :
    Completes (.edgeLetter q lane f) s fun u =>
      (u.dev.leg l).goSet = ((s.dev.leg l).goNew.filter fun x => x.ptag = (flitEdge f).ptag) ++ [flitEdge f] ∧ (u.dev.leg l).goNew = [] ∧
      (u.dev.leg l).held = (s.dev.leg l).held ∧ SlotsKept s u [K.ERR_RX q] := by
  have hx := exec_edgeLetter h hc ht
  rw [← hl, State.onDev, Dev.takeEdge_goSet (by rwa [Dev.received_legShut]) (by rwa [Dev.received_coil]) (by rwa [Dev.received_axis])
    he] at hx
  refine completes_of_eq hx ⟨?_, ?_, ?_, slotsKept_of_same (Dev.received_same s.dev q true lane _)⟩
  all_goals rw [Dev.leg_setLeg_self]
  all_goals rw [Dev.received_leg]

end

/-- Settles O16, by the branches that the franker takes for a letter. -/
theorem edgeLettersReachTheFranker : Obligations.EdgeLettersReachTheFranker := by
  intro s q lane f hq hl hi hc ht l e c gen
  have h : s.dev.Hears q lane := ⟨hq, hl, hi⟩
  exact ⟨edgeLetter_discarded h hc ht rfl,
    fun hs hr hg => ⟨edgeLetter_late h hc ht rfl hs hr hg, edgeLetter_held h hc ht rfl hs hr hg⟩,
    fun hs hr => edgeLetter_goSet h hc ht rfl hs hr⟩

end Sys2Proof

namespace Sys2Proof.Machine

/-! ## Objects found in the dictionary (R64 to R71) -/

/-- Subindices of an index outside the array objects have the rows of its template. -/
theorem Dict.row_of_locate {idx sub tmpl i : Nat} {owner : Dict.Owner} (hl : Dict.locate idx = ⟨tmpl, i, owner⟩)
    (ho : ∀ id, owner ≠ .source id) (h0 : sub ≠ 0) (ha : tmpl ≠ 0x1420 ∧ tmpl ≠ 0x1430 ∧ tmpl ≠ 0x1431) :
    Dict.row idx sub = Dict.findRow (Dict.rowsOf tmpl) sub := by
  have hpick : Dict.row.pick sub (Dict.rowsOf tmpl) tmpl = Dict.findRow (Dict.rowsOf tmpl) sub := by
    rw [Dict.row.pick, if_neg h0, if_neg (by tauto)]
  rw [Dict.row, hl]
  dsimp only
  split_ifs with he
  · rw [List.isEmpty_iff.1 he]
    rfl
  · cases owner with
    | source id => exact absurd rfl (ho id)
    | _ => exact hpick

/-- A slot of the dictionary, where it stands and what it is: a slot that an access reaches. -/
structure State.Offers (s : State) (key tmpl i sub : Nat) (owner : Dict.Owner) (r : Dict.Row) : Prop where
  locate : Dict.locate (key / 256) = ⟨tmpl, i, owner⟩
  sub : key % 256 = sub
  object : s.object key = .ok r

section
variable {s : State} {key tmpl i : Nat} {owner : Dict.Owner} (hl : Dict.locate (key / 256) = ⟨tmpl, i, owner⟩)
  (hf : s.dev.fab.ready = true) (hs : s.pow.devState ≠ .stowed ∨ stowedIndex (key / 256) = false)
include hl hf hs

/-- An object of a unit that the part lacks answers Absent. -/
theorem State.object_absent (hp : owner.present s.dev.part = false) : s.object key = .error abAbsent := by
  unfold State.object
  dsimp only
  rw [hl, if_neg (by rintro (h | ⟨h, h'⟩) <;> simp_all), if_pos (.inl (by simp [hp]))]

theorem State.object_row {r : Dict.Row} (hp : owner.present s.dev.part = true) (ha : Dict.subAbsent s.dev.part tmpl (key % 256) = false)
    (hrow : Dict.row (key / 256) (key % 256) = some r) : s.object key = .ok r := by
  unfold State.object
  dsimp only
  rw [hl, if_neg (by rintro (h | ⟨h, h'⟩) <;> simp_all), if_neg (by simp [hp, ha]), hrow]

end

theorem State.offers {s : State} {key tmpl i sub : Nat} {owner : Dict.Owner} {r : Dict.Row}
    (hl : Dict.locate (key / 256) = ⟨tmpl, i, owner⟩) (hsub : key % 256 = sub) (hrow : Dict.findRow (Dict.rowsOf tmpl) sub = some r)
    (ho : ∀ id, owner ≠ .source id) (h0 : sub ≠ 0) (ha : tmpl ≠ 0x1420 ∧ tmpl ≠ 0x1430 ∧ tmpl ≠ 0x1431)
    (hax : tmpl ≠ 0x3001 ∧ tmpl ≠ 0x3002) (hf : s.dev.fab.ready = true)
    (hs : s.pow.devState ≠ .stowed ∨ stowedIndex (key / 256) = false) (hp : owner.present s.dev.part = true) :
    s.Offers key tmpl i sub owner r := by
  have habs : Dict.subAbsent s.dev.part tmpl sub = false := by
    rw [Dict.subAbsent, if_neg (by tauto), if_neg (by tauto)]
  refine ⟨hl, hsub, State.object_row hl hf hs hp (by rw [hsub, habs]) ?_⟩
  rw [hsub, Dict.row_of_locate hl ho h0 ha, hrow]

/-- A slot of an object of the device itself. -/
theorem State.offers_device {s : State} {key tmpl i sub : Nat} {r : Dict.Row} (hf : s.dev.fab.ready = true)
    (hl : Dict.locate (key / 256) = ⟨tmpl, i, .device⟩) (hsub : key % 256 = sub) (hrow : Dict.findRow (Dict.rowsOf tmpl) sub = some r)
    (hs : stowedIndex (key / 256) = false) (h0 : sub ≠ 0) (ha : tmpl ∉ [0x1420, 0x1430, 0x1431, 0x3001, 0x3002]) :
    s.Offers key tmpl i sub .device r := by
  simp only [List.mem_cons, List.not_mem_nil, or_false, not_or] at ha
  exact State.offers hl hsub hrow (by simp) h0 (by tauto) (by tauto) hf (.inr hs) rfl

/-! ## Writes of 1 (Table 3-8) -/

/-- The row of a request: a BOOL that a write of 1 starts. -/
abbrev Dict.w1Row (sub : Nat) : Dict.Row := { sub := sub, ty := .bool, acc := .w1 }

section
variable {s : State} {key tmpl i sub : Nat} {owner : Dict.Owner} (h : s.Offers key tmpl i sub owner (Dict.w1Row sub))
  (hb : s.dev.rangeBad tmpl sub (Dict.w1Row sub) 1 = false)
include h hb

theorem State.writeSlot_w1 (p : Path) : s.writeSlot p key 1 true = s.writeW1 p tmpl i sub key 1 := by
  obtain ⟨hl, hsub, hobj⟩ := h
  have hval : 1 % 2 ^ (8 * Dict.Ty.bool.size) = 1 := rfl
  unfold State.writeSlot
  rw [hobj, hl, hsub]
  simp [State.writeCode, hval, hb]

/-- A request that nothing refuses starts. -/
theorem softWrite_w1 {p : Path} (hr : s.reachable p = true) (hi : s.w1Ignored tmpl i sub = false) (hc : s.w1Code tmpl i sub = abNone)
    (h0 : s.dev.rd key = 0) : softWrite p key 1 s = .next (s.w1Start tmpl i sub) := by
  have hslot : s.writeSlot p key 1 true = (abNone, s.w1Start tmpl i sub) := by
    rw [State.writeSlot_w1 h hb, State.writeW1, if_neg (by simp [hi]), hc]
    simp [h0]
  rw [softWrite, if_pos hr, State.write, hslot]
  rfl

/-- A request that a rule ignores is counted on its path (Table 3-5). -/
theorem softWrite_w1_ignored {p : Path} (hr : s.reachable p = true) (hi : s.w1Ignored tmpl i sub = true) :
    softWrite p key 1 s = .next (s.onDev fun d => d.ignored p) := by
  have hslot : s.writeSlot p key 1 true = (abNone, s.onDev fun d => d.ignored p) := by
    rw [State.writeSlot_w1 h hb, State.writeW1, if_pos (.inr hi)]
  rw [softWrite, if_pos hr, State.write, hslot]
  rfl

end

end Sys2Proof.Machine

namespace Sys2Proof.Machine

/-! ## Requests of the units: where they stand -/

section
variable {s : State} (hf : s.dev.fab.ready = true)
include hf

theorem State.offers_step : s.Offers K.STEP_1200 0x1200 0 6 .device (Dict.w1Row 6) :=
  State.offers_device hf (by decide) rfl (by decide) (by decide) (by decide) (by decide)

theorem State.offers_cancel : s.Offers K.CANCEL 0x3000 0 9 .device (Dict.w1Row 9) :=
  State.offers_device hf (by decide) rfl (by decide) (by decide) (by decide) (by decide)

theorem State.offers_pmbRetry : s.Offers K.PMB_RETRY 0x1220 0 9 .device (Dict.w1Row 9) :=
  State.offers_device hf (by decide) rfl (by decide) (by decide) (by decide) (by decide)

theorem State.offers_reqGo : s.Offers K.REQ_GO 0x2902 0 4 .device (Dict.w1Row 4) :=
  State.offers_device hf (by decide) rfl (by decide) (by decide) (by decide) (by decide)

theorem State.offers_build : s.Offers K.BUILD 0x2F00 0 1 .device (Dict.w1Row 1) :=
  State.offers_device hf (by decide) rfl (by decide) (by decide) (by decide) (by decide)

theorem State.offers_todSec : s.Offers K.TOD_SEC 0x1330 0 10 .device { sub := 10, ty := .u64, acc := .rw } :=
  State.offers_device hf (by decide) rfl (by decide) (by decide) (by decide) (by decide)

theorem State.offers_validate {k : Nat} (hk : k < 256) : s.Offers (K.VALIDATE k) 0x3100 k 4 .device (Dict.w1Row 4) := by
  have hidx : K.VALIDATE k / 256 = 0x3100 + k := by lia
  have hl : Dict.locate (K.VALIDATE k / 256) = ⟨0x3100, k, .device⟩ := by
    rw [hidx, Dict.locate, if_neg (by omega), if_neg (by omega), if_neg (by omega), if_neg (by omega), if_neg (by omega),
      if_pos (by omega), Nat.add_sub_cancel_left]
  have hst : stowedIndex (K.VALIDATE k / 256) = false := by
    rw [hidx]
    simp [stowedIndex]
    omega
  exact State.offers_device hf hl (by lia) (by decide) hst (by decide) (by decide)

end

/-! ## A cancellation by tag (R152) -/

/-- A check for the wake of an axis leaves its inbox alone, and the letters' table. -/
theorem Dev.wakeCheck_inbox (d : Dev) (n m : Nat) :
    ((d.wakeCheck n).axis m).inbox = (d.axis m).inbox ∧ (d.wakeCheck n).desp = d.desp ∧ (d.wakeCheck n).part = d.part := by
  unfold Dev.wakeCheck
  dsimp only
  split_ifs
  · exact ⟨rfl, rfl, rfl⟩
  · refine ⟨?_, rfl, rfl⟩
    by_cases h : n = m
    · subst h
      exact (congrArg AxisRt.inbox (Dev.axis_setAxis_self d n _)).trans rfl
    · exact congrArg AxisRt.inbox (Dev.axis_setAxis_ne d _ h)

/-- The letters of a tag leave the inbox of one axis. -/
def Dev.cancelInbox (tag : Nat) (d : Dev) (n : Nat) : Dev :=
  (d.setAxis n { d.axis n with inbox := (d.axis n).inbox.filter fun l => !cancels tag l }).wakeCheck n

theorem Dev.cancelInbox_inbox (tag : Nat) (d : Dev) (n m : Nat) : ((d.cancelInbox tag n).axis m).inbox =
    if n = m then (d.axis m).inbox.filter fun l => !cancels tag l else (d.axis m).inbox := by
  rw [Dev.cancelInbox, (Dev.wakeCheck_inbox _ n m).1]
  split_ifs with h
  · subst h
    rw [Dev.axis_setAxis_self]
  · rw [Dev.axis_setAxis_ne _ _ h]

/-- The letters of a tag leave the inboxes of a list of axes, and no other. -/
theorem Dev.cancelInboxes (tag : Nat) (ns : List Nat) : ∀ d : Dev, (ns.foldl (Dev.cancelInbox tag) d).desp = d.desp ∧
    ∀ m, ((ns.foldl (Dev.cancelInbox tag) d).axis m).inbox =
      if m ∈ ns then (d.axis m).inbox.filter fun l => !cancels tag l else (d.axis m).inbox := by
  induction ns with
  | nil => simp
  | cons n t ih =>
    intro d
    obtain ⟨hdesp, hbox⟩ := ih (d.cancelInbox tag n)
    refine ⟨hdesp.trans (Dev.wakeCheck_inbox _ n n).2.1, fun m => (hbox m).trans ?_⟩
    rw [Dev.cancelInbox_inbox]
    by_cases hn : n = m
    · subst hn
      simp
    · simp [hn, Ne.symm hn]

/-- The units and the letters once those of the tag have left. -/
def Dev.cancelLetters (d : Dev) : Dev :=
  d.axisList.foldl (Dev.cancelInbox (d.rd K.CANCEL_TAG)) (d.setTable (d.desp.table.filter fun l => !cancels (d.rd K.CANCEL_TAG) l))

theorem Dev.cancelTag_eq (d : Dev) : ∃ count p,
    d.cancelTag = (d.cancelLetters.wrs [(K.CANCELLED, count), (K.CANCEL, 0)]).event 0x31 0x0203 0x3000 d.cancelLetters.nt p := ⟨_, _, rfl⟩

/-- The cancellation: the tag's letters have left the table and the inboxes, and the request is done. -/
theorem Dev.cancelTag_shows (d : Dev) : d.cancelTag.rd K.CANCEL = 0 ∧
    d.cancelTag.desp.table = d.desp.table.filter (fun l => !cancels (d.rd K.CANCEL_TAG) l) ∧
    ∀ n ∈ d.axisList, (d.cancelTag.axis n).inbox = (d.axis n).inbox.filter fun l => !cancels (d.rd K.CANCEL_TAG) l := by
  obtain ⟨hdesp, hbox⟩ : d.cancelLetters.desp = _ ∧ ∀ m, (d.cancelLetters.axis m).inbox = _ := Dev.cancelInboxes _ _ _
  obtain ⟨count, p, he⟩ := d.cancelTag_eq
  have hrd : d.cancelTag.rd K.CANCEL = (d.cancelLetters.wrs [(K.CANCELLED, count), (K.CANCEL, 0)]).rd K.CANCEL := by
    rw [he]
    exact Dev.event_rd _ _ _ _ _ _ _ (by decide) (postingSlot_outside (by decide))
  obtain ⟨o, m, f, hf⟩ := (d.cancelLetters.wrs [(K.CANCELLED, count), (K.CANCEL, 0)]).event_frame 0x31 0x0203 0x3000 d.cancelLetters.nt p
  rw [← he] at hf
  refine ⟨hrd.trans ?_, ?_, fun n hn => ?_⟩
  · exact Dev.rd_wr_self _ _ _
  · rw [hf]
    exact congrArg (fun x => x.table) hdesp
  · rw [hf]
    exact (hbox n).trans (if_pos hn)

end Sys2Proof.Machine

namespace Sys2Proof.Machine

/-! ## The other actions of requests -/

/-- A request of a kind that no bit line and no ADC channel waits for starts neither. -/
theorem Dev.startNone {d : Dev} (h : ∀ a ∈ d.fray.asks, a.kind ≠ 4 ∧ a.kind ≠ 1) : d.startBitLine.startAdc = d := by
  have h4 : d.fray.asks.find? (·.kind = 4) = none := List.find?_eq_none.2 fun a ha => by simpa using (h a ha).1
  have h1 : d.fray.asks.find? (·.kind = 1) = none := List.find?_eq_none.2 fun a ha => by simpa using (h a ha).2
  rw [Dev.startBitLine, h4]
  dsimp only
  rw [Dev.startAdc, h1]

/-- A request for a slice or a lane waits as the only one (R401). -/
theorem State.reqBegin_asks {s : State} (ha : s.dev.fray.asks = []) (hk : s.dev.rd K.REQ_KIND = 0 ∨ s.dev.rd K.REQ_KIND = 3) :
    s.reqBegin = s.onDev fun d => { d.wr K.REQ_GO 1 with fray := { d.fray with
      asks := [{ kind := d.rd K.REQ_KIND, inst := d.rd K.REQ_INST, sub := d.rd K.REQ_SUB, cause := 2 }] } } := by
  have hsub : (s.dev.wr K.REQ_GO 1).rd K.REQ_SUB = s.dev.rd K.REQ_SUB := Dev.rd_wr_ne _ _ (by decide)
  unfold State.reqBegin
  dsimp only [State.onDev]
  rw [if_neg (by omega), if_neg (by omega), hsub, Dev.startNone (by simp [ha]; omega)]
  simp [ha]

end Sys2Proof.Machine

namespace Sys2Proof

open Sys2Proof.Machine

section
variable {s t : State} {k v : Nat} (ho : t.dev.objs = (s.dev.wr k v).objs) (hp : t.dev.part = s.dev.part)
include ho hp

/-- One slot written, beside units that change. -/
theorem slotWritten_rd (hv : v < 2 ^ 64) : t.dev.rd k = v :=
  (Dev.rd_congr (e := s.dev.wr k v) ho hp k).trans ((Dev.rd_wr_self _ _ _).trans (Nat.mod_eq_of_lt hv))

theorem slotWritten_kept : SlotsKept s t [k] :=
  slotsKept_of_same (((Dev.SlotsSame.refl s.dev [k]).wr v (by simp)).of_rd (Dev.rd_congr (e := s.dev.wr k v) ho hp))

end

section
variable {s : State} {p : Path} (hr : Reaches s p)
include hr

theorem validate_requested {k : Nat} (hk : k < 256) (h0 : s.dev.rd (K.VALIDATE k) = 0) :
    Completes (.validate p k) s fun u => u.dev.rd (K.VALIDATE k) = 1 ∧ SlotsKept s u [K.VALIDATE k] := by
  have hx : exec (.validate p k) s = .next (s.onDev fun d => d.wr (K.VALIDATE k) 1) :=
    (if_pos hk).trans (softWrite_w1 (State.offers_validate hr.2 hk) rfl hr.1 rfl (by simp [State.w1Code]) h0)
  exact completes_of_eq hx ⟨slotWritten_rd (s := s) (v := 1) rfl rfl (by decide), slotWritten_kept (v := 1) rfl rfl⟩

theorem step_requested (ht : s.dev.rd K.TSTATE = 3) (hb : s.dev.bit K.TFLAGS 0 = true) (h0 : s.dev.rd K.STEP_1200 = 0) :
    Completes (.step p) s fun u => u.dev.time.step = some (sext 64 (s.dev.rd K.PENDING_OFS) * 65536) ∧ u.dev.rd K.STEP_1200 = 1 ∧
      u.dev.nt = s.dev.nt ∧ SlotsKept s u [K.STEP_1200] := by
  have hx : exec (.step p) s = .next (s.onDev fun d =>
      { d with time := { d.time with step := some (d.rdI 64 K.PENDING_OFS * 65536) } }.wr K.STEP_1200 1) :=
    softWrite_w1 (State.offers_step hr.2) rfl hr.1 (by simp [State.w1Ignored, ht, hb]) (by simp [State.w1Code]) h0
  exact completes_of_eq hx ⟨rfl, slotWritten_rd (s := s) (v := 1) rfl rfl (by decide), rfl, slotWritten_kept (v := 1) rfl rfl⟩

/-- STEP outside Holdover is ignored (Table 2-2). -/
theorem step_ignored (ht : s.dev.rd K.TSTATE ≠ 3) :
    Completes (.step p) s fun u => u.dev.time = s.dev.time ∧
      u.dev.rd (statKey p K.IGNORED) = (s.dev.rd (statKey p K.IGNORED) + 1) % 2 ^ 32 ∧ SlotsKept s u [statKey p K.IGNORED] := by
  have hx : exec (.step p) s = .next (s.onDev fun d => d.ignored p) :=
    softWrite_w1_ignored (State.offers_step hr.2) rfl hr.1 (by simp [State.w1Ignored, ht])
  exact completes_of_eq hx ⟨rfl, (Dev.rd_count _ _ _ _).trans (if_pos rfl), slotsKept_of_same (Dev.SlotsSame.wr (.refl s.dev _) _ (by simp))⟩

theorem cancel_requested (h0 : s.dev.rd K.CANCEL = 0) :
    Completes (.cancel p) s fun u => u.dev.rd K.CANCEL = 0 ∧
      u.dev.desp.table = s.dev.desp.table.filter (fun l => !cancels (s.dev.rd K.CANCEL_TAG) l) ∧
      ∀ n ∈ s.dev.axisList, (u.dev.axis n).inbox = (s.dev.axis n).inbox.filter fun l => !cancels (s.dev.rd K.CANCEL_TAG) l := by
  have hx : exec (.cancel p) s = .next (s.onDev Dev.cancelTag) :=
    softWrite_w1 (State.offers_cancel hr.2) rfl hr.1 rfl (by simp [State.w1Code]) h0
  exact completes_of_eq hx s.dev.cancelTag_shows

theorem pmbRetry_requested (h0 : s.dev.rd K.PMB_RETRY = 0) :
    Completes (.pmbRetry p) s fun u => u.dev.vcore.retry = true ∧ u.dev.rd K.PMB_RETRY = 1 ∧
      u.dev.out = s.dev.out ++ [.pmbus .clearFaults 0] ∧ SlotsKept s u [K.PMB_RETRY] := by
  have hx : exec (.pmbRetry p) s = .next (s.onDev Dev.pmbRetry) :=
    softWrite_w1 (State.offers_pmbRetry hr.2) rfl hr.1 rfl (by simp [State.w1Code]) h0
  exact completes_of_eq hx ⟨rfl, slotWritten_rd (s := s) (v := 1) rfl rfl (by decide), rfl, slotWritten_kept (v := 1) rfl rfl⟩

theorem reqGo_requested (hq : s.dev.reqRefused = false) (h0 : s.dev.rd K.REQ_GO = 0) (ha : s.dev.fray.asks = [])
    (hk : s.dev.rd K.REQ_KIND = 0 ∨ s.dev.rd K.REQ_KIND = 3) :
    Completes (.reqGo p) s fun u => u.dev.rd K.REQ_GO = 1 ∧
      u.dev.fray.asks = [{ kind := s.dev.rd K.REQ_KIND, inst := s.dev.rd K.REQ_INST, sub := s.dev.rd K.REQ_SUB, cause := 2 }] ∧
      SlotsKept s u [K.REQ_GO] := by
  have hx : exec (.reqGo p) s = .next s.reqBegin :=
    softWrite_w1 (State.offers_reqGo hr.2) rfl hr.1 rfl (by simp [State.w1Code, hq]) h0
  rw [State.reqBegin_asks ha hk] at hx
  exact completes_of_eq hx ⟨slotWritten_rd (s := s) (v := 1) rfl rfl (by decide), rfl, slotWritten_kept (v := 1) rfl rfl⟩

theorem build_requested (hs : s.pow.devState ≠ .off) (h0 : s.dev.rd K.BUILD = 0) :
    Completes (.build p) s fun u => u.dev.rd K.BUILD = 1 ∧ u.dev.rd K.ENV_STATE = 1 ∧ u.dev.buildNt = s.dev.nt ∧ u.dev.env = s.dev.env ∧
      SlotsKept s u [K.BUILD, K.ENV_STATE] := by
  have hx : exec (.build p) s = .next (s.onDev Dev.buildBegin) :=
    softWrite_w1 (State.offers_build hr.2) rfl hr.1 rfl (by simp [State.w1Code, hs]) h0
  exact completes_of_eq hx ⟨(Dev.rd_wr_ne _ _ (by decide)).trans (Dev.rd_wr_self _ _ _), Dev.rd_wr_self _ _ _, rfl, rfl,
    slotsKept_of_same (((Dev.SlotsSame.refl s.dev _).wr _ (by simp)).wr _ (by simp))⟩

end

end Sys2Proof

namespace Sys2Proof.Machine

/-! ## The time of day at a root (R394) -/

/-- TOD_SEC written: the slot, its parity, and the second that the next pulse takes. -/
def Dev.setTod (d : Dev) (v : Nat) : Dev :=
  { d.wr K.TOD_SEC v with
    fab := { d.fab with upset := Tab.del d.fab.upset K.TOD_SEC }
    time := { d.time with tod := some v } }

theorem State.store_todSec {s : State} (hroot : s.dev.isRoot = true) (ht : s.dev.rd K.TSTATE ≤ 1) (p : Path) (v : Nat) :
    s.store p 0x1330 0 10 K.TOD_SEC v { sub := 10, ty := .u64, acc := .rw } = (abNone, s.onDev fun d => d.setTod v) := by
  have hnew (old : Nat) : mergedValue 0x1330 10 old v { sub := 10, ty := .u64, acc := .rw } = v := by
    have hland (x : Nat) : Nat.land x 0 = 0 := Nat.and_zero x
    rw [mergedValue]
    dsimp only
    rw [if_neg (by decide), hland, hland]
    exact Nat.or_zero v
  have hbad (d' : Dev) : s.inconsistent 0x1330 0 10 v d' = false := by
    show (!(s.dev.isRoot && decide (s.dev.rd K.TSTATE ≤ 1))) = false
    simp [hroot, ht]
  have hsend (d : Dev) (x : Nat) : d.sendSetting K.TOD_SEC x = d := by
    rw [Dev.sendSetting, show settingAddr K.TOD_SEC = none by decide]
  unfold State.store
  dsimp only
  rw [hnew, if_neg (by simp [windowBad]), if_neg (by simp [hbad]), if_neg (by simp)]
  simp [hsend, State.landed, State.onDev, Dev.setTod]

theorem exec_todSec {s : State} {p : Path} (hr : Reaches s p) (hroot : s.dev.isRoot = true) (ht : s.dev.rd K.TSTATE ≤ 1) {v : Nat}
    (hv : v < 2 ^ 64) : exec (.todSec p v) s = .next (s.onDev fun d => d.setTod v) := by
  obtain ⟨hl, hsub, hobj⟩ := State.offers_todSec hr.2
  have hval : v % 2 ^ (8 * Dict.Ty.u64.size) = v := Nat.mod_eq_of_lt hv
  have hslot : s.writeSlot p K.TOD_SEC v true = (abNone, s.onDev fun d => d.setTod v) := by
    unfold State.writeSlot
    rw [hobj, hl, hsub]
    dsimp only
    rw [hval, State.store_todSec hroot ht]
    simp [State.writeCode, Dev.rangeBad]
  show softWrite p K.TOD_SEC v s = _
  rw [softWrite, if_pos hr.1, State.write, hslot]
  rfl

/-! ## A build that completes (R466, R468) -/

/-- Sealing the envelope draws the values that the manual leaves open, and changes nothing else. -/
theorem State.buildEnvelope_frame (s : State) : ∃ b n, s.buildEnvelope =
    (b, s.dev.memu.poison.any (fun w => w / 32768 = s.dev.servedBy 28), { s with dev := { s.dev with drawn := n } }) := by
  have hfw (d : Dev) : ∃ h n, d.firmwareBytes = (h, { d with drawn := n }) := by
    unfold Dev.firmwareBytes
    dsimp only
    split_ifs
    · exact ⟨_, _, rfl⟩
    · exact ⟨_, d.drawn, rfl⟩
  have hfray : ∃ h n, (if s.dev.memu.poison.any (fun w => w / 32768 = s.dev.servedBy 28) then s.dev.drawBytes 7296
      else (s.dev.frayBytes, s.dev)) = (h, { s.dev with drawn := n }) := by
    split_ifs
    · exact ⟨_, _, rfl⟩
    · exact ⟨_, s.dev.drawn, rfl⟩
  obtain ⟨h, n, hf⟩ := hfray
  obtain ⟨h', n', hf'⟩ := hfw { s.dev with drawn := n }
  unfold State.buildEnvelope
  dsimp only
  rw [hf]
  dsimp only
  rw [hf']
  exact ⟨_, _, rfl⟩

/-- The envelope sealed, with what the dictionary shows of it. -/
def Dev.envSealed (d : Dev) (b : Bytes) (bad : Bool) : Dev :=
  ({ d with env := b }.wrs [(K.BUILD, 0), (K.ENV_STATE, if bad then 3 else 2), (K.BUILD_NT, d.buildNt), (K.ENV_CRC, crc32 b)])

theorem Dev.envSealed_shows (d : Dev) (b : Bytes) (bad : Bool) : (d.envSealed b bad).rd K.BUILD = 0 ∧
    (d.envSealed b bad).rd K.ENV_STATE = (if bad then 3 else 2) ∧ (d.envSealed b bad).rd K.ENV_CRC = crc32 b % 2 ^ 64 ∧
    (d.envSealed b bad).rd K.BUILDS = d.rd K.BUILDS := by
  simp only [Dev.envSealed, Dev.wrs_cons, Dev.wrs_nil]
  refine ⟨?_, ?_, ?_, ?_⟩
  · rw [Dev.rd_wr_ne _ _ (by decide), Dev.rd_wr_ne _ _ (by decide), Dev.rd_wr_ne _ _ (by decide), Dev.rd_wr_self, Nat.zero_mod]
  · rw [Dev.rd_wr_ne _ _ (by decide), Dev.rd_wr_ne _ _ (by decide), Dev.rd_wr_self]
    cases bad <;> rfl
  · rw [Dev.rd_wr_self]
  · rw [Dev.rd_wr_ne _ _ (by decide), Dev.rd_wr_ne _ _ (by decide), Dev.rd_wr_ne _ _ (by decide), Dev.rd_wr_ne _ _ (by decide)]
    rfl

/-- The event of a build leaves the slots of the envelope alone. -/
theorem Dev.builtEvent_rd (d : Dev) (n nt : Nat) (pay : Bytes) {k : Nat} (hk : 0x1441 * 256 ≤ k) :
    (Dev.event ({ d with drawn := n }.count K.BUILDS) 0x35 0x01D8 0x2F00 nt pay).rd k =
      if K.BUILDS = k then (d.rd K.BUILDS + 1) % 2 ^ 32 else d.rd k :=
  (Dev.event_rd _ _ _ _ _ _ _ (by decide) (postingSlot_outside (.inr hk))).trans (Dev.rd_count { d with drawn := n } _ _ _)

/-- BUILD_COMPLETE: the sealed envelope, counted, with its event. -/
theorem exec_buildComplete {s : State} (hb : s.dev.rd K.BUILD = 1) (hp : s.dev.postRuns = true) : ∃ b n pay n',
    exec .buildComplete s = .next { s with dev := ({ Dev.envSealed { s.dev with drawn := n } b
      (s.dev.memu.poison.any fun w => w / 32768 = s.dev.servedBy 28) with drawn := n' }.count K.BUILDS).event 0x35 0x01D8 0x2F00 s.dev.nt pay } := by
  obtain ⟨b, n, he⟩ := s.buildEnvelope_frame
  have hx : exec .buildComplete s = execBuildComplete s := rfl
  unfold execBuildComplete at hx
  rw [if_neg (by simp [hb, hp]), he] at hx
  exact ⟨b, n, _, _, hx⟩

end Sys2Proof.Machine

namespace Sys2Proof

open Sys2Proof.Machine

theorem todSec_waits {s : State} {p : Path} (hr : Reaches s p) (hroot : s.dev.isRoot = true) (ht : s.dev.rd K.TSTATE ≤ 1) {v : Nat}
    (hv : v < 2 ^ 64) : Completes (.todSec p v) s fun u => u.dev.time.tod = some v ∧ u.dev.rd K.TOD_SEC = v ∧ u.dev.nt = s.dev.nt ∧
      SlotsKept s u [K.TOD_SEC] :=
  completes_of_eq (exec_todSec hr hroot ht hv)
    ⟨rfl, slotWritten_rd (s := s) rfl rfl hv, rfl, slotWritten_kept (v := v) rfl rfl⟩

theorem buildComplete_seals {s : State} (hb : s.dev.rd K.BUILD = 1) (hp : s.dev.postRuns = true) :
    Completes .buildComplete s fun u => u.dev.rd K.BUILD = 0 ∧
      u.dev.rd K.ENV_STATE = (if s.dev.memu.poison.any (fun w => w / 32768 = s.dev.servedBy 28) then 3 else 2) ∧
      u.dev.rd K.ENV_CRC = crc32 u.dev.env % 2 ^ 64 ∧ u.dev.rd K.BUILDS = (s.dev.rd K.BUILDS + 1) % 2 ^ 32 ∧ u.mem = s.mem ∧
      u.dev.legs = s.dev.legs := by
  obtain ⟨b, n, pay, n', hx⟩ := exec_buildComplete hb hp
  generalize s.dev.memu.poison.any (fun w => w / 32768 = s.dev.servedBy 28) = bad at *
  obtain ⟨hbuild, hstate, hcrc, hbuilds⟩ := Dev.envSealed_shows { s.dev with drawn := n } b bad
  have hlegs : (Dev.envSealed { s.dev with drawn := n } b bad).legs = s.dev.legs := by
    rw [Dev.envSealed, Dev.wrs_objs_only]
  have henv : (Dev.envSealed { s.dev with drawn := n } b bad).env = b := by
    rw [Dev.envSealed, Dev.wrs_objs_only]
  generalize Dev.envSealed { s.dev with drawn := n } b bad = d at *
  have hrd {k : Nat} (hk : 0x1441 * 256 ≤ k) := d.builtEvent_rd n' s.dev.nt pay hk
  obtain ⟨o, m, f, hf⟩ := Dev.event_frame ({ d with drawn := n' }.count K.BUILDS) 0x35 0x01D8 0x2F00 s.dev.nt pay
  have henv' := (congrArg Dev.env hf).trans henv
  have hlegs' := (congrArg Dev.legs hf).trans hlegs
  generalize Dev.event ({ d with drawn := n' }.count K.BUILDS) 0x35 0x01D8 0x2F00 s.dev.nt pay = e at *
  refine completes_of_eq hx ⟨?_, ?_, ?_, ?_, rfl, hlegs'⟩
  · exact (hrd (by decide)).trans ((if_neg (by decide)).trans hbuild)
  · exact (hrd (by decide)).trans ((if_neg (by decide)).trans hstate)
  · rw [henv']
    exact (hrd (by decide)).trans ((if_neg (by decide)).trans hcrc)
  · exact (hrd (by decide)).trans ((if_pos rfl).trans (congrArg (fun x => (x + 1) % 2 ^ 32) hbuilds))

/-- Settles O53: each request is offered by the dictionary, passes the checks of a write of 1 and starts its action. -/
theorem requestsStartTheirActions : Obligations.RequestsStartTheirActions :=
  ⟨fun _ _ hr => ⟨fun _ hk => validate_requested hr hk, step_requested hr, step_ignored hr,
    fun hroot ht _ hv => todSec_waits hr hroot ht hv, cancel_requested hr, pmbRetry_requested hr, reqGo_requested hr, build_requested hr⟩,
    fun _ => buildComplete_seals⟩

end Sys2Proof

namespace Sys2Proof.Machine

/-! ## One read of a slot (R73, R82) -/

/-- The latches that a normal read sets change the axes alone. -/
theorem Dev.latchGroup_frame (d : Dev) (p : Path) (key : Nat) : ∃ t, d.latchGroup p key = { d with axes := t } := by
  unfold Dev.latchGroup
  dsimp only
  split
  case h_4 => split_ifs <;> exact ⟨_, rfl⟩
  all_goals exact ⟨_, rfl⟩

/-- The NT_FRAC latch is set by a read of NT alone (R43). -/
def State.latchNt (s : State) (p : Path) (key : Nat) : State := if key = K.NT then s.onDev fun d => d.latchFrac p else s

/-- A read of a slot outside the ring window returns its value. -/
theorem State.readSlot_value {s : State} {key : Nat} {r : Dict.Row} (hobj : s.object key = .ok r) (ha : r.acc ≠ .wo)
    (hw : ¬ (K.WIN_DATA ≤ key ∧ key ≤ K.WIN_BLOCK 127)) (p : Path) (peek : Bool) (mask : Nat) :
    s.readSlot p peek key mask = (.ok (s.valueOf p key % 2 ^ (8 * r.ty.size)),
      if peek then s.latchNt p key
      else (s.latchNt p key).onDev fun d => (d.latchGroup p key).readClear key (s.valueOf p key % 2 ^ (8 * r.ty.size)) mask r) := by
  have hdata : key ≠ K.WIN_DATA := by rintro rfl; exact hw (by decide)
  have hblock : ¬ (K.WIN_BLOCK 0 ≤ key ∧ key ≤ K.WIN_BLOCK 127) := fun h => hw ⟨le_trans (by decide) h.1, h.2⟩
  unfold State.readSlot
  rw [hobj]
  dsimp only
  rw [if_neg ha, if_neg hdata, if_neg hblock]
  rfl

theorem State.readSlot_error {s : State} {key e : Nat} (hobj : s.object key = .error e) (p : Path) (peek : Bool) (mask : Nat) :
    s.readSlot p peek key mask = (.error e, s) := by
  unfold State.readSlot
  rw [hobj]

/-- A choice of locations whose first branch stands at another template. -/
theorem Dict.tmpl_ite {c : Prop} [Decidable c] {a b : Dict.Loc} {t : Nat} {P : Prop} (ha : c → a.tmpl ≠ t) (hb : b.tmpl = t → P)
    (h : (if c then a else b).tmpl = t) : P := by
  by_cases hc : c
  · rw [if_pos hc] at h
    exact absurd h (ha hc)
  · rw [if_neg hc] at h
    exact hb h

/-- The template 0x1200 is that of its own index alone. -/
theorem Dict.locate_1200 {idx : Nat} (h : (Dict.locate idx).tmpl = 0x1200) : idx = 0x1200 := by
  revert h
  unfold Dict.locate
  dsimp only
  iterate 18 refine Dict.tmpl_ite (fun _ => by dsimp only; omega) ?_
  exact id
/-- The row of a subindex other than 00 is one of its template. -/
theorem Dict.findRow_of_row {idx sub : Nat} {r : Dict.Row} (h : Dict.row idx sub = some r) (h0 : sub ≠ 0) :
    Dict.findRow (Dict.rowsOf (Dict.locate idx).tmpl) sub = some r := by
  have hpick (rows : List Dict.Row) (tmpl : Nat) (hp : Dict.row.pick sub rows tmpl = some r) : Dict.findRow rows sub = some r := by
    rw [Dict.row.pick, if_neg h0] at hp
    split_ifs at hp
    exact hp
  rw [Dict.row] at h
  split_ifs at h
  split at h
  · split_ifs at h
    exact hpick _ _ h
  · exact hpick _ _ h

theorem State.row_of_object {s : State} {key : Nat} {r : Dict.Row} (h : s.object key = .ok r) :
    Dict.row (key / 256) (key % 256) = some r := by
  unfold State.object at h
  dsimp only at h
  split_ifs at h
  split at h
  · next heq => rw [heq, Except.ok.inj h]
  · cases h

/-- A normal read clears nothing in an RO or RW slot, TFLAGS apart (R82). -/
theorem Dev.readClear_keeps {s : State} {key : Nat} {r : Dict.Row} (hobj : s.object key = .ok r) (ha : r.acc = .ro ∨ r.acc = .rw)
    (hk : key ≠ K.TFLAGS) (d : Dev) (v mask : Nat) : d.readClear key v mask r = d := by
  have hrow (h0 : key % 256 ≠ 0) := Dict.findRow_of_row (State.row_of_object hobj) h0
  have hrc {row : Dict.Row} (h : (some row : Option Dict.Row) = some r) (hc : row.acc = .rc) : False := by
    rw [← Option.some.inj h, hc] at ha
    simp at ha
  unfold Dev.readClear
  dsimp only
  split
  case h_1 ht hs =>
    have hidx := Dict.locate_1200 ht
    exact absurd (show key = K.TFLAGS by lia) hk
  case h_2 ht hs =>
    rw [ht, hs] at hrow
    exact (hrc (hrow (by decide)) rfl).elim
  case h_3 ht hs =>
    rw [ht, hs] at hrow
    exact (hrc (hrow (by decide)) rfl).elim
  case h_4 ht hs =>
    rw [ht, hs] at hrow
    exact (hrc (hrow (by decide)) rfl).elim
  case h_5 ht hs =>
    rw [ht, hs] at hrow
    exact (hrc (hrow (by decide)) rfl).elim
  case h_6 => exact if_neg (by rcases ha with h | h <;> simp [h])

end Sys2Proof.Machine

namespace Sys2Proof.Machine

/-! ## Reads of one object by a path (R43, R105, R267, R291) -/

/-- The state after a normal read of a read-only slot: the latches of its path. -/
def State.latched (s : State) (p : Path) (key : Nat) : State := (s.latchNt p key).onDev fun d => d.latchGroup p key

theorem State.latched_frame (s : State) (p : Path) (key : Nat) : ∃ t x, s.latched p key =
    { s with dev := { s.dev with axes := t, fab := { s.dev.fab with ntFrac := x } } } := by
  unfold State.latched State.latchNt
  split_ifs
  · obtain ⟨t, ht⟩ := (s.dev.latchFrac p).latchGroup_frame p key
    exact ⟨t, _, by rw [State.onDev, State.onDev, ht]; rfl⟩
  · obtain ⟨t, ht⟩ := s.dev.latchGroup_frame p key
    exact ⟨t, _, by rw [State.onDev, ht]⟩

/-- A normal read of a read-only object: its value leaves, and its latches are set. -/
theorem softRead_value {s : State} {p : Path} {key : Nat} {r : Dict.Row} (hr : s.reachable p = true) (hobj : s.object key = .ok r)
    (ha : r.acc = .ro) (hw : ¬ (K.WIN_DATA ≤ key ∧ key ≤ K.WIN_BLOCK 127)) (hk : key ≠ K.TFLAGS) :
    softRead p key s =
      .next ((s.latched p key).onDev fun d => d.emit (.value p key (s.valueOf p key % 2 ^ (8 * r.ty.size)))) := by
  have hread : s.readSlot p false key (2 ^ 64 - 1) = (.ok (s.valueOf p key % 2 ^ (8 * r.ty.size)), s.latched p key) := by
    rw [State.readSlot_value hobj (by simp [ha]) hw]
    simp only [Dev.readClear_keeps hobj (.inl ha) hk]
    rfl
  rw [softRead, if_neg (by simp [hr]), hread]

/-- What a read returns: the value on its path, with the store and the memory as before. -/
theorem State.latched_returns (s : State) (p : Path) (key v : Nat) :
    let u := (s.latched p key).onDev fun d => d.emit (.value p key v)
    u.dev.out = s.dev.out ++ [.value p key v] ∧ u.dev.objs = s.dev.objs ∧ u.mem = s.mem := by
  obtain ⟨t, x, h⟩ := s.latched_frame p key
  rw [h]
  exact ⟨rfl, rfl, rfl⟩

/-- A refused read records its code; through BAR0 it returns ones (R76). -/
def Dev.refuseRead (d : Dev) (p : Path) (e key : Nat) : Dev :=
  match p with
  | .bar0 => (d.abort p e key).emit (.value p key (2 ^ 64 - 1))
  | .ring _ => d.abort p e key

theorem softRead_error {s : State} {p : Path} {key e : Nat} (hr : s.reachable p = true) (hobj : s.object key = .error e) :
    softRead p key s = .next (s.onDev fun d => d.refuseRead p e key) := by
  rw [softRead, if_neg (by simp [hr]), State.readSlot_error hobj]
  cases p <;> rfl

theorem Dev.refuseRead_rd (d : Dev) (p : Path) (e key k : Nat) : (d.refuseRead p e key).rd k = (d.abort p e key).rd k := by
  cases p <;> rfl

/-- The slots of an abort's record (R76). -/
theorem Dev.abort_shows (d : Dev) (p : Path) (code key : Nat) :
    (d.abort p code key).rd (statKey p K.LAST_ABORT) = code % 2 ^ 64 ∧
    (d.abort p code key).rd (statKey p K.LAST_OBJ) = key * 256 % 2 ^ 64 ∧
    d.SlotsSame (d.abort p code key) [statKey p K.LAST_ABORT, statKey p K.LAST_OBJ, statKey p K.ABORTS] := by
  have h1 : statKey p K.LAST_OBJ ≠ statKey p K.LAST_ABORT := by cases p <;> simp [statKey]
  have h2 : statKey p K.ABORTS ≠ statKey p K.LAST_ABORT := by cases p <;> simp [statKey]
  have h3 : statKey p K.ABORTS ≠ statKey p K.LAST_OBJ := by cases p <;> simp [statKey]
  simp only [Dev.abort, Dev.count_eq, Dev.wrs_cons, Dev.wrs_nil]
  refine ⟨?_, ?_, (((Dev.SlotsSame.refl d _).wr _ (by simp)).wr _ (by simp)).wr _ (by simp)⟩
  · rw [Dev.rd_wr_ne _ _ h2, Dev.rd_wr_ne _ _ h1, Dev.rd_wr_self]
  · rw [Dev.rd_wr_ne _ _ h3, Dev.rd_wr_self]

/-- The objects of an axis: where an index of its first 64 stands. -/
theorem Dict.locate_axis {a b n : Nat} (ha : a < 3) (hb : b < 0x40) (hn : n < 16) :
    Dict.locate (0x4000 + 0x400 * a + b + 0x40 * n) = ⟨0x4000 + 0x400 * a + b, n, .axis n⟩ := by
  have hdiv : (0x4000 + 0x400 * a + b + 0x40 * n - 0x4000) % 0x400 / 0x40 = n := by omega
  rw [Dict.locate, if_pos (by omega), hdiv]
  dsimp only
  rw [Nat.add_sub_cancel]

theorem Dev.axis_lt_of_has {d : Dev} {n : Nat} (h : d.hasAxis n = true) : n < 16 := by
  have hn : n < 4 * d.part.quarters := by simpa [Dev.hasAxis] using h
  have := d.part.quarters_le
  omega

section
variable {s : State} {n : Nat} (hf : s.dev.fab.ready = true) (hn : s.dev.hasAxis n = true) (hs : s.pow.devState ≠ .stowed)
include hf hn hs

/-- A slot of an axis that the part has. -/
theorem State.offers_axis {key tmpl a b sub : Nat} {r : Dict.Row} (ha : a < 3) (hb : b < 0x40) (ht : tmpl = 0x4000 + 0x400 * a + b)
    (hidx : key / 256 = tmpl + 0x40 * n) (hsub : key % 256 = sub) (hrow : Dict.findRow (Dict.rowsOf tmpl) sub = some r) (h0 : sub ≠ 0) :
    s.Offers key tmpl n sub (.axis n) r := by
  have hl : Dict.locate (key / 256) = ⟨tmpl, n, .axis n⟩ := by
    rw [hidx, ht]
    exact Dict.locate_axis ha hb (Dev.axis_lt_of_has hn)
  exact State.offers hl hsub hrow (by simp) h0 (by omega) (by omega) hf (.inl hs) (by simpa [Dict.Owner.present, Dev.hasAxis] using hn)

theorem State.offers_cmdPos : s.Offers (K.CMD_POS n) 0x4020 n 3 (.axis n) { sub := 3, ty := .i64, acc := .ro } :=
  State.offers_axis hf hn hs (a := 0) (b := 0x20) (by omega) (by omega) rfl (by lia) (by lia) (by decide) (by decide)

theorem State.offers_encCnt : s.Offers (K.ENC_CNT n) 0x4801 n 1 (.axis n) { sub := 1, ty := .i64, acc := .ro } :=
  State.offers_axis hf hn hs (a := 2) (b := 1) (by omega) (by omega) rfl (by lia) (by lia) (by decide) (by decide)

theorem State.offers_latchNt {i : Nat} (hi : i < 3) :
    s.Offers (K.LATCH_NT n i) 0x4805 n (1 + 4 * i) (.axis n) { sub := 1 + 4 * i, ty := .u64, acc := .ro } := by
  refine State.offers_axis hf hn hs (a := 2) (b := 5) (by omega) (by omega) rfl (by lia) (by lia) ?_ (by omega)
  obtain rfl | rfl | rfl : i = 0 ∨ i = 1 ∨ i = 2 := by omega
  all_goals decide

end

theorem State.offers_nt {s : State} (hf : s.dev.fab.ready = true) : s.Offers K.NT 0x1200 0 1 .device { sub := 1, ty := .u64, acc := .ro } :=
  State.offers_device hf (by decide) rfl (by decide) (by decide) (by decide) (by decide)

end Sys2Proof.Machine

namespace Sys2Proof.Machine

/-! ## Values that stand in their slots -/

section
variable {s : State} {p : Path} {key n sub : Nat} {owner : Dict.Owner} {r : Dict.Row}

theorem State.valueOf_cmdPos (h : s.Offers key 0x4020 n 3 owner r) : s.valueOf p key = s.dev.rd key := by
  rw [State.valueOf]
  dsimp only
  rw [h.locate, h.sub]
  rfl

theorem State.valueOf_encCnt (h : s.Offers key 0x4801 n 1 owner r) : s.valueOf p key = s.dev.rd key := by
  rw [State.valueOf]
  dsimp only
  rw [h.locate, h.sub]
  rfl

theorem State.valueOf_latchNt {i : Nat} (hi : i < 3) (h : s.Offers key 0x4805 n (1 + 4 * i) owner r) : s.valueOf p key = s.dev.rd key := by
  rw [State.valueOf]
  dsimp only
  rw [h.locate, h.sub]
  obtain rfl | rfl | rfl : i = 0 ∨ i = 1 ∨ i = 2 := by omega
  all_goals
    dsimp only
    split <;> simp_all

end

/-- A read of a read-only 8-byte object whose value stands in its slot. -/
theorem softRead_slot {s : State} {p : Path} {key : Nat} {r : Dict.Row} (hr : s.reachable p = true) (hobj : s.object key = .ok r)
    (ha : r.acc = .ro) (h8 : r.ty.size = 8) (hv : s.valueOf p key = s.dev.rd key) (hw : ¬ (K.WIN_DATA ≤ key ∧ key ≤ K.WIN_BLOCK 127))
    (hk : key ≠ K.TFLAGS) : softRead p key s = .next ((s.latched p key).onDev fun d => d.emit (.value p key (s.dev.rd key))) := by
  rw [softRead_value hr hobj ha hw hk, hv, h8, Nat.mod_eq_of_lt (s.dev.rd_lt key)]

/-! ## What the reads of their leading objects latch -/

section
variable {s : State} {p : Path} {key n : Nat} {owner : Dict.Owner} {r : Dict.Row} (hnt : key ≠ K.NT)
include hnt

theorem State.latched_of_ne : s.latched p key = s.onDev fun d => d.latchGroup p key := by
  rw [State.latched, State.latchNt, if_neg hnt]

theorem State.latched_cmdPos (h : s.Offers key 0x4020 n 3 owner r) :
    Tab.find (((s.latched p key).dev.mot n).latch) p.idx = some (s.dev.rd (K.CMD_VEL n), s.dev.rd (K.CMD_ACC n), s.dev.rd (K.CMD_NT n)) := by
  rw [State.latched_of_ne hnt, State.onDev, Dev.latchGroup]
  dsimp only
  rw [h.locate, h.sub]
  simp [Dev.mot, Dev.setMot]

theorem State.latched_encCnt (h : s.Offers key 0x4801 n 1 owner r) :
    Tab.find (((s.latched p key).dev.encRt n).latchCnt) p.idx =
      some (enc 64 (s.dev.encPosOf n (s.dev.encCnt n)), s.dev.rd (K.ENC_FLAGS n)) := by
  rw [State.latched_of_ne hnt, State.onDev, Dev.latchGroup]
  dsimp only
  rw [h.locate, h.sub]
  simp [Dev.encRt, Dev.setEnc]

theorem State.latched_latchNt {i : Nat} (hi : i < 3) (h : s.Offers key 0x4805 n (1 + 4 * i) owner r) :
    Tab.find (((s.latched p key).dev.sw n).latch) (p.idx * 4 + i) =
      some (s.dev.rd (K.LATCH_CMD n i), s.dev.rd (K.LATCH_ENC n i), s.dev.rd (K.LATCH_FLAGS n i)) := by
  rw [State.latched_of_ne hnt, State.onDev, Dev.latchGroup]
  dsimp only
  rw [h.locate, h.sub]
  obtain rfl | rfl | rfl : i = 0 ∨ i = 1 ∨ i = 2 := by omega
  all_goals simp [Dev.sw, Dev.setSw]

end

/-- A read of NT latches NT_FRAC for its path (R43). -/
theorem State.latched_nt (s : State) (p : Path) : Tab.find (s.latched p K.NT).dev.fab.ntFrac p.idx = some s.dev.ntFrac := by
  obtain ⟨t, ht⟩ := (s.dev.latchFrac p).latchGroup_frame p K.NT
  rw [State.latched, State.latchNt, if_pos rfl, State.onDev, State.onDev]
  dsimp only
  rw [ht]
  exact Tab.find_put_self _ _ _

end Sys2Proof.Machine

namespace Sys2Proof

open Sys2Proof.Machine

section
variable {s : State} {p : Path} (hr : Reaches s p)
include hr

theorem ntRead_returns : Completes (.ntRead p) s fun u =>
    (u.dev.out = s.dev.out ++ [.value p K.NT (s.dev.nt % 2 ^ 64)] ∧ u.dev.objs = s.dev.objs ∧ u.mem = s.mem) ∧
      Tab.find u.dev.fab.ntFrac p.idx = some s.dev.ntFrac :=
  completes_of_eq (softRead_value hr.1 (State.offers_nt hr.2).object rfl (by decide) (by decide))
    ⟨s.latched_returns p _ _, s.latched_nt p⟩

section
variable {n : Nat} (hn : s.dev.hasAxis n = true) (hs : s.pow.devState ≠ .stowed)
include hn hs

theorem cmdPosRead_returns : Completes (.cmdPosRead p n) s fun u =>
    (u.dev.out = s.dev.out ++ [.value p (K.CMD_POS n) (s.dev.rd (K.CMD_POS n))] ∧ u.dev.objs = s.dev.objs ∧ u.mem = s.mem) ∧
      Tab.find (u.dev.mot n).latch p.idx = some (s.dev.rd (K.CMD_VEL n), s.dev.rd (K.CMD_ACC n), s.dev.rd (K.CMD_NT n)) := by
  have h16 := Dev.axis_lt_of_has hn
  have ho := State.offers_cmdPos hr.2 hn hs
  have hsoft : exec (.cmdPosRead p n) s = softRead p (K.CMD_POS n) s := if_pos h16
  have hx := hsoft.trans (softRead_slot hr.1 ho.object rfl rfl (State.valueOf_cmdPos ho) (by lia) (by lia))
  exact completes_of_eq hx ⟨s.latched_returns p _ _, State.latched_cmdPos (by lia) ho⟩

theorem encCntRead_returns : Completes (.encCntRead p n) s fun u =>
    (u.dev.out = s.dev.out ++ [.value p (K.ENC_CNT n) (s.dev.rd (K.ENC_CNT n))] ∧ u.dev.objs = s.dev.objs ∧ u.mem = s.mem) ∧
      Tab.find (u.dev.encRt n).latchCnt p.idx = some (enc 64 (s.dev.encPosOf n (s.dev.encCnt n)), s.dev.rd (K.ENC_FLAGS n)) := by
  have h16 := Dev.axis_lt_of_has hn
  have ho := State.offers_encCnt hr.2 hn hs
  have hsoft : exec (.encCntRead p n) s = softRead p (K.ENC_CNT n) s := if_pos h16
  have hx := hsoft.trans (softRead_slot hr.1 ho.object rfl rfl (State.valueOf_encCnt ho) (by lia) (by lia))
  exact completes_of_eq hx ⟨s.latched_returns p _ _, State.latched_encCnt (by lia) ho⟩

theorem latchNtRead_returns {i : Nat} (hi : i < 3) : Completes (.latchNtRead p n i) s fun u =>
    (u.dev.out = s.dev.out ++ [.value p (K.LATCH_NT n i) (s.dev.rd (K.LATCH_NT n i))] ∧ u.dev.objs = s.dev.objs ∧ u.mem = s.mem) ∧
      Tab.find (u.dev.sw n).latch (p.idx * 4 + i) =
        some (s.dev.rd (K.LATCH_CMD n i), s.dev.rd (K.LATCH_ENC n i), s.dev.rd (K.LATCH_FLAGS n i)) := by
  have h16 := Dev.axis_lt_of_has hn
  have ho := State.offers_latchNt hr.2 hn hs hi
  have hsoft : exec (.latchNtRead p n i) s = softRead p (K.LATCH_NT n i) s := if_pos ⟨h16, hi⟩
  have hx := hsoft.trans (softRead_slot hr.1 ho.object rfl rfl (State.valueOf_latchNt hi ho) (by lia) (by lia))
  exact completes_of_eq hx ⟨s.latched_returns p _ _, State.latched_latchNt (by lia) hi ho⟩

end

/-- An object of an axis that the part lacks answers Absent. -/
theorem cmdPosRead_absent {n : Nat} (h16 : n < 16) (hn : s.dev.hasAxis n = false) (hs : s.pow.devState ≠ .stowed) :
    Completes (.cmdPosRead p n) s fun u => u.dev.rd (statKey p K.LAST_ABORT) = 0x0101 ∧
      SlotsKept s u [statKey p K.LAST_ABORT, statKey p K.LAST_OBJ, statKey p K.ABORTS] := by
  have hl : Dict.locate (K.CMD_POS n / 256) = ⟨0x4020, n, .axis n⟩ := by
    rw [show K.CMD_POS n / 256 = 0x4000 + 0x400 * 0 + 0x20 + 0x40 * n by lia]
    exact Dict.locate_axis (by omega) (by omega) h16
  have hobj : s.object (K.CMD_POS n) = .error abAbsent :=
    State.object_absent hl hr.2 (.inl hs) (by simpa [Dict.Owner.present, Dev.hasAxis] using hn)
  obtain ⟨hcode, -, hsame⟩ := s.dev.abort_shows p abAbsent (K.CMD_POS n)
  exact completes_of_eq ((if_pos h16).trans (softRead_error hr.1 hobj))
    ⟨(Dev.refuseRead_rd _ _ _ _ _).trans hcode, slotsKept_of_same (hsame.of_rd (Dev.refuseRead_rd _ _ _ _))⟩

end

end Sys2Proof

namespace Sys2Proof.Machine

/-! ## Reads of one slot through BAR0 (R72 to R76) -/

/-- The read latch for another slot emptied: nothing else changes. -/
theorem Dev.dropLatch_frame (d : Dev) (key : Nat) : ∃ x, d.dropLatch key = { d with fab := { d.fab with readLatch := x } } := by
  unfold Dev.dropLatch
  split
  · split_ifs <;> exact ⟨_, rfl⟩
  · exact ⟨_, rfl⟩

/-- The state in which a read of a slot through BAR0 is served. -/
def State.bar0Ready (s : State) (peek : Bool) (key : Nat) : State := if peek then s else s.onDev fun d => d.dropLatch key

theorem State.bar0Ready_frame (s : State) (peek : Bool) (key : Nat) :
    ∃ x, s.bar0Ready peek key = { s with dev := { s.dev with fab := { s.dev.fab with readLatch := x } } } := by
  unfold State.bar0Ready
  split_ifs
  · exact ⟨_, rfl⟩
  · obtain ⟨x, h⟩ := s.dev.dropLatch_frame key
    exact ⟨x, by rw [State.onDev, h]⟩

/-- The latch of a BAR0 read decides neither what a slot is nor its value. -/
theorem State.bar0Ready_same (s : State) (peek : Bool) (key : Nat) : (s.bar0Ready peek key).object key = s.object key ∧
    (s.bar0Ready peek key).valueOf .bar0 key = s.valueOf .bar0 key ∧ (∀ k, (s.bar0Ready peek key).dev.rd k = s.dev.rd k) ∧
    (s.bar0Ready peek key).dev.objs = s.dev.objs ∧ (s.bar0Ready peek key).dev.out = s.dev.out := by
  obtain ⟨x, h⟩ := s.bar0Ready_frame peek key
  rw [h]
  exact ⟨rfl, rfl, fun _ => rfl, rfl, rfl⟩

/-- Eight bytes of a slot are no half of an object: the latch does not serve them. -/
theorem State.bar0ReadSlot_whole (s : State) (peek : Bool) (key : Nat) :
    s.bar0ReadSlot peek key 0 8 = (s.bar0Ready peek key).bar0Plain peek key 0 8 ((s.bar0Ready peek key).wide key) := by
  unfold State.bar0ReadSlot
  dsimp only
  split
  · exact if_neg (by simp)
  · rfl

theorem slice_le_whole (v : Nat) : slice (le 8 v) 0 8 = le 8 v := by
  simp [slice, le, padTo]

/-- A whole slot read plainly: its value, or ones and the code that refuses it. -/
theorem State.bar0Plain_value {s t : State} {peek wide : Bool} {key v : Nat}
    (h : s.readSlot .bar0 peek key (2 ^ 64 - 1) = (.ok v, t)) : s.bar0Plain peek key 0 8 wide = (le 8 v, t) := by
  have hlow : (wide && decide (8 = 4) && decide (0 = 0)) = false := by simp
  have hmask : byteMask 0 8 = 2 ^ 64 - 1 := by decide
  unfold State.bar0Plain
  dsimp only
  rw [hlow, if_neg (by simp), hmask, h]
  simp [slice_le_whole]

theorem State.bar0Plain_error {s : State} {peek wide : Bool} {key e : Nat} (h : s.object key = .error e) (he : e ≠ abWriteOnly) :
    s.bar0Plain peek key 0 8 wide = (List.replicate 8 0xFF, s.onDev fun d => d.abort .bar0 e key) := by
  unfold State.bar0Plain
  dsimp only
  rw [State.readSlot_error h]
  dsimp only
  rw [if_neg he]

/-- BAR0 reads 8 bytes of one slot, at its address or where a peek reads it (R72). -/
theorem exec_bar0Read_slot {s : State} {ofs key : Nat} {peek : Bool} (hh : s.dev.hostUp = true) (hk : key < 2 ^ 24)
    (ho : ofs = (if peek then peekBase else 0) + 8 * key) {b : Bytes} {t : State} (hr : s.bar0ReadSlot peek key 0 8 = (b, t)) :
    exec (.bar0Read ofs 8) s = .next (t.onDev fun d => d.emit (.completion b)) := by
  have hofs : ofs % peekBase = 8 * key := by cases peek <;> simp [ho, peekBase] <;> omega
  have hpeek : decide (peekBase ≤ ofs) = peek := by
    cases peek with
    | false =>
      simp [ho, peekBase]
      omega
    | true => simp [ho]
  have hsize : ¬ (¬ s.dev.hostUp = true ∨ bar0Size < ofs + 8) := by
    simp only [hh, not_true, false_or, not_lt, ho, peekBase, bar0Size]
    split_ifs <;> omega
  have hparts : tlpParts (8 * key) 8 = some [(key, 0, 8)] := by
    rw [tlpParts, if_pos (by omega), Nat.mul_div_cancel_left _ (by decide), Nat.mul_mod_right]
  show execBar0Read ofs 8 s = _
  unfold execBar0Read
  dsimp only
  rw [if_neg hsize, hofs, hpeek, hparts]
  simp [hr]

end Sys2Proof.Machine

namespace Sys2Proof.Machine

section
variable {s : State} {key : Nat} {r : Dict.Row} (hobj : s.object key = .ok r) (ha : r.acc ≠ .wo)
  (hw : ¬ (K.WIN_DATA ≤ key ∧ key ≤ K.WIN_BLOCK 127))
include hobj ha hw

/-- A BAR0 read of a slot that exists returns its value, and leaves what its latches and its clearing leave. -/
theorem State.bar0ReadSlot_value (peek : Bool) : s.bar0ReadSlot peek key 0 8 =
    (le 8 (s.valueOf .bar0 key % 2 ^ (8 * r.ty.size)),
      if peek then (s.bar0Ready peek key).latchNt .bar0 key
      else ((s.bar0Ready peek key).latchNt .bar0 key).onDev fun d =>
        (d.latchGroup .bar0 key).readClear key (s.valueOf .bar0 key % 2 ^ (8 * r.ty.size)) (2 ^ 64 - 1) r) := by
  obtain ⟨hobj', hval, -, -, -⟩ := s.bar0Ready_same peek key
  rw [State.bar0ReadSlot_whole]
  refine State.bar0Plain_value ?_
  rw [State.readSlot_value (hobj'.trans hobj) ha hw, hval]

/-- A peek: the value, and no latch of the axes. -/
theorem State.bar0ReadSlot_peek : s.bar0ReadSlot true key 0 8 =
    (le 8 (s.valueOf .bar0 key % 2 ^ (8 * r.ty.size)), s.latchNt .bar0 key) :=
  State.bar0ReadSlot_value hobj ha hw true

end

theorem State.latchNt_same (s : State) (p : Path) (key : Nat) :
    (s.latchNt p key).dev.out = s.dev.out ∧ (s.latchNt p key).dev.objs = s.dev.objs := by
  unfold State.latchNt
  split_ifs <;> exact ⟨rfl, rfl⟩

/-- A normal read of an RO or RW slot: the value, and the latches of BAR0. -/
theorem State.bar0ReadSlot_normal {s : State} {key : Nat} {r : Dict.Row} (hobj : s.object key = .ok r) (ha : r.acc = .ro ∨ r.acc = .rw)
    (hw : ¬ (K.WIN_DATA ≤ key ∧ key ≤ K.WIN_BLOCK 127)) (hk : key ≠ K.TFLAGS) : s.bar0ReadSlot false key 0 8 =
      (le 8 (s.valueOf .bar0 key % 2 ^ (8 * r.ty.size)), (s.bar0Ready false key).latched .bar0 key) := by
  rw [State.bar0ReadSlot_value hobj (by rcases ha with h | h <;> simp [h]) hw]
  simp only [Dev.readClear_keeps hobj ha hk]
  rfl

/-- A slot that refuses its read: ones, and the code recorded. -/
theorem State.bar0ReadSlot_error {s : State} {key e : Nat} (hobj : s.object key = .error e) (he : e ≠ abWriteOnly) :
    s.bar0ReadSlot false key 0 8 = (List.replicate 8 0xFF, (s.bar0Ready false key).onDev fun d => d.abort .bar0 e key) := by
  rw [State.bar0ReadSlot_whole]
  exact State.bar0Plain_error ((s.bar0Ready_same false key).1.trans hobj) he

theorem State.offers_lastAbort {s : State} (hf : s.dev.fab.ready = true) :
    s.Offers K.LAST_ABORT 0x1130 0 1 .device { sub := 1, ty := .u16, acc := .rc } :=
  State.offers_device hf (by decide) rfl (by decide) (by decide) (by decide) (by decide)

/-- A normal read of LAST_ABORT clears it (R82). -/
theorem State.bar0ReadSlot_lastAbort {s : State} (hf : s.dev.fab.ready = true) : s.bar0ReadSlot false K.LAST_ABORT 0 8 =
    (le 8 (s.dev.rd K.LAST_ABORT % 2 ^ 16), (s.bar0Ready false K.LAST_ABORT).onDev fun d => d.wr K.LAST_ABORT 0) :=
  State.bar0ReadSlot_value (State.offers_lastAbort hf).object (by decide) (by decide) false

end Sys2Proof.Machine

namespace Sys2Proof

open Sys2Proof.Machine

section
variable {s : State} {key : Nat} (hh : s.dev.hostUp = true) (hk : key < 2 ^ 24)
include hh hk

theorem bar0Read_peek {r : Dict.Row} (hobj : s.object key = .ok r) (ha : r.acc ≠ .wo) (hw : ¬ (K.WIN_DATA ≤ key ∧ key ≤ K.WIN_BLOCK 127)) :
    Completes (.bar0Read (peekBase + 8 * key) 8) s fun u =>
      u.dev.out = s.dev.out ++ [.completion (le 8 (s.valueOf .bar0 key % 2 ^ (8 * r.ty.size)))] ∧ u.dev.objs = s.dev.objs := by
  obtain ⟨hout, hobjs⟩ := s.latchNt_same .bar0 key
  exact completes_of_eq (exec_bar0Read_slot (peek := true) hh hk rfl (State.bar0ReadSlot_peek hobj ha hw))
    ⟨congrArg (· ++ [_]) hout, hobjs⟩

theorem bar0Read_normal {r : Dict.Row} (hobj : s.object key = .ok r) (ha : r.acc = .ro ∨ r.acc = .rw)
    (hw : ¬ (K.WIN_DATA ≤ key ∧ key ≤ K.WIN_BLOCK 127)) (hf : key ≠ K.TFLAGS) :
    Completes (.bar0Read (8 * key) 8) s fun u =>
      u.dev.out = s.dev.out ++ [.completion (le 8 (s.valueOf .bar0 key % 2 ^ (8 * r.ty.size)))] ∧ u.dev.objs = s.dev.objs := by
  obtain ⟨-, -, -, hobjs, hout⟩ := s.bar0Ready_same false key
  obtain ⟨t, x, hl⟩ := (s.bar0Ready false key).latched_frame .bar0 key
  refine completes_of_eq (exec_bar0Read_slot (peek := false) hh hk (by simp) (State.bar0ReadSlot_normal hobj ha hw hf)) ?_
  rw [hl]
  exact ⟨congrArg (· ++ [_]) hout, hobjs⟩

theorem bar0Read_refused {e : Nat} (hobj : s.object key = .error e) (he : e ≠ abWriteOnly) :
    Completes (.bar0Read (8 * key) 8) s fun u => u.dev.out = s.dev.out ++ [.completion (List.replicate 8 0xFF)] ∧
      u.dev.rd K.LAST_ABORT = e % 2 ^ 64 ∧ u.dev.rd K.LAST_OBJ = key * 256 ∧ SlotsKept s u [K.LAST_ABORT, K.LAST_OBJ, K.ABORTS] := by
  obtain ⟨-, -, hrd, -, hout⟩ := s.bar0Ready_same false key
  obtain ⟨hcode, hobject, hsame⟩ := (s.bar0Ready false key).dev.abort_shows .bar0 e key
  have hlt : key * 256 < 2 ^ 64 := by omega
  exact completes_of_eq (exec_bar0Read_slot (peek := false) hh hk (by simp) (State.bar0ReadSlot_error hobj he))
    ⟨congrArg (· ++ [_]) hout, hcode, hobject.trans (Nat.mod_eq_of_lt hlt),
      slotsKept_of_same fun k hk' => (hsame k hk').trans (hrd k)⟩

end

theorem bar0Read_lastAbort {s : State} (hh : s.dev.hostUp = true) (hf : s.dev.fab.ready = true) :
    Completes (.bar0Read (8 * K.LAST_ABORT) 8) s fun u => u.dev.rd K.LAST_ABORT = 0 ∧
      u.dev.out = s.dev.out ++ [.completion (le 8 (s.dev.rd K.LAST_ABORT % 2 ^ 16))] ∧ SlotsKept s u [K.LAST_ABORT] := by
  obtain ⟨-, -, hrd, -, hout⟩ := s.bar0Ready_same false K.LAST_ABORT
  refine completes_of_eq (exec_bar0Read_slot (peek := false) hh (by decide) (by simp) (State.bar0ReadSlot_lastAbort hf))
    ⟨slotWritten_rd (s := s.bar0Ready false K.LAST_ABORT) (v := 0) rfl rfl (by decide), congrArg (· ++ [_]) hout, fun k hk hp => ?_⟩
  have hne : K.LAST_ABORT ≠ k := fun h => hk (by simp [h])
  exact (Dev.rd_wr_ne (s.bar0Ready false K.LAST_ABORT).dev 0 hne).trans (hrd k)

/-- Settles O48: reads by a path from `softRead`'s value and latches, reads through BAR0 from the one slot that 8 bytes cover. -/
theorem readsReturnLatchAndClear : Obligations.ReadsReturnLatchAndClear := by
  refine ⟨fun s p hr => ⟨ntRead_returns hr, fun n hn hs => ⟨cmdPosRead_returns hr hn hs, encCntRead_returns hr hn hs,
    fun i hi => latchNtRead_returns hr hn hs hi⟩⟩, fun s p n hr h16 hn hs => cmdPosRead_absent hr h16 hn hs, fun s key r hh hk hobj ha hw => ?_,
    fun s => bar0Read_lastAbort, fun s key e hh hk hobj he => bar0Read_refused hh hk hobj he⟩
  exact ⟨bar0Read_peek hh hk hobj ha hw, fun hacc hf => bar0Read_normal hh hk hobj hacc hw hf⟩

end Sys2Proof

namespace Sys2Proof.Machine

/-! ## Device states: what a command does to them (R92, R423, Table 16-2) -/

/-- One transition of the device state (Table 16-2), the start lock as it was; Operating is entered locked (R93). -/
inductive Power.Move (p : Power) : Power → Prop
  | start (h : p.devState = .off) : Move p { p with devState := .ready }
  | run (h : p.devState = .ready) (hl : p.locked = true) : Move p { p with devState := .operating }
  | stop (h : p.devState = .operating) : Move p { p with devState := .ready }
  | stow (h : p.devState = .ready) : Move p { p with devState := .stowed }
  | wake (h : p.devState = .stowed) : Move p { p with devState := .ready }
  | enterSafe (h : p.devState ≠ .safe) : Move p { p with devState := .safe }
  | leaveSafe (h : p.devState = .safe) : Move p { p with devState := .ready }

theorem Power.moves_locked {p q : Power} (h : Relation.ReflTransGen Power.Move p q) : q.locked = p.locked := by
  induction h with
  | refl => rfl
  | tail _ hm ih => cases hm <;> exact ih

theorem Power.moves_operating {p q : Power} (h : Relation.ReflTransGen Power.Move p q) (ho : q.devState = .operating) :
    p.devState = .operating ∨ p.locked = true := by
  induction h with
  | refl => exact .inl ho
  | tail hpq hm _ =>
    cases hm with
    | run _ hlock => exact .inr (Power.moves_locked hpq ▸ hlock)
    | _ => cases ho

/-- Between two states the device made transitions only, or none. -/
def State.Moves (s t : State) : Prop := Relation.ReflTransGen Power.Move s.pow t.pow

namespace State.Moves

variable {s t u : State}

theorem of_pow (h : t.pow = s.pow) : s.Moves t := by
  rw [State.Moves, h]

theorem refl (s : State) : s.Moves s := of_pow rfl

theorem trans (h : s.Moves t) (h' : t.Moves u) : s.Moves u := Relation.ReflTransGen.trans h h'

theorem of_move (h : Power.Move s.pow t.pow) : s.Moves t := .single h

theorem onDev (h : s.Moves t) (f : Dev → Dev) : s.Moves (t.onDev f) := h

theorem ite {p : Prop} [Decidable p] (ht : s.Moves t) (hu : s.Moves u) : s.Moves (if p then t else u) := by
  split_ifs
  · exact ht
  · exact hu

theorem ite_of {β : Type} (f : β → State) {p : Prop} [Decidable p] {x y : β} (hx : s.Moves (f x)) (hy : s.Moves (f y)) :
    s.Moves (f (if p then x else y)) := by
  split_ifs
  · exact hx
  · exact hy

/-- Transitions leave the start lock. -/
theorem locked (h : s.Moves t) : t.pow.locked = s.pow.locked := Power.moves_locked h

/-- A device comes to Operating locked only. -/
theorem operating (h : s.Moves t) (ho : t.pow.devState = .operating) : s.pow.devState = .operating ∨ s.pow.locked = true :=
  Power.moves_operating h ho

end State.Moves

/-! ## Safe, and the ladder that leads to it (R434, R335) -/

@[simp] theorem State.changeState_pow (s : State) (new : DevState) : (s.changeState new).pow = { s.pow with devState := new } := rfl

theorem State.enterSafe_moves (s : State) (cause : Nat) : s.Moves (s.enterSafe cause) := by
  by_cases h : s.pow.devState = .safe
  · rw [State.enterSafe, if_pos h]
    exact .refl s
  · rw [State.enterSafe_eq h]
    exact .of_move (.enterSafe h)

theorem State.applyStep_moves (s : State) (k : Nat) (axes quarters : List Nat) : s.Moves (s.applyStep k axes quarters) :=
  .ite (.onDev (.refl s) _) (.ite (.onDev (.refl s) _) (.ite (s.enterSafe_moves 1) (.refl s)))

theorem State.takeStep_moves (s : State) : s.Moves s.takeStep := by
  unfold State.takeStep
  refine .ite (.refl s) (.onDev ?_ _)
  exact State.applyStep_moves (s.onDev _) _ _ _

theorem State.dueSteps_moves (s : State) : s.Moves s.dueSteps := by
  have go (u : State) : u.Moves (if u.dev.rd K.NEXT_STEP_NT ≤ u.dev.nt then u.takeStep else u) := .ite u.takeStep_moves (.refl u)
  exact ((go s).trans (go _)).trans (go _)

theorem State.merge_moves (s : State) (r : Raise) (cfg : Nat) : s.Moves (s.merge r cfg) := by
  unfold State.merge
  refine .trans (.onDev ?_ Dev.schedule) (State.dueSteps_moves _)
  refine .trans (t := ite _ _ _) (.ite ?_ ?_) (.ite (State.applyStep_moves _ _ _ _) (.refl _))
  · exact State.applyStep_moves (s.onDev _) _ _ _
  · exact .of_pow rfl

theorem State.takeRaise_moves (s : State) (r : Raise) : s.Moves (s.takeRaise r) := by
  unfold State.takeRaise
  dsimp only
  refine .ite (.ite (.trans ?_ (State.merge_moves _ _ _)) ?_) (.ite ?_ ?_)
  all_goals exact .of_pow rfl

theorem State.mismatch_moves (s : State) : s.Moves s.mismatch := by
  unfold State.mismatch
  exact .ite (State.enterSafe_moves (s.onDev _) 2) (.onDev (.refl s) _)

/-! ## Memory, patches and the losses leave the device state -/

theorem State.capture_pow (s : State) (n : Nat) (b : Bytes) : (s.capture n b).pow = s.pow := by
  unfold State.capture
  dsimp only
  split_ifs <;> rfl

theorem State.storeWords_pow (unit b : Nat) : ∀ (fuel : Nat) (s : State) (ofs : Nat) (data : Bytes),
    (State.storeWords unit b fuel s ofs data).pow = s.pow := by
  intro fuel
  induction fuel with
  | zero => intro s ofs data; simp [State.storeWords]
  | succ fuel ih =>
    intro s ofs data
    cases data with
    | nil => simp [State.storeWords]
    | cons x t =>
      rw [State.storeWords, ih]
      · dsimp only
        split_ifs <;> rfl
      · nofun

theorem State.bankStore_pow (s : State) (unit b ofs : Nat) (data : Bytes) : (s.bankStore unit b ofs data).pow = s.pow := by
  unfold State.bankStore
  by_cases h : data = []
  · rw [if_pos h]
  · rw [if_neg h]
    exact State.storeWords_pow unit b _ s ofs data

theorem State.loadWords_pow (unit b : Nat) : ∀ (fuel : Nat) (s : State) (ofs n : Nat),
    (State.loadWords unit b fuel s ofs n).2.pow = s.pow := by
  intro fuel
  induction fuel with
  | zero => intro s ofs n; rfl
  | succ fuel ih =>
    intro s ofs n
    unfold State.loadWords
    split_ifs
    · rfl
    · exact ih _ _ _

theorem State.bankLoad_pow (s : State) (unit b ofs n : Nat) : (s.bankLoad unit b ofs n).2.pow = s.pow := by
  unfold State.bankLoad
  split_ifs
  · exact State.loadWords_pow unit b n s ofs n
  · rfl

theorem State.clearBank_pow (s : State) (phys : Nat) : (s.clearBank phys).pow = s.pow := rfl

theorem State.copyBank_pow (s : State) (src dst : Nat) : (s.copyBank src dst).pow = s.pow := rfl

theorem State.consumePoison_pow (s : State) (unit b w : Nat) : (s.consumePoison unit b w).pow = s.pow := by
  unfold State.consumePoison
  split_ifs <;> rfl

theorem State.bankPatch_pow (s : State) (b cause : Nat) : (s.bankPatch b cause).pow = s.pow := by
  unfold State.bankPatch
  split
  · rfl
  · split_ifs <;> rfl
  · rfl

theorem State.decideBank_pow (s : State) (b : Nat) : (s.decideBank b).pow = s.pow := by
  unfold State.decideBank
  split_ifs
  · exact s.bankPatch_pow b 5
  · rfl

theorem State.unrepairable_pow (s : State) (b : Nat) (reserve : Option Nat) : (s.unrepairable b reserve).pow = s.pow := by
  cases reserve <;> rfl

theorem State.reqBegin_pow (s : State) : s.reqBegin.pow = s.pow := by
  unfold State.reqBegin
  by_cases h : s.dev.rd K.REQ_KIND = 5
  · exact (congrArg State.pow (if_pos h)).trans (State.bankPatch_pow (s.onDev _) _ 2)
  · dsimp only
    rw [if_neg h]
    rfl

theorem State.bar2Load_pow : ∀ (fuel : Nat) (s : State) (ofs n : Nat), (State.bar2Load fuel s ofs n).2.pow = s.pow := by
  intro fuel
  induction fuel with
  | zero => intro s ofs n; rfl
  | succ fuel ih =>
    intro s ofs n
    unfold State.bar2Load
    split_ifs
    · rfl
    · exact (ih _ _ _).trans (State.bankLoad_pow _ _ _ _ _)
    · exact ih _ _ _

theorem State.bar2Part_pow (s : State) (ofs : Nat) (data : Bytes) : (s.bar2Part ofs data).pow = s.pow := by
  unfold State.bar2Part
  dsimp only
  split_ifs
  · exact s.bankStore_pow _ _ _ _
  all_goals rfl

theorem State.bar2Store_pow : ∀ (fuel : Nat) (s : State) (ofs : Nat) (data : Bytes), (State.bar2Store fuel s ofs data).pow = s.pow := by
  intro fuel
  induction fuel with
  | zero => intro s ofs data; rfl
  | succ fuel ih =>
    intro s ofs data
    unfold State.bar2Store
    split_ifs
    · rfl
    · exact (ih _ _ _).trans (State.bar2Part_pow _ _ _)

theorem State.lossEvent_pow (s : State) (kind type cause : Nat) : (s.lossEvent kind type cause).pow = s.pow := rfl

theorem State.lose_pow (s : State) (kind cause : Nat) : (s.lose kind cause).pow = s.pow := by
  unfold State.lose
  dsimp only
  split_ifs <;> rfl

theorem State.regain_pow (s : State) (kind cause : Nat) : (s.regain kind cause).pow = s.pow := by
  unfold State.regain
  split_ifs <;> rfl

theorem State.hostCause_pow (s : State) (i : Nat) (on : Bool) : (s.hostCause i on).pow = s.pow := by
  unfold State.hostCause
  dsimp only
  split_ifs
  · exact State.lose_pow (s.onDev _) _ _
  · exact State.regain_pow (s.onDev _) _ _
  · rfl

theorem State.kick_pow (s : State) : s.kick.pow = s.pow := by
  unfold State.kick
  dsimp only
  split_ifs
  · exact State.hostCause_pow (s.onDev _) _ _
  · rfl

theorem State.buildEnvelope_pow (s : State) : s.buildEnvelope.2.2.pow = s.pow := by
  obtain ⟨b, n, h⟩ := s.buildEnvelope_frame
  rw [h]

/-! ## Start-up and the requests of 0x1100 (R427 to R435) -/

theorem State.startSafe_moves (s : State) (code : Nat) : s.Moves (s.startSafe code) := State.enterSafe_moves (s.onDev _) 3

theorem State.decideBanks_pow (l : List Nat) (s : State) : (l.foldl (fun s b => s.decideBank b) s).pow = s.pow :=
  foldl_keeps State.pow _ (fun s b => s.decideBank_pow b) l s

theorem State.startStep_moves (s : State) (fail : StartFail) : s.Moves (s.startStep fail) := by
  unfold State.startStep
  split
  case h_1 => exact s.startSafe_moves 2
  case h_5 => exact s.startSafe_moves 3
  case h_8 => exact .of_pow (State.decideBanks_pow _ _)
  all_goals exact .of_pow rfl

/-- A request that is not refused makes its transition. -/
theorem State.request_moves {s : State} {k : Nat} (h : s.requestRefused k = false) : s.Moves (s.request k) := by
  unfold State.requestRefused at h
  unfold State.request
  dsimp only at h
  split_ifs at h ⊢
  · obtain ⟨hr, hl⟩ : s.pow.devState = .ready ∧ s.pow.locked = true := by simpa using h
    exact .of_move (.run hr hl)
  · obtain ⟨ho, -⟩ : s.pow.devState = .operating ∧ _ := by simpa using h
    exact .of_move (.stop ho)
  · obtain ⟨hr, -⟩ : s.pow.devState = .ready ∧ _ := by simpa using h
    exact .of_move (.stow hr)
  · exact .of_move (.wake (by simpa using h))
  · obtain ⟨⟨⟨hs, -⟩, -⟩, -⟩ : ((s.pow.devState = .safe ∧ _) ∧ _) ∧ _ := by simpa using h
    exact .of_move (.leaveSafe hs)

/-! ## Reads leave the device state, writes make the transitions of their requests -/

theorem State.winLoad_pow (s : State) (i : Nat) : (s.winLoad i).2.pow = s.pow := s.bankLoad_pow _ _ _ _

theorem State.readSlot_pow (s : State) (p : Path) (peek : Bool) (key mask : Nat) : (s.readSlot p peek key mask).2.pow = s.pow := by
  unfold State.readSlot
  cases s.object key with
  | error e => rfl
  | ok r =>
    dsimp only
    split_ifs
    · rfl
    · exact s.winLoad_pow _
    · exact s.winLoad_pow _
    · exact s.winLoad_pow _
    all_goals rfl

theorem State.bar0Plain_pow (s : State) (peek : Bool) (key b n : Nat) (wide : Bool) : (s.bar0Plain peek key b n wide).2.pow = s.pow := by
  have hread := fun mask => s.readSlot_pow .bar0 peek key mask
  unfold State.bar0Plain
  dsimp only
  split
  · next e t h => exact (congrArg (·.2.pow) h).symm.trans (hread _)
  · next v t h =>
    have ht : t.pow = s.pow := (congrArg (·.2.pow) h).symm.trans (hread _)
    split_ifs <;> exact ht

theorem State.bar0ReadSlot_pow (s : State) (peek : Bool) (key b n : Nat) : (s.bar0ReadSlot peek key b n).2.pow = s.pow := by
  obtain ⟨x, h⟩ := s.bar0Ready_frame peek key
  have hready : (s.bar0Ready peek key).pow = s.pow := by rw [h]
  have hplain (wide : Bool) : ((s.bar0Ready peek key).bar0Plain peek key b n wide).2.pow = s.pow :=
    (State.bar0Plain_pow _ _ _ _ _ _).trans hready
  show (match (s.bar0Ready peek key).dev.fab.readLatch with
    | some (k, hi) => if (s.bar0Ready peek key).wide key ∧ n = 4 ∧ b = 4 ∧ k = key then (le 4 hi, s.bar0Ready peek key)
      else (s.bar0Ready peek key).bar0Plain peek key b n ((s.bar0Ready peek key).wide key)
    | none => (s.bar0Ready peek key).bar0Plain peek key b n ((s.bar0Ready peek key).wide key)).2.pow = s.pow
  split
  · split_ifs
    · exact hready
    · exact hplain _
  · exact hplain _

theorem State.ack_pow (s : State) (p : Path) (value : Nat) : (s.ack p value).pow = s.pow := by
  unfold State.ack
  split_ifs <;> rfl

end Sys2Proof.Machine

namespace Sys2Proof.Machine
theorem State.w1Code_request {s : State} {i sub : Nat} (h : s.w1Code 0x1100 i sub = abNone) :
    s.requestRefused (0x1100 * 256 + sub) = false := by
  have hcode : s.w1Code 0x1100 i sub = if s.requestRefused (0x1100 * 256 + sub) then abInconsistent else abNone :=
    by simp [State.w1Code]
  rw [hcode] at h
  by_contra hr
  rw [if_pos (by simpa using hr)] at h
  exact absurd h (by decide)

/-- A write of 1 that no code refuses makes the transition of its request, or none. -/
theorem State.w1Start_moves {s : State} {tmpl i sub : Nat} (h : s.w1Code tmpl i sub = abNone) : s.Moves (s.w1Start tmpl i sub) := by
  unfold State.w1Start
  split
  case h_1 => exact State.request_moves (State.w1Code_request h)
  case h_8 => exact .ite (.onDev (.refl s) _) (.refl s)
  case h_12 => exact .of_pow s.reqBegin_pow
  case h_17 => exact .refl s
  all_goals exact .onDev (.refl s) _

theorem State.writeW1_moves (s : State) (p : Path) (tmpl i sub key v : Nat) : s.Moves (s.writeW1 p tmpl i sub key v).2 := by
  unfold State.writeW1
  by_cases hi : v = 0 ∨ s.w1Ignored tmpl i sub = true
  · rw [if_pos hi]
    exact .onDev (.refl s) _
  · by_cases hc : s.w1Code tmpl i sub = abNone
    · rw [if_neg hi, if_neg (by simp [hc])]
      split_ifs
      · exact .refl s
      · exact State.w1Start_moves hc
    · rw [if_neg hi, if_pos hc]
      exact .refl s

/-- What a landed write does at once makes no transition. -/
theorem State.landed_moves (s : State) (p : Path) (tmpl i sub old new : Nat) : s.Moves (s.landed p tmpl i sub old new) := by
  unfold State.landed
  split
  case h_2 => exact .of_pow s.kick_pow
  case h_19 => exact .of_pow (s.ack_pow p new)
  case h_25 | h_28 => exact .ite (.onDev (.refl s) _) (.refl s)
  case h_29 | h_30 | h_31 | h_32 => exact .ite (.refl s) (.onDev (.refl s) _)
  case h_39 => exact .refl s
  all_goals exact .onDev (.refl s) _

theorem State.store_moves (s : State) (p : Path) (tmpl i sub key v : Nat) (r : Dict.Row) : s.Moves (s.store p tmpl i sub key v r).2 := by
  have hland (d : Dev) (old new : Nat) : s.Moves (State.landed { s with dev := d } p tmpl i sub old new) :=
    .trans (.onDev (.refl s) fun _ => d) (State.landed_moves _ _ _ _ _ _ _)
  exact .ite_of _ (.refl s) (.ite_of _ (.refl s) (.ite_of _ (.refl s) (.onDev (hland _ _ _) _)))

theorem State.winStore_moves (s : State) (i v : Nat) (advance : Bool) : s.Moves (s.winStore i v advance).2 := by
  have hstore : s.Moves (s.bankStore ownerDma (s.dev.rd K.WIN_BANK) ((s.dev.rd K.WIN_OFS + 8 * i) % bankSize) (le 8 v)) :=
    .of_pow (s.bankStore_pow _ _ _ _)
  unfold State.winStore
  dsimp only
  split_ifs
  · exact .onDev hstore _
  · exact hstore
  · exact .refl s

theorem State.writeSlot_moves (s : State) (p : Path) (key value : Nat) (fits : Bool) : s.Moves (s.writeSlot p key value fits).2 := by
  unfold State.writeSlot
  cases s.object key with
  | error e => exact .refl s
  | ok r =>
    dsimp only
    split_ifs
    · exact .refl s
    · exact .refl s
    · exact s.writeW1_moves _ _ _ _ _ _
    · exact s.winStore_moves _ _ _
    · exact s.winStore_moves _ _ _
    · exact s.store_moves _ _ _ _ _ _ _

theorem State.write_moves (s : State) (p : Path) (key value : Nat) (fits : Bool) : s.Moves (s.write p key value fits).2 :=
  .ite (s.writeSlot_moves p key value fits) (.onDev (s.writeSlot_moves p key value fits) _)

theorem State.bar0WriteSlot_moves (s : State) (key b : Nat) (data : Bytes) : s.Moves (s.bar0WriteSlot key b data) := by
  have hwrite (f g : Dev → Dev) (v : Nat) (fits : Bool) : s.Moves (((s.onDev f).onDev g).write .bar0 key v fits).2 :=
    .trans (.onDev (.onDev (.refl s) f) g) (State.write_moves _ _ _ _ _)
  unfold State.bar0WriteSlot
  dsimp only
  split
  · exact hwrite _ _ _ _
  · split_ifs
    · exact .onDev (.onDev (.refl s) _) _
    · exact .onDev (.onDev (.onDev (.refl s) _) _) _
    · split
      · split_ifs <;> exact hwrite _ _ _ _
      · exact hwrite _ _ _ _

/-- Slots written one after the other make transitions only. -/
theorem State.bar0Write_moves (l : List (Nat × Nat × Nat)) : ∀ acc : State × Bytes, acc.1.Moves
    (l.foldl (fun (acc : State × Bytes) x => (acc.1.bar0WriteSlot x.1 x.2.1 (acc.2.take x.2.2), acc.2.drop x.2.2)) acc).1 := by
  induction l with
  | nil => exact fun acc => .refl acc.1
  | cons x t ih => exact fun acc => .trans (acc.1.bar0WriteSlot_moves _ _ _) (ih (_, _))

/-! ## Object requests of the ring (R78 to R81) -/

theorem State.freeData_pow (s : State) : s.freeData.2.pow = s.pow := rfl

theorem State.ringRead_moves (s : State) (r : ObjRequest) (peek : Bool) : s.Moves (s.ringRead r peek).2.2 := by
  have hread := s.readSlot_pow (.ring r.src) peek (reqKey r) (2 ^ 64 - 1)
  unfold State.ringRead
  cases s.object (reqKey r) with
  | error e => exact .of_pow rfl
  | ok row =>
    by_cases hsize : row.ringSize ≠ r.size
    · simp only [if_pos hsize]
      exact .of_pow rfl
    · simp only [if_neg hsize]
      generalize s.readSlot (.ring r.src) peek (reqKey r) (2 ^ 64 - 1) = x at hread ⊢
      obtain ⟨res, t⟩ := x
      cases res <;> exact .of_pow hread

theorem State.ringWrite_moves (s : State) (r : ObjRequest) : s.Moves (s.ringWrite r).2.2 := by
  unfold State.ringWrite
  cases s.object (reqKey r) with
  | error e => exact .of_pow rfl
  | ok row =>
    have hwrite := s.write_moves (.ring r.src) (reqKey r) r.data (row.ringSize = r.size)
    dsimp only
    split_ifs <;> exact hwrite

theorem State.blockSlots_pow (p : Path) (peek : Bool) : ∀ (n : Nat) (s : State) (key : Nat), (State.blockSlots p peek n s key).2.pow = s.pow := by
  intro n
  induction n with
  | zero => exact fun s key => rfl
  | succ n ih => exact fun s key => (ih _ _).trans (s.readSlot_pow p peek key _)

theorem State.ringBlock_moves (s : State) (r : ObjRequest) (peek : Bool) : s.Moves (s.ringBlock r peek).2.2 := by
  unfold State.ringBlock
  exact .ite_of (β := Nat × Bytes × State) (·.2.2) (.onDev (.refl s) _) (.of_pow (State.blockSlots_pow _ _ _ _ _))

theorem ringRequest_moves (op : Nat) (r : ObjRequest) (slots : Nat) {run : State → Nat × Bytes × State}
    (h : ∀ s : State, s.Moves (run s).2.2) (s : State) : s.Moves (ringRequest op r slots run s) := by
  unfold ringRequest
  refine .ite (.refl s) ?_
  split
  · exact .onDev (.refl s) _
  · have hrun := fun f => State.Moves.trans (.onDev (.refl s) f) (h (s.onDev f))
    have hfree := fun f => State.Moves.ite_of (·.2) (p := op < 4) (x := (s.onDev f).freeData) (y := ([], s.onDev f))
      (.of_pow rfl) (.onDev (.refl s) f)
    exact .ite (.onDev (hfree _) _) (.onDev (hrun _) _)

theorem State.answerOdd_moves (s : State) (p : Nat) (h body : Bytes) : s.Moves (s.answerOdd p h body) := by
  unfold State.answerOdd
  split
  · exact ringRequest_moves _ _ _ (fun s => .of_pow rfl) s
  · exact .refl s

end Sys2Proof.Machine

namespace Sys2Proof.Machine

/-! ## What every command does to the device state -/

/-- An outcome to which a command comes from a state by transitions of the device state, or by none. -/
def MovesOnly (s : State) (o : Host.Outcome State Fault Refusal) : Prop := ∀ t, o = .next t → s.Moves t

namespace MovesOnly

variable {s t : State} {o o' : Host.Outcome State Fault Refusal}

theorem next (h : s.Moves t) : MovesOnly s (.next t) := by
  rintro _ ⟨⟩
  exact h

theorem onDev (s : State) (f : Dev → Dev) : MovesOnly s (Machine.onDev s f) := next (.onDev (.refl s) f)

theorem ite {p : Prop} [Decidable p] (h : MovesOnly s o) (h' : MovesOnly s o') : MovesOnly s (if p then o else o') := by
  split_ifs
  · exact h
  · exact h'

theorem gated (h : MovesOnly s o) : MovesOnly s (gated s o) := ite h (next (.refl s))

theorem sliced (h : MovesOnly s o) : MovesOnly s (sliced s o) := ite h (next (.refl s))

theorem lined (h : MovesOnly s o) : MovesOnly s (lined s o) := ite h h.sliced

theorem served (h : MovesOnly s o) : MovesOnly s (served s o) := ite (next (.refl s)) h

theorem softRead (p : Path) (key : Nat) (s : State) : MovesOnly s (softRead p key s) := by
  have hread := s.readSlot_pow p false key (2 ^ 64 - 1)
  refine next (.ite (.refl s) ?_)
  generalize s.readSlot p false key (2 ^ 64 - 1) = x at hread ⊢
  obtain ⟨res, t⟩ := x
  cases res <;> exact .of_pow hread

theorem softWrite (p : Path) (key value : Nat) (s : State) : MovesOnly s (softWrite p key value s) :=
  next (.ite (s.write_moves p key value true) (.refl s))

theorem controlWrite (p : Path) (n i : Nat) (on : Bool) (s : State) : MovesOnly s (controlWrite p n i on s) :=
  ite (softWrite _ _ _ s) (next (.refl s))

/-! ### The commands with a meaning of their own -/

theorem bar0Read (ofs len : Nat) (s : State) : MovesOnly s (execBar0Read ofs len s) := by
  have hslots (peek : Bool) (l : List (Nat × Nat × Nat)) (acc : Bytes × State) := foldl_keeps (fun acc : Bytes × State => acc.2.pow)
    (fun acc x => (acc.1 ++ (acc.2.bar0ReadSlot peek x.1 x.2.1 x.2.2).1, (acc.2.bar0ReadSlot peek x.1 x.2.1 x.2.2).2))
    (fun acc x => acc.2.bar0ReadSlot_pow peek x.1 x.2.1 x.2.2) l acc
  unfold execBar0Read
  refine next (.ite (.refl s) ?_)
  dsimp only
  split
  · exact .onDev (.refl s) _
  · exact .of_pow (hslots _ _ _)

theorem bar0Write (ofs : Nat) (data : Bytes) (s : State) : MovesOnly s (execBar0Write ofs data s) := by
  unfold execBar0Write
  refine next (.ite (.refl s) ?_)
  dsimp only
  split
  · exact .onDev (.refl s) _
  · exact State.bar0Write_moves _ (s, data)

theorem engineJob (c : Nat) (s : State) : MovesOnly s (execEngineJob c s) := by
  unfold execEngineJob
  refine gated (next (.ite ?_ (.refl s)))
  dsimp only
  split
  · exact .of_pow (State.capture_pow _ _ _)
  · exact .of_pow rfl

theorem bankRead (unit bank word ecc : Nat) (s : State) : MovesOnly s (execBankRead unit bank word ecc s) := by
  unfold execBankRead
  refine next (.ite (.refl s) ?_)
  exact .ite (.of_pow (State.consumePoison_pow _ _ _ _)) (.onDev (.refl s) fun _ => _)

theorem bankWrite (unit bank ofs : Nat) (data : Bytes) (clash : Bool) (s : State) : MovesOnly s (execBankWrite unit bank ofs data clash s) := by
  have hstore : s.Moves (s.bankStore unit bank ofs data) := .of_pow (s.bankStore_pow _ _ _ _)
  exact next (.ite (.refl s) (.ite hstore (.ite (.ite (.onDev (.refl s) _) hstore) (.onDev (.refl s) _))))

theorem testEnd (b : Nat) (marks : List MarkedCell) (s : State) : MovesOnly s (execTestEnd b marks s) := by
  unfold execTestEnd
  refine next ?_
  split
  · exact .refl s
  · refine .onDev (.ite (.trans ?_ (.of_pow (State.decideBank_pow _ _))) ?_) _
    all_goals
      refine .onDev (.ite (.trans ?_ (.of_pow (State.unrepairable_pow _ _ _))) (.onDev ?_ _)) _
      all_goals exact .ite (.of_pow rfl) (.of_pow rfl)

theorem bar2Read (ofs len : Nat) (s : State) : MovesOnly s (execBar2Read ofs len s) :=
  next (.ite (.refl s) (.onDev (.of_pow (State.bar2Load_pow 4 s ofs len)) _))

theorem faultRaise (s : State) : MovesOnly s (execFaultRaise s) := by
  unfold execFaultRaise
  refine next ?_
  split
  · exact .refl s
  · exact .trans (.onDev (.refl s) _) (State.takeRaise_moves _ _)

theorem hostLinkUp (speed width mps : Nat) (s : State) : MovesOnly s (execHostLinkUp speed width mps s) :=
  next (.ite (.refl s) (.ite (.of_pow (State.hostCause_pow _ _ _)) (.onDev (.refl s) _)))

theorem envelopeEnd (p : Nat) (fcsOk : Bool) (body : Bytes) (s : State) : MovesOnly s (execEnvelopeEnd p fcsOk body s) := by
  unfold execEnvelopeEnd
  dsimp only
  refine next ?_
  split
  · exact .trans (.onDev (.refl s) fun _ => _) (State.answerOdd_moves _ _ _ _)
  · exact .onDev (.refl s) fun _ => _

theorem timeSearchEnd (tref : Bool) (s : State) : MovesOnly s (execTimeSearchEnd tref s) := by
  unfold execTimeSearchEnd
  by_cases h : s.pow.devState = .off
  · exact next (.ite (.refl s) (.of_move (.start h)))
  · exact next (.of_pow (congrArg State.pow (if_pos (.inl h))))

theorem fwUpdateEnded (result version : Nat) (s : State) : MovesOnly s (execFwUpdateEnded result version s) := by
  unfold execFwUpdateEnded
  refine next ?_
  split
  · exact .refl s
  · exact .ite (.refl s) (.onDev (.ite (.of_pow (s.copyBank_pow _ _)) (.refl s)) _)

theorem ringLost (s : State) : MovesOnly s (execRingLost s) :=
  next (.ite (.of_pow (State.lose_pow _ 1 1)) (.ite (.of_pow (s.lose_pow 1 2)) (.refl s)))

theorem ringRestored (s : State) : MovesOnly s (execRingRestored s) :=
  next (.ite (.of_pow (State.regain_pow _ 1 _)) (.refl s))

theorem buildComplete (s : State) : MovesOnly s (execBuildComplete s) :=
  next (.ite (.refl s) (.onDev (.of_pow s.buildEnvelope_pow) _))

end MovesOnly

/-- The commands that set the start lock or clear it (R90, R92). -/
def changesLock : Instr → Bool
  | .lockComplete | .supplyLoss | .resetN => true
  | _ => false

/-- Every command but the three of the start lock makes transitions of the device state only, or none. -/
theorem exec_movesOnly {c : Instr} (hc : changesLock c = false) (s : State) : MovesOnly s (exec c s) := by
  cases c with
  | lockComplete | supplyLoss | resetN => exact absurd hc (by decide)
  | parityScrubCheck | postmasterRestart | postmasterResume | softOffHold | syncPulseEnd | validationComplete | heartbeat | heartbeatSend
  | edgeLetter | setting | modeChange | safeRelease | adcSample | legMeasurements | protectionReport | refreshReport | settingAcknowledge
  | quarterStatus | laneLost | seamTimeout | seamRecovered | vglUndervoltage | vglRestored | patrolScrub | transitComplete | unitAccept
  | handTimeout | errPulseEnd | injectionEnded | mailbagBurst | modTimeExpiry | hostLinkReset | forwardEnvelopeSend | eventForward
  | portUp | portDown | envelopeHeader | hello | helloSend | report | reportSend | mapPublish | segmentMap | systemMap | addrHoldExpiry
  | echoRequest | sync | syncSend | pdelayReq | pdelayReqSend | pdelayResp | announce | announceSend | syncTimeout | timeSourceFound
  | timeSourceLost | trefComparison | ntStep | ppsIn | ppsOutRise | ppsOutFall | syncIn | vcoreLoop | settled | pmbusTransaction
  | pmbAlert | patchRecordWritten | overTemperature | overTemperatureEnd | controllerSeamSilence | pcsSynchronisation
  | autoNegotiationComplete | lineRateFallback | outputFrameBoundary | pePerstN | configurationWrite | bar4Write | tckEdge =>
    exact .onDev s _
  | profileCadence | revDwellEnd | restEnter | axisWake | jobComplete | periodStart | commitCheck | edgeApply | interlockTimeout
  | switchingEvent | bootstrapRefresh | sampleInstant | conversionComplete | vbusSample | ovClampRelease | idPhase
  | identificationComplete | testStepEnd | go | bootstrapUvlo | lsOnlyCleared | vdsTrip | busCurrentTrip | incidentClose | encoderTimeout
  | latchTimeout | safeStopTo | patchStart | loadingComplete | takeover | adcPatchSwitch | segmentPatch | lanePatch =>
    exact .gated (.onDev s _)
  | stepEdge | encoderTransition | index | switchTransition =>
    exact .sliced (.onDev s _)
  | lineFault | lineRestored =>
    exact .lined (.onDev s _)
  | letterEnvelope | letterSubmission | postmasterLetter | letterRelease | allOrNoneDecision | lateLetter | newTarget | newVelocity
  | newLimits | startPattern | switchOutput | arm | disarm | followStreamPoint | emulationEdge =>
    exact .served (.onDev s _)
  | ntRead | winDataRead =>
    exact .softRead _ _ s
  | cmdPosRead | encCntRead | latchNtRead =>
    exact .ite (.softRead _ _ s) (.next (.refl s))
  | lock | cancel | winDataWrite | ack | errSw | logClear | injGo | injStop | step | todSec | pmbRetry | reqGo | run | stop | stow | wake
  | safeExit | fwGo | wdKick | build =>
    exact .softWrite _ _ _ s
  | objectWrite | posSet | validate | encPreset | emuEn | homeStart | hand | accept | test | qEn | cons =>
    exact .ite (.softWrite _ _ _ s) (.next (.refl s))
  | enable | halt | followEn | qstop =>
    exact .controlWrite _ _ _ _ s
  | ringRead | ringPeekRead => exact .next (ringRequest_moves _ _ _ (fun s => s.ringRead_moves _ _) s)
  | ringWrite => exact .next (ringRequest_moves _ _ _ (fun s => s.ringWrite_moves _) s)
  | blockRead | blockPeekRead => exact .next (ringRequest_moves _ _ _ (fun s => s.ringBlock_moves _ _) s)
  | engineJob => exact .engineJob _ s
  | fraySample => exact .gated (.next (.ite (.refl s) (.onDev (.refl s) _)))
  | bar0Read => exact .bar0Read _ _ s
  | bar0Write => exact .bar0Write _ _ s
  | lockstepMismatch => exact .next (.ite s.mismatch_moves (.refl s))
  | bankRead => exact .bankRead _ _ _ _ s
  | bankWrite => exact .bankWrite _ _ _ _ _ s
  | testEnd => exact .testEnd _ _ s
  | bar2Read => exact .bar2Read _ _ s
  | bar2Write => exact .next (.ite (.of_pow (State.bar2Store_pow 4 s _ _)) (.refl s))
  | faultRaise => exact .faultRaise s
  | escalationStep => exact .next (.ite s.takeStep_moves (.refl s))
  | hostLinkUp => exact .hostLinkUp _ _ _ s
  | envelopeEnd => exact .envelopeEnd _ _ _ s
  | powerOnResetRelease => exact .next (.ite (.refl s) (.onDev (.refl s) _))
  | startUpStep => exact .next (.ite (s.startStep_moves _) (.refl s))
  | timeSearchEnd => exact .timeSearchEnd _ s
  | fwUpdateEnded => exact .fwUpdateEnded _ _ s
  | hostLost => exact .next (.ite (.of_pow (s.hostCause_pow 0 true)) (.refl s))
  | hostWd => exact .next (.ite (.of_pow (s.hostCause_pow 1 true)) (.refl s))
  | ringLost => exact .ringLost s
  | ringRestored => exact .ringRestored s
  | buildComplete => exact .buildComplete s

/-- What a command can do to the power state: transitions with the start lock as it was, the fall to Off, or the start lock set. -/
theorem exec_pow {c : Instr} {s t : State} (h : exec c s = .next t) : s.Moves t ∨ t.pow = {} ∨ t.pow = { s.pow with locked := true } := by
  by_cases hc : changesLock c = true
  · cases c with
    | supplyLoss | resetN =>
      cases h
      exact .inr (.inl rfl)
    | lockComplete =>
      have ht : t = _ := (Host.Outcome.next.inj h).symm
      split_ifs at ht
      · exact .inr (.inr (congrArg State.pow ht))
      · exact .inl (ht ▸ .refl s)
    | _ => cases hc
  · exact .inl (exec_movesOnly (by simpa using hc) s t h)

/-- A step does no more to the power state than the command that it runs; a tick does nothing. -/
theorem step_pow {s t : State} (h : step s = .next t) : s.Moves t ∨ t.pow = {} ∨ t.pow = { s.pow with locked := true } := by
  unfold step at h
  split at h
  · cases h
    exact .inl (.onDev (.refl s) _)
  · next c rest _ => exact exec_pow (s := { s with pending := rest }) h

end Sys2Proof.Machine

namespace Sys2Proof

open Sys2Proof.Machine

/-- Settles O6, from what a step can do to the power state: transitions enter Operating locked and leave the lock, Off clears it. -/
theorem operatingStaysLocked : Obligations.OperatingStaysLocked := by
  refine ⟨fun s t hs h ho => ?_, fun s t hl hn h ho => ?_, fun c s t hl h => ?_⟩
  · obtain hm | hoff | hlock := step_pow h
    · exact hm.locked.trans ((hm.operating ho).elim hs id)
    · rw [hoff] at ho
      cases ho
    · rw [hlock]
  · obtain hm | hoff | hlock := step_pow h
    · exact (hm.operating ho).elim hn (by simp [hl])
    · rw [hoff] at ho
      cases ho
    · rw [hlock] at ho
      exact hn ho
  · obtain hm | hoff | hlock := exec_pow h
    · exact .inl (hm.locked.trans hl)
    · exact .inr (by rw [hoff])
    · exact .inl (by rw [hlock])

end Sys2Proof

namespace Sys2Proof.Machine

/-! ## Off (R92, R342, R422, R430, R431) -/

/-- A table cut down by a test of the keys: the entries that pass read as before. -/
theorem Tab.find_filter_key {α : Type} (keep : Nat → Bool) (t : Tab α) (k : Nat) :
    Tab.find (t.filter fun e => keep e.1) k = if keep k then Tab.find t k else none := by
  induction t with
  | nil => simp
  | cons e t ih =>
    obtain ⟨k', v⟩ := e
    by_cases hk : k' = k
    · subst hk
      by_cases hp : keep k' = true <;> simp_all [Tab.find_cons]
    · by_cases hp : keep k' = true <;> simp [Tab.find_cons, hp, hk, ih]

theorem Tab.find_map {α β : Type} (f : α → β) (t : Tab α) (k : Nat) : Tab.find (t.map fun e => (e.1, f e.2)) k = (Tab.find t k).map f := by
  induction t with
  | nil => rfl
  | cons e t ih =>
    obtain ⟨k', v⟩ := e
    by_cases hk : k' = k <;> simp [Tab.find_cons, hk, ih]

/-- Legs taken off one after the other leave everything else. -/
theorem Dev.legsOff_frame (ls : List Nat) (d : Dev) : ∃ t, ls.foldl (fun d l => d.legOff l) d = { d with legs := t } := by
  refine foldl_frame (fun a b => ∃ t, b = { a with legs := t }) (fun a => ⟨_, rfl⟩) ?_ _ (fun a l => a.legOff_frame l) ls d
  rintro a _ _ ⟨_, rfl⟩ ⟨_, rfl⟩
  exact ⟨_, rfl⟩

theorem Dev.toOff_rd (d : Dev) (log : Bool) (k : Nat) :
    (d.toOff log).rd k = if k = K.WAKES ∨ (log = true ∧ k / 256 = 0x2020) then d.rd k else Dict.dflt d.part k % 2 ^ 64 := by
  have hfind : Tab.find (keptSlots log d.objs) k = if k = K.WAKES || (log && decide (k / 256 = 0x2020)) then Tab.find d.objs k else none :=
    Tab.find_filter_key (fun k => k = K.WAKES || (log && decide (k / 256 = 0x2020))) d.objs k
  obtain ⟨t, ht⟩ := Dev.legsOff_frame (List.range (16 * d.part.quarters)) d
  have hrd : (d.toOff log).rd k = (Tab.get (BitVec.ofNat 64 (Dict.dflt d.part k)) (keptSlots log d.objs) k).toNat := by
    unfold Dev.toOff
    rw [ht]
    rfl
  rw [hrd, Tab.get, hfind]
  by_cases hk : k = K.WAKES ∨ (log = true ∧ k / 256 = 0x2020)
  · rw [if_pos hk, if_pos (by simpa using hk)]
    rfl
  · rw [if_neg hk, if_neg (by simpa using hk)]
    rfl

/-- In Off every leg is off, with no turn-on to come. -/
theorem Dev.toOff_leg (d : Dev) (log : Bool) (l : Nat) : ((d.toOff log).leg l).pos = .off ∧ ((d.toOff log).leg l).turnOn = none := by
  unfold Dev.toOff
  generalize (List.range (16 * d.part.quarters)).foldl (fun d l => d.legOff l) d = e
  rw [Dev.leg, Tab.get, Tab.find_map]
  cases Tab.find e.legs l <;> exact ⟨rfl, rfl⟩

/-! ## Changes of the device state (R423, R444) -/

theorem State.changeState_frame (s : State) (new : DevState) : ∃ o m f, (s.changeState new).dev =
    { s.dev with objs := o, mail := m, flt := f } := (s.dev.wr K.STATE_NT s.dev.nt).event_frame _ _ _ _ _

theorem State.changeState_mem (s : State) (new : DevState) : (s.changeState new).mem = s.mem := rfl

theorem State.changeState_stateNt (s : State) (new : DevState) : (s.changeState new).dev.rd K.STATE_NT = s.dev.nt % 2 ^ 64 :=
  (Dev.event_rd _ _ _ _ _ _ _ (by decide) (postingSlot_outside (by decide))).trans (Dev.rd_wr_self _ _ _)

theorem State.changeState_kept (s : State) (new : DevState) {k : Nat} (hk : k ≠ K.STATE_NT) (hp : postingSlot k = false) :
    (s.changeState new).dev.rd k = s.dev.rd k :=
  (Dev.event_rd _ _ _ _ _ _ _ (by decide) hp).trans (Dev.rd_wr_ne _ _ hk.symm)

/-- A record staged or dropped leaves everything in the fault unit but the raises. -/
theorem Dev.stage_stepSafe (d : Dev) (q : Nat) (r : EventRec) : (d.stage q r).flt.stepSafe = d.flt.stepSafe := by
  unfold Dev.stage
  split_ifs
  · unfold Dev.dropRecord
    dsimp only
    obtain h | h := Dev.raise_cases ((if r.addr.testBit 14 then d else d.count (K.LOST_TOTAL r.src)).count K.DROPPED_1440) 0x28D
      (if r.addr.testBit 14 then d else d.count (K.LOST_TOTAL r.src)).nt false
    all_goals
      rw [h]
      split_ifs <;> rfl
  · dsimp only
    generalize hx : Dev.wr _ K.STAGE_HIGH _ = x
    obtain ⟨m, h⟩ := x.fwdFill_frame
    rw [h, ← hx]
    rfl

theorem Dev.event_stepSafe (d : Dev) (src type obj nt : Nat) (b : Bytes) : (d.event src type obj nt b).flt.stepSafe = d.flt.stepSafe := by
  unfold Dev.event
  dsimp only
  split_ifs
  · rfl
  all_goals exact Dev.stage_stepSafe (d.wr _ _) _ _

theorem State.changeState_stepSafe (s : State) (new : DevState) : (s.changeState new).dev.flt.stepSafe = s.dev.flt.stepSafe :=
  Dev.event_stepSafe _ _ _ _ _ _

/-! ## A cause on every quarter, or off every one (R424, R435) -/

/-- A cause taken off a list of quarters: their records and Q_FLAGS change, and none of the list shows the cause. -/
theorem Dev.causesOff (cause : Nat) (ls : List Nat) : ∀ d : Dev,
    (∃ o r, ls.foldl (fun d q => d.safeCauseOff q cause) d = { d with objs := o, quarters := r }) ∧
    ∀ q, q ∈ ls ∨ (d.quarter q).causes.testBit cause = false →
      ((ls.foldl (fun d q => d.safeCauseOff q cause) d).quarter q).causes.testBit cause = false := by
  induction ls with
  | nil => exact fun d => ⟨⟨_, _, rfl⟩, by simp⟩
  | cons a t ih =>
    intro d
    obtain ⟨⟨o, r, hf⟩, hoff⟩ := ih (d.safeCauseOff a cause)
    refine ⟨⟨o, r, hf⟩, fun q hq => hoff q ?_⟩
    by_cases ha : a = q
    · subst ha
      right
      rw [Dev.safeCauseOff]
      exact (congrArg (fun x : QuarterRt => x.causes.testBit cause) (Dev.quarter_setQuarter_self _ _ _)).trans (testBit_withBit_self _ _ _)
    · refine hq.imp (fun h => (List.mem_cons.1 h).resolve_left (Ne.symm ha)) fun h => ?_
      exact (congrArg (fun x : QuarterRt => x.causes.testBit cause) (Dev.quarter_setQuarter_ne d _ ha)).trans h

theorem Dev.safeAll_off_frame (d : Dev) (cause : Nat) : ∃ o r, d.safeAll cause false = { d with objs := o, quarters := r } :=
  (Dev.causesOff cause d.quarterList d).1

theorem Dev.safeAll_off (d : Dev) (cause : Nat) {q : Nat} (hq : q ∈ d.quarterList) :
    ((d.safeAll cause false).quarter q).causes.testBit cause = false := (Dev.causesOff cause d.quarterList d).2 q (.inl hq)

/-- The safe state of one quarter leaves the records of the others. -/
theorem Dev.safeEnter_quarter_ne (d : Dev) {p q : Nat} (h : p ≠ q) (cause : Nat) : (d.safeEnter p cause).quarter q = d.quarter q := by
  have hon : (d.safeCauseOn p cause).quarter q = d.quarter q := Dev.quarter_setQuarter_ne d _ h
  rw [Dev.safeEnter_eq]
  split_ifs
  · exact hon
  · rw [Dev.quarter, (Dev.safeStop_stills _ p cause).quarters]
    exact hon

theorem Dev.causesOn {cause : Nat} (hc : cause ≠ 3) (ls : List Nat) : ∀ d : Dev,
    ∀ q, q ∈ ls ∨ (d.quarter q).causes.testBit cause = true →
      ((ls.foldl (fun d q => d.safeEnter q cause) d).quarter q).causes.testBit cause = true := by
  induction ls with
  | nil => simp
  | cons a t ih =>
    intro d q hq
    refine ih (d.safeEnter a cause) q ?_
    by_cases ha : a = q
    · subst ha
      obtain ⟨last, left, h⟩ := d.safeEnter_quarter a hc
      right
      rw [h]
      exact testBit_withBit_self _ _ _
    · rw [d.safeEnter_quarter_ne ha]
      exact hq.imp_left fun h => (List.mem_cons.1 h).resolve_left (Ne.symm ha)

theorem Dev.safeAll_on (d : Dev) {cause : Nat} (hc : cause ≠ 3) {q : Nat} (hq : q ∈ d.quarterList) :
    ((d.safeAll cause true).quarter q).causes.testBit cause = true := Dev.causesOn hc d.quarterList d q (.inl hq)

end Sys2Proof.Machine

namespace Sys2Proof.Machine

/-! ## The slices start, the seams train (R432, R433) -/

/-- The slots that the start of a slice sets. -/
abbrev sliceSlots (n : Nat) : List Nat := [K.SW_STATE n, K.ENC_FLAGS n, K.ENC_CNT n, K.ENC_CPS n, K.ENC_VEL n, K.SPD_METHOD n, K.CMD_POS n,
  K.CMD_VEL n, K.CMD_ACC n, K.TARGET n]

/-- SW_STATE of a slice that starts: an open input reads high (R284). -/
def Dev.openLevels (d : Dev) (n : Nat) : Nat :=
  let cfg := d.rd (K.SW_CFG n)
  let act (i : Nat) : Bool := !cfg.testBit i
  let both : Bool := cfg.testBit 4 && cfg.testBit 5 && act 0 && act 1
  (act 0).toNat + 2 * (act 1).toNat + 4 * (act 2).toNat + 8 * both.toNat

/-- A slice started, before its event: its axis fresh, its slots set. -/
def Dev.sliceSet (d : Dev) (n : Nat) : Dev :=
  let flags := d.rd (K.ENC_FLAGS n)
  (d.setAxis n { sw := { startNt := d.nt } }).wrs [(K.SW_STATE n, d.openLevels n),
    (K.ENC_FLAGS n, 0x0600 + 2 * field flags 3 1 + 32 * field flags 5 5), (K.ENC_CNT n, 0), (K.ENC_CPS n, 0), (K.ENC_VEL n, 0),
    (K.SPD_METHOD n, 0), (K.CMD_POS n, 0), (K.CMD_VEL n, 0), (K.CMD_ACC n, 0), (K.TARGET n, 0)]

theorem Dev.sliceStart_eq (d : Dev) (n : Nat) : d.sliceStart n = if (d.rd (K.ENC_FLAGS n)).testBit 0 then
    (d.sliceSet n).axisEvent n 0x0170 0x4801 (d.sliceSet n).nt (le 1 6 ++ le 3 0 ++ le 8 (d.sliceSet n).nt) else d.sliceSet n := rfl

theorem Dev.sliceStart_rd (d : Dev) (n : Nat) {k : Nat} (hk : postingSlot k = false) : (d.sliceStart n).rd k = (d.sliceSet n).rd k := by
  rw [Dev.sliceStart_eq]
  split_ifs
  · exact Dev.event_rd _ _ _ _ _ _ _ (Dev.sliceOf_lt _ _) hk
  · rfl

/-- The position of an axis is not valid and its count is 0. -/
def Dev.Unreferenced (d : Dev) (n : Nat) : Prop := d.posValid n = false ∧ d.encCnt n = 0

theorem Dev.sliceStart_kept (d : Dev) (n : Nat) {k : Nat} (hk : k ∉ sliceSlots n) (hp : postingSlot k = false) :
    (d.sliceStart n).rd k = d.rd k := by
  rw [d.sliceStart_rd n hp]
  exact Dev.rd_wrs_ne _ _ _ fun e he h => hk (h ▸ List.mem_map_of_mem (f := Prod.fst) he)

theorem Dev.sliceStart_unreferenced (d : Dev) (n : Nat) : (d.sliceStart n).Unreferenced n := by
  have hflags : (d.sliceStart n).rd (K.ENC_FLAGS n) % 2 = 0 := by
    rw [d.sliceStart_rd n (postingSlot_outside (by lia)), Dev.sliceSet, Dev.wrs_cons, Dev.wrs_cons,
      Dev.rd_wrs_ne _ _ _ (by simp; lia), Dev.rd_wr_self]
    omega
  have hcount : (d.sliceStart n).rd (K.ENC_CNT n) = 0 := by
    rw [d.sliceStart_rd n (postingSlot_outside (by lia)), Dev.sliceSet, Dev.wrs_cons, Dev.wrs_cons, Dev.wrs_cons, Dev.rd_wrs_ne _ _ _ (by simp; lia),
      Dev.rd_wr_self]
    rfl
  refine ⟨?_, ?_⟩
  · rw [Dev.posValid, Dev.bit, Nat.testBit_zero, hflags]
    rfl
  · rw [Dev.encCnt, Dev.rdI, hcount]
    rfl

theorem Dev.Unreferenced.sliceStart {d : Dev} {n : Nat} (h : d.Unreferenced n) (m : Nat) : (d.sliceStart m).Unreferenced n := by
  by_cases hmn : m = n
  · subst hmn
    exact d.sliceStart_unreferenced m
  · have hf := d.sliceStart_kept m (k := K.ENC_FLAGS n) (by simp; lia) (postingSlot_outside (by lia))
    have hc := d.sliceStart_kept m (k := K.ENC_CNT n) (by simp; lia) (postingSlot_outside (by lia))
    exact ⟨(Dev.bit_congr hf 0).trans h.1, (congrArg (sext 64) hc).trans h.2⟩

/-- Slices started one after the other: every axis of the list is unreferenced, and only their slots and those of events change. -/
theorem Dev.slicesStart (ls : List Nat) : ∀ d : Dev,
    (∀ k, k ∉ ls.flatMap sliceSlots → postingSlot k = false → (ls.foldl Dev.sliceStart d).rd k = d.rd k) ∧
    ∀ n, n ∈ ls ∨ d.Unreferenced n → (ls.foldl Dev.sliceStart d).Unreferenced n := by
  induction ls with
  | nil => exact fun d => ⟨fun _ _ _ => rfl, by simp⟩
  | cons a t ih =>
    intro d
    obtain ⟨hkept, hunref⟩ := ih (d.sliceStart a)
    refine ⟨fun k hk hp => ?_, fun n h => hunref n ?_⟩
    · rw [List.flatMap_cons, List.mem_append, not_or] at hk
      exact (hkept k hk.2 hp).trans (d.sliceStart_kept a hk.1 hp)
    · rcases h with h | h
      · rcases List.mem_cons.1 h with rfl | h
        · exact .inr (d.sliceStart_unreferenced n)
        · exact .inl h
      · exact .inr (h.sliceStart a)

/-- Records set for a list of quarters, each trained. -/
theorem Dev.quartersTrained (f : Dev → Nat → QuarterRt) (hf : ∀ d q, (f d q).trained = true) (ls : List Nat) : ∀ d : Dev,
    (∃ r, ls.foldl (fun d q => d.setQuarter q (f d q)) d = { d with quarters := r }) ∧
    ∀ q, q ∈ ls ∨ (d.quarter q).trained = true → ((ls.foldl (fun d q => d.setQuarter q (f d q)) d).quarter q).trained = true := by
  induction ls with
  | nil => exact fun d => ⟨⟨_, rfl⟩, by simp⟩
  | cons a t ih =>
    intro d
    obtain ⟨⟨r, hr⟩, htrained⟩ := ih (d.setQuarter a (f d a))
    refine ⟨⟨r, hr⟩, fun q hq => htrained q ?_⟩
    by_cases ha : a = q
    · subst ha
      exact .inr (by rw [Dev.quarter_setQuarter_self, hf])
    · exact hq.imp (fun h => (List.mem_cons.1 h).resolve_left (Ne.symm ha)) fun h => by rwa [Dev.quarter_setQuarter_ne _ _ ha]

/-- The record of a quarter whose seam has trained. -/
def Dev.seamTrained (d : Dev) (q : Nat) : QuarterRt :=
  let lanes (t : Tab LaneRt) : Tab LaneRt := [0, 1, 2].foldl (fun t i => Tab.put t i { Tab.get {} t i with lastValid := d.now }) t
  { d.quarter q with trained := true, takeNt := true, rxQ := lanes (d.quarter q).rxQ, rxC := lanes (d.quarter q).rxC }

theorem Dev.trainSeams_none (d : Dev) : d.trainSeams none = d.quarterList.foldl (fun d q => d.setQuarter q (d.seamTrained q)) d := rfl

theorem Dev.trainSeams_trained (d : Dev) {q : Nat} (hq : q ∈ d.quarterList) : ((d.trainSeams none).quarter q).trained = true := by
  rw [Dev.trainSeams_none]
  exact (Dev.quartersTrained Dev.seamTrained (fun _ _ => rfl) d.quarterList d).2 q (.inl hq)

theorem Dev.trainSeams_frame (d : Dev) : ∃ r, d.trainSeams none = { d with quarters := r } := by
  rw [Dev.trainSeams_none]
  exact (Dev.quartersTrained Dev.seamTrained (fun _ _ => rfl) d.quarterList d).1

end Sys2Proof.Machine

namespace Sys2Proof.Machine

/-! ## The requests of 0x1100 (R423 to R435) -/

/-- A request of 0x1100 that nothing refuses makes its transition. -/
theorem softWrite_request {s : State} {p : Path} (hr : Reaches s p) {sub : Nat} (h2 : 2 ≤ sub) (h6 : sub ≤ 6)
    (h : s.requestRefused (0x1100 * 256 + sub) = false) (h0 : s.dev.rd (0x1100 * 256 + sub) = 0) :
    softWrite p (0x1100 * 256 + sub) 1 s = .next (s.request (0x1100 * 256 + sub)) := by
  have hrow : Dict.findRow (Dict.rowsOf 0x1100) sub = some (Dict.w1Row sub) := by
    interval_cases sub <;> decide
  have hidx : (0x1100 * 256 + sub) / 256 = 0x1100 := by omega
  have hoff : s.Offers (0x1100 * 256 + sub) 0x1100 0 sub .device (Dict.w1Row sub) :=
    State.offers_device hr.2 (by rw [hidx]; decide) (by omega) hrow (by rw [hidx]; decide) (by omega) (by decide)
  have hstart : s.w1Start 0x1100 0 sub = s.request (0x1100 * 256 + sub) := rfl
  rw [← hstart]
  exact softWrite_w1 hoff rfl hr.1 rfl (by simp [State.w1Code, h]) h0

theorem State.request_run (s : State) : s.request K.RUN = (s.onDev fun d => d.safeAll 5 false).changeState .operating := if_pos rfl

theorem State.request_stop (s : State) : s.request K.STOP = (s.onDev fun d => d.safeAll 5 true).changeState .ready :=
  (if_neg (by decide)).trans (if_pos rfl)

theorem State.request_stow (s : State) : s.request K.STOW = (s.onDev Dev.stowUnits).changeState .stowed :=
  (if_neg (by decide)).trans ((if_neg (by decide)).trans (if_pos rfl))

theorem State.request_wake (s : State) : s.request K.WAKE =
    (s.onDev fun d => (d.axisList.foldl Dev.sliceStart d).trainSeams none).changeState .ready :=
  (if_neg (by decide)).trans ((if_neg (by decide)).trans ((if_neg (by decide)).trans (if_pos rfl)))

/-- The hold of Safe let go: the ladder's requests, cause 4 on every quarter, ERR_N (R435). -/
def Dev.safeLeft (d : Dev) : Dev := ((({ d with flt := { d.flt with stepSafe := 0 } } : Dev).safeAll 4 false).setBit K.ERR_STATE 2 false).errUpdate

theorem State.request_safeExit (s : State) : s.request K.SAFE_EXIT = (s.onDev Dev.safeLeft).changeState .ready :=
  (if_neg (by decide)).trans ((if_neg (by decide)).trans ((if_neg (by decide)).trans (if_neg (by decide))))

/-- The slices stopped: no axis keeps anything. -/
theorem Dev.stowUnits_axes (d : Dev) : d.stowUnits.axes = [] :=
  foldl_keeps Dev.axes (fun d l => d.tailorReset l) (fun d l => by rw [Dev.tailorReset, Dev.wrs_objs_only]; rfl) _ _

theorem Dev.safeLeft_frame (d : Dev) : ∃ o r, d.safeLeft = { d with objs := o, quarters := r, flt := { d.flt with stepSafe := 0 } } := by
  obtain ⟨o, r, h⟩ := ({ d with flt := { d.flt with stepSafe := 0 } } : Dev).safeAll_off_frame 4
  rw [Dev.safeLeft, h]
  exact ⟨_, _, rfl⟩

theorem Dev.safeLeft_err (d : Dev) : d.safeLeft.bit K.ERR_STATE 2 = false := by
  unfold Dev.safeLeft Dev.errUpdate
  dsimp only
  rw [Dev.bit_setBit _ _ _ _ (by decide), if_neg (by decide), Dev.bit_setBit _ _ _ _ (by decide), if_neg (by decide),
    Dev.bit_setBit_self _ _ _ (by decide)]

theorem Dev.safeLeft_causes (d : Dev) {q : Nat} (hq : q ∈ d.quarterList) : (d.safeLeft.quarter q).causes.testBit 4 = false :=
  ({ d with flt := { d.flt with stepSafe := 0 } } : Dev).safeAll_off 4 hq

/-- A change of the device state leaves the records of the quarters, the legs and the axes. -/
theorem State.changeState_units (s : State) (new : DevState) : (s.changeState new).dev.quarters = s.dev.quarters ∧
    (s.changeState new).dev.legs = s.dev.legs ∧ (s.changeState new).dev.axes = s.dev.axes := by
  obtain ⟨o, m, f, h⟩ := s.changeState_frame new
  rw [h]
  exact ⟨rfl, rfl, rfl⟩

theorem State.changeState_quarter (s : State) (new : DevState) (q : Nat) : (s.changeState new).dev.quarter q = s.dev.quarter q := by
  rw [Dev.quarter, (s.changeState_units new).1, Dev.quarter]

end Sys2Proof.Machine

namespace Sys2Proof

open Sys2Proof.Machine

theorem supplyLoss_goesOff (s : State) : Completes .supplyLoss s fun u => u.pow.devState = .off ∧ u.pow.locked = false ∧
    u.dev.fab.ready = false ∧ u.dev.start.up = false ∧ (∀ l, (u.dev.leg l).pos = .off ∧ (u.dev.leg l).turnOn = none) ∧
    u.dev.rd K.WAKES = s.dev.rd K.WAKES ∧ ∀ k, k ≠ K.WAKES → u.dev.rd k = Dict.dflt s.dev.part k % 2 ^ 64 := by
  have hrd := s.dev.toOff_rd false
  refine completes_of_eq (t := s.off false) rfl ⟨rfl, rfl, rfl, rfl, s.dev.toOff_leg false, ?_, fun k hk => ?_⟩
  · exact (hrd _).trans (if_pos (.inl rfl))
  · exact (hrd k).trans (if_neg (by simp [hk]))

theorem resetN_goesOff (s : State) : Completes .resetN s fun u => u.pow.devState = .off ∧ u.pow.locked = false ∧
    u.dev.fab.ready = false ∧ u.dev.start.up = false ∧ (∀ l, (u.dev.leg l).pos = .off ∧ (u.dev.leg l).turnOn = none) ∧
    u.dev.rd K.WAKES = s.dev.rd K.WAKES ∧ (∀ k, k / 256 = 0x2020 → u.dev.rd k = s.dev.rd k) ∧
    ∀ k, k ≠ K.WAKES → k / 256 ≠ 0x2020 → u.dev.rd k = Dict.dflt s.dev.part k % 2 ^ 64 := by
  have hrd := s.dev.toOff_rd true
  refine completes_of_eq (t := s.off true) rfl ⟨rfl, rfl, rfl, rfl, s.dev.toOff_leg true, ?_, fun k hk => ?_, fun k hk hlog => ?_⟩
  · exact (hrd _).trans (if_pos (.inl rfl))
  · exact (hrd k).trans (if_pos (.inr ⟨rfl, hk⟩))
  · exact (hrd k).trans (if_neg (by simp [hk, hlog]))

section
variable {s : State} {p : Path} (hr : Reaches s p)
include hr

theorem run_operates (hd : s.pow.devState = .ready) (hl : s.pow.locked = true) (h0 : s.dev.rd K.RUN = 0) :
    Completes (.run p) s fun u => u.pow.devState = .operating ∧ u.pow.locked = true ∧ u.dev.rd K.STATE_NT = s.dev.nt % 2 ^ 64 ∧
      u.dev.legs = s.dev.legs ∧ ∀ q ∈ s.dev.quarterList, (u.dev.quarter q).causes.testBit 5 = false := by
  have hx : exec (.run p) s = .next (s.request K.RUN) :=
    softWrite_request hr (sub := 2) (by decide) (by decide) (by simp [State.requestRefused, hd, hl]) h0
  rw [State.request_run] at hx
  obtain ⟨o, r, hf⟩ := s.dev.safeAll_off_frame 5
  have hoff := fun q hq => s.dev.safeAll_off 5 (q := q) hq
  refine completes_of_eq hx ⟨rfl, hl, ?_, ?_, fun q hq => ?_⟩
  · rw [State.changeState_stateNt, State.onDev_dev, hf]
  · rw [(State.changeState_units _ _).2.1, State.onDev_dev, hf]
  · rw [State.changeState_quarter]
    exact hoff q hq

theorem stop_leavesOperating (hd : s.pow.devState = .operating) (ha : s.dev.allDisabled s.dev.axisList = true) (h0 : s.dev.rd K.STOP = 0) :
    Completes (.stop p) s fun u => u.pow.devState = .ready ∧ u.pow.locked = s.pow.locked ∧
      ∀ q ∈ s.dev.quarterList, u.dev.isSafe q = true ∧ (u.dev.quarter q).causes.testBit 5 = true := by
  have hx : exec (.stop p) s = .next (s.request K.STOP) :=
    softWrite_request hr (sub := 3) (by decide) (by decide) (by simp [State.requestRefused, hd, ha]) h0
  rw [State.request_stop] at hx
  refine completes_of_eq hx ⟨rfl, rfl, fun q hq => ⟨?_, ?_⟩⟩
  · exact (State.changeState_goes _ _).safe q (Dev.quarterList_lt hq) (s.dev.safeAll_isSafe 5 hq)
  · rw [State.changeState_quarter]
    exact s.dev.safeAll_on (by decide) hq

theorem stow_stops (hd : s.pow.devState = .ready) (hf : s.dev.fw = none) (h0 : s.dev.rd K.STOW = 0) :
    Completes (.stow p) s fun u => u.pow.devState = .stowed ∧ u.pow.locked = s.pow.locked ∧ u.dev.axes = [] ∧ u.mem = s.mem := by
  have hx : exec (.stow p) s = .next (s.request K.STOW) :=
    softWrite_request hr (sub := 4) (by decide) (by decide) (by simp [State.requestRefused, K.RUN, hd, hf]) h0
  rw [State.request_stow] at hx
  exact completes_of_eq hx ⟨rfl, rfl, (State.changeState_units _ _).2.2.trans s.dev.stowUnits_axes, rfl⟩

theorem wake_starts (hd : s.pow.devState = .stowed) (h0 : s.dev.rd K.WAKE = 0) :
    Completes (.wake p) s fun u => u.pow.devState = .ready ∧ u.pow.locked = s.pow.locked ∧
      (∀ n ∈ s.dev.axisList, u.dev.posValid n = false ∧ u.dev.encCnt n = 0) ∧
      (∀ q ∈ s.dev.quarterList, (u.dev.quarter q).trained = true) ∧
      SlotsKept s u (K.STATE_NT :: s.dev.axisList.flatMap sliceSlots) := by
  have hx : exec (.wake p) s = .next (s.request K.WAKE) :=
    softWrite_request hr (sub := 5) (by decide) (by decide) (by simp [State.requestRefused, K.RUN, K.STOP, hd]) h0
  rw [State.request_wake] at hx
  obtain ⟨hkept, hunref⟩ := Dev.slicesStart s.dev.axisList s.dev
  have hpart := (Dev.SafeGoes.fold (.refl s.dev) Dev.sliceStart s.dev.axisList fun n hn e =>
    (Dev.SafeGoes.refl e).sliceStart (Dev.axisList_lt hn)).part
  generalize he : s.dev.axisList.foldl Dev.sliceStart s.dev = e at hkept hunref hpart
  obtain ⟨r, htrain⟩ := e.trainSeams_frame
  have hdev : (s.onDev fun d => (d.axisList.foldl Dev.sliceStart d).trainSeams none).dev = e.trainSeams none := congrArg (·.trainSeams none) he
  have hrd (k : Nat) (hk : k ≠ K.STATE_NT) (hp : postingSlot k = false) : _ = e.rd k :=
    (State.changeState_kept _ .ready hk hp).trans (congrArg (·.rd k) (hdev.trans htrain))
  refine completes_of_eq hx ⟨rfl, rfl, fun n hn => ?_, fun q hq => ?_, fun k hk hp => ?_⟩
  · obtain ⟨hvalid, hcount⟩ := hunref n (.inl hn)
    exact ⟨(Dev.bit_congr (hrd _ (by lia) (postingSlot_outside (by lia))) 0).trans hvalid,
      (congrArg (sext 64) (hrd _ (by lia) (postingSlot_outside (by lia)))).trans hcount⟩
  · rw [State.changeState_quarter, hdev]
    exact e.trainSeams_trained (Dev.quarterList_congr hpart ▸ hq)
  · rw [List.mem_cons, not_or] at hk
    exact (hrd k hk.1 hp).trans (hkept k hk.2 hp)

theorem safeExit_leavesSafe (hd : s.pow.devState = .safe) (hi : s.dev.incOpen = false) (ha : s.dev.allDisabled s.dev.axisList = true)
    (hc : s.dev.rd K.SAFE_CAUSE ≠ 3) (h0 : s.dev.rd K.SAFE_EXIT = 0) :
    Completes (.safeExit p) s fun u => u.pow.devState = .ready ∧ u.dev.bit K.ERR_STATE 2 = false ∧ u.dev.flt.stepSafe = 0 ∧
      ∀ q ∈ s.dev.quarterList, (u.dev.quarter q).causes.testBit 4 = false := by
  have hx : exec (.safeExit p) s = .next (s.request K.SAFE_EXIT) :=
    softWrite_request hr (sub := 6) (by decide) (by decide) (by simp [State.requestRefused, K.RUN, K.STOP, K.STOW, hd, hi, ha, hc])
      h0
  rw [State.request_safeExit] at hx
  obtain ⟨o, r, hf⟩ := s.dev.safeLeft_frame
  refine completes_of_eq hx ⟨rfl, ?_, ?_, fun q hq => ?_⟩
  · exact (Dev.bit_congr (State.changeState_rd _ _ (by decide) (by decide)) 2).trans s.dev.safeLeft_err
  · rw [State.changeState_stepSafe, State.onDev_dev, hf]
  · rw [State.changeState_quarter]
    exact s.dev.safeLeft_causes hq

end

/-- Settles O39: Off by what `toOff` keeps, the requests of 0x1100 by one equation per transition. -/
theorem requestsAndLossesOfPowerMoveTheDevice : Obligations.RequestsAndLossesOfPowerMoveTheDevice :=
  ⟨fun s => ⟨supplyLoss_goesOff s, resetN_goesOff s⟩, fun _ _ hp hf => ⟨run_operates ⟨hp, hf⟩, stop_leavesOperating ⟨hp, hf⟩,
    stow_stops ⟨hp, hf⟩, wake_starts ⟨hp, hf⟩, safeExit_leavesSafe ⟨hp, hf⟩⟩⟩

end Sys2Proof

namespace Sys2Proof.Machine

/-! ## Writes of one slot (R71, R76, R84) -/

/-- A slot with a new value that has landed: its parity is that of the value (R88). -/
def Dev.stored (d : Dev) (key v : Nat) : Dev := { d.wr key v with fab := { d.fab with upset := Tab.del d.fab.upset key } }

theorem Dev.stored_rd_self (d : Dev) (key : Nat) {v : Nat} (hv : v < 2 ^ 64) : (d.stored key v).rd key = v :=
  (d.rd_wr_self key v).trans (Nat.mod_eq_of_lt hv)

theorem Dev.stored_same (d : Dev) (key v : Nat) : d.SlotsSame (d.stored key v) [key] :=
  ((Dev.SlotsSame.refl d [key]).wr v (by simp)).of_rd fun _ => rfl

/-- A write with a code is refused: the abort's record is all that it leaves. -/
theorem State.write_refused {s : State} {p : Path} {key value code : Nat} {fits : Bool} (h : s.writeSlot p key value fits = (code, s))
    (hc : code ≠ abNone) : s.write p key value fits = (code, s.onDev fun d => d.abort p code key) := by
  rw [State.write, h]
  exact congrArg (Prod.mk code) (if_neg hc)

theorem State.write_lands {s t : State} {p : Path} {key value : Nat} {fits : Bool} (h : s.writeSlot p key value fits = (abNone, t)) :
    s.write p key value fits = (abNone, t) := by
  rw [State.write, h]
  rfl

/-- The codes of a slot that no access reaches (Table 3-4). -/
theorem State.object_code {s : State} {key e : Nat} (h : s.object key = .error e) : e ≠ abNone := by
  unfold State.object at h
  dsimp only at h
  split_ifs at h
  · cases h
    decide
  · cases h
    decide
  · split at h
    · cases h
    · cases h
      decide

theorem State.writeSlot_error {s : State} {key e : Nat} (h : s.object key = .error e) (p : Path) (value : Nat) (fits : Bool) :
    s.writeSlot p key value fits = (e, s) := by
  unfold State.writeSlot
  rw [h]

/-- A code of the checks before the range refuses the write. -/
theorem State.writeSlot_code {s : State} {key value code : Nat} {r : Dict.Row} (h : s.object key = .ok r) {fits : Bool}
    (hc : s.writeCode (Dict.locate (key / 256)).owner r (value % 2 ^ (8 * r.ty.size)) fits = code) (hcode : code ≠ abNone) (p : Path) :
    s.writeSlot p key value fits = (code, s) := by
  unfold State.writeSlot
  rw [h]
  dsimp only
  rw [hc, if_pos hcode]

/-- A value that fits a plain RW slot of the dictionary is stored or refused by its relations. -/
theorem State.writeSlot_rw {s : State} {key tmpl i sub value : Nat} {owner : Dict.Owner} {r : Dict.Row}
    (h : s.Offers key tmpl i sub owner r) (ha : r.acc = .rw) (hv : value < 2 ^ (8 * r.ty.size)) (hrsv : Nat.land value r.rsv = 0)
    (hrange : s.dev.rangeBad tmpl sub r value = false) (hk : ¬ (K.WIN_DATA ≤ key ∧ key ≤ K.WIN_BLOCK 127)) (p : Path) :
    s.writeSlot p key value true = s.store p tmpl i sub key value r := by
  obtain ⟨hl, hsub, hobj⟩ := h
  have hcode : s.writeCode owner r value true = abNone := by simpa [State.writeCode, ha] using hrsv
  unfold State.writeSlot
  rw [hobj, hl, hsub]
  dsimp only
  rw [Nat.mod_eq_of_lt hv, hcode, hrange, ha]
  simp only [ne_eq, not_true_eq_false, reduceCtorEq, if_false, Bool.false_eq_true]
  rw [if_neg (by rintro rfl; exact hk ⟨le_rfl, by decide⟩), if_neg (by
    rintro ⟨h1, h2⟩
    exact hk ⟨le_trans (by decide) h1, h2⟩)]

/-- A slot without bits that the hardware owns takes the value whole (R84). -/
theorem mergedValue_whole {tmpl sub old v : Nat} {r : Dict.Row} (hhw : r.hw = 0) : mergedValue tmpl sub old v r =
    if tmpl = 0x4000 ∧ sub = 1 then withBit v 3 (v.testBit 3 || old.testBit 3) else v := by
  have hland (x : Nat) : Nat.land x 0 = 0 := Nat.and_zero x
  have hown : Nat.lor (v - Nat.land v r.hw) (Nat.land old r.hw) = v := by
    rw [hhw, hland, hland]
    exact Nat.or_zero v
  rw [mergedValue, hown]

/-- A value that its relations allow is stored, and acts. -/
theorem State.store_lands {s : State} {p : Path} {tmpl i sub key v new : Nat} {r : Dict.Row} (hhw : r.hw = 0)
    (hnew : mergedValue tmpl sub (s.dev.rd key) v r = new) (hwin : windowBad tmpl i sub (s.dev.wr key new) = false)
    (hrel : s.inconsistent tmpl i sub v (s.dev.wr key new) = false)
    (hbusy : ¬ (tmpl = 0x4000 ∧ sub = 1 ∧ v.testBit 3 = true ∧ (s.dev.rd key).testBit 3 = true)) (hset : settingAddr key = none) :
    s.store p tmpl i sub key v r = (abNone, (s.onDev fun d => d.stored key new).landed p tmpl i sub (s.dev.rd key) new) := by
  have hsend (d : Dev) : d.sendSetting key new = d := by rw [Dev.sendSetting, hset]
  have hland (x : Nat) : Nat.land x r.hw = 0 := by
    rw [hhw]
    exact Nat.and_zero x
  unfold State.store
  dsimp only
  rw [hnew, if_neg (by simp [hwin]), if_neg (by simp [hrel]), if_neg hbusy, hland, hland, if_pos rfl]
  simp only [State.onDev, hsend]
  rfl

/-- A plain RW slot of an axis is no setting of a quarter. -/
theorem settingAddr_axis {idx sub : Nat} (h : idx < 0x5000) (hs : sub < 256) : settingAddr (idx * 256 + sub) = none := by
  have hidx : (idx * 256 + sub) / 256 = idx := by omega
  unfold settingAddr
  dsimp only
  rw [hidx, if_neg (by omega), if_neg (by omega)]

/-! ## The limits of an axis (Table 4-7) -/

/-- The row of a limit: a 32-bit number from 1 on, up to 2^31 - 1 at least. -/
theorem limitRow {sub : Nat} (h1 : 1 ≤ sub) (h5 : sub ≤ 5) : ∃ dflt hi, 2147483647 ≤ hi ∧
    Dict.findRow (Dict.rowsOf 0x4010) sub = some { sub := sub, ty := .u32, acc := .rw, dflt := dflt, lo := 1, hi := hi } := by
  interval_cases sub
  · exact ⟨0x190000, 2147483647, by decide, by decide⟩
  · exact ⟨6400, 4294967295, by decide, by decide⟩
  · exact ⟨6400, 4294967295, by decide, by decide⟩
  · exact ⟨25000, 4294967295, by decide, by decide⟩
  · exact ⟨64000, 4294967295, by decide, by decide⟩

section
variable {s : State} {n : Nat} (hf : s.dev.fab.ready = true) (hn : s.dev.hasAxis n = true) (hs : s.pow.devState ≠ .stowed)
  {sub v : Nat} (h1 : 1 ≤ sub) (h5 : sub ≤ 5)
include hf hn hs h1 h5

theorem State.offers_limit : ∃ dflt hi, 2147483647 ≤ hi ∧ s.Offers ((0x4010 + 0x40 * n) * 256 + sub) 0x4010 n sub (.axis n)
    { sub := sub, ty := .u32, acc := .rw, dflt := dflt, lo := 1, hi := hi } := by
  obtain ⟨dflt, hi, hhi, hrow⟩ := limitRow h1 h5
  exact ⟨dflt, hi, hhi, State.offers_axis hf hn hs (a := 0) (b := 0x10) (by omega) (by omega) rfl (by omega) (by omega) hrow (by omega)⟩

/-- A limit written replaces its slot, and does nothing else at once. -/
theorem State.write_limit (hv : 1 ≤ v) (hv31 : v < 2 ^ 31) (p : Path) :
    s.write p ((0x4010 + 0x40 * n) * 256 + sub) v true = (abNone, s.onDev fun d => d.stored ((0x4010 + 0x40 * n) * 256 + sub) v) := by
  obtain ⟨dflt, hi, hhi, hoff⟩ := State.offers_limit hf hn hs h1 h5
  have hn16 := Dev.axis_lt_of_has hn
  have hrange : s.dev.rangeBad 0x4010 sub { sub := sub, ty := .u32, acc := .rw, dflt := dflt, lo := 1, hi := hi } v = false := by
    simp [Dev.rangeBad, Dict.Ty.signed]
    omega
  refine State.write_lands ((State.writeSlot_rw hoff rfl (by simp [Dict.Ty.size]; omega) (Nat.and_zero v) hrange (by lia) p).trans ?_)
  exact State.store_lands (new := v) rfl (mergedValue_whole rfl) rfl rfl (by simp) (settingAddr_axis (by omega) (by omega))

end

/-! ## Writes of one slot through BAR0 (R74, R75) -/

/-- The state in which a write of a whole slot through BAR0 is served: the latches of other accesses emptied. -/
def State.bar0Fresh (s : State) (key : Nat) : State :=
  s.onDev fun d => { d.dropLatch key with fab := { (d.dropLatch key).fab with writeBuf := none } }

theorem State.bar0Fresh_frame (s : State) (key : Nat) :
    ∃ x, s.bar0Fresh key = { s with dev := { s.dev with fab := { s.dev.fab with readLatch := x, writeBuf := none } } } := by
  obtain ⟨x, h⟩ := s.dev.dropLatch_frame key
  exact ⟨x, by rw [State.bar0Fresh, State.onDev, h]⟩

theorem State.bar0Fresh_object (s : State) (key k : Nat) : (s.bar0Fresh key).object k = s.object k := by
  obtain ⟨x, h⟩ := s.bar0Fresh_frame key
  rw [h]
  rfl

theorem State.bar0Fresh_hostUp (s : State) (key : Nat) : (s.bar0Fresh key).dev.hostUp = s.dev.hostUp := by
  obtain ⟨x, h⟩ := s.bar0Fresh_frame key
  rw [h]
  rfl

theorem Dict.Ty.size_le (t : Dict.Ty) : 0 < t.size ∧ t.size ≤ 8 := by cases t <;> decide

/-- Bytes that cover a slot whole, and are not half of one, are a write of it. -/
theorem State.bar0WriteSlot_whole {s : State} {key : Nat} {r : Dict.Row} (h : s.object key = .ok r) {data : Bytes}
    (hcover : r.ty.size ≤ data.length) : s.bar0WriteSlot key 0 data = ((s.bar0Fresh key).write .bar0 key (ofLe data) true).2 := by
  have hobj : (s.bar0Fresh key).object key = .ok r := (s.bar0Fresh_object key key).trans h
  have hpos := r.ty.size_le.1
  show (match (s.bar0Fresh key).object key with
    | .error _ => _
    | .ok r => _) = _
  rw [hobj]
  dsimp only
  rw [if_neg (by omega), if_neg (by omega), decide_eq_false (p := r.ty.size = 8 ∧ data.length = 4 ∧ 0 = 4) (by omega), decide_eq_true hcover]
  split
  next heq => simp at heq
  next => rfl

/-- A TLP of 4 or 8 bytes at a slot's start is one part. -/
theorem tlpParts_slot {key len : Nat} (hlen : len = 4 ∨ len = 8) : tlpParts (8 * key) len = some [(key, 0, len)] := by
  obtain rfl | rfl := hlen <;> rw [tlpParts, if_pos (by omega), Nat.mul_div_cancel_left _ (by decide), Nat.mul_mod_right]

/-- BAR0 writes 4 or 8 bytes at a slot that they cover. -/
theorem exec_bar0Write_slot {s : State} {key : Nat} {r : Dict.Row} (hh : s.dev.hostUp = true) (hk : key < 2 ^ 24) (h : s.object key = .ok r)
    {data : Bytes} (hlen : data.length = 4 ∨ data.length = 8) (hcover : r.ty.size ≤ data.length) :
    exec (.bar0Write (8 * key) data) s = .next ((s.bar0Fresh key).write .bar0 key (ofLe data) true).2 := by
  have hofs : 8 * key % peekBase = 8 * key := Nat.mod_eq_of_lt (by simp only [peekBase]; omega)
  have hsize : ¬ (¬ s.dev.hostUp = true ∨ bar0Size < 8 * key + data.length) := by
    simp only [hh, not_true, false_or, not_lt, bar0Size]
    omega
  show execBar0Write (8 * key) data s = _
  unfold execBar0Write
  dsimp only
  rw [if_neg hsize, hofs, tlpParts_slot hlen]
  simp [State.bar0WriteSlot_whole h hcover]

/-- A write of 8 bytes through BAR0 is the object's write. -/
theorem exec_bar0Write_object {s : State} {key : Nat} (hh : s.dev.hostUp = true) (hk : key < 2 ^ 24) (h : ∃ r, s.object key = .ok r)
    {data : Bytes} (hlen : data.length = 8) :
    exec (.bar0Write (8 * key) data) s = exec (.objectWrite .bar0 key (ofLe data)) (s.bar0Fresh key) := by
  obtain ⟨r, hr⟩ := h
  rw [exec_bar0Write_slot hh hk hr (.inr hlen) (by rw [hlen]; exact r.ty.size_le.2)]
  exact ((if_pos hk).trans (congrArg _ (if_pos ((s.bar0Fresh_hostUp key).trans hh)))).symm

theorem ofLe_le (n v : Nat) : ofLe (le n v) = v % 2 ^ (8 * n) := by
  induction n generalizing v with
  | zero => simp [le, ofLe, Nat.mod_one]
  | succ n ih =>
    have hpow : 2 ^ (8 * (n + 1)) = 256 * 2 ^ (8 * n) := by rw [Nat.mul_succ, Nat.pow_add, Nat.mul_comm]
    rw [le, ofLe, ih, BitVec.toNat_ofNat, hpow, Nat.mod_mul]

theorem length_le (n v : Nat) : (le n v).length = n := by
  induction n generalizing v with
  | zero => rfl
  | succ n ih => rw [le, List.length_cons, ih]

/-! ## The start lock (R90 to R94) -/

theorem State.offers_lock {s : State} (hf : s.dev.fab.ready = true) : s.Offers K.LOCK 0x1110 0 1 .device (Dict.w1Row 1) :=
  State.offers_device hf (by decide) rfl (by decide) (by decide) (by decide) (by decide)

theorem Dev.abort_count (d : Dev) (p : Path) (code key : Nat) :
    (d.abort p code key).rd (statKey p K.ABORTS) = (d.rd (statKey p K.ABORTS) + 1) % 2 ^ 32 := by
  have h1 : statKey p K.LAST_ABORT ≠ statKey p K.ABORTS := by cases p <;> simp [statKey]
  have h2 : statKey p K.LAST_OBJ ≠ statKey p K.ABORTS := by cases p <;> simp [statKey]
  rw [Dev.abort, Dev.rd_count, if_pos rfl, Dev.rd_wrs_ne _ _ _ (by simp [h1, h2])]

theorem Dev.abort_frame (d : Dev) (p : Path) (code key : Nat) : ∃ o, d.abort p code key = { d with objs := o } := by
  rw [Dev.abort, Dev.wrs_objs_only]
  exact ⟨_, rfl⟩

end Sys2Proof.Machine

namespace Sys2Proof

open Sys2Proof.Machine

/-! ## The outcomes of object writes -/

/-- What a refused write leaves: its record on the path, and nothing else (R76). -/
theorem completes_of_abort {c : Instr} {s : State} {p : Path} {code key : Nat} (hk : key < 2 ^ 24)
    (hx : exec c s = .next (s.onDev fun d => d.abort p code key)) :
    Completes c s fun u => u.dev.rd (statKey p K.LAST_ABORT) = code % 2 ^ 64 ∧ u.dev.rd (statKey p K.LAST_OBJ) = key * 256 ∧
      u.dev.rd (statKey p K.ABORTS) = (s.dev.rd (statKey p K.ABORTS) + 1) % 2 ^ 32 ∧ u.pow = s.pow ∧ u.mem = s.mem ∧
      u.dev.legs = s.dev.legs ∧ u.dev.axes = s.dev.axes ∧
      SlotsKept s u [statKey p K.LAST_ABORT, statKey p K.LAST_OBJ, statKey p K.ABORTS] := by
  obtain ⟨hcode, hobj, hsame⟩ := s.dev.abort_shows p code key
  obtain ⟨o, ho⟩ := s.dev.abort_frame p code key
  refine completes_of_eq hx ⟨hcode, hobj.trans (Nat.mod_eq_of_lt (by omega)), s.dev.abort_count p code key, rfl, rfl, ?_, ?_,
    slotsKept_of_same hsame⟩
  · exact (congrArg Dev.legs ho :)
  · exact (congrArg Dev.axes ho :)

/-- A write by software that its slot refuses. -/
theorem softWrite_refused {s : State} {p : Path} {key value code : Nat} (hr : s.reachable p = true) (h : s.writeSlot p key value true = (code, s))
    (hc : code ≠ abNone) : softWrite p key value s = .next (s.onDev fun d => d.abort p code key) := by
  rw [softWrite, if_pos hr, State.write_refused h hc]

/-- A write by software that lands. -/
theorem softWrite_lands {s t : State} {p : Path} {key value : Nat} (hr : s.reachable p = true) (h : s.write p key value true = (abNone, t)) :
    softWrite p key value s = .next t := by
  rw [softWrite, if_pos hr, h]

theorem exec_objectWrite {key : Nat} (hk : key < 2 ^ 24) (s : State) (p : Path) (v : Nat) :
    exec (.objectWrite p key v) s = softWrite p key v s := if_pos hk

/-- A slot with the code of its checks (R71) refuses its write. -/
theorem exec_objectWrite_code {s : State} {p : Path} {key : Nat} {r : Dict.Row} (hr : s.reachable p = true) (hk : key < 2 ^ 24)
    (hobj : s.object key = .ok r) {code : Nat} (v : Nat)
    (hcode : s.writeCode (Dict.locate (key / 256)).owner r (v % 2 ^ (8 * r.ty.size)) true = code) (hc : code ≠ abNone) :
    exec (.objectWrite p key v) s = .next (s.onDev fun d => d.abort p code key) :=
  (exec_objectWrite hk s p v).trans (softWrite_refused hr (State.writeSlot_code hobj hcode hc p) hc)

/-- The slots of an axis's limits. -/
theorem limitKey {n key : Nat} (h : key ∈ [K.V_LIM n, K.A_LIM n, K.D_LIM n, K.J_LIM n, K.D_STOP n]) :
    ∃ sub, 1 ≤ sub ∧ sub ≤ 5 ∧ key = (0x4010 + 0x40 * n) * 256 + sub := by
  simp only [List.mem_cons, List.not_mem_nil, or_false] at h
  obtain rfl | rfl | rfl | rfl | rfl := h
  exacts [⟨1, by decide, by decide, rfl⟩, ⟨2, by decide, by decide, rfl⟩, ⟨3, by decide, by decide, rfl⟩, ⟨4, by decide, by decide, rfl⟩,
    ⟨5, by decide, by decide, rfl⟩]

section
variable {s : State} {n v : Nat} (hn : s.dev.hasAxis n = true) (hs : s.pow.devState ≠ .stowed) (h1 : 1 ≤ v) (h31 : v < 2 ^ 31)
  {key : Nat} (hkey : key ∈ [K.V_LIM n, K.A_LIM n, K.D_LIM n, K.J_LIM n, K.D_STOP n])
include hn hs h1 h31 hkey

/-- A limit written by an object write, on either path. -/
theorem limit_written {p : Path} (hr : Reaches s p) : Completes (.objectWrite p key v) s fun u => u.dev.rd key = v ∧ u.dev.legs = s.dev.legs ∧
    u.dev.axes = s.dev.axes ∧ u.pow = s.pow ∧ u.mem = s.mem ∧ SlotsKept s u [key] := by
  obtain ⟨sub, hs1, hs5, rfl⟩ := limitKey hkey
  have hn16 := Dev.axis_lt_of_has hn
  refine completes_of_eq ((exec_objectWrite (by omega) s p v).trans
    (softWrite_lands hr.1 (State.write_limit hr.2 hn hs hs1 hs5 h1 h31 p))) ?_
  exact ⟨s.dev.stored_rd_self _ (by omega), rfl, rfl, rfl, rfl, slotsKept_of_same (s.dev.stored_same _ v)⟩

/-- A limit written by 4 or 8 bytes through BAR0. -/
theorem limit_written_bar0 (hh : s.dev.hostUp = true) (hf : s.dev.fab.ready = true) {data : Bytes} (hd : data ∈ [le 4 v, le 8 v]) :
    Completes (.bar0Write (8 * key) data) s fun u => u.dev.rd key = v ∧ u.dev.legs = s.dev.legs ∧ u.pow = s.pow ∧ u.mem = s.mem ∧
      SlotsKept s u [key] := by
  have hbytes : (data.length = 4 ∨ data.length = 8) ∧ ofLe data = v := by
    simp only [List.mem_cons, List.not_mem_nil, or_false] at hd
    obtain rfl | rfl := hd
    · exact ⟨.inl (length_le 4 v), (ofLe_le 4 v).trans (Nat.mod_eq_of_lt (by omega))⟩
    · exact ⟨.inr (length_le 8 v), (ofLe_le 8 v).trans (Nat.mod_eq_of_lt (by omega))⟩
  obtain ⟨hlen, hval⟩ := hbytes
  obtain ⟨sub, hs1, hs5, rfl⟩ := limitKey hkey
  have hn16 := Dev.axis_lt_of_has hn
  obtain ⟨_, _, _, _, _, hobj⟩ := State.offers_limit hf hn hs hs1 hs5
  have hcover : Dict.Ty.u32.size ≤ data.length := by
    simp only [Dict.Ty.size]
    omega
  have hx := exec_bar0Write_slot hh (by omega) hobj hlen hcover
  obtain ⟨x, hfresh⟩ := s.bar0Fresh_frame ((0x4010 + 0x40 * n) * 256 + sub)
  rw [hval, State.write_limit (by rw [hfresh]; exact hf) (by rw [hfresh]; exact hn) (by rw [hfresh]; exact hs) hs1 hs5 h1 h31, hfresh] at hx
  refine completes_of_eq hx ?_
  exact ⟨Dev.stored_rd_self _ _ (by omega), rfl, rfl, rfl,
    slotsKept_of_same ((Dev.SlotsSame.of_rd (.refl s.dev _) fun _ => rfl).trans (Dev.stored_same _ _ v))⟩

end

/-- The start lock is requested in Ready (R90). -/
theorem lock_requested {s : State} {p : Path} (hr : Reaches s p) (hd : s.pow.devState = .ready) (hl : s.pow.locked = false)
    (h0 : s.dev.rd K.LOCK = 0) : Completes (.lock p) s fun u => u.dev.rd K.LOCK = 1 ∧ u.pow = s.pow ∧ SlotsKept s u [K.LOCK] := by
  have hx : exec (.lock p) s = .next (s.onDev fun d => d.wr K.LOCK 1) :=
    softWrite_w1 (State.offers_lock hr.2) rfl hr.1 (by simp [State.w1Ignored, hd, hl]) (by simp [State.w1Code]) h0
  exact completes_of_eq hx ⟨slotWritten_rd (s := s) (v := 1) rfl rfl (by decide), rfl, slotWritten_kept (v := 1) rfl rfl⟩

/-- A requested lock completes: from then on it holds, with its checksum and its time (R91). -/
theorem lock_completes {s : State} (h1 : s.dev.rd K.LOCK = 1) :
    Completes .lockComplete s fun u => u.pow.locked = true ∧ u.pow.devState = s.pow.devState ∧ u.dev.rd K.LOCK = 0 ∧
      u.dev.rd K.LOCK_NT = s.dev.nt % 2 ^ 64 ∧ SlotsKept s u [K.LOCK, K.LOCK_CRC, K.LOCK_NT] := by
  have hx : exec .lockComplete s = .next
      { s with pow := { s.pow with locked := true },
               dev := s.dev.wrs [(K.LOCK_CRC, s.dev.lockCrc), (K.LOCK_NT, s.dev.nt), (K.LOCK, 0)] } := congrArg _ (if_pos h1)
  refine completes_of_eq hx ⟨rfl, rfl, ?_, ?_, slotsKept_of_same ?_⟩
  · exact Dev.rd_wr_self _ _ _
  · exact (Dev.rd_wr_ne _ _ (by decide)).trans (Dev.rd_wr_self _ _ _)
  · exact (((Dev.SlotsSame.refl s.dev _).wr _ (by simp)).wr _ (by simp)).wr _ (by simp)

/-- Settles O49: a write of the object is refused by the first check that its slot fails, and the abort's record is all it leaves; a limit
passes them all; BAR0's 4 or 8 bytes are one part, so the object's write; the lock's request and its completion each write their own slots. -/
theorem writesLandOrAreRefused : Obligations.WritesLandOrAreRefused := by
  refine ⟨fun s p key v hr hk => ?_, fun s n v hh hf hn hs h1 h31 key hkey data hd => limit_written_bar0 hn hs h1 h31 hkey hh hf hd,
    fun s p n v hr hn hs h1 h31 key hkey => limit_written hn hs h1 h31 hkey hr, fun s p hr hd hl h0 => lock_requested hr hd hl h0,
    fun s h1 => lock_completes h1⟩
  refine ⟨fun e he => ?_, fun r hobj hacc => ?_, fun r hobj hacc hlock => ?_, ?_⟩
  · exact completes_of_abort hk ((exec_objectWrite hk s p v).trans
      (softWrite_refused hr (State.writeSlot_error he p v true) (State.object_code he)))
  · exact completes_of_abort hk (exec_objectWrite_code (code := abReadOnly) hr hk hobj v (by simp [State.writeCode, hacc]) (by decide))
  · exact completes_of_abort hk (exec_objectWrite_code (code := abLocked) hr hk hobj v (by simp [State.writeCode, hacc, hlock]) (by decide))
  · rintro data rfl hlen hobj
    exact exec_bar0Write_object hr hk hobj hlen

end Sys2Proof

namespace Sys2Proof.Machine

/-! ## One field of CONTROL (Table 4-3) -/

theorem testBit_withBit (v i : Nat) (b : Bool) (j : Nat) : (withBit v i b).testBit j = if j = i then b else v.testBit j := by
  by_cases h : j = i
  · rw [h, testBit_withBit_self, if_pos rfl]
  · rw [withBit, testBit_withField, if_neg (by omega), if_neg h]

/-- The value that a write of CONTROL with field i changed carries: the other fields as stored, and no QSTOP of its own. -/
def controlValue (old i : Nat) (on : Bool) : Nat := withBit (withBit old 3 false) i on

theorem testBit_controlValue (old i : Nat) (on : Bool) (j : Nat) :
    (controlValue old i on).testBit j = if j = i then on else if j = 3 then false else old.testBit j := by
  rw [controlValue, testBit_withBit, testBit_withBit]

theorem withBit_lt_sixteen {v i : Nat} (b : Bool) (hv : v < 16) (hi : i < 4) : withBit v i b < 16 := withField_lt (n := 4) hv hi

theorem controlValue_lt {old i : Nat} (on : Bool) (ho : old < 16) (hi : i < 4) : controlValue old i on < 16 :=
  withBit_lt_sixteen on (withBit_lt_sixteen false ho (by decide)) hi

/-- The bits that CONTROL reserves. -/
theorem land_control_reserved {v : Nat} (hv : v < 16) : Nat.land v 0xFFF0 = 0 := by interval_cases v <;> rfl

/-- The row of CONTROL. -/
abbrev Dict.controlRow : Dict.Row := { sub := 1, ty := .u16, acc := .rw, rsv := 0xFFF0 }

/-- What is stored is the old value with the one field changed: a QSTOP that stood stays (R84). -/
theorem mergedValue_control (old : Nat) {i : Nat} {on : Bool} (hq : i = 3 → on = true) :
    mergedValue 0x4000 1 old (controlValue old i on) Dict.controlRow = withBit old i on := by
  rw [mergedValue_whole rfl, if_pos ⟨rfl, rfl⟩]
  refine Nat.eq_of_testBit_eq fun j => ?_
  simp only [testBit_withBit, testBit_controlValue]
  by_cases hj : j = 3
  · subst hj
    by_cases hi : 3 = i
    · simp [hi, hq hi.symm]
    · simp [hi]
  · simp [hj]

/-- Only a change to set of ENABLE or of FOLLOW_EN can be refused. -/
theorem State.controlRefused_value (s : State) (n i : Nat) (on : Bool) : s.controlRefused n (controlValue (s.dev.rd (K.CONTROL n)) i on) =
    (decide (i = 0) && on && !(s.dev.rd (K.CONTROL n)).testBit 0 && s.enableRefused n ||
      decide (i = 2) && on && !(s.dev.rd (K.CONTROL n)).testBit 2 && s.dev.followRefused n) := by
  rw [State.controlRefused]
  simp only [testBit_controlValue]
  by_cases h0 : i = 0
  · simp [h0]
  · by_cases h2 : i = 2
    · simp [h2]
    · simp [h0, h2, Ne.symm h0, Ne.symm h2]

/-- The relations of CONTROL are those of its enables. -/
theorem State.inconsistent_control (s : State) (n v : Nat) (d : Dev) : s.inconsistent 0x4000 n 1 v d = s.controlRefused n v := rfl

/-- A value that its relations refuse changes nothing. -/
theorem State.store_inconsistent {s : State} {tmpl i sub key v : Nat} {r : Dict.Row}
    (hwin : windowBad tmpl i sub (s.dev.wr key (mergedValue tmpl sub (s.dev.rd key) v r)) = false)
    (hrel : s.inconsistent tmpl i sub v (s.dev.wr key (mergedValue tmpl sub (s.dev.rd key) v r)) = true) (p : Path) :
    s.store p tmpl i sub key v r = (abInconsistent, s) := by
  unfold State.store
  dsimp only
  rw [if_neg (by simp [hwin]), if_pos hrel]

section
variable {s : State} {n : Nat} (hf : s.dev.fab.ready = true) (hn : s.dev.hasAxis n = true) (hs : s.pow.devState ≠ .stowed)
include hf hn hs

theorem State.offers_control : s.Offers (K.CONTROL n) 0x4000 n 1 (.axis n) Dict.controlRow :=
  State.offers_axis hf hn hs (a := 0) (b := 0) (by decide) (by decide) rfl (by lia) (by lia) (by decide) (by decide)

/-- A value of CONTROL's four fields comes to its relations. -/
theorem State.writeSlot_control {v : Nat} (hv : v < 16) (p : Path) :
    s.writeSlot p (K.CONTROL n) v true = s.store p 0x4000 n 1 (K.CONTROL n) v Dict.controlRow := by
  have hn16 := Dev.axis_lt_of_has hn
  exact State.writeSlot_rw (State.offers_control hf hn hs) rfl (by simp [Dict.Ty.size]; omega) (land_control_reserved hv)
    (by simp [Dev.rangeBad, Dict.Ty.signed]) (by lia) p

theorem State.writeSlot_control_inconsistent {v : Nat} (hv : v < 16) (hc : s.controlRefused n v = true) (p : Path) :
    s.writeSlot p (K.CONTROL n) v true = (abInconsistent, s) :=
  (State.writeSlot_control hf hn hs hv p).trans (State.store_inconsistent rfl ((s.inconsistent_control n v _).trans hc) p)

theorem State.writeSlot_control_busy {v : Nat} (hv : v < 16) (hc : s.controlRefused n v = false) (hq : v.testBit 3 = true)
    (ho : (s.dev.rd (K.CONTROL n)).testBit 3 = true) (p : Path) : s.writeSlot p (K.CONTROL n) v true = (abBusy, s) := by
  rw [State.writeSlot_control hf hn hs hv p, State.store]
  exact (if_neg Bool.false_ne_true).trans ((if_neg (by simp [State.inconsistent_control, hc])).trans (if_pos ⟨rfl, rfl, hq, ho⟩))

/-- A change of one field that its relations allow. -/
theorem State.write_control {i : Nat} {on : Bool} (ho : s.dev.rd (K.CONTROL n) < 16) (hi : i < 4) (hon : i = 3 → on = true)
    (hc : s.controlRefused n (controlValue (s.dev.rd (K.CONTROL n)) i on) = false)
    (hq : i = 3 → (s.dev.rd (K.CONTROL n)).testBit 3 = false) (p : Path) :
    s.write p (K.CONTROL n) (controlValue (s.dev.rd (K.CONTROL n)) i on) true =
      (abNone, (s.onDev fun d => d.stored (K.CONTROL n) (withBit (s.dev.rd (K.CONTROL n)) i on)).landed p 0x4000 n 1
        (s.dev.rd (K.CONTROL n)) (withBit (s.dev.rd (K.CONTROL n)) i on)) := by
  have hn16 := Dev.axis_lt_of_has hn
  have hbusy : ¬ (0x4000 = 0x4000 ∧ 1 = 1 ∧ (controlValue (s.dev.rd (K.CONTROL n)) i on).testBit 3 = true ∧
      (s.dev.rd (K.CONTROL n)).testBit 3 = true) := by
    rintro ⟨-, -, hv, hold⟩
    by_cases h3 : i = 3
    · simp [hq h3] at hold
    · simp [testBit_controlValue, Ne.symm h3] at hv
  exact State.write_lands ((State.writeSlot_control hf hn hs (controlValue_lt on ho hi) p).trans
    (State.store_lands rfl (mergedValue_control _ hon) rfl ((s.inconsistent_control n _ _).trans hc) hbusy (settingAddr_axis (by omega) (by decide))))

end

/-- A write of CONTROL that does not clear FOLLOW_EN does nothing else at once. -/
theorem State.landed_control (s : State) (p : Path) (n : Nat) {old new : Nat} (h : ¬ (old.testBit 2 = true ∧ ¬ new.testBit 2 = true)) :
    s.landed p 0x4000 n 1 old new = s := if_neg h

/-- FOLLOW_EN cleared on an axis that is not engaged ends its barring. -/
theorem Dev.followOff_idle {d : Dev} {n : Nat} (h : (d.mot n).follow.engaged = false) :
    d.followOff n = d.setMot n { d.mot n with follow := { (d.mot n).follow with barred := false } } := by
  rw [Dev.followOff]
  simp [h]

end Sys2Proof.Machine

namespace Sys2Proof

open Sys2Proof.Machine

/-- A write of CONTROL that is refused leaves its record. -/
theorem control_refused {s : State} {p : Path} {n : Nat} (hr : Reaches s p) (hn : s.dev.hasAxis n = true) {c : Instr} {i : Nat} {on : Bool}
    (hx : exec c s = controlWrite p n i on s) {code : Nat} (hcode : code ≠ abNone)
    (hw : s.writeSlot p (K.CONTROL n) (controlValue (s.dev.rd (K.CONTROL n)) i on) true = (code, s)) :
    Completes c s fun u => u.dev.rd (statKey p K.LAST_ABORT) = code % 2 ^ 64 ∧ u.dev.axes = s.dev.axes ∧
      SlotsKept s u [statKey p K.LAST_ABORT, statKey p K.LAST_OBJ, statKey p K.ABORTS] := by
  have hn16 := Dev.axis_lt_of_has hn
  obtain ⟨u, hu, hlast, -, -, -, -, -, haxes, hkept⟩ := completes_of_abort (key := K.CONTROL n) (by lia)
    (hx.trans ((if_pos hn16).trans (softWrite_refused hr.1 hw hcode)))
  exact ⟨u, hu, hlast, haxes, hkept⟩

section
variable {s : State} {p : Path} {n : Nat} (hr : Reaches s p) (hn : s.dev.hasAxis n = true) (hs : s.pow.devState ≠ .stowed)
  (ho : s.dev.rd (K.CONTROL n) < 16) {c : Instr} {i : Nat} {on : Bool} (hx : exec c s = controlWrite p n i on s) (hi : i < 4)
include hr hn hs ho hx hi

theorem controlWrite_lands (hon : i = 3 → on = true) (hc : s.controlRefused n (controlValue (s.dev.rd (K.CONTROL n)) i on) = false)
    (hq : i = 3 → (s.dev.rd (K.CONTROL n)).testBit 3 = false) :
    exec c s = .next ((s.onDev fun d => d.stored (K.CONTROL n) (withBit (s.dev.rd (K.CONTROL n)) i on)).landed p 0x4000 n 1
      (s.dev.rd (K.CONTROL n)) (withBit (s.dev.rd (K.CONTROL n)) i on)) :=
  hx.trans ((if_pos (Dev.axis_lt_of_has hn)).trans (softWrite_lands hr.1 (State.write_control hr.2 hn hs ho hi hon hc hq p)))

/-- A field that changes alone. -/
theorem control_set (hon : i = 3 → on = true) (hc : s.controlRefused n (controlValue (s.dev.rd (K.CONTROL n)) i on) = false)
    (hq : i = 3 → (s.dev.rd (K.CONTROL n)).testBit 3 = false) (h2 : i = 2 → on = true) :
    Completes c s fun u => u.dev.rd (K.CONTROL n) = withBit (s.dev.rd (K.CONTROL n)) i on ∧ u.dev.legs = s.dev.legs ∧ u.pow = s.pow ∧
      u.dev.axes = s.dev.axes ∧ SlotsKept s u [K.CONTROL n] := by
  have hkeep : ¬ ((s.dev.rd (K.CONTROL n)).testBit 2 = true ∧ ¬ (withBit (s.dev.rd (K.CONTROL n)) i on).testBit 2 = true) := by
    rintro ⟨hold, hnew⟩
    by_cases hi2 : i = 2
    · simp [testBit_withBit, hi2, h2 hi2] at hnew
    · simp [testBit_withBit, Ne.symm hi2, hold] at hnew
  refine completes_of_eq ((controlWrite_lands hr hn hs ho hx hi hon hc hq).trans (congrArg _ (State.landed_control _ p n hkeep))) ?_
  have hlt := withBit_lt_sixteen on ho hi
  exact ⟨s.dev.stored_rd_self _ (by omega), rfl, rfl, rfl, slotsKept_of_same (s.dev.stored_same _ _)⟩

/-- An enable or a FOLLOW_EN that its relations refuse records Inconsistent. -/
theorem control_inconsistent (hc : s.controlRefused n (controlValue (s.dev.rd (K.CONTROL n)) i on) = true) :
    Completes c s fun u => u.dev.rd (statKey p K.LAST_ABORT) = 0x0304 ∧ u.dev.axes = s.dev.axes ∧
      SlotsKept s u [statKey p K.LAST_ABORT, statKey p K.LAST_OBJ, statKey p K.ABORTS] :=
  control_refused hr hn hx (code := abInconsistent) (by decide)
    (State.writeSlot_control_inconsistent hr.2 hn hs (controlValue_lt on ho hi) hc p)

end

section
variable {s : State} {p : Path} {n : Nat} (hr : Reaches s p) (hn : s.dev.hasAxis n = true) (hs : s.pow.devState ≠ .stowed)
  (ho : s.dev.rd (K.CONTROL n) < 16)
include hr hn hs ho

/-- A quick stop while one is pending answers Busy (R117). -/
theorem qstop_busy (h3 : (s.dev.rd (K.CONTROL n)).testBit 3 = true) :
    Completes (.qstop p n) s fun u => u.dev.rd (statKey p K.LAST_ABORT) = 0x0402 ∧ u.dev.axes = s.dev.axes ∧
      SlotsKept s u [statKey p K.LAST_ABORT, statKey p K.LAST_OBJ, statKey p K.ABORTS] :=
  control_refused hr hn (i := 3) (on := true) rfl (code := abBusy) (by decide)
    (State.writeSlot_control_busy hr.2 hn hs (controlValue_lt true ho (by decide)) (by simp [State.controlRefused_value])
      (by simp [testBit_controlValue]) h3 p)

/-- FOLLOW_EN cleared while not engaged (R118). -/
theorem followEn_cleared (h2 : (s.dev.rd (K.CONTROL n)).testBit 2 = true) (he : (s.dev.mot n).follow.engaged = false) :
    Completes (.followEn p n false) s fun u => u.dev.rd (K.CONTROL n) = withBit (s.dev.rd (K.CONTROL n)) 2 false ∧
      (u.dev.mot n).follow.barred = false ∧ SlotsKept s u [K.CONTROL n] := by
  have hclears : (s.dev.rd (K.CONTROL n)).testBit 2 = true ∧ ¬ (withBit (s.dev.rd (K.CONTROL n)) 2 false).testBit 2 = true :=
    ⟨h2, by simp [testBit_withBit]⟩
  have hidle := Dev.followOff_idle (d := s.dev.stored (K.CONTROL n) (withBit (s.dev.rd (K.CONTROL n)) 2 false)) he
  have hx := (controlWrite_lands hr hn hs ho (c := .followEn p n false) (i := 2) (on := false) rfl (by decide) (by simp)
    (by simp [State.controlRefused_value]) (by simp)).trans (congrArg _ (if_pos hclears))
  have hlt := withBit_lt_sixteen false ho (i := 2) (by decide)
  simp only [State.onDev, hidle] at hx
  refine completes_of_eq hx ⟨s.dev.stored_rd_self _ (by omega), ?_, slotsKept_of_same (s.dev.stored_same _ _)⟩
  exact (congrArg (fun a : AxisRt => a.mot.follow.barred) (Dev.axis_setAxis_self _ _ _) :)

end

/-- Settles O51: the written value carries the other fields as stored and no QSTOP of its own, so what is stored differs from the old value in
the one field; only a rise of ENABLE or FOLLOW_EN can be refused, and only QSTOP written over QSTOP is Busy. -/
theorem controlWritesChangeOneField : Obligations.ControlWritesChangeOneField := by
  intro s p n hr hn hs ho
  refine ⟨fun h => ?_, fun hrefused h0 => ?_, ?_, fun on => ?_, fun h2 hfree => ?_, fun h2 hrefused => ?_, fun h2 he => ?_,
    fun h3 => ?_, fun h3 => ?_⟩
  · exact control_set hr hn hs ho (i := 0) rfl (by decide) (by simp) (by rcases h with h | h <;> simp [State.controlRefused_value, h])
      (by simp) (by simp)
  · exact control_inconsistent hr hn hs ho (i := 0) (on := true) rfl (by decide) (by simp [State.controlRefused_value, hrefused, h0])
  · exact control_set hr hn hs ho (i := 0) rfl (by decide) (by simp) (by simp [State.controlRefused_value]) (by simp) (by simp)
  · exact control_set hr hn hs ho (i := 1) rfl (by decide) (by simp) (by simp [State.controlRefused_value]) (by simp) (by simp)
  · exact control_set hr hn hs ho (i := 2) rfl (by decide) (by simp) (by simp [State.controlRefused_value, hfree]) (by simp) (by simp)
  · exact control_inconsistent hr hn hs ho (i := 2) (on := true) rfl (by decide) (by simp [State.controlRefused_value, hrefused, h2])
  · exact followEn_cleared hr hn hs ho h2 he
  · exact control_set hr hn hs ho (i := 3) rfl (by decide) (by simp) (by simp [State.controlRefused_value]) (fun _ => h3) (by simp)
  · exact qstop_busy hr hn hs ho h3

end Sys2Proof

namespace Sys2Proof

open Sys2Proof.Machine

/-! ## POS_SET, ENC_PRESET, EMU_EN, HOME_START: an output whose balls move as it starts -/

/-- In Ready, over BAR0: output 0 has counted to 1 in step/direction, its STEP ball is low again, and OUT_CFG has since been set to
quadrature; the balls (0, 0) are not those of count 1. -/
def stepToQuadrature : State :=
  let d := State.reset.dev
  { State.reset with
    pow := { State.reset.pow with devState := .ready }
    dev := { d.wr K.LINK_STATE 3 with fab := { d.fab with ready := true }, emu := [(0, { shown := 1 })] } }

theorem stepToQuadrature_reaches : Reaches stepToQuadrature .bar0 ∧ stepToQuadrature.dev.hasEmu 0 = true := by decide

/-- EMU_EN drives EMA to the level of count 1 (R280). -/
theorem stepToQuadrature_emuEn :
    (answer (.emuEn .bar0 0 true) stepToQuadrature).map (·.dev.out) = some (stepToQuadrature.dev.out ++ [.emuBall 0 0 true]) := by decide

/-- Refutes O52: EMU_EN = 1 drives the balls to the count that the output holds (R280), and where they stand elsewhere, as after a change of
OUT_CFG from step/direction to quadrature, a ball moves and `out` does not stay. -/
theorem not_positionsOutputsAndHomingAreSet : ¬ Obligations.PositionsOutputsAndHomingAreSet := by
  rintro ⟨-, hemu⟩
  obtain ⟨hreach, hhas⟩ := stepToQuadrature_reaches
  obtain ⟨t, ht, -, -, -, hout, -⟩ := (hemu stepToQuadrature .bar0 0 hreach hhas).1
  have hmoved : t.dev.out = stepToQuadrature.dev.out ++ [.emuBall 0 0 true] := by simpa [answer, ht] using stepToQuadrature_emuEn
  simp [hmoved] at hout

end Sys2Proof

namespace Sys2Proof

open Sys2Proof.Machine

/-! ## The profile cadence: a spare whose status address is an axis state -/

/-- In Ready, with axis 0 Disabled and its ENABLE set: a patch of axis 0 is under way whose spare has the number with which SLICE_STATUS comes
to the address of STATE of axis 0. -/
def strayPatch : State :=
  let d := State.reset.dev
  { State.reset with
    pow := { State.reset.pow with devState := .ready }
    dev := { d.wr (K.CONTROL 0) 1 with
      fab := { d.fab with ready := true }
      fray := { d.fray with slice := some { axis := 0, spare := K.STATE_4000 0 - K.SLICE_STATUS 0, cause := 2, started := true } } } }

/-- The axis enters Identifying, which abandons the patch; the spare goes back to state Spare, axis 0x1F, in the slot of the axis state. -/
theorem strayPatch_profileCadence :
    (answer (.profileCadence 0) strayPatch).map (·.dev.axState 0) = some (1 + 256 * 0x1F) := by
  decide +kernel

/-- Refutes O25: the entry into Identifying abandons a patch of the axis, and where the patch's spare is the one whose SLICE_STATUS address is
that of the axis state, the spare's return to state Spare overwrites Identifying. -/
theorem not_cadencesPublishAndTheirTimersEnd : ¬ Obligations.CadencesPublishAndTheirTimersEnd := by
  rintro ⟨hcadence, -⟩
  obtain ⟨t, ht, -, -, -, -, henter⟩ :=
    (hcadence strayPatch 0 (by decide) (by decide) (by decide) (by decide) (by decide)).1 (by decide)
  obtain ⟨hstate, -⟩ := henter (by decide) (by decide) rfl rfl rfl rfl
  have hstray : t.dev.axState 0 = 1 + 256 * 0x1F := by simpa [answer, ht] using strayPatch_profileCadence
  simp [hstray] at hstate

end Sys2Proof

namespace Sys2Proof.Machine

/-! ## The motion of an axis read back -/

@[simp] theorem Dev.mot_setMot (d : Dev) (n : Nat) (m : MotionRt) : (d.setMot n m).mot n = m :=
  congrArg AxisRt.mot (d.axis_setAxis_self n _)

/-- A change of an axis that keeps its motion. -/
theorem Dev.mot_setAxis {d : Dev} {n : Nat} {r : AxisRt} (h : r.mot = d.mot n) : (d.setAxis n r).mot n = d.mot n :=
  (congrArg AxisRt.mot (d.axis_setAxis_self n r)).trans h

@[simp] theorem Dev.event_axes (d : Dev) (src type obj nt : Nat) (b : Bytes) : (d.event src type obj nt b).axes = d.axes := by
  obtain ⟨o, m, f, h⟩ := d.event_frame src type obj nt b
  rw [h]

theorem Dev.axis_congr {d e : Dev} (h : e.axes = d.axes) (n : Nat) : e.axis n = d.axis n := by simp only [Dev.axis, h]

@[simp] theorem Dev.mot_event (d : Dev) (src type obj nt : Nat) (b : Bytes) (n : Nat) :
    (d.event src type obj nt b).mot n = d.mot n := congrArg AxisRt.mot (Dev.axis_congr (d.event_axes src type obj nt b) n)

@[simp] theorem Dev.mot_axisEvent (d : Dev) (m type obj nt : Nat) (b : Bytes) (n : Nat) :
    (d.axisEvent m type obj nt b).mot n = d.mot n := d.mot_event _ _ _ _ _ n

@[simp] theorem Dev.mot_patEvent (d : Dev) (m p type nt : Nat) (b : Bytes) (n : Nat) :
    (d.patEvent m p type nt b).mot n = d.mot n := d.mot_event _ _ _ _ _ n

@[simp] theorem Dev.mot_loadEvent (d : Dev) (m i : Nat) (b : Bytes) (n : Nat) : (d.loadEvent m i b).mot n = d.mot n := by
  unfold Dev.loadEvent
  dsimp only
  split_ifs
  · rw [Dev.mot_axisEvent]
    rfl
  · rfl

@[simp] theorem Dev.mot_newMove (d : Dev) (n : Nat) : (d.newMove n).mot n = d.mot n := Dev.mot_setAxis rfl

/-- A wake leaves the motion of its axis. -/
@[simp] theorem Dev.mot_wakeFor (d : Dev) (n : Nat) (l : Letter) : (d.wakeFor n l).mot n = d.mot n := by
  unfold Dev.wakeFor
  split
  · exact (Dev.mot_loadEvent _ _ _ _ _).trans (Dev.mot_setAxis rfl)
  · rfl

@[simp] theorem Dev.mot_wakeCheck (d : Dev) (n : Nat) : (d.wakeCheck n).mot n = d.mot n := by
  unfold Dev.wakeCheck
  dsimp only
  split_ifs
  · rfl
  · exact Dev.mot_setAxis rfl

/-! ## The goes of a letter (R175) -/

/-- Between two devices only the goes due of the axes and what has left the device change. -/
structure Dev.GoesOnly (a b : Dev) : Prop where
  frame : ∃ x o, b = { a with axes := x, out := o }
  axis : ∀ m, ∃ g, b.axis m = { a.axis m with goDue := g }

namespace Dev.GoesOnly

theorem refl (a : Dev) : GoesOnly a a := ⟨⟨_, _, rfl⟩, fun m => ⟨(a.axis m).goDue, rfl⟩⟩

theorem trans {a b c : Dev} (h : GoesOnly a b) (h' : GoesOnly b c) : GoesOnly a c := by
  obtain ⟨⟨x, o, rfl⟩, hax⟩ := h
  obtain ⟨⟨y, p, rfl⟩, hax'⟩ := h'
  refine ⟨⟨y, p, rfl⟩, fun m => ?_⟩
  obtain ⟨g, hg⟩ := hax m
  obtain ⟨g', hg'⟩ := hax' m
  exact ⟨g', by rw [hg', hg]⟩

theorem ite {a : Dev} {p : Prop} [Decidable p] {x y : Dev} (hx : GoesOnly a x) (hy : GoesOnly a y) : GoesOnly a (if p then x else y) := by
  split_ifs
  · exact hx
  · exact hy

theorem setGo (d : Dev) (n : Nat) (g : Option (Bool × Nat × Bool)) : GoesOnly d (d.setAxis n { d.axis n with goDue := g }) := by
  refine ⟨⟨_, _, rfl⟩, fun m => ?_⟩
  by_cases h : n = m
  · subst h
    exact ⟨g, d.axis_setAxis_self n _⟩
  · exact ⟨(d.axis m).goDue, d.axis_setAxis_ne _ h⟩

theorem setGoes (g : Option (Bool × Nat × Bool)) (l : List Nat) (d : Dev) :
    GoesOnly d (l.foldl (fun d n => d.setAxis n { d.axis n with goDue := g }) d) :=
  foldl_frame GoesOnly refl (fun _ _ _ => trans) _ (fun d n => setGo d n g) l d

theorem flushGoes (d : Dev) (k q : Nat) : GoesOnly d (d.flushGoes k q) := by
  unfold Dev.flushGoes
  dsimp only
  split
  · refine ite (refl d) (ite (setGoes none _ d) ?_)
    exact (setGoes _ _ d).trans ⟨⟨_, _, rfl⟩, fun m => ⟨_, rfl⟩⟩
  · exact refl d

theorem sendGoes (d : Dev) (l : Letter) : GoesOnly d (d.sendGoes l) :=
  foldl_frame GoesOnly refl (fun _ _ _ => trans) _ (fun d q => flushGoes d l.k q) _ d

variable {a b : Dev} (h : GoesOnly a b)
include h

theorem rd (k : Nat) : b.rd k = a.rd k := by
  obtain ⟨⟨x, o, rfl⟩, -⟩ := h
  rfl

theorem legs : b.legs = a.legs := by
  obtain ⟨⟨x, o, rfl⟩, -⟩ := h
  rfl

theorem mot (n : Nat) : b.mot n = a.mot n := by
  obtain ⟨g, hg⟩ := h.axis n
  rw [Dev.mot, hg, Dev.mot]

theorem inbox (n : Nat) : (b.axis n).inbox = (a.axis n).inbox := by
  obtain ⟨g, hg⟩ := h.axis n
  rw [hg]

end Dev.GoesOnly

/-! ## What an action leaves (R132) -/

/-- A slot of a move of axis n: a target of 0x4020 or a limit of 0x4010. -/
abbrev MotionSlot (n k : Nat) : Prop := K.V_LIM n ≤ k ∧ k ≤ K.D_STOP n ∨ k = K.TARGET n ∨ k = K.TARGET_VEL n

/-- What a motion that begins at axis n leaves: the legs, the other axes but for goes due, the inbox, targets and limits. -/
structure Dev.LetterKeeps (n : Nat) (a b : Dev) : Prop where
  legs : b.legs = a.legs
  others : ∀ m, m ≠ n → ∃ g, b.axis m = { a.axis m with goDue := g }
  inbox : (b.axis n).inbox = (a.axis n).inbox
  slots : ∀ k, MotionSlot n k → b.rd k = a.rd k

namespace Dev.LetterKeeps

variable {n : Nat} {a b : Dev}

theorem refl (a : Dev) : LetterKeeps n a a := ⟨rfl, fun m _ => ⟨(a.axis m).goDue, rfl⟩, rfl, fun _ _ => rfl⟩

theorem trans {c : Dev} (h : LetterKeeps n a b) (h' : LetterKeeps n b c) : LetterKeeps n a c := by
  refine ⟨h'.legs.trans h.legs, fun m hm => ?_, h'.inbox.trans h.inbox, fun k hk => (h'.slots k hk).trans (h.slots k hk)⟩
  obtain ⟨g, hg⟩ := h.others m hm
  obtain ⟨g', hg'⟩ := h'.others m hm
  exact ⟨g', by rw [hg', hg]⟩

theorem ite {p : Prop} [Decidable p] {x y : Dev} (hx : LetterKeeps n a x) (hy : LetterKeeps n a y) :
    LetterKeeps n a (if p then x else y) := by
  split_ifs
  · exact hx
  · exact hy

theorem wr (h : LetterKeeps n a b) (k v : Nat) (hk : ¬ MotionSlot n k := by lia) : LetterKeeps n a (b.wr k v) :=
  ⟨h.legs, h.others, h.inbox, fun x hx => (Dev.rd_wr_ne _ _ (by rintro rfl; exact hk hx)).trans (h.slots x hx)⟩

theorem setBit (h : LetterKeeps n a b) (k i : Nat) (v : Bool) (hk : ¬ MotionSlot n k := by lia) :
    LetterKeeps n a (b.setBit k i v) := h.wr k _ hk

theorem setAxis (h : LetterKeeps n a b) (r : AxisRt) (hi : r.inbox = (b.axis n).inbox := by rfl) : LetterKeeps n a (b.setAxis n r) :=
  ⟨h.legs, fun m hm => by rw [Dev.axis_setAxis_ne _ _ (Ne.symm hm)]; exact h.others m hm,
    by rw [Dev.axis_setAxis_self]; exact hi.trans h.inbox, h.slots⟩

theorem setMot (h : LetterKeeps n a b) (m : MotionRt) : LetterKeeps n a (b.setMot n m) := h.setAxis _

theorem event (h : LetterKeeps n a b) {src : Nat} (hs : src < 64) (type obj nt : Nat) (p : Bytes) :
    LetterKeeps n a (b.event src type obj nt p) := by
  obtain ⟨o, ml, f, he⟩ := b.event_frame src type obj nt p
  have hslots : ∀ k, MotionSlot n k → (b.event src type obj nt p).rd k = b.rd k := fun k hk =>
    b.event_rd src type obj nt p k hs (postingSlot_outside (by lia))
  rw [he] at hslots ⊢
  exact ⟨h.legs, h.others, h.inbox, fun k hk => (hslots k hk).trans (h.slots k hk)⟩

theorem patEvent (h : LetterKeeps n a b) (m p type nt : Nat) (x : Bytes) : LetterKeeps n a (b.patEvent m p type nt x) :=
  h.event (b.sliceOf_lt m) _ _ _ _

theorem useUpdate (h : LetterKeeps n a b) (p : Nat) : LetterKeeps n a (b.useUpdate p) := h.wr _ _

theorem newMove (h : LetterKeeps n a b) : LetterKeeps n a (b.newMove n) := h.setAxis _

theorem loadEvent (h : LetterKeeps n a b) (i : Nat) (p : Bytes) : LetterKeeps n a (b.loadEvent n i p) := by
  unfold Dev.loadEvent
  exact ite ((h.setBit _ _ _).event (Dev.sliceOf_lt _ _) _ _ _ _) (h.setBit _ _ _)

theorem wakeFor (h : LetterKeeps n a b) (l : Letter) : LetterKeeps n a (b.wakeFor n l) := by
  unfold Dev.wakeFor
  exact ite (((h.setAxis _).wr _ _).loadEvent _ _) h

theorem endPlay (h : LetterKeeps n a b) (cause nt : Nat) : LetterKeeps n a (b.endPlay n cause nt) := by
  unfold Dev.endPlay
  dsimp only
  split
  · exact ((h.setMot _).patEvent _ _ _ _ _).useUpdate _
  · split
    · exact (h.setMot _).useUpdate _
    · exact h.setMot _

theorem playMarks (r : PlayRt) (ps : List PatPoint) (upto : Nat) : ∀ (fuel j : Nat) (b : Dev), LetterKeeps n a b →
    LetterKeeps n a (b.playMarks n r ps upto fuel j).1 := by
  intro fuel
  induction fuel with
  | zero => exact fun j b h => h
  | succ fuel ih =>
    intro j b h
    unfold Dev.playMarks
    dsimp only
    by_cases hj : j < r.count * r.repeats ∧ playInstant r ps j ≤ upto
    · rw [if_pos hj]
      exact ih _ _ (ite (h.patEvent _ _ _ _ _) h)
    · rw [if_neg hj]
      exact h

theorem playReach (h : LetterKeeps n a b) (mem : List Host.Cell) (upto : Nat) : LetterKeeps n a (b.playReach mem n upto) := by
  unfold Dev.playReach
  split
  · exact (playMarks _ _ _ _ _ _ h).setMot _
  · exact h

theorem beginMotion (h : LetterKeeps n a b) (mem : List Host.Cell) (t : Nat) (mv : Move) : LetterKeeps n a (b.beginMotion mem n t mv) := by
  unfold Dev.beginMotion
  have hend := ite (p := (b.mot n).playing = true) ((h.playReach mem (65536 * t)).endPlay 1 t) h
  exact ((hend.setMot _).setBit _ _ _).newMove

theorem startPlay (h : LetterKeeps n a b) (mem : List Host.Cell) (r : PlayRt) (ts : Nat) : LetterKeeps n a (b.startPlay mem n r ts) := by
  unfold Dev.startPlay
  have hend := ite (p := (b.mot n).play.isSome = true) ((h.playReach mem (65536 * ts)).endPlay 1 ts) h
  exact ((((hend.setMot _).setBit _ _ _).newMove).useUpdate _).patEvent _ _ _ _ _

theorem goesOnly {c : Dev} (h : LetterKeeps n a b) (hg : GoesOnly b c) : LetterKeeps n a c :=
  h.trans ⟨hg.legs, fun m _ => hg.axis m, hg.inbox n, fun k _ => hg.rd k⟩

theorem wakeCheck (h : LetterKeeps n a b) : LetterKeeps n a (b.wakeCheck n) := by
  unfold Dev.wakeCheck
  exact ite h (((h.setAxis _).setBit _ _ _).setBit _ _ _)

end Dev.LetterKeeps

end Sys2Proof.Machine

namespace Sys2Proof.Machine

/-! ## The letter of an inbox acts (R131, R147) -/

/-- A letter out of the inbox of axis n. -/
def Dev.unboxed (d : Dev) (n k : Nat) : Dev := d.setAxis n { d.axis n with inbox := (d.axis n).inbox.filter fun x => x.k ≠ k }

/-- A letter as its action takes it: it waits under the conflict policy no longer. -/
def Letter.taken (l : Letter) : Letter := { l with queued := false }

section
variable (d : Dev) (n k : Nat)

@[simp] theorem Dev.mot_unboxed : (d.unboxed n k).mot n = d.mot n := Dev.mot_setAxis rfl

theorem Dev.unboxed_inbox : ((d.unboxed n k).axis n).inbox = (d.axis n).inbox.filter fun x => x.k ≠ k :=
  congrArg AxisRt.inbox (d.axis_setAxis_self n _)

theorem Dev.unboxed_axis {m : Nat} (h : m ≠ n) : (d.unboxed n k).axis m = d.axis m := d.axis_setAxis_ne _ h.symm

/-- What a letter meets does not rest on the inbox, nor on whether the letter waited there. -/
theorem Dev.meetsNow_unboxed (l : Letter) : (d.unboxed n k).meetsNow n l.taken = d.meetsNow n l := by
  have hsw : (d.unboxed n k).sw n = d.sw n := (congrArg AxisRt.sw (d.axis_setAxis_self n _)).trans rfl
  have hhome : (d.unboxed n k).home n = d.home n := (congrArg AxisRt.home (d.axis_setAxis_self n _)).trans rfl
  have hmeets : (d.unboxed n k).meets n l = d.meets n l := by
    simp only [Dev.meets, Dev.startRefusal, Dev.conflict, Dev.conflicts, Dev.limitRefuses, Dev.limitOn, Dev.switchActive, Dev.inQuickStop,
      Dev.targetOf, Dev.cmdPos, Dev.mot_unboxed, hsw, hhome]
    rfl
  have htaken : (d.unboxed n k).meets n l.taken = (d.unboxed n k).meets n l := rfl
  rw [Dev.meetsNow, htaken, hmeets]
  rfl

end

/-- The goes of a letter that has acted leave, and a wake that nothing waits for any more ends. -/
def Dev.letterEnd (d : Dev) (n : Nat) (l : Letter) : Dev := (d.sendGoes l).wakeCheck n

theorem Dev.wakeCheck_rd (d : Dev) (n : Nat) {k : Nat} (h : k ≠ K.REST_FLAGS n) : (d.wakeCheck n).rd k = d.rd k := by
  unfold Dev.wakeCheck
  dsimp only
  split_ifs
  · rfl
  · rw [Dev.rd_setBit_ne _ _ _ h.symm, Dev.rd_setBit_ne _ _ _ h.symm]
    rfl

section
variable (d : Dev) (n : Nat) (l : Letter)

@[simp] theorem Dev.mot_letterEnd : (d.letterEnd n l).mot n = d.mot n :=
  ((d.sendGoes l).mot_wakeCheck n).trans ((Dev.GoesOnly.sendGoes d l).mot n)

theorem Dev.letterEnd_keeps : LetterKeeps n d (d.letterEnd n l) := ((LetterKeeps.refl d).goesOnly (.sendGoes d l)).wakeCheck

theorem Dev.letterEnd_rd {k : Nat} (h : k ≠ K.REST_FLAGS n) : (d.letterEnd n l).rd k = d.rd k :=
  ((d.sendGoes l).wakeCheck_rd n h).trans ((Dev.GoesOnly.sendGoes d l).rd k)

end

/-- The first letter of an inbox that acts leaves the inbox; a start whose prime is lost is late where its lead is short (R172). -/
theorem Dev.inboxAct_acts {d : Dev} {mem : List Host.Cell} {n : Nat} {l : Letter} (hn : d.hasAxis n = true) (hh : d.inboxHead n = some l)
    (hd : l.allOrNone = false ∨ l.decided = true) (hm : d.meetsNow n l = .acts)
    (hlead : l.action = 4 → l.arr + d.letterPeriod l + 2000 ≤ l.due) :
    d.inboxAct mem n l.action = ((d.unboxed n l.k).perform mem n (max l.due d.nt) l.taken false).letterEnd n l.taken := by
  have hcond : d.hasAxis n = true ∧ l.action = l.action ∧ (¬ l.allOrNone = true ∨ l.decided = true) := ⟨hn, rfl, by simpa using hd⟩
  have htake : (d.unboxed n l.k).takeLetter mem n (max l.due d.nt) l.taken false =
      (d.unboxed n l.k).perform mem n (max l.due d.nt) l.taken false := by
    rw [Dev.takeLetter, d.meetsNow_unboxed n l.k l, hm]
  rw [← htake, Dev.inboxAct, hh]
  dsimp only
  rw [if_pos hcond]
  refine (if_neg fun hlost => ?_).trans rfl
  simp only [Bool.and_eq_true, decide_eq_true_eq] at hlost
  obtain ⟨⟨⟨⟨⟨h4, -⟩, -⟩, -⟩, -⟩, hlate⟩ := hlost
  exact absurd hlate (not_lt.2 (hlead h4))

/-- What a letter needs to act on axis n as the first of its inbox. -/
structure State.LetterActs (s : State) (n : Nat) (l : Letter) : Prop where
  on : s.pow.devState ≠ .off
  axis : s.dev.hasAxis n = true
  head : s.dev.inboxHead n = some l
  decided : l.allOrNone = false ∨ l.decided = true
  acts : s.dev.meetsNow n l = .acts

theorem State.LetterActs.served {s : State} {n : Nat} {l : Letter} (h : s.LetterActs n l)
    (hlead : l.action = 4 → l.arr + s.dev.letterPeriod l + 2000 ≤ l.due) :
    Sys2Proof.Machine.served s (.next (s.onDev fun d => d.inboxAct s.mem n l.action)) = .next (s.onDev fun d =>
      ((d.unboxed n l.k).perform s.mem n (max l.due d.nt) l.taken false).letterEnd n l.taken) := by
  rw [served_on h.on]
  simp only [State.onDev, Dev.inboxAct_acts h.axis h.head h.decided h.acts hlead]

/-! ## The actions of Table 5-3 -/

section
variable {l : Letter} (d : Dev) (mem : List Host.Cell) (n t : Nat) (now : Bool)

theorem Dev.perform_target (h : l.action = 1) : d.perform mem n t l now = (d.wakeFor n l).actTarget mem n t l := by
  simp only [Dev.perform, h]

theorem Dev.perform_velocity (h : l.action = 2) : d.perform mem n t l now = (d.wakeFor n l).actVelocity mem n t l := by
  simp only [Dev.perform, h]

theorem Dev.perform_limits (h : l.action = 3) : d.perform mem n t l now = (d.wakeFor n l).actLimits n l := by
  simp only [Dev.perform, h]

theorem Dev.perform_play (h : l.action = 4) : d.perform mem n t l now = (d.wakeFor n l).actPlay mem n t l now := by
  simp only [Dev.perform, h]

/-- Arming, disarming and stream points start no motion, so they wake nothing (R224). -/
theorem Dev.wakeFor_still (h : startsMotion l = false) : d.wakeFor n l = d := by
  simp [Dev.wakeFor, h]

theorem Dev.perform_arm (h : l.action = 6) : d.perform mem n t l now = d.actArm n l := by
  simp only [Dev.perform, h, d.wakeFor_still n (show startsMotion l = false by simp [startsMotion, h])]

theorem Dev.perform_disarm (h : l.action = 7) : d.perform mem n t l now = d.actDisarm mem n t l := by
  simp only [Dev.perform, h, d.wakeFor_still n (show startsMotion l = false by simp [startsMotion, h])]

theorem Dev.perform_point (h : l.action = 8) : d.perform mem n t l now = d.actPoint n l := by
  simp only [Dev.perform, h, d.wakeFor_still n (show startsMotion l = false by simp [startsMotion, h])]

/-- The move that begins (R101, R113). -/
theorem Dev.beginMotion_mot (mv : Move) : ((d.beginMotion mem n t mv).mot n).move = mv ∧ ((d.beginMotion mem n t mv).mot n).stops = [] := by
  have hmot (e : Dev) (m : MotionRt) : (((e.setMot n m).setBit (K.STATUS n) 3 false).newMove n).mot n = m :=
    (Dev.mot_newMove _ n).trans (e.mot_setMot n m)
  unfold Dev.beginMotion
  dsimp only
  rw [hmot]
  exact ⟨rfl, rfl⟩

/-- A new move has not overshot (Table 4-4). -/
theorem Dev.beginMotion_status (mv : Move) : (d.beginMotion mem n t mv).bit (K.STATUS n) 3 = false :=
  Dev.bit_setBit_self _ (K.STATUS n) false (by decide)

end

/-- A signed value stored stands in its slot. -/
theorem Dev.rd_wrI_self (d : Dev) (k : Nat) {w : Nat} (hw : w ≤ 64) (x : Int) : (d.wrI w k x).rd k = enc w x := by
  rw [Dev.wrI_eq, Dev.rd_wr_self]
  exact Nat.mod_eq_of_lt (lt_of_lt_of_le (BitVec.isLt _) (Nat.pow_le_pow_right (by decide) hw))

theorem Dev.targetOf_congr {a b : Dev} {n : Nat} (hm : b.mot n = a.mot n) (ht : b.rd (K.TARGET n) = a.rd (K.TARGET n)) (l : Letter) :
    b.targetOf n l = a.targetOf n l := by
  simp only [Dev.targetOf, Dev.cmdPos, Dev.rdI, hm, ht]

/-! ## New limits (R132) -/

/-- The slots of the limits with the places where a new-limits letter carries them (Table 5-3). -/
abbrev limitFields (n : Nat) : List (Nat × Nat) := [(K.V_LIM n, 12), (K.A_LIM n, 16), (K.D_LIM n, 20), (K.J_LIM n, 24), (K.D_STOP n, 28)]

/-- One limit of a new-limits letter; one carried as 0 is left unchanged. -/
def Dev.takeLimit (l : Letter) (d : Dev) (e : Nat × Nat) : Dev := if l.arg e.2 4 = 0 then d else d.wrCfg e.1 (l.arg e.2 4)

theorem Dev.actLimits_eq (d : Dev) (n : Nat) (l : Letter) : d.actLimits n l = (limitFields n).foldl (Dev.takeLimit l) d := rfl

theorem Letter.arg_lt (l : Letter) (at_ n : Nat) : l.arg at_ n < 2 ^ (8 * n) := by
  have hlen : (slice l.args (at_ - 12) n).length = n := by simp [slice, padTo]
  have := ofLe_lt (slice l.args (at_ - 12) n)
  rwa [hlen] at this

theorem Dev.takeLimit_rd (l : Letter) (d : Dev) (e : Nat × Nat) (k : Nat) :
    (d.takeLimit l e).rd k = if e.1 = k ∧ l.arg e.2 4 ≠ 0 then l.arg e.2 4 else d.rd k := by
  have hlt := l.arg_lt e.2 4
  have hwr : (d.wrCfg e.1 (l.arg e.2 4)).rd k = if e.1 = k then l.arg e.2 4 else d.rd k := by
    rw [← Nat.mod_eq_of_lt (a := l.arg e.2 4) (b := 2 ^ 64) (by omega), ← Dev.rd_wr]
    rw [Nat.mod_eq_of_lt (a := l.arg e.2 4) (b := 2 ^ 64) (by omega)]
    rfl
  unfold Dev.takeLimit
  by_cases h : l.arg e.2 4 = 0
  · simp [h]
  · simp [h, hwr]

/-- Limits of distinct slots taken in turn: each one carried other than 0 is in its slot. -/
theorem Dev.takeLimits_rd (l : Letter) (es : List (Nat × Nat)) : ∀ d : Dev, (es.map Prod.fst).Nodup →
    (∀ k, k ∉ es.map Prod.fst → (es.foldl (Dev.takeLimit l) d).rd k = d.rd k) ∧
    ∀ e ∈ es, (es.foldl (Dev.takeLimit l) d).rd e.1 = if l.arg e.2 4 = 0 then d.rd e.1 else l.arg e.2 4 := by
  induction es with
  | nil => intro d _; simp
  | cons e t ih =>
    intro d hnd
    obtain ⟨he, ht⟩ := List.nodup_cons.1 hnd
    obtain ⟨hout, hin⟩ := ih (d.takeLimit l e) ht
    refine ⟨fun k hk => ?_, fun f hf => ?_⟩
    · simp only [List.map_cons, List.mem_cons, not_or] at hk
      rw [List.foldl_cons, hout k hk.2, Dev.takeLimit_rd, if_neg (by simp [Ne.symm hk.1])]
    · rw [List.foldl_cons]
      rcases List.mem_cons.1 hf with rfl | hf
      · rw [hout _ he, Dev.takeLimit_rd]
        by_cases h : l.arg f.2 4 = 0 <;> simp [h]
      · have hne : e.1 ≠ f.1 := fun h => he (h ▸ List.mem_map_of_mem hf)
        have hkeep : (d.takeLimit l e).rd f.1 = d.rd f.1 := by rw [Dev.takeLimit_rd, if_neg (by simp [hne])]
        rw [hin f hf, hkeep]

theorem Dev.takeLimits_units (l : Letter) (es : List (Nat × Nat)) (d : Dev) :
    (es.foldl (Dev.takeLimit l) d).axes = d.axes ∧ (es.foldl (Dev.takeLimit l) d).legs = d.legs := by
  have hone (e : Dev) (f : Nat × Nat) : (e.takeLimit l f).axes = e.axes ∧ (e.takeLimit l f).legs = e.legs := by
    unfold Dev.takeLimit
    split_ifs <;> exact ⟨rfl, rfl⟩
  exact ⟨foldl_keeps Dev.axes _ (fun e f => (hone e f).1) es d, foldl_keeps Dev.legs _ (fun e f => (hone e f).2) es d⟩

end Sys2Proof.Machine

namespace Sys2Proof

open Sys2Proof.Machine

/-! ## New target, new velocity, new limits (R109, R112, R132) -/

/-- What a letter that writes slots leaves, from what the steps before and after the writing leave: no letter of its arrival number in the
inbox, the legs, and of the other axes all but goes due. -/
theorem letter_leaves {s : State} {n k : Nat} {a b u : Dev} (h : Dev.LetterKeeps n (s.dev.unboxed n k) a) (hl : b.legs = a.legs)
    (hx : b.axes = a.axes) (h' : Dev.LetterKeeps n b u) :
    (∀ x ∈ (u.axis n).inbox, x.k ≠ k) ∧ u.legs = s.dev.legs ∧
      ∀ m, m ≠ n → u.axis m = { s.dev.axis m with goDue := (u.axis m).goDue } := by
  refine ⟨fun x hmem => ?_, (h'.legs.trans hl).trans h.legs, fun m hm => ?_⟩
  · rw [h'.inbox, Dev.axis_congr hx, h.inbox, Dev.unboxed_inbox] at hmem
    simpa using (List.mem_filter.1 hmem).2
  · obtain ⟨g, hg⟩ := h.others m hm
    obtain ⟨g', hg'⟩ := h'.others m hm
    rw [hg', Dev.axis_congr hx, hg, Dev.unboxed_axis _ _ _ hm]

section
variable {s : State} {n : Nat} {l : Letter} (h : s.LetterActs n l)
include h

theorem exec_newTarget (ha : l.action = 1) : exec (.newTarget n) s = .next (s.onDev fun d =>
    (((d.unboxed n l.k).wakeFor n l.taken).actTarget s.mem n (max l.due d.nt) l.taken).letterEnd n l.taken) := by
  show served s (.next (s.onDev fun d => d.inboxAct s.mem n 1)) = _
  rw [← ha, h.served (by simp [ha])]
  simp only [Dev.perform_target (l := l.taken) _ _ _ _ _ ha]

theorem exec_newVelocity (ha : l.action = 2) : exec (.newVelocity n) s = .next (s.onDev fun d =>
    (((d.unboxed n l.k).wakeFor n l.taken).actVelocity s.mem n (max l.due d.nt) l.taken).letterEnd n l.taken) := by
  show served s (.next (s.onDev fun d => d.inboxAct s.mem n 2)) = _
  rw [← ha, h.served (by simp [ha])]
  simp only [Dev.perform_velocity (l := l.taken) _ _ _ _ _ ha]

theorem exec_newLimits (ha : l.action = 3) : exec (.newLimits n) s = .next (s.onDev fun d =>
    (((d.unboxed n l.k).wakeFor n l.taken).actLimits n l.taken).letterEnd n l.taken) := by
  show served s (.next (s.onDev fun d => d.inboxAct s.mem n 3)) = _
  rw [← ha, h.served (by simp [ha])]
  simp only [Dev.perform_limits (l := l.taken) _ _ _ _ _ ha]

theorem newTarget_acts (ha : l.action = 1) : Completes (.newTarget n) s fun u =>
    u.dev.rd (K.TARGET n) = enc 64 (s.dev.targetOf n l) ∧ (u.dev.mot n).move = .position (s.dev.targetOf n l) ∧
      (u.dev.mot n).stops = [] ∧ u.dev.bit (K.STATUS n) 3 = false ∧ (∀ x ∈ (u.dev.axis n).inbox, x.k ≠ l.k) ∧
      u.dev.legs = s.dev.legs ∧ ∀ m, m ≠ n → u.dev.axis m = { s.dev.axis m with goDue := (u.dev.axis m).goDue } := by
  have hwake := (Dev.LetterKeeps.refl (n := n) (s.dev.unboxed n l.k)).wakeFor l.taken
  have htarget : ((s.dev.unboxed n l.k).wakeFor n l.taken).targetOf n l.taken = s.dev.targetOf n l :=
    Dev.targetOf_congr (((s.dev.unboxed n l.k).mot_wakeFor n _).trans (s.dev.mot_unboxed n _)) (hwake.slots _ (by lia)) l
  have hx := exec_newTarget h ha
  simp only [State.onDev, Dev.actTarget, htarget] at hx
  generalize hb : ((s.dev.unboxed n l.k).wakeFor n l.taken).wrI 64 (K.TARGET n) (s.dev.targetOf n l) = b at hx
  have hkeep := ((Dev.LetterKeeps.refl (n := n) b).beginMotion s.mem (max l.due s.dev.nt) (.position (s.dev.targetOf n l))).trans
    (Dev.letterEnd_keeps _ n l.taken)
  obtain ⟨hmove, hstops⟩ := b.beginMotion_mot s.mem n (max l.due s.dev.nt) (.position (s.dev.targetOf n l))
  have hset : b.rd (K.TARGET n) = enc 64 (s.dev.targetOf n l) := by
    rw [← hb, Dev.rd_wrI_self _ _ (by decide)]
  refine completes_of_eq hx ⟨(hkeep.slots _ (by lia)).trans hset, ?_, ?_, ?_, letter_leaves hwake (hb ▸ rfl) (hb ▸ rfl) hkeep⟩
  · rw [Dev.mot_letterEnd, hmove]
  · rw [Dev.mot_letterEnd, hstops]
  · rw [Dev.bit_congr (Dev.letterEnd_rd _ n _ (by lia))]
    exact b.beginMotion_status s.mem n _ _

theorem newVelocity_acts (ha : l.action = 2) : Completes (.newVelocity n) s fun u =>
    (u.dev.mot n).move = .velocity (sext 32 (l.arg 12 4)) ∧ (u.dev.mot n).stops = [] ∧
      u.dev.rd (K.TARGET_VEL n) =
        enc 32 (clampI (-(s.dev.rd (K.V_LIM n) : Int)) (s.dev.rd (K.V_LIM n)) (sext 32 (l.arg 12 4))) ∧
      u.dev.legs = s.dev.legs ∧ ∀ m, m ≠ n → u.dev.axis m = { s.dev.axis m with goDue := (u.dev.axis m).goDue } := by
  have hwake := (Dev.LetterKeeps.refl (n := n) (s.dev.unboxed n l.k)).wakeFor l.taken
  have hlim : ((s.dev.unboxed n l.k).wakeFor n l.taken).rd (K.V_LIM n) = s.dev.rd (K.V_LIM n) := hwake.slots _ (by lia)
  have harg : l.taken.arg 12 4 = l.arg 12 4 := rfl
  have hx := exec_newVelocity h ha
  simp only [State.onDev, Dev.actVelocity, hlim, harg] at hx
  generalize clampI (-(s.dev.rd (K.V_LIM n) : Int)) (s.dev.rd (K.V_LIM n)) (sext 32 (l.arg 12 4)) = v at hx ⊢
  generalize hb : ((s.dev.unboxed n l.k).wakeFor n l.taken).wrI 32 (K.TARGET_VEL n) v = b at hx
  have hkeep := ((Dev.LetterKeeps.refl (n := n) b).beginMotion s.mem (max l.due s.dev.nt) (.velocity (sext 32 (l.arg 12 4)))).trans
    (Dev.letterEnd_keeps _ n l.taken)
  obtain ⟨hmove, hstops⟩ := b.beginMotion_mot s.mem n (max l.due s.dev.nt) (.velocity (sext 32 (l.arg 12 4)))
  have hset : b.rd (K.TARGET_VEL n) = enc 32 v := by
    rw [← hb, Dev.rd_wrI_self _ _ (by decide)]
  refine completes_of_eq hx ⟨?_, ?_, (hkeep.slots _ (by lia)).trans hset, (letter_leaves hwake (hb ▸ rfl) (hb ▸ rfl) hkeep).2⟩
  · rw [Dev.mot_letterEnd, hmove]
  · rw [Dev.mot_letterEnd, hstops]

theorem newLimits_act (ha : l.action = 3) : Completes (.newLimits n) s fun u =>
    (∀ e ∈ limitFields n, u.dev.rd e.1 = if l.arg e.2 4 = 0 then s.dev.rd e.1 else l.arg e.2 4) ∧
      (u.dev.mot n).move = (s.dev.mot n).move ∧
      u.dev.legs = s.dev.legs ∧ ∀ m, m ≠ n → u.dev.axis m = { s.dev.axis m with goDue := (u.dev.axis m).goDue } := by
  have hwake := (Dev.LetterKeeps.refl (n := n) (s.dev.unboxed n l.k)).wakeFor l.taken
  obtain ⟨haxes, hlegs⟩ := Dev.takeLimits_units l.taken (limitFields n) ((s.dev.unboxed n l.k).wakeFor n l.taken)
  have hset := (Dev.takeLimits_rd l.taken (limitFields n) ((s.dev.unboxed n l.k).wakeFor n l.taken) (by simp)).2
  have hx := exec_newLimits h ha
  rw [State.onDev, Dev.actLimits_eq] at hx
  generalize (limitFields n).foldl (Dev.takeLimit l.taken) ((s.dev.unboxed n l.k).wakeFor n l.taken) = b at *
  refine completes_of_eq hx ⟨fun e he => ?_, ?_, (letter_leaves hwake hlegs haxes (Dev.letterEnd_keeps _ n l.taken)).2⟩
  · have hslot : MotionSlot n e.1 := by
      simp only [List.mem_cons, List.not_mem_nil, or_false] at he
      rcases he with rfl | rfl | rfl | rfl | rfl <;> lia
    have hold : ((s.dev.unboxed n l.k).wakeFor n l.taken).rd e.1 = s.dev.rd e.1 := hwake.slots _ hslot
    exact (Dev.letterEnd_keeps b n l.taken).slots _ hslot |>.trans ((hset e he).trans (by rw [hold]; rfl))
  · have hmot : b.mot n = ((s.dev.unboxed n l.k).wakeFor n l.taken).mot n := congrArg AxisRt.mot (Dev.axis_congr haxes n)
    simp [hmot]

end

/-- Settles O28: the letter leaves the inbox and acts from the slots and the motion that it found; the end of a play, the wake and the goes
touch neither targets nor limits. -/
theorem motionLettersAct : Obligations.MotionLettersAct := by
  intro s n l hon hn hh hd hm
  have h : s.LetterActs n l := ⟨hon, hn, hh, hd, hm⟩
  exact ⟨newTarget_acts h, newVelocity_acts h, newLimits_act h⟩

end Sys2Proof

namespace Sys2Proof.Machine

/-! ## A play starts (R160, R161) -/

/-- The play that startPlay begins: at t_s, from the commanded position; what ran before is over. -/
theorem Dev.startPlay_mot (d : Dev) (mem : List Host.Cell) (n : Nat) (r : PlayRt) (ts : Nat) :
    (∃ p, ((d.startPlay mem n r ts).mot n).play = some { r with start := ts * 65536, pos0 := p }) ∧
    ((d.startPlay mem n r ts).mot n).move = .play ∧ ((d.startPlay mem n r ts).mot n).stops = [] := by
  have hmot (e : Dev) (m : MotionRt) (nt : Nat) (b : Bytes) :
      (((((e.setMot n m).setBit (K.STATUS n) 3 false).newMove n).useUpdate r.pat).patEvent n r.pat 0x0120 nt b).mot n = m := by
    rw [Dev.mot_patEvent]
    exact (Dev.mot_newMove _ n).trans (e.mot_setMot n m)
  unfold Dev.startPlay
  dsimp only
  rw [hmot]
  exact ⟨⟨_, rfl⟩, rfl, rfl⟩

/-- A wake writes REST_FLAGS and LOAD_EVENTS, and posts. -/
theorem Dev.wakeFor_rd (d : Dev) (n : Nat) (l : Letter) {k : Nat} (hk : k < 0x1430 * 256 ∨ 0x1441 * 256 ≤ k) (hr : k ≠ K.REST_FLAGS n)
    (hl : k ≠ K.LOAD_EVENTS n) : (d.wakeFor n l).rd k = d.rd k := by
  have hload (e : Dev) (b : Bytes) : (e.loadEvent n 5 b).rd k = e.rd k := by
    unfold Dev.loadEvent
    dsimp only
    split_ifs
    · rw [Dev.axisEvent_rd _ _ _ _ _ _ hk, Dev.rd_setBit_ne _ _ _ hl.symm]
    · rw [Dev.rd_setBit_ne _ _ _ hl.symm]
  unfold Dev.wakeFor
  split
  · exact (hload _ _).trans (Dev.rd_wr_ne _ _ hr.symm)
  · rfl

/-! ## The prime of an axis (R169) -/

/-- The go set of a leg, and what has come of the next one, are discarded. -/
def Dev.emptyGo (d : Dev) (l : Nat) : Dev := d.setLeg l { d.leg l with goSet := [], goNew := [] }

/-- The prime goes; the rest of the motion stays. -/
theorem Dev.dropPrime_mot (d : Dev) (n : Nat) : (d.dropPrime n).mot n = { d.mot n with prime := none } := by
  have hlegs (ls : List Nat) (e : Dev) : (ls.foldl Dev.emptyGo e).mot n = e.mot n :=
    foldl_keeps (fun d : Dev => d.mot n) Dev.emptyGo (fun _ _ => rfl) ls e
  unfold Dev.dropPrime
  dsimp only
  split
  · exact (hlegs _ _).trans (d.mot_setMot n _)
  next hnone => rw [← hnone]

/-! ## Arm and disarm (R118, R169) -/

section
variable (d : Dev) (n : Nat) (l : Letter)

/-- An arm of the follow source. -/
theorem Dev.actArm_follow (h : l.arg 12 1 = 0) : (d.actArm n l).mot n =
    { d.mot n with follow := { (d.mot n).follow with armed := d.mayArm n, barred := false } } := by
  rw [Dev.actArm, if_pos h]
  exact d.mot_setMot n _

/-- An arm of a prime replaces an earlier one. -/
theorem Dev.actArm_prime (h : l.arg 12 1 ≠ 0) : (d.actArm n l).mot n = { d.mot n with prime := some l.prime } := by
  rw [Dev.actArm, if_neg h]
  refine (Dev.mot_setMot (d.dropPrime n) n _).trans ?_
  rw [Dev.dropPrime_mot]

/-- PRIME shows the pattern of a prime, not yet active. -/
theorem Dev.actArm_shows (h : l.arg 12 1 ≠ 0) (hn : n < 16) : (d.actArm n l).rd (K.PRIME n) = l.prime.pat + 0x100 := by
  have hpat : l.prime.pat < 256 := l.arg_lt _ 1
  rw [Dev.actArm, if_neg h]
  refine (Dev.rd_wr_ne _ _ (by lia)).trans ((Dev.rd_wr_self _ _ _).trans (Nat.mod_eq_of_lt (by omega)))

/-- A stop disengages the follow source. -/
theorem Dev.addStop_engaged (kind : StopKind) (cause : Nat) (barred : Bool) :
    ((d.addStop n kind cause barred).mot n).follow.engaged = false := by
  have hdis (e : Dev) : ((if (e.mot n).follow.engaged = true then e.disengage n barred else e).mot n).follow.engaged = false := by
    split_ifs with he
    · exact congrArg (fun m : MotionRt => m.follow.engaged) (e.mot_setMot n _)
    · simpa using he
  unfold Dev.addStop
  exact (congrArg (fun m : MotionRt => m.follow.engaged) (Dev.mot_setMot _ n _)).trans (hdis _)

/-- An engaged source lets go of its axis, which brakes from the commanded state at t (R101). -/
def Dev.letGo (d : Dev) (mem : List Host.Cell) (n t : Nat) : Dev :=
  if (d.mot n).follow.engaged then
    (d.addStop n .follow 2 true).setMot n { (d.addStop n .follow 2 true).mot n with
      act := some (t, (d.stateNow mem n t).1, (d.stateNow mem n t).2.1, (d.stateNow mem n t).2.2) }
  else d

/-- The follow source is disarmed and barred. -/
def Dev.barFollow (d : Dev) (n : Nat) : Dev :=
  d.setMot n { d.mot n with follow := { (d.mot n).follow with armed := false, barred := true } }

theorem Dev.letGo_engaged (mem : List Host.Cell) (t : Nat) : ((d.letGo mem n t).mot n).follow.engaged = false := by
  unfold Dev.letGo
  split_ifs with h
  · rw [Dev.mot_setMot]
    exact d.addStop_engaged n .follow 2 true
  · simpa using h

theorem Dev.actDisarm_eq (mem : List Host.Cell) (t : Nat) (h : l.arg 12 1 = 0 ∨ l.arg 12 1 = 2) : d.actDisarm mem n t l =
    if l.arg 12 1 = 1 ∨ l.arg 12 1 = 2 then ((d.letGo mem n t).barFollow n).dropPrime n else (d.letGo mem n t).barFollow n := by
  unfold Dev.actDisarm
  dsimp only
  rw [if_pos h]
  rfl

/-- A disarm of the follow source: it is disarmed, barred and disengaged. -/
theorem Dev.actDisarm_follow (mem : List Host.Cell) (t : Nat) (h : l.arg 12 1 = 0 ∨ l.arg 12 1 = 2) :
    ((d.actDisarm mem n t l).mot n).follow.armed = false ∧ ((d.actDisarm mem n t l).mot n).follow.barred = true ∧
      ((d.actDisarm mem n t l).mot n).follow.engaged = false := by
  have hbar : (((d.letGo mem n t).barFollow n).mot n).follow =
      { ((d.letGo mem n t).mot n).follow with armed := false, barred := true } :=
    congrArg MotionRt.follow (Dev.mot_setMot _ n _)
  have hmot : ((d.actDisarm mem n t l).mot n).follow = (((d.letGo mem n t).barFollow n).mot n).follow := by
    rw [Dev.actDisarm_eq d n l mem t h]
    split_ifs
    · rw [Dev.dropPrime_mot]
    · rfl
  rw [hmot, hbar]
  exact ⟨rfl, rfl, d.letGo_engaged n mem t⟩

/-- A disarm of the prime. -/
theorem Dev.actDisarm_prime (mem : List Host.Cell) (t : Nat) (h : l.arg 12 1 = 1 ∨ l.arg 12 1 = 2) :
    ((d.actDisarm mem n t l).mot n).prime = none := by
  unfold Dev.actDisarm
  dsimp only
  rw [if_pos h, Dev.dropPrime_mot]

/-! ## A stream point (R124) -/

/-- A point joins the points held. -/
def Dev.joinPoint (d : Dev) (n : Nat) (p : Nat × Int) : Dev :=
  (d.setMot n { d.mot n with follow := { (d.mot n).follow with points := (d.mot n).follow.points ++ [p], lastPt := some p } }).wr
    (K.STREAM_FILL n) ((d.mot n).follow.points.length + 1)

/-- A point of a stream source with room for it, 10 us to 1 s after the last one. -/
theorem Dev.actPoint_eq (hs : d.rd (K.SRC n) = 2) (hf : (d.mot n).follow.points.length < 16)
    (hlast : ∀ p, (d.mot n).follow.lastPt = some p → p.1 + 10000 ≤ l.arg 12 8 ∧ l.arg 12 8 ≤ p.1 + 1000000000) :
    d.actPoint n l = d.joinPoint n (l.arg 12 8, sext 64 (l.arg 20 8)) := by
  have hroom : ¬ 16 ≤ (d.mot n).follow.points.length := by omega
  unfold Dev.actPoint Dev.joinPoint
  cases hp : (d.mot n).follow.lastPt with
  | none => simp [hp, hs, hroom]
  | some p =>
    obtain ⟨hmin, hmax⟩ := hlast p hp
    have hlate : ¬ l.arg 12 8 ≤ p.1 := by omega
    have hspaced : ¬ (l.arg 12 8 - p.1 < 10000 ∨ 1000000000 < l.arg 12 8 - p.1) := by omega
    simp [hp, hs, hroom, hlate, hspaced]

end

end Sys2Proof.Machine

namespace Sys2Proof

open Sys2Proof.Machine

/-! ## Start, arm, disarm, stream point (R118, R124, R160, R161, R169) -/

section
variable {s : State} {n : Nat} {l : Letter} (h : s.LetterActs n l)
include h

theorem exec_startPattern (ha : l.action = 4) (hlead : l.arr + s.dev.letterPeriod l + 2000 ≤ l.due) :
    exec (.startPattern n) s = .next (s.onDev fun d =>
      (((d.unboxed n l.k).wakeFor n l.taken).actPlay s.mem n (max l.due d.nt) l.taken false).letterEnd n l.taken) := by
  show served s (.next (s.onDev fun d => d.inboxAct s.mem n 4)) = _
  rw [← ha, h.served fun _ => hlead]
  simp only [Dev.perform_play (l := l.taken) _ _ _ _ _ ha]

theorem exec_arm (ha : l.action = 6) : exec (.arm n) s = .next (s.onDev fun d =>
    ((d.unboxed n l.k).actArm n l.taken).letterEnd n l.taken) := by
  show served s (.next (s.onDev fun d => d.inboxAct s.mem n 6)) = _
  rw [← ha, h.served (by simp [ha])]
  simp only [Dev.perform_arm (l := l.taken) _ _ _ _ _ ha]

theorem exec_disarm (ha : l.action = 7) : exec (.disarm n) s = .next (s.onDev fun d =>
    ((d.unboxed n l.k).actDisarm s.mem n (max l.due d.nt) l.taken).letterEnd n l.taken) := by
  show served s (.next (s.onDev fun d => d.inboxAct s.mem n 7)) = _
  rw [← ha, h.served (by simp [ha])]
  simp only [Dev.perform_disarm (l := l.taken) _ _ _ _ _ ha]

theorem exec_followStreamPoint (ha : l.action = 8) : exec (.followStreamPoint n) s = .next (s.onDev fun d =>
    ((d.unboxed n l.k).actPoint n l.taken).letterEnd n l.taken) := by
  show served s (.next (s.onDev fun d => d.inboxAct s.mem n 8)) = _
  rw [← ha, h.served (by simp [ha])]
  simp only [Dev.perform_point (l := l.taken) _ _ _ _ _ ha]

/-- A start whose prime is not active begins its play at its due time. -/
theorem startPattern_plays (ha : l.action = 4) (hp : s.dev.primeActive n l = false) (hlead : l.arr + s.dev.letterPeriod l + 2000 ≤ l.due) :
    Completes (.startPattern n) s fun u => ∃ r, (u.dev.mot n).play = some r ∧ r.pat = l.prime.pat ∧ r.scale = l.prime.scale ∧
      r.swing = l.prime.swing ∧ r.start = max l.due s.dev.nt * 65536 ∧ r.repeats = l.arg 20 2 ∧ r.primed = false ∧ r.next = 0 ∧
      (u.dev.mot n).move = .play ∧ (u.dev.mot n).stops = [] ∧ u.dev.legs = s.dev.legs := by
  have hwake := (Dev.LetterKeeps.refl (n := n) (s.dev.unboxed n l.k)).wakeFor l.taken
  have hinactive : ((s.dev.unboxed n l.k).wakeFor n l.taken).primeActive n l.taken = false := by
    have hn := Dev.axis_lt_of_has h.axis
    have hprime : ((s.dev.unboxed n l.k).wakeFor n l.taken).rd (K.PRIME n) = s.dev.rd (K.PRIME n) :=
      Dev.wakeFor_rd _ n _ (by lia) (by lia) (by lia)
    rw [← hp]
    simp only [Dev.primeActive, Dev.primeMatches, Dev.bit, Dev.mot_wakeFor, Dev.mot_unboxed, hprime]
    rfl
  have hx := exec_startPattern h ha hlead
  rw [State.onDev, Dev.actPlay, if_pos (by simp [hinactive])] at hx
  generalize ((s.dev.unboxed n l.k).wakeFor n l.taken) = d at hx hwake
  obtain ⟨⟨p, hplay⟩, hmove, hstops⟩ := d.startPlay_mot s.mem n (d.playOf l.taken false) (max l.due s.dev.nt)
  have hkeep := (hwake.startPlay s.mem (d.playOf l.taken false) (max l.due s.dev.nt)).trans (Dev.letterEnd_keeps _ n l.taken)
  refine completes_of_eq hx ⟨_, (by rw [Dev.mot_letterEnd, hplay]), rfl, rfl, rfl, rfl, rfl, rfl, rfl, ?_, ?_, hkeep.legs⟩
  · rw [Dev.mot_letterEnd, hmove]
  · rw [Dev.mot_letterEnd, hstops]

theorem arm_follow (ha : l.action = 6) (h0 : l.arg 12 1 = 0) : Completes (.arm n) s fun u =>
    (u.dev.mot n).follow.barred = false ∧ (u.dev.mot n).follow.armed = s.dev.mayArm n ∧ (u.dev.mot n).prime = (s.dev.mot n).prime := by
  have hmay : (s.dev.unboxed n l.k).mayArm n = s.dev.mayArm n := by
    simp only [Dev.mayArm, Dev.mot_unboxed]
    rfl
  have hmot := (s.dev.unboxed n l.k).actArm_follow n l.taken h0
  refine completes_of_eq (exec_arm h ha) ?_
  simp only [State.onDev_dev, Dev.mot_letterEnd, hmot, hmay, Dev.mot_unboxed, and_self]

theorem arm_prime (ha : l.action = 6) (h1 : l.arg 12 1 = 1) : Completes (.arm n) s fun u =>
    (u.dev.mot n).prime = some l.prime ∧ u.dev.rd (K.PRIME n) = l.prime.pat + 0x100 ∧ (u.dev.mot n).move = (s.dev.mot n).move := by
  have hne : l.taken.arg 12 1 ≠ 0 := by
    rw [show l.taken.arg 12 1 = 1 from h1]
    decide
  have hmot := (s.dev.unboxed n l.k).actArm_prime n l.taken hne
  have hshow := (s.dev.unboxed n l.k).actArm_shows n l.taken hne (Dev.axis_lt_of_has h.axis)
  refine completes_of_eq (exec_arm h ha) ⟨?_, (Dev.letterEnd_rd _ n _ (by have := Dev.axis_lt_of_has h.axis; lia)).trans hshow, ?_⟩
  · simp only [State.onDev_dev, Dev.mot_letterEnd, hmot]
    rfl
  · simp only [State.onDev_dev, Dev.mot_letterEnd, hmot, Dev.mot_unboxed]

theorem disarm_withdraws (ha : l.action = 7) : Completes (.disarm n) s fun u =>
    (l.arg 12 1 ≠ 1 → l.arg 12 1 ≤ 2 → (u.dev.mot n).follow.armed = false ∧ (u.dev.mot n).follow.barred = true ∧
      ((s.dev.mot n).follow.engaged = true → (u.dev.mot n).follow.engaged = false)) ∧
    (l.arg 12 1 = 1 ∨ l.arg 12 1 = 2 → (u.dev.mot n).prime = none) := by
  refine completes_of_eq (exec_disarm h ha) ⟨fun h1 h2 => ?_, fun hk => ?_⟩ <;> simp only [State.onDev_dev, Dev.mot_letterEnd]
  · obtain ⟨harmed, hbarred, hengaged⟩ := (s.dev.unboxed n l.k).actDisarm_follow n l.taken s.mem (max l.due s.dev.nt)
      (show l.arg 12 1 = 0 ∨ l.arg 12 1 = 2 by omega)
    exact ⟨harmed, hbarred, fun _ => hengaged⟩
  · exact (s.dev.unboxed n l.k).actDisarm_prime n l.taken s.mem _ hk

theorem followStreamPoint_joins (ha : l.action = 8) (hs : s.dev.rd (K.SRC n) = 2) (hf : (s.dev.mot n).follow.points.length < 16)
    (hlast : ∀ p, (s.dev.mot n).follow.lastPt = some p → p.1 + 10000 ≤ l.arg 12 8 ∧ l.arg 12 8 ≤ p.1 + 1000000000) :
    Completes (.followStreamPoint n) s fun u =>
      (u.dev.mot n).follow.points = (s.dev.mot n).follow.points ++ [(l.arg 12 8, sext 64 (l.arg 20 8))] ∧
      u.dev.rd (K.STREAM_FILL n) = (s.dev.mot n).follow.points.length + 1 := by
  have hmot := s.dev.mot_unboxed n l.k
  have hpoint := (s.dev.unboxed n l.k).actPoint_eq n l.taken hs (by rwa [hmot]) (by rwa [hmot])
  have hx := exec_followStreamPoint h ha
  rw [State.onDev, hpoint] at hx
  refine completes_of_eq hx ⟨?_, (Dev.letterEnd_rd _ n _ (by lia)).trans ?_⟩
  · rw [Dev.mot_letterEnd, ← hmot]
    exact congrArg (fun m : MotionRt => m.follow.points) (Dev.mot_setMot _ n _)
  · rw [← hmot]
    exact (Dev.rd_wr_self _ _ _).trans (Nat.mod_eq_of_lt (by rw [hmot]; omega))

end

/-- Settles O29: what each action does to the motion of its axis is one equation, which goes and the end of a wake leave alone. -/
theorem patternArmAndStreamLettersAct : Obligations.PatternArmAndStreamLettersAct := by
  intro s n l hon hn hh hd hm
  have h : s.LetterActs n l := ⟨hon, hn, hh, hd, hm⟩
  exact ⟨startPattern_plays h, arm_follow h, arm_prime h, disarm_withdraws h, followStreamPoint_joins h⟩

end Sys2Proof

namespace Sys2Proof.Machine

/-! ## Signed 64-bit slots -/

theorem enc_sext_add (x y : Int) (w : Nat) : enc w (sext w (enc w x) + y) = enc w (x + y) := by
  simp [enc, sext, BitVec.ofInt_add]

/-- A value read from a slot is the one that its encoding gives back. -/
theorem sext_enc_sext (w v : Nat) : sext w (enc w (sext w v)) = sext w v := by
  rw [sext, enc, sext, BitVec.ofInt_toInt, BitVec.ofNat_toNat, BitVec.setWidth_eq]

theorem Dev.encCnt_of_rd {d : Dev} {n : Nat} {x : Int} (h : d.rd (K.ENC_CNT n) = enc 64 x) : d.encCnt n = sext 64 (enc 64 x) := by
  rw [Dev.encCnt, Dev.rdI, h]

theorem Dev.enc_encCnt_add {d : Dev} {n : Nat} {x : Int} (h : d.rd (K.ENC_CNT n) = enc 64 x) (y : Int) :
    enc 64 (d.encCnt n + y) = enc 64 (x + y) := by
  rw [Dev.encCnt_of_rd h, enc_sext_add]

/-! ## The encoder of an axis read back -/

@[simp] theorem Dev.encRt_setEnc (d : Dev) (n : Nat) (e : EncRt) : (d.setEnc n e).encRt n = e :=
  congrArg AxisRt.enc (d.axis_setAxis_self n _)

@[simp] theorem Dev.dec_setEnc (d : Dev) (n : Nat) (e : EncRt) : (d.setEnc n e).dec n = e.dec := congrArg EncRt.dec (d.encRt_setEnc n e)

@[simp] theorem Dev.dec_setDec (d : Dev) (n : Nat) (x : DecRt) : (d.setDec n x).dec n = x := d.dec_setEnc n _

/-- The switch inputs of an axis are none of its encoder. -/
theorem Dev.encRt_setSw (d : Dev) (n : Nat) (x : SwitchRt) : (d.setSw n x).encRt n = d.encRt n :=
  (congrArg AxisRt.enc (d.axis_setAxis_self n _)).trans rfl

/-! ## Latches (R290) -/

/-- The slots of an axis that stand before those of its latches. -/
abbrev BeforeLatches (n k : Nat) : Prop := k < (0x4805 + 0x40 * n) * 256

/-- What completing latches leaves: the slots before those of the latches, the encoder, the other axes, the raises, part and NT. -/
structure Dev.LatchesOnly (n : Nat) (a b : Dev) : Prop where
  slots : ∀ k, BeforeLatches n k → b.rd k = a.rd k
  enc : b.encRt n = a.encRt n
  others : ∀ m, m ≠ n → b.axis m = a.axis m
  flt : b.flt = a.flt
  part : b.part = a.part
  nt : b.nt = a.nt

namespace Dev.LatchesOnly

variable {n : Nat} {a b : Dev}

theorem refl (a : Dev) : LatchesOnly n a a := ⟨fun _ _ => rfl, rfl, fun _ _ => rfl, rfl, rfl, rfl⟩

theorem trans {c : Dev} (h : LatchesOnly n a b) (h' : LatchesOnly n b c) : LatchesOnly n a c :=
  ⟨fun k hk => (h'.slots k hk).trans (h.slots k hk), h'.enc.trans h.enc, fun m hm => (h'.others m hm).trans (h.others m hm),
    h'.flt.trans h.flt, h'.part.trans h.part, h'.nt.trans h.nt⟩

theorem ite {p : Prop} [Decidable p] {x y : Dev} (hx : LatchesOnly n a x) (hy : LatchesOnly n a y) :
    LatchesOnly n a (if p then x else y) := by
  split_ifs
  · exact hx
  · exact hy

theorem wr (h : LatchesOnly n a b) (k v : Nat) (hk : ¬ BeforeLatches n k := by lia) : LatchesOnly n a (b.wr k v) :=
  ⟨fun x hx => (Dev.rd_wr_ne _ _ (by rintro rfl; exact hk hx)).trans (h.slots x hx), h.enc, h.others, h.flt, h.part, h.nt⟩

theorem setBit (h : LatchesOnly n a b) (k i : Nat) (v : Bool) (hk : ¬ BeforeLatches n k := by lia) :
    LatchesOnly n a (b.setBit k i v) := h.wr k _ hk

theorem setSw (h : LatchesOnly n a b) (x : SwitchRt) : LatchesOnly n a (b.setSw n x) :=
  ⟨h.slots, (b.encRt_setSw n x).trans h.enc, fun m hm => (b.axis_setAxis_ne _ (Ne.symm hm)).trans (h.others m hm), h.flt, h.part, h.nt⟩

theorem latchEnc (h : LatchesOnly n a b) (i : Nat) (e : Int) (held : Bool) : LatchesOnly n a (b.latchEnc n i e held) :=
  (((h.wr _ _).setBit _ _ _).setBit _ _ _).setSw _

theorem latchBetween (h : LatchesOnly n a b) (i ts : Nat) (ea eb : EdgeRec) : LatchesOnly n a (b.latchBetween n i ts ea eb) := by
  unfold Dev.latchBetween
  exact ite (h.latchEnc _ _ _) (h.latchEnc _ _ _)

theorem completeLatches (a : Dev) : LatchesOnly n a (a.completeLatches n) := by
  unfold Dev.completeLatches
  split
  · refine foldl_frame (LatchesOnly n) refl (fun _ _ _ => trans) _ (fun d x => ?_) _ a
    exact ite ((refl d).latchEnc _ _ _) (ite ((refl d).latchBetween _ _ _ _) ((refl d).setSw _))
  · exact refl a

end Dev.LatchesOnly

/-! ## A counted edge (R263, R266) -/

/-- A counted edge before what a later preset overwrites. -/
def Dev.edgeCounted (d : Dev) (n : Nat) (step : Int) (t : Nat) : Dev :=
  ((d.wrI 64 (K.ENC_CNT n) (d.encCnt n + step)).setEnc n { d.encRt n with
    dec := (d.dec n).edge { t := t, cnt := d.encCnt n + step, step := step }
    toSince := d.ntToQ (4 * t) / 4 }).setBit (K.ENC_FLAGS n) 4 false

/-- An edge from before the last preset moves back, and is none of those since. -/
def Dev.edgeUndone (d : Dev) (n : Nat) (step : Int) (preAt : Nat) (seen : Bool) : Dev :=
  (d.encShift n (-step)).setDec n { (d.encShift n (-step)).dec n with
    edges := ((d.encShift n (-step)).dec n).edges.filter fun e => preAt ≤ e.t, seen := seen }

section
variable (d : Dev) (n : Nat) (step : Int) (t : Nat)

theorem Dev.encEdge_eq : d.encEdge n step t =
    if t < (d.dec n).preAt then (d.edgeCounted n step t).edgeUndone n step (d.dec n).preAt (d.dec n).seen else d.edgeCounted n step t := by
  unfold Dev.encEdge
  dsimp only
  split_ifs <;> rfl

theorem Dev.edgeCounted_rd {k : Nat} (hc : k ≠ K.ENC_CNT n) (hf : k ≠ K.ENC_FLAGS n) : (d.edgeCounted n step t).rd k = d.rd k :=
  (Dev.rd_setBit_ne _ _ _ hf.symm).trans (Dev.rd_wr_ne _ _ hc.symm)

theorem Dev.edgeCounted_cnt : (d.edgeCounted n step t).rd (K.ENC_CNT n) = enc 64 (d.encCnt n + step) :=
  (Dev.rd_setBit_ne _ _ _ (by lia)).trans (Dev.rd_wrI_self _ _ (by decide) _)

theorem Dev.edgeCounted_flags (i : Nat) :
    (d.edgeCounted n step t).bit (K.ENC_FLAGS n) i = if 4 = i then false else d.bit (K.ENC_FLAGS n) i :=
  (Dev.bit_setBit _ _ _ i (by decide)).trans (congrArg _ (Dev.bit_congr (Dev.rd_wr_ne _ _ (by lia)) i))

theorem Dev.edgeCounted_dec : (d.edgeCounted n step t).dec n = (d.dec n).edge { t := t, cnt := d.encCnt n + step, step := step } :=
  Dev.dec_setEnc _ n _

theorem Dev.edgeCounted_others {m : Nat} (h : m ≠ n) : (d.edgeCounted n step t).axis m = d.axis m := Dev.axis_setAxis_ne _ _ h.symm

end

end Sys2Proof.Machine

namespace Sys2Proof.Machine

section
variable (d : Dev) (n : Nat)

/-! ## The count moved (R266) -/

theorem Dev.encShift_rd (by_ : Int) {k : Nat} (h : k ≠ K.ENC_CNT n) : (d.encShift n by_).rd k = d.rd k := Dev.rd_wr_ne _ _ h.symm

theorem Dev.encShift_cnt (by_ : Int) : (d.encShift n by_).rd (K.ENC_CNT n) = enc 64 (d.encCnt n + by_) :=
  Dev.rd_wrI_self _ _ (by decide) _

theorem Dev.encShift_lines (by_ : Int) :
    ((d.encShift n by_).dec n).a = (d.dec n).a ∧ ((d.encShift n by_).dec n).b = (d.dec n).b := by
  have h : (d.encShift n by_).dec n = { d.dec n with
      hist := (d.dec n).hist.map fun e => { e with cnt := e.cnt + by_ }
      edges := (d.dec n).edges.map fun e => { e with cnt := e.cnt + by_ } } :=
    (congrArg EncRt.dec (Dev.encRt_setSw _ n _)).trans (Dev.dec_setDec d n _)
  rw [h]
  exact ⟨rfl, rfl⟩

theorem Dev.setDec_others (x : DecRt) {m : Nat} (h : m ≠ n) : (d.setDec n x).axis m = d.axis m := d.axis_setAxis_ne _ h.symm

theorem Dev.encShift_others (by_ : Int) {m : Nat} (h : m ≠ n) : (d.encShift n by_).axis m = d.axis m :=
  (Dev.axis_setAxis_ne _ _ h.symm).trans (d.setDec_others n _ h)

variable (step : Int) (t : Nat)

/-! ## A counted edge, before or after the last preset -/

theorem Dev.edgeUndone_rd (preAt : Nat) (seen : Bool) (k : Nat) :
    (d.edgeUndone n step preAt seen).rd k = (d.encShift n (-step)).rd k := rfl

/-- An edge writes the count and the flags alone. -/
theorem Dev.encEdge_rd {k : Nat} (hc : k ≠ K.ENC_CNT n) (hf : k ≠ K.ENC_FLAGS n) : (d.encEdge n step t).rd k = d.rd k := by
  rw [Dev.encEdge_eq]
  split_ifs
  · rw [Dev.edgeUndone_rd, Dev.encShift_rd _ n _ hc, d.edgeCounted_rd n step t hc hf]
  · exact d.edgeCounted_rd n step t hc hf

theorem Dev.encEdge_flags (i : Nat) : (d.encEdge n step t).bit (K.ENC_FLAGS n) i = if 4 = i then false else d.bit (K.ENC_FLAGS n) i := by
  rw [← d.edgeCounted_flags n step t i, Dev.encEdge_eq]
  by_cases hp : t < (d.dec n).preAt
  · rw [if_pos hp, Dev.bit_congr (Dev.edgeUndone_rd _ n step _ _ _), Dev.bit_congr (Dev.encShift_rd _ n _ (by lia))]
  · rw [if_neg hp]

theorem Dev.encEdge_cnt (h : (d.dec n).preAt ≤ t) : (d.encEdge n step t).rd (K.ENC_CNT n) = enc 64 (d.encCnt n + step) := by
  rw [Dev.encEdge_eq, if_neg (by omega), Dev.edgeCounted_cnt]

/-- An edge from before the last preset leaves the preset value. -/
theorem Dev.encEdge_encCnt_preset (h : t < (d.dec n).preAt) : (d.encEdge n step t).encCnt n = d.encCnt n := by
  rw [Dev.encEdge_eq, if_pos h]
  have hc : ((d.edgeCounted n step t).edgeUndone n step (d.dec n).preAt (d.dec n).seen).rd (K.ENC_CNT n) = enc 64 (d.encCnt n) := by
    rw [Dev.edgeUndone_rd, Dev.encShift_cnt, Dev.enc_encCnt_add (d.edgeCounted_cnt n step t), add_neg_cancel_right]
  rw [Dev.encCnt_of_rd hc]
  exact sext_enc_sext 64 _

/-- An edge leaves the levels of A and B. -/
theorem Dev.encEdge_lines : ((d.encEdge n step t).dec n).a = (d.dec n).a ∧ ((d.encEdge n step t).dec n).b = (d.dec n).b := by
  have hcounted : ((d.edgeCounted n step t).dec n).a = (d.dec n).a ∧ ((d.edgeCounted n step t).dec n).b = (d.dec n).b := by
    rw [Dev.edgeCounted_dec]
    exact ⟨rfl, rfl⟩
  rw [Dev.encEdge_eq]
  split_ifs
  · obtain ⟨ha, hb⟩ := (d.edgeCounted n step t).encShift_lines n (-step)
    rw [Dev.edgeUndone, Dev.dec_setDec]
    exact ⟨ha.trans hcounted.1, hb.trans hcounted.2⟩
  · exact hcounted

theorem Dev.encEdge_others {m : Nat} (h : m ≠ n) : (d.encEdge n step t).axis m = d.axis m := by
  rw [Dev.encEdge_eq]
  split_ifs
  · exact (Dev.setDec_others _ n _ h).trans ((Dev.encShift_others _ n _ h).trans (d.edgeCounted_others n step t h))
  · exact d.edgeCounted_others n step t h

end

/-! ## The decoder of axis n as the last transition found it (R264) -/

/-- What opens again the latch of an input that a first half had completed. -/
def Dev.latchReopened (n : Nat) (d : Dev) (e : Nat × Nat × EdgeRec) : Dev :=
  let d := if (Tab.find (d.sw n).openLatch e.1).isSome then d
    else (d.setBit (K.LATCH_FLAGS n e.1) 1 false).setBit (K.LATCH_FLAGS n e.1) 2 false
  d.setSw n { d.sw n with openLatch := Tab.put (d.sw n).openLatch e.1 e.2 }

/-- The decoder put back, before the latches. -/
def Dev.decoderBack (d : Dev) (n : Nat) (l : LastStep) : Dev :=
  ((d.wrI 64 (K.ENC_CNT n) l.cnt).setBit (K.ENC_FLAGS n) 4 l.timeout).setEnc n { d.encRt n with dec := l.dec, toSince := l.toSince }

theorem Dev.decoderBack_rd (d : Dev) (n : Nat) (l : LastStep) (k : Nat) :
    (d.decoderBack n l).rd k = ((d.wrI 64 (K.ENC_CNT n) l.cnt).setBit (K.ENC_FLAGS n) 4 l.timeout).rd k := rfl

variable (d : Dev) (n : Nat) (l : LastStep)

theorem Dev.unstep_eq : d.unstep n l = l.opened.foldl (Dev.latchReopened n) (d.decoderBack n l) := rfl

theorem Dev.LatchesOnly.unstep : Dev.LatchesOnly n (d.decoderBack n l) (d.unstep n l) := by
  rw [Dev.unstep_eq]
  refine foldl_frame (Dev.LatchesOnly n) Dev.LatchesOnly.refl (fun _ _ _ => Dev.LatchesOnly.trans) _ (fun d e => ?_) _ _
  refine Dev.LatchesOnly.setSw (Dev.LatchesOnly.ite (Dev.LatchesOnly.refl d) ?_) _
  exact ((Dev.LatchesOnly.refl d).setBit _ _ _).setBit _ _ _

theorem Dev.unstep_cnt : (d.unstep n l).rd (K.ENC_CNT n) = enc 64 l.cnt := by
  rw [(Dev.LatchesOnly.unstep d n l).slots _ (by lia), Dev.decoderBack_rd, Dev.rd_setBit_ne _ _ _ (by lia),
    Dev.rd_wrI_self _ _ (by decide)]

theorem Dev.unstep_flags {i : Nat} (h : i ≠ 4) : (d.unstep n l).bit (K.ENC_FLAGS n) i = d.bit (K.ENC_FLAGS n) i := by
  rw [Dev.bit_congr ((Dev.LatchesOnly.unstep d n l).slots _ (by lia)), Dev.bit_congr (Dev.decoderBack_rd d n l _),
    Dev.bit_setBit _ _ _ i (by decide), if_neg h.symm, Dev.wrI_eq, Dev.bit_congr (Dev.rd_wr_ne _ _ (by lia))]

theorem Dev.unstep_rd {k : Nat} (hk : BeforeLatches n k) (hc : k ≠ K.ENC_CNT n) (hf : k ≠ K.ENC_FLAGS n) :
    (d.unstep n l).rd k = d.rd k := by
  rw [(Dev.LatchesOnly.unstep d n l).slots k hk, Dev.decoderBack_rd, Dev.rd_setBit_ne _ _ _ hf.symm, Dev.wrI_eq, Dev.rd_wr_ne _ _ hc.symm]

theorem Dev.unstep_dec : (d.unstep n l).dec n = l.dec :=
  (congrArg EncRt.dec (Dev.LatchesOnly.unstep d n l).enc).trans (Dev.dec_setEnc _ n _)

end Sys2Proof.Machine

namespace Sys2Proof.Machine

theorem sliced_on {s : State} (h : s.unitsOn = true) (o : Host.Outcome State Fault Refusal) : sliced s o = o := if_pos (by rw [h]; rfl)

/-- A unit that would leave the state leaves it, powered or not. -/
theorem sliced_next (s : State) : sliced s (.next s) = .next s := ite_self _

/-! ## An accepted transition of A or B, by its parts -/

section
variable (d : Dev) (n : Nat)

/-- An index whose timestamp is not before the transition's waits on. -/
theorem Dev.takeZBefore_of_le {ts : Nat} (h : ∀ z, (d.encRt n).zAt = some z → ts ≤ z) : d.takeZBefore n ts = d := by
  unfold Dev.takeZBefore
  split
  next z hz => exact if_neg (Nat.not_lt.2 (h z hz))
  next => rfl

/-- The levels are taken, with what they found kept for a double transition. -/
def Dev.acceptAB (lineB : Bool) (ts : Nat) (a' b' : Bool) : Dev :=
  d.setEnc n { d.encRt n with
    dec := { d.dec n with a := a', b := b' }
    last := some { t := ts, lineB := lineB, dec := d.dec n, cnt := d.encCnt n, toSince := (d.encRt n).toSince,
                   timeout := d.bit (K.ENC_FLAGS n) 4, opened := (d.sw n).openLatch } }

/-- A step of Table 9-1 counts. -/
def Dev.stepAB (ts : Nat) : Option Int → Dev
  | some 0 => d
  | some k => (d.encEdge n (if d.bit (K.DEC_CFG n) 0 then -k else k) ts).completeLatches n
  | none => (d.encDouble n ts).completeLatches n

/-- A transition to the levels a' and b' is decoded. -/
def Dev.decodeTo (lineB : Bool) (ts : Nat) (a' b' : Bool) : Dev :=
  if ¬ d.quadrature n ∨ d.lineAB n then d.acceptAB n lineB ts a' b'
  else (d.acceptAB n lineB ts a' b').stepAB n ts (quadStep (d.dec n).a (d.dec n).b a' b')

variable {lineB : Bool} {ts : Nat} (level : Bool)

/-- What a transition steps from: the second line of a timestamp, from what the first one found. -/
def Dev.stepsFrom (lineB : Bool) (ts : Nat) : Dev :=
  match (d.encRt n).last with
  | some l => if l.t = ts ∧ l.lineB ≠ lineB then d.unstep n l else d
  | none => d

theorem Dev.stepsFrom_single (h : ((d.encRt n).last.all fun l => l.t ≠ ts || l.lineB == lineB) = true) :
    d.stepsFrom n lineB ts = d := by
  unfold Dev.stepsFrom
  split
  next l hl => exact if_neg (by simpa [hl, imp_iff_not_or] using h)
  next => rfl

theorem Dev.stepsFrom_double {l : LastStep} (hl : (d.encRt n).last = some l) (ht : l.t = ts) (hb : l.lineB = !lineB) :
    d.stepsFrom n lineB ts = d.unstep n l := by
  unfold Dev.stepsFrom
  rw [hl]
  exact if_pos ⟨ht, by simp [hb]⟩

theorem Dev.decodeAB_eq : d.decodeAB n lineB level ts = (d.stepsFrom n lineB ts).decodeTo n lineB ts
    (if lineB then (d.dec n).a else level) (if lineB then level else (d.dec n).b) := by
  cases lineB <;> rfl

end

/-- A transition seen on enough samples, with no earlier index waiting, is decoded. -/
theorem exec_encoderTransition {s : State} {n ts run : Nat} (lineB level : Bool) (hu : s.unitsOn = true) (hn : s.dev.hasAxis n = true)
    (hrun : s.dev.rd (K.FILT n) < run) (hz : ∀ z, (s.dev.encRt n).zAt = some z → ts ≤ z) :
    exec (.encoderTransition n lineB level ts run) s = .next (s.onDev fun d => d.decodeAB n lineB level ts) := by
  show execEncoderTransition n lineB level ts run s = _
  rw [execEncoderTransition, sliced_on hu]
  simp only [onDev, State.onDev, Dev.accepts, hn, hrun, decide_true, and_self, if_true, Dev.takeZBefore_of_le _ n hz]

/-! ## What accepting the levels leaves -/

section
variable (d : Dev) (n : Nat) (lineB : Bool) (ts : Nat) (a' b' : Bool)

theorem Dev.dec_acceptAB : (d.acceptAB n lineB ts a' b').dec n = { d.dec n with a := a', b := b' } := Dev.dec_setEnc _ n _

theorem Dev.acceptAB_others {m : Nat} (h : m ≠ n) : (d.acceptAB n lineB ts a' b').axis m = d.axis m := Dev.axis_setAxis_ne _ _ h.symm

/-- Without quadrature decoding, or under a line fault of A or B, a transition is taken and counts nothing. -/
theorem Dev.decodeTo_uncounted (h : d.quadrature n = false ∨ d.lineAB n = true) :
    d.decodeTo n lineB ts a' b' = d.acceptAB n lineB ts a' b' := if_pos (by simpa using h)

theorem Dev.decodeTo_counted (hq : d.quadrature n = true) (hl : d.lineAB n = false) :
    d.decodeTo n lineB ts a' b' = (d.acceptAB n lineB ts a' b').stepAB n ts (quadStep (d.dec n).a (d.dec n).b a' b') :=
  if_neg (by simp [hq, hl])

end

end Sys2Proof.Machine

namespace Sys2Proof.Machine

/-! ## POS_VALID and the decoder fault (R264, R265) -/

/-- The decoder fault of every present axis is a source that can raise. -/
theorem decoderFault_source {p : Part} {n : Nat} (h : n < 4 * p.quarters) :
    Dict.sourceAssigned (0x186 + 0x10 * n) = true ∧ (Dict.Owner.source (0x186 + 0x10 * n)).present p = true := by
  have h4 := p.quarters_le
  have ha : Dict.sourceAssigned (0x186 + 0x10 * n) = true := by
    simp only [Dict.sourceAssigned, show ¬ 0x186 + 0x10 * n < 0x140 by omega, show ¬ 0x186 + 0x10 * n < 0x180 by omega,
      show 0x186 + 0x10 * n < 0x280 by omega, if_false, if_true, decide_eq_true_eq]
    omega
  refine ⟨ha, ?_⟩
  simp only [Dict.Owner.present, ha, if_true, Dict.sourceQuarter, show ¬ 0x186 + 0x10 * n < 0x140 by omega,
    show ¬ 0x186 + 0x10 * n < 0x180 by omega, show 0x186 + 0x10 * n < 0x280 by omega, if_false, decide_eq_true_eq]
  omega

section
variable (d : Dev) (n : Nat)

/-- POS_VALID cleared with its cause, before the event. -/
def Dev.posCleared (cause t : Nat) : Dev :=
  let d := ((d.setBit (K.ENC_FLAGS n) 0 false).setField (K.ENC_FLAGS n) 11 8 cause).noteValid n t
  d.setDec n { d.dec n with idxClean := false }

theorem Dev.posCleared_rd (cause t k : Nat) :
    (d.posCleared n cause t).rd k = ((d.setBit (K.ENC_FLAGS n) 0 false).setField (K.ENC_FLAGS n) 11 8 cause).rd k := rfl

theorem Dev.encInvalid_of_valid (cause t : Nat) (h : d.posValid n = true) :
    d.encInvalid n cause t = (d.posCleared n cause t).encEvent n 0x0170 (le 1 cause ++ le 3 0 ++ le 8 d.nt) := if_pos h

theorem Dev.encInvalid_of_invalid (cause t : Nat) (h : d.posValid n = false) : d.encInvalid n cause t = d := if_neg (by simp [h])

/-- A position made invalid writes the flags and what posting writes alone. -/
theorem Dev.encInvalid_rd (cause t : Nat) {k : Nat} (hk : k ≠ K.ENC_FLAGS n) (hp : k < 0x1430 * 256 ∨ 0x1441 * 256 ≤ k) :
    (d.encInvalid n cause t).rd k = d.rd k := by
  cases h : d.posValid n with
  | false => rw [d.encInvalid_of_invalid n cause t h]
  | true =>
    rw [d.encInvalid_of_valid n cause t h, Dev.encEvent, Dev.axisEvent_rd _ _ _ _ _ _ hp, Dev.posCleared_rd,
      Dev.rd_setField_ne _ _ _ _ hk.symm, Dev.rd_setBit_ne _ _ _ hk.symm]

theorem Dev.posValid_encInvalid (cause t : Nat) : (d.encInvalid n cause t).posValid n = false := by
  cases h : d.posValid n with
  | false => rw [d.encInvalid_of_invalid n cause t h, h]
  | true =>
    have hflags (e : Dev) (type : Nat) (b : Bytes) : (e.encEvent n type b).posValid n = e.posValid n :=
      Dev.bit_congr (Dev.axisEvent_rd _ _ _ _ _ _ (by lia)) 0
    rw [d.encInvalid_of_valid n cause t h, hflags, Dev.posValid, Dev.bit_congr (Dev.posCleared_rd d n cause t _),
      Dev.bit_setField _ _ _ _ _ (by decide), if_neg (by decide), Dev.bit_setBit_self _ _ _ (by decide)]

theorem Dev.encInvalid_part (cause t : Nat) : (d.encInvalid n cause t).part = d.part := by
  cases h : d.posValid n with
  | false => rw [d.encInvalid_of_invalid n cause t h]
  | true =>
    rw [d.encInvalid_of_valid n cause t h, Dev.encEvent]
    obtain ⟨o, m, f, hev⟩ := Dev.axisEvent_frame (d.posCleared n cause t) n 0x0170 0x4801 (d.posCleared n cause t).nt
      (le 1 cause ++ le 3 0 ++ le 8 d.nt)
    rw [hev]
    rfl

/-! ## A double transition, inferred or lost (R264) -/

/-- A double transition of axis n is inferred. -/
def Dev.Infers : Prop :=
  d.bit (K.DEC_CFG n) 1 ∧ (d.dec n).seen ∧ d.rMax n / 2 ≤ rabs (d.rdI 32 (K.ENC_CPS n))

theorem Dev.infers_congr {e : Dev} (hseen : (e.dec n).seen = (d.dec n).seen) (hcfg : e.rd (K.DEC_CFG n) = d.rd (K.DEC_CFG n))
    (hfilt : e.rd (K.FILT n) = d.rd (K.FILT n)) (hcps : e.rd (K.ENC_CPS n) = d.rd (K.ENC_CPS n)) : e.Infers n ↔ d.Infers n := by
  rw [Dev.Infers, Dev.Infers, Dev.rMax, Dev.rMax, Dev.rdI, Dev.rdI, Dev.bit_congr hcfg, hseen, hfilt, hcps]

theorem Dev.infers_count : (d.count (K.DOUBLE_CNT n)).Infers n ↔ d.Infers n :=
  Dev.infers_congr _ _ rfl (Dev.rd_wr_ne _ _ (by lia)) (Dev.rd_wr_ne _ _ (by lia)) (Dev.rd_wr_ne _ _ (by lia))

theorem Dev.encDouble_inferred {t : Nat} (h : d.Infers n) :
    d.encDouble n t = ((d.count (K.DOUBLE_CNT n)).encEdge n (2 * (d.dec n).sign) t).count (K.INFERRED n) :=
  if_pos ((d.infers_count n).2 h)

/-- A lost double transition before its position is made invalid. -/
def Dev.doubleLost : Dev := (d.count (K.DOUBLE_CNT n)).setDec n { d.dec n with hist := [], holds := true, count := false }

theorem Dev.doubleLost_rd (k : Nat) : (d.doubleLost n).rd k = (d.count (K.DOUBLE_CNT n)).rd k := rfl

theorem Dev.encDouble_lost {t : Nat} (h : ¬ d.Infers n) (ht : (d.dec n).preAt ≤ t) :
    d.encDouble n t = ((d.doubleLost n).encInvalid n 1 t).raise (0x186 + 0x10 * n) d.nt := by
  have hlost : d.encDouble n t = (if t < (d.dec n).preAt then d.doubleLost n else (d.doubleLost n).encInvalid n 1 t).raise
      (0x186 + 0x10 * n) d.nt := if_neg (mt (d.infers_count n).1 h)
  rw [hlost, if_neg (Nat.not_lt.2 ht)]

end

end Sys2Proof.Machine

namespace Sys2Proof.Machine

section
variable {d : Dev} {n t : Nat}

theorem Dev.encCnt_congr {e : Dev} (h : e.rd (K.ENC_CNT n) = d.rd (K.ENC_CNT n)) : e.encCnt n = d.encCnt n := by
  rw [Dev.encCnt, Dev.rdI, h, Dev.encCnt, Dev.rdI]

/-- A lost double transition keeps the count, is counted, and makes the position invalid. -/
theorem Dev.encDouble_lost_slots (h : ¬ d.Infers n) (ht : (d.dec n).preAt ≤ t) :
    (d.encDouble n t).rd (K.ENC_CNT n) = d.rd (K.ENC_CNT n) ∧
      (d.encDouble n t).rd (K.DOUBLE_CNT n) = (d.rd (K.DOUBLE_CNT n) + 1) % 2 ^ 32 ∧ (d.encDouble n t).posValid n = false := by
  rw [d.encDouble_lost n h ht]
  refine ⟨?_, ?_, (Dev.bit_congr (Dev.raise_rd _ _ _ _ _) 0).trans (Dev.posValid_encInvalid _ n 1 t)⟩
  · rw [Dev.raise_rd, Dev.encInvalid_rd _ _ _ _ (by lia) (by lia), Dev.doubleLost_rd, Dev.rd_count, if_neg (by lia)]
  · rw [Dev.raise_rd, Dev.encInvalid_rd _ _ _ _ (by lia) (by lia), Dev.doubleLost_rd, Dev.rd_count, if_pos rfl]

theorem Dev.encDouble_lost_raised (hn : d.hasAxis n = true) (h : ¬ d.Infers n) (ht : (d.dec n).preAt ≤ t) :
    ∃ r ∈ (d.encDouble n t).flt.raises, r.src = 0x186 + 0x10 * n ∧ r.nt = d.nt := by
  obtain ⟨ha, hp⟩ := decoderFault_source (p := d.part) (by simpa [Dev.hasAxis] using hn)
  rw [d.encDouble_lost n h ht]
  refine ⟨_, Dev.raised_of_present _ _ _ _ ha ?_, rfl, rfl⟩
  rw [Dev.encInvalid_part]
  exact hp

/-- An inferred double transition is two counts in the sign of the last one; it and the inference are counted. -/
theorem Dev.encDouble_inferred_slots (h : d.Infers n) (ht : (d.dec n).preAt ≤ t) :
    (d.encDouble n t).rd (K.ENC_CNT n) = enc 64 (d.encCnt n + 2 * (d.dec n).sign) ∧
      (d.encDouble n t).rd (K.DOUBLE_CNT n) = (d.rd (K.DOUBLE_CNT n) + 1) % 2 ^ 32 ∧
      (d.encDouble n t).rd (K.INFERRED n) = (d.rd (K.INFERRED n) + 1) % 2 ^ 32 ∧ (d.encDouble n t).posValid n = d.posValid n := by
  have hflags : (d.count (K.DOUBLE_CNT n)).rd (K.ENC_FLAGS n) = d.rd (K.ENC_FLAGS n) := by rw [Dev.rd_count, if_neg (by lia)]
  have hcnt : (d.count (K.DOUBLE_CNT n)).encCnt n = d.encCnt n := Dev.encCnt_congr (by rw [Dev.rd_count, if_neg (by lia)])
  rw [d.encDouble_inferred n h]
  refine ⟨?_, ?_, ?_, ?_⟩
  · rw [Dev.rd_count, if_neg (by lia), Dev.encEdge_cnt (d.count _) n _ t ht, hcnt]
  · rw [Dev.rd_count, if_neg (by lia), Dev.encEdge_rd _ _ _ _ (by lia) (by lia), Dev.rd_count, if_pos rfl]
  · rw [Dev.rd_count, if_pos rfl, Dev.encEdge_rd _ _ _ _ (by lia) (by lia), Dev.rd_count, if_neg (by lia)]
  · have hinferred (e : Dev) : (e.count (K.INFERRED n)).rd (K.ENC_FLAGS n) = e.rd (K.ENC_FLAGS n) := by rw [Dev.rd_count, if_neg (by lia)]
    rw [Dev.posValid, Dev.bit_congr (hinferred _), Dev.encEdge_flags, if_neg (by decide), Dev.bit_congr hflags, Dev.posValid]

end

/-! ## The steps of Table 9-1 -/

section
variable (d : Dev) (n ts : Nat)

theorem Dev.stepAB_counted {k : Int} (hk : k ≠ 0) :
    d.stepAB n ts (some k) = (d.encEdge n (if d.bit (K.DEC_CFG n) 0 then -k else k) ts).completeLatches n := by
  unfold Dev.stepAB
  split
  next h => exact absurd (Option.some.inj h) hk
  next h => rw [Option.some.inj h]
  next h => cases h

theorem Dev.stepAB_zero : d.stepAB n ts (some 0) = d := rfl

/-- A counted step: the count by its sign, or the preset value; the levels, the timeout's flag, the other axes. -/
theorem Dev.stepAB_counted_acts {k : Int} (hk : k ≠ 0) :
    let u := d.stepAB n ts (some k)
    ((d.dec n).preAt ≤ ts → u.rd (K.ENC_CNT n) = enc 64 (d.encCnt n + if d.bit (K.DEC_CFG n) 0 then -k else k)) ∧
      (ts < (d.dec n).preAt → u.encCnt n = d.encCnt n) ∧ (u.dec n).a = (d.dec n).a ∧ (u.dec n).b = (d.dec n).b ∧
      u.bit (K.ENC_FLAGS n) 4 = false ∧ ∀ m, m ≠ n → u.axis m = d.axis m := by
  dsimp only
  rw [d.stepAB_counted n ts hk]
  generalize (if d.bit (K.DEC_CFG n) 0 then -k else k) = x
  have hl := Dev.LatchesOnly.completeLatches (n := n) (d.encEdge n x ts)
  have hdec : ((d.encEdge n x ts).completeLatches n).dec n = (d.encEdge n x ts).dec n := congrArg EncRt.dec hl.enc
  obtain ⟨ha, hb⟩ := d.encEdge_lines n x ts
  refine ⟨fun h => ?_, fun h => ?_, by rw [hdec, ha], by rw [hdec, hb], ?_, fun m hm => ?_⟩
  · rw [hl.slots _ (by lia), d.encEdge_cnt n x ts h]
  · rw [Dev.encCnt_congr (hl.slots _ (by lia)), d.encEdge_encCnt_preset n x ts h]
  · rw [Dev.bit_congr (hl.slots _ (by lia)), Dev.encEdge_flags, if_pos rfl]
  · rw [hl.others m hm, d.encEdge_others n x ts hm]

end

end Sys2Proof.Machine

namespace Sys2Proof.Machine

/-! ## The second half of a double transition (R263, R264) -/

section
variable (d : Dev) (n : Nat) (l : LastStep)

theorem Dev.posValid_unstep : (d.unstep n l).posValid n = d.posValid n := d.unstep_flags n l (by decide)

theorem Dev.quadrature_unstep : (d.unstep n l).quadrature n = d.quadrature n := by
  rw [Dev.quadrature, Dev.quadrature, d.unstep_rd n l (by lia) (by lia) (by lia), d.unstep_rd n l (by lia) (by lia) (by lia)]

theorem Dev.lineAB_unstep : (d.unstep n l).lineAB n = d.lineAB n := by
  rw [Dev.lineAB, Dev.lineAB, d.unstep_flags n l (by decide), d.unstep_flags n l (by decide)]

variable (lineB : Bool) (ts : Nat) (a' b' : Bool)

/-- The device whose decoder meets a double transition. -/
def Dev.atDouble : Dev := (d.unstep n l).acceptAB n lineB ts a' b'

theorem Dev.atDouble_rd {k : Nat} (hk : BeforeLatches n k := by lia) (hc : k ≠ K.ENC_CNT n := by lia)
    (hf : k ≠ K.ENC_FLAGS n := by lia) :
    (d.atDouble n l lineB ts a' b').rd k = d.rd k := d.unstep_rd n l hk hc hf

theorem Dev.atDouble_cnt : (d.atDouble n l lineB ts a' b').rd (K.ENC_CNT n) = enc 64 l.cnt := d.unstep_cnt n l

theorem Dev.atDouble_dec : (d.atDouble n l lineB ts a' b').dec n = { l.dec with a := a', b := b' } :=
  (Dev.dec_acceptAB _ n _ _ _ _).trans (by rw [d.unstep_dec n l])

theorem Dev.atDouble_posValid : (d.atDouble n l lineB ts a' b').posValid n = d.posValid n := d.posValid_unstep n l

theorem Dev.atDouble_nt : (d.atDouble n l lineB ts a' b').nt = d.nt := (Dev.LatchesOnly.unstep d n l).nt

theorem Dev.atDouble_hasAxis : (d.atDouble n l lineB ts a' b').hasAxis n = d.hasAxis n :=
  congrArg (fun p : Part => decide (n < 4 * p.quarters)) (Dev.LatchesOnly.unstep d n l).part

theorem Dev.atDouble_infers : (d.atDouble n l lineB ts a' b').Infers n ↔
    d.bit (K.DEC_CFG n) 1 = true ∧ l.dec.seen = true ∧ d.rMax n / 2 ≤ rabs (d.rdI 32 (K.ENC_CPS n)) := by
  rw [Dev.Infers, Dev.rMax, Dev.rdI, Dev.bit_congr (d.atDouble_rd n l lineB ts a' b'), d.atDouble_rd n l lineB ts a' b',
    d.atDouble_rd n l lineB ts a' b', Dev.atDouble_dec, Dev.rMax, Dev.rdI]

variable {d n l lineB ts a' b'}

/-- Both halves at one timestamp, a step that Table 9-1 does not have: a double transition from what the first half found. -/
theorem Dev.decodeAB_double {level : Bool} (hq : d.quadrature n = true) (hline : d.lineAB n = false) (hl : (d.encRt n).last = some l)
    (ht : l.t = ts) (hb : l.lineB = !lineB)
    (hs : quadStep l.dec.a l.dec.b (if lineB then (d.dec n).a else level) (if lineB then level else (d.dec n).b) = none) :
    let a' := if lineB then (d.dec n).a else level
    let b' := if lineB then level else (d.dec n).b
    d.decodeAB n lineB level ts = ((d.atDouble n l lineB ts a' b').encDouble n ts).completeLatches n := by
  dsimp only
  rw [Dev.decodeAB_eq, d.stepsFrom_double n hl ht hb,
    Dev.decodeTo_counted _ _ _ _ _ _ ((d.quadrature_unstep n l).trans hq) ((d.lineAB_unstep n l).trans hline), Dev.unstep_dec, hs]
  rfl

end

/-! ## What an accepted transition does (R261 to R266, R272) -/

section
variable {s : State} {n ts run : Nat} (lineB level : Bool) (hu : s.unitsOn = true) (hn : s.dev.hasAxis n = true)
  (hrun : s.dev.rd (K.FILT n) < run) (hz : ∀ z, (s.dev.encRt n).zAt = some z → ts ≤ z)
include hu hn hrun hz

/-- Without quadrature decoding, or under a line fault of A or B, a transition moves the levels alone. -/
theorem encoderTransition_uncounted (hoff : s.dev.quadrature n = false ∨ s.dev.lineAB n = true)
    (hsingle : ((s.dev.encRt n).last.all fun l => l.t ≠ ts || l.lineB == lineB) = true) :
    Completes (.encoderTransition n lineB level ts run) s fun u => u.dev.objs = s.dev.objs ∧
      (u.dev.dec n).a = (if lineB then (s.dev.dec n).a else level) ∧ (u.dev.dec n).b = (if lineB then level else (s.dev.dec n).b) := by
  refine completes_of_eq (exec_encoderTransition lineB level hu hn hrun hz) ?_
  simp only [State.onDev_dev, Dev.decodeAB_eq, s.dev.stepsFrom_single n hsingle, s.dev.decodeTo_uncounted n _ _ _ _ hoff, Dev.dec_acceptAB,
    and_true]
  rfl

variable (hq : s.dev.quadrature n = true) (hline : s.dev.lineAB n = false)
include hq hline

theorem encoderTransition_single (hsingle : ((s.dev.encRt n).last.all fun l => l.t ≠ ts || l.lineB == lineB) = true) :
    let a' := if lineB then (s.dev.dec n).a else level
    let b' := if lineB then level else (s.dev.dec n).b
    exec (.encoderTransition n lineB level ts run) s = .next (s.onDev fun d =>
      (d.acceptAB n lineB ts a' b').stepAB n ts (quadStep (d.dec n).a (d.dec n).b a' b')) := by
  dsimp only
  rw [exec_encoderTransition lineB level hu hn hrun hz]
  simp only [State.onDev, Dev.decodeAB_eq, s.dev.stepsFrom_single n hsingle, s.dev.decodeTo_counted n _ _ _ _ hq hline]

/-- A step of Table 9-1 counts with the sign that DIR gives. -/
theorem encoderTransition_counts (hsingle : ((s.dev.encRt n).last.all fun l => l.t ≠ ts || l.lineB == lineB) = true)
    {k : Int} (hk : k ≠ 0) :
    let x := s.dev.dec n
    let a' := if lineB then x.a else level
    let b' := if lineB then level else x.b
    quadStep x.a x.b a' b' = some k →
    Completes (.encoderTransition n lineB level ts run) s fun u =>
      (x.preAt ≤ ts → u.dev.rd (K.ENC_CNT n) = enc 64 (s.dev.encCnt n + if s.dev.bit (K.DEC_CFG n) 0 then -k else k)) ∧
      (ts < x.preAt → u.dev.encCnt n = s.dev.encCnt n) ∧
      (u.dev.dec n).a = a' ∧ (u.dev.dec n).b = b' ∧ u.dev.bit (K.ENC_FLAGS n) 4 = false ∧
      ∀ m, m ≠ n → u.dev.axis m = s.dev.axis m := by
  intro x a' b' hstep
  refine completes_of_eq (encoderTransition_single lineB level hu hn hrun hz hq hline hsingle) ?_
  rw [State.onDev_dev, hstep]
  obtain ⟨hcnt, hpre, ha, hb, hto, hoth⟩ := (s.dev.acceptAB n lineB ts a' b').stepAB_counted_acts n ts hk
  rw [Dev.dec_acceptAB] at hcnt hpre ha hb
  exact ⟨hcnt, hpre, ha, hb, hto, fun m hm => (hoth m hm).trans (s.dev.acceptAB_others n _ _ _ _ hm)⟩

/-- A level that is no step moves the levels alone. -/
theorem encoderTransition_still (hsingle : ((s.dev.encRt n).last.all fun l => l.t ≠ ts || l.lineB == lineB) = true) :
    let x := s.dev.dec n
    let a' := if lineB then x.a else level
    let b' := if lineB then level else x.b
    quadStep x.a x.b a' b' = some 0 →
    Completes (.encoderTransition n lineB level ts run) s fun u => u.dev.objs = s.dev.objs ∧
      (u.dev.dec n).a = a' ∧ (u.dev.dec n).b = b' := by
  intro x a' b' hstep
  refine completes_of_eq (encoderTransition_single lineB level hu hn hrun hz hq hline hsingle) ?_
  rw [State.onDev_dev, hstep, Dev.stepAB_zero, Dev.dec_acceptAB]
  exact ⟨rfl, rfl, rfl⟩

variable {l : LastStep} (hlast : (s.dev.encRt n).last = some l) (ht : l.t = ts) (hb : l.lineB = !lineB)
  (hs : quadStep l.dec.a l.dec.b (if lineB then (s.dev.dec n).a else level) (if lineB then level else (s.dev.dec n).b) = none)
  (hpre : l.dec.preAt ≤ ts)
include hlast ht hb hs hpre

/-- A double transition that is not inferred leaves the count, makes the position invalid and raises the decoder fault. -/
theorem encoderTransition_lost
    (hno : s.dev.bit (K.DEC_CFG n) 1 = false ∨ l.dec.seen = false ∨ rabs (s.dev.rdI 32 (K.ENC_CPS n)) < s.dev.rMax n / 2) :
    Completes (.encoderTransition n lineB level ts run) s fun u => u.dev.rd (K.ENC_CNT n) = enc 64 l.cnt ∧
      u.dev.rd (K.DOUBLE_CNT n) = (s.dev.rd (K.DOUBLE_CNT n) + 1) % 2 ^ 32 ∧ u.dev.posValid n = false ∧
      Raised u (0x186 + 0x10 * n) s.dev.nt := by
  refine completes_of_eq (exec_encoderTransition lineB level hu hn hrun hz) ?_
  rw [Raised, State.onDev_dev, Dev.decodeAB_double hq hline hlast ht hb hs]
  generalize (if lineB then (s.dev.dec n).a else level) = a'
  generalize (if lineB then level else (s.dev.dec n).b) = b'
  have hkeep := Dev.LatchesOnly.completeLatches (n := n) ((s.dev.atDouble n l lineB ts a' b').encDouble n ts)
  have hlost : ¬ (s.dev.atDouble n l lineB ts a' b').Infers n := by
    rw [Dev.atDouble_infers]
    rintro ⟨hinf, hseen, hfast⟩
    rcases hno with h | h | h
    · simp [h] at hinf
    · simp [h] at hseen
    · exact absurd hfast (not_le.2 h)
  have hpre' : ((s.dev.atDouble n l lineB ts a' b').dec n).preAt ≤ ts := by rw [Dev.atDouble_dec]; exact hpre
  obtain ⟨hcnt, hdbl, hval⟩ := Dev.encDouble_lost_slots hlost hpre'
  refine ⟨?_, ?_, (Dev.bit_congr (hkeep.slots _ (by lia)) 0).trans hval, ?_⟩
  · rw [hkeep.slots _ (by lia), hcnt, Dev.atDouble_cnt]
  · rw [hkeep.slots _ (by lia), hdbl, s.dev.atDouble_rd n l lineB ts a' b' (k := K.DOUBLE_CNT n)]
  · rw [hkeep.flt, ← s.dev.atDouble_nt n l lineB ts a' b']
    exact Dev.encDouble_lost_raised ((s.dev.atDouble_hasAxis n l lineB ts a' b').trans hn) hlost hpre'

/-- A double transition that is inferred is two counts in the sign of the last one. -/
theorem encoderTransition_inferred (hinf : s.dev.bit (K.DEC_CFG n) 1 = true) (hseen : l.dec.seen = true)
    (hfast : s.dev.rMax n / 2 ≤ rabs (s.dev.rdI 32 (K.ENC_CPS n))) :
    Completes (.encoderTransition n lineB level ts run) s fun u => u.dev.rd (K.ENC_CNT n) = enc 64 (l.cnt + 2 * l.dec.sign) ∧
      u.dev.rd (K.DOUBLE_CNT n) = (s.dev.rd (K.DOUBLE_CNT n) + 1) % 2 ^ 32 ∧
      u.dev.rd (K.INFERRED n) = (s.dev.rd (K.INFERRED n) + 1) % 2 ^ 32 ∧ u.dev.posValid n = s.dev.posValid n := by
  refine completes_of_eq (exec_encoderTransition lineB level hu hn hrun hz) ?_
  rw [State.onDev_dev, Dev.decodeAB_double hq hline hlast ht hb hs]
  generalize (if lineB then (s.dev.dec n).a else level) = a'
  generalize (if lineB then level else (s.dev.dec n).b) = b'
  have hkeep := Dev.LatchesOnly.completeLatches (n := n) ((s.dev.atDouble n l lineB ts a' b').encDouble n ts)
  have hinfers := (s.dev.atDouble_infers n l lineB ts a' b').2 ⟨hinf, hseen, hfast⟩
  have hpre' : ((s.dev.atDouble n l lineB ts a' b').dec n).preAt ≤ ts := by rw [Dev.atDouble_dec]; exact hpre
  obtain ⟨hcnt, hdbl, hinfd, hval⟩ := Dev.encDouble_inferred_slots hinfers hpre'
  refine ⟨?_, ?_, ?_, ((Dev.bit_congr (hkeep.slots _ (by lia)) 0).trans hval).trans (s.dev.atDouble_posValid n l lineB ts a' b')⟩
  · rw [hkeep.slots _ (by lia), hcnt, Dev.enc_encCnt_add (s.dev.atDouble_cnt n l lineB ts a' b'), Dev.atDouble_dec]
  · rw [hkeep.slots _ (by lia), hdbl, s.dev.atDouble_rd n l lineB ts a' b' (k := K.DOUBLE_CNT n)]
  · rw [hkeep.slots _ (by lia), hinfd, s.dev.atDouble_rd n l lineB ts a' b' (k := K.INFERRED n)]

end

end Sys2Proof.Machine

namespace Sys2Proof.Machine

/-! ## Too few samples (R261) -/

/-- A change of the device that is none leaves the state, powered or not. -/
theorem sliced_onDev_same {s : State} {f : Dev → Dev} (h : f s.dev = s.dev) : sliced s (onDev s f) = .next s := by
  rw [onDev, State.onDev, h]
  exact sliced_next s

/-- A level seen on FILT samples or fewer is nothing. -/
theorem exec_unaccepted {s : State} {n run : Nat} (hrun : run ≤ s.dev.rd (K.FILT n)) (ts : Nat) (lineB level : Bool) :
    exec (.encoderTransition n lineB level ts run) s = .next s ∧ exec (.stepEdge n level ts run) s = .next s ∧
      exec (.index n level ts run) s = .next s := by
  have hno : ¬ s.dev.accepts n run = true := by simpa [Dev.accepts] using hrun
  refine ⟨sliced_onDev_same (if_neg ?_), sliced_onDev_same (if_neg ?_), sliced_onDev_same (if_neg ?_)⟩
  · rintro ⟨-, hacc⟩
    exact hno hacc
  · rintro ⟨-, -, -, hacc⟩
    exact hno hacc
  · rintro ⟨-, hacc, -⟩
    exact hno hacc

/-! ## Step edges (R123) -/

/-- STEP_CFG selects this edge. -/
abbrev Dev.StepChosen (d : Dev) (n : Nat) (rising : Bool) : Prop :=
  d.rd (K.STEP_CFG n) % 4 = 2 ∨ d.rd (K.STEP_CFG n) % 4 = (if rising then 0 else 1)

/-- A step edge kept with its direction. -/
def Dev.stepKept (d : Dev) (n ts : Nat) (b : Bool) : Dev :=
  d.setMot n { d.mot n with follow := { (d.mot n).follow with
    steps := (ts, if b = (d.rd (K.STEP_CFG n)).testBit 2 then 1 else -1) :: (d.mot n).follow.steps } }

theorem exec_stepEdge {s : State} {n run : Nat} (rising : Bool) (ts : Nat) (hu : s.unitsOn = true) (hn : s.dev.hasAxis n = true)
    (hsrc : s.dev.rd (K.SRC n) = 1) (hmode : s.dev.rd (K.IN_MODE n) ≠ 0) (hrun : s.dev.rd (K.FILT n) < run) :
    exec (.stepEdge n rising ts run) s = .next (s.onDev fun d =>
      if d.StepChosen n rising ∧ d.lineAB n = false then (d.setDec n { d.dec n with a := rising }).stepKept n ts (d.dec n).b
      else d.setDec n { d.dec n with a := rising }) := by
  have hacc : s.dev.accepts n run = true := decide_eq_true hrun
  show execStepEdge n rising ts run s = _
  rw [execStepEdge, sliced_on hu]
  cases rising <;> simp [onDev, State.onDev, hn, hsrc, hmode, hacc, Dev.StepChosen, Dev.stepKept] <;> rfl

section
variable {s : State} {n run : Nat} (rising : Bool) (ts : Nat) (hu : s.unitsOn = true) (hn : s.dev.hasAxis n = true)
  (hsrc : s.dev.rd (K.SRC n) = 1) (hmode : s.dev.rd (K.IN_MODE n) ≠ 0) (hrun : s.dev.rd (K.FILT n) < run)
include hu hn hsrc hmode hrun

theorem stepEdge_kept (hchosen : s.dev.StepChosen n rising) (hline : s.dev.lineAB n = false) :
    Completes (.stepEdge n rising ts run) s fun u => (u.dev.dec n).a = rising ∧
      (u.dev.mot n).follow.steps =
        (ts, if (s.dev.dec n).b = (s.dev.rd (K.STEP_CFG n)).testBit 2 then 1 else -1) :: (s.dev.mot n).follow.steps ∧
      u.dev.objs = s.dev.objs := by
  refine completes_of_eq (exec_stepEdge rising ts hu hn hsrc hmode hrun) ?_
  rw [State.onDev_dev, if_pos ⟨hchosen, hline⟩]
  refine ⟨?_, ?_, rfl⟩
  · exact (congrArg (fun r : AxisRt => r.enc.dec.a) (Dev.axis_setAxis_self _ n _)).trans
      (congrArg DecRt.a (Dev.dec_setDec s.dev n _))
  · have hmot : (s.dev.setDec n { s.dev.dec n with a := rising }).mot n = s.dev.mot n :=
      (congrArg AxisRt.mot (Dev.axis_setAxis_self s.dev n _)).trans rfl
    rw [Dev.stepKept, Dev.mot_setMot, hmot]
    rfl

theorem stepEdge_dropped (h : ¬ s.dev.StepChosen n rising ∨ s.dev.lineAB n = true) :
    Completes (.stepEdge n rising ts run) s fun u => u = s.onDev fun d => d.setDec n { d.dec n with a := rising } := by
  refine completes_of_eq (exec_stepEdge rising ts hu hn hsrc hmode hrun) ?_
  have hno : ¬ (s.dev.StepChosen n rising ∧ s.dev.lineAB n = false) := by
    rw [not_and_or, Bool.not_eq_false]
    exact h
  exact congrArg (fun d => ({ s with dev := d } : State)) (if_neg hno)

end

/-! ## Emulation edges (R279, R280) -/

/-- The levels of an output after one ball of it is driven. -/
def EmuRt.drive (r : EmuRt) (ball : Nat) (level : Bool) : EmuRt :=
  if ball = 0 then { r with ema := level } else if ball = 1 then { r with emb := level } else { r with emz := level }

/-- The level of a ball of an output. -/
def EmuRt.level (r : EmuRt) (ball : Nat) : Bool := if ball = 0 then r.ema else if ball = 1 then r.emb else r.emz

theorem EmuRt.drive_level (r : EmuRt) (ball : Nat) : r.drive ball (r.level ball) = r := by
  unfold EmuRt.drive EmuRt.level
  split_ifs <;> rfl

section
variable (d : Dev) (m ball : Nat) (level : Bool)

theorem Dev.emuDrive_eq : d.emuDrive m ball level =
    if (d.emuRt m).level ball = level then d else (d.setEmu m ((d.emuRt m).drive ball level)).emit (.emuBall m ball level) := rfl

@[simp] theorem Dev.emuRt_setEmu (r : EmuRt) : (d.setEmu m r).emuRt m = r := Tab.get_put_self _ _ _ _

@[simp] theorem Dev.emuRt_emuDrive : (d.emuDrive m ball level).emuRt m = (d.emuRt m).drive ball level := by
  rw [Dev.emuDrive_eq]
  split_ifs with h
  · rw [← h, EmuRt.drive_level]
  · exact d.emuRt_setEmu m _

@[simp] theorem Dev.emuDrive_objs : (d.emuDrive m ball level).objs = d.objs := by
  rw [Dev.emuDrive_eq]
  split_ifs <;> rfl

end

/-- The device as an emulation edge of output m shows it: a count, the end of a STEP pulse, or the level of the direction. -/
def Dev.emuShow (d : Dev) (m what : Nat) (x : Int) : Dev :=
  match what with
  | 0 =>
    let d := d.setEmu m { d.emuRt m with shown := x }
    (if d.emuStep m then d.emuDrive m 0 true else d.emuQuad m x).emuZ m
  | 1 => d.emuDrive m 0 false
  | _ => d.emuDrive m 1 (x ≠ 0)

section
variable (d : Dev) (m : Nat) (x : Int)

theorem Dev.emuShow_objs (what : Nat) : (d.emuShow m what x).objs = d.objs := by
  unfold Dev.emuShow
  split
  · unfold Dev.emuZ Dev.emuQuad
    simp only [Dev.emuDrive_objs]
    split_ifs <;> simp only [Dev.emuDrive_objs] <;> rfl
  · exact Dev.emuDrive_objs _ _ _ _
  · exact Dev.emuDrive_objs _ _ _ _

/-- A count in quadrature: both balls show it. -/
theorem Dev.emuShow_quad (h : d.emuStep m = false) : ∃ z, (d.emuShow m 0 x).emuRt m =
    { d.emuRt m with shown := x, ema := x % 4 = 1 || x % 4 = 2, emb := x % 4 = 2 || x % 4 = 3, emz := z } := by
  have h' : (d.setEmu m { d.emuRt m with shown := x }).emuStep m = false := h
  refine ⟨((d.emuShow m 0 x).emuRt m).emz, ?_⟩
  simp only [Dev.emuShow, h', Bool.false_eq_true, if_false, Dev.emuZ, Dev.emuQuad, Dev.emuRt_emuDrive, Dev.emuRt_setEmu]
  rfl

/-- A count in step/direction: STEP rises. -/
theorem Dev.emuShow_step (h : d.emuStep m = true) : ∃ z, (d.emuShow m 0 x).emuRt m =
    { d.emuRt m with shown := x, ema := true, emz := z } := by
  have h' : (d.setEmu m { d.emuRt m with shown := x }).emuStep m = true := h
  refine ⟨((d.emuShow m 0 x).emuRt m).emz, ?_⟩
  simp only [Dev.emuShow, h', if_true, Dev.emuZ, Dev.emuRt_emuDrive, Dev.emuRt_setEmu]
  rfl

theorem Dev.emuShow_pulseEnd : (d.emuShow m 1 x).emuRt m = { d.emuRt m with ema := false } := d.emuRt_emuDrive m 0 false

theorem Dev.emuShow_direction {what : Nat} (h : 2 ≤ what) :
    (d.emuShow m what x).emuRt m = { d.emuRt m with emb := decide (x ≠ 0) } := by
  obtain ⟨k, rfl⟩ := Nat.exists_eq_add_of_le' h
  exact d.emuRt_emuDrive m 1 _

/-- What an emulation edge shows, by its kind. -/
theorem Dev.emuShow_acts (what : Nat) :
    let r := (d.emuShow m what x).emuRt m
    r.edges = (d.emuRt m).edges ∧
      (what = 0 → r.shown = x ∧ (d.emuStep m = false → r.ema = (x % 4 = 1 || x % 4 = 2) ∧ r.emb = (x % 4 = 2 || x % 4 = 3)) ∧
        (d.emuStep m = true → r.ema = true)) ∧
      (what = 1 → r.shown = (d.emuRt m).shown ∧ r.ema = false) ∧
      (2 ≤ what → r.shown = (d.emuRt m).shown ∧ r.emb = decide (x ≠ 0)) := by
  match what with
  | 0 =>
    cases he : d.emuStep m with
    | false =>
      obtain ⟨z, hz⟩ := d.emuShow_quad m x he
      simp [hz]
    | true =>
      obtain ⟨z, hz⟩ := d.emuShow_step m x he
      simp [hz]
  | 1 => simp [d.emuShow_pulseEnd]
  | k + 2 => simp [d.emuShow_direction m x (Nat.le_add_left 2 k)]

end

theorem exec_emulationEdge {s : State} {m t what : Nat} {x : Int} {rest : List (Nat × Nat × Int)} (hoff : s.pow.devState ≠ .off)
    (hm : s.dev.hasEmu m = true) (hedges : (s.dev.emuRt m).edges = (t, what, x) :: rest) (ht : t ≤ s.dev.nowQ + 31) :
    exec (.emulationEdge m) s = .next (s.onDev fun d => (d.setEmu m { d.emuRt m with edges := rest }).emuShow m what x) := by
  show execEmulationEdge m s = _
  rw [execEmulationEdge, served_on hoff]
  simp only [onDev, State.onDev, hedges, hm, ht, and_self, if_true]
  rfl

/-- An edge that is due leaves the list and shows on the balls. -/
theorem emulationEdge_shows {s : State} {m t what : Nat} {x : Int} {rest : List (Nat × Nat × Int)} (hoff : s.pow.devState ≠ .off)
    (hm : s.dev.hasEmu m = true) (hedges : (s.dev.emuRt m).edges = (t, what, x) :: rest) (ht : t ≤ s.dev.nowQ + 31) :
    Completes (.emulationEdge m) s fun u => (u.dev.emuRt m).edges = rest ∧ u.dev.objs = s.dev.objs ∧
      (what = 0 → (u.dev.emuRt m).shown = x ∧
        (s.dev.emuStep m = false → (u.dev.emuRt m).ema = (x % 4 = 1 || x % 4 = 2) ∧ (u.dev.emuRt m).emb = (x % 4 = 2 || x % 4 = 3)) ∧
        (s.dev.emuStep m = true → (u.dev.emuRt m).ema = true)) ∧
      (what = 1 → (u.dev.emuRt m).shown = (s.dev.emuRt m).shown ∧ (u.dev.emuRt m).ema = false) ∧
      (2 ≤ what → (u.dev.emuRt m).shown = (s.dev.emuRt m).shown ∧ (u.dev.emuRt m).emb = decide (x ≠ 0)) := by
  refine completes_of_eq (exec_emulationEdge hoff hm hedges ht) ?_
  rw [State.onDev_dev]
  obtain ⟨hrest, hcount, hpulse, hdir⟩ := (s.dev.setEmu m { s.dev.emuRt m with edges := rest }).emuShow_acts m x what
  rw [Dev.emuRt_setEmu] at hrest hpulse hdir
  exact ⟨hrest, Dev.emuShow_objs _ m x what, hcount, hpulse, hdir⟩

end Sys2Proof.Machine

namespace Sys2Proof

open Machine

/-- Settles O22: each clause is the rule of its input: the transition alone at its timestamp, the double transition, too few samples, the
step edge, the emulation edge, the input that does not decode. -/
theorem acceptedEdgesCount : Obligations.AcceptedEdgesCount := by
  unfold Obligations.AcceptedEdgesCount
  refine ⟨fun s n ts run lineB level hu hn hq hline hrun hz => ?_, fun s n ts run lineB level hrun => exec_unaccepted hrun ts lineB level,
    fun s n ts run rising hu hn hsrc hmode hrun => ?_, fun s m t what x rest hoff hm hedges ht => emulationEdge_shows hoff hm hedges ht,
    fun s n ts run lineB level hu hn hoff hrun hz hsingle => encoderTransition_uncounted lineB level hu hn hrun hz hoff hsingle⟩
  · refine ⟨fun hsingle => ⟨fun k hk hk0 => ?_, ?_⟩, fun l hl ht hb hs hpre => ⟨fun hno => ?_, fun hinf hseen hfast => ?_⟩⟩
    · exact encoderTransition_counts lineB level hu hn hrun hz hq hline hsingle hk0 hk
    · exact encoderTransition_still lineB level hu hn hrun hz hq hline hsingle
    · exact encoderTransition_lost lineB level hu hn hrun hz hq hline hl ht hb hs hpre hno
    · exact encoderTransition_inferred lineB level hu hn hrun hz hq hline hl ht hb hs hpre hinf hseen hfast
  · exact ⟨fun hchosen hline => stepEdge_kept rising ts hu hn hsrc hmode hrun hchosen hline,
      fun hdrop => stepEdge_dropped rising ts hu hn hsrc hmode hrun hdrop⟩

end Sys2Proof

namespace Sys2Proof.Machine

/-! ## The table of the despatch unit (R142, R143, Table 5-5) -/

section
variable (d : Dev) (ls : List Letter)

/-- A table set shows in FILL, HIGH_WATER and NEXT_DUE alone. -/
theorem Dev.setTable_same : d.SlotsSame (d.setTable ls) [K.FILL, K.HIGH_WATER, K.NEXT_DUE] :=
  ((((Dev.SlotsSame.refl d _).of_rd fun _ => rfl).wr _ (by simp)).wr _ (by simp)).wr _ (by simp)

/-- FILL shows how many letters the table holds. -/
theorem Dev.setTable_fill : (d.setTable ls).rd K.FILL = ls.length % 2 ^ 64 :=
  (Dev.rd_wr_ne _ _ (by simp)).trans ((Dev.rd_wr_ne _ _ (by simp)).trans (Dev.rd_wr_self _ _ _))

end

theorem insertLetter_length (l : Letter) (t : List Letter) : (insertLetter l t).length = t.length + 1 := by
  induction t with
  | nil => rfl
  | cons x rest ih =>
    unfold insertLetter
    split_ifs
    · rfl
    · simp [ih]

/-! ## Events and refusals of the despatch unit (Table 5-6) -/

section
variable (d : Dev) (l : Letter)

theorem Dev.despEvent_frame (type x : Nat) : ∃ o m f, d.despEvent type x l = { d with objs := o, mail := m, flt := f } :=
  d.event_frame _ _ _ _ _

theorem Dev.despEvent_rd (type x : Nat) {k : Nat} (hk : postingSlot k = false) : (d.despEvent type x l).rd k = d.rd k :=
  Dev.event_rd _ _ _ _ _ _ _ (by decide) hk

@[simp] theorem Dev.despEvent_axes (type x : Nat) : (d.despEvent type x l).axes = d.axes := d.event_axes _ _ _ _ _

@[simp] theorem Dev.despEvent_desp (type x : Nat) : (d.despEvent type x l).desp = d.desp := by
  obtain ⟨o, m, f, h⟩ := d.despEvent_frame l type x
  rw [h]

@[simp] theorem Dev.refuseLetter_axes (reason : Nat) : (d.refuseLetter l reason).axes = d.axes := Dev.despEvent_axes _ _ _ _

@[simp] theorem Dev.refuseLetter_desp (reason : Nat) : (d.refuseLetter l reason).desp = d.desp := Dev.despEvent_desp _ _ _ _

/-- A refused letter counts in REFUSED. -/
theorem Dev.refuseLetter_counts (reason : Nat) :
    (d.refuseLetter l reason).rd K.REFUSED_3000 = (d.rd K.REFUSED_3000 + 1) % 2 ^ 32 := by
  rw [Dev.refuseLetter, Dev.despEvent_rd _ _ _ _ (postingSlot_outside (by decide)), Dev.rd_count, if_pos rfl]

theorem Dev.refuseLetter_rd (reason : Nat) {k : Nat} (hk : k ≠ K.REFUSED_3000) (hp : postingSlot k = false) :
    (d.refuseLetter l reason).rd k = d.rd k := by
  rw [Dev.refuseLetter, Dev.despEvent_rd _ _ _ _ hp, Dev.rd_count, if_neg hk.symm]

end

/-! ## A letter arrives (R139 to R145) -/

/-- The device with the number of the letter that was granted last. -/
def Dev.numbered (d : Dev) (k : Nat) : Dev := { d with desp := { d.desp with number := k } }

/-- A timed letter that breaks no rule of R138 to R145 and finds room in the table. -/
def Dev.MayHold (d : Dev) (l : Letter) (arr : Nat) : Prop :=
  l.bad = false ∧ l.list.all d.hasAxis = true ∧ l.immediate = false ∧ 2 ≤ d.rd K.TSTATE ∧
    l.due ≤ arr + 1000000 * d.rd K.HORIZON ∧ arr + d.lead l ≤ l.due ∧ d.desp.table.length < 2048

section
variable {d : Dev} {b : Bytes} {arr : Nat} {post : Bool} (mem : List Host.Cell)

theorem Dev.arrive_held (h : d.MayHold (d.granted b arr post) arr) : d.arrive mem b arr post =
    ((d.numbered (d.granted b arr post).k).setTable (insertLetter (d.granted b arr post) d.desp.table)).count K.ACCEPTED := by
  obtain ⟨hbad, haxes, himm, htime, hhorizon, hlead, hroom⟩ := h
  have hbad' : ¬ (d.granted b arr post).bad = true := by simp [hbad]
  have himm' : ¬ (d.granted b arr post).immediate = true := by simp [himm]
  exact (if_neg hbad').trans <| (if_neg (not_not.2 haxes)).trans <| (if_neg himm').trans <| (if_neg (not_lt.2 htime)).trans <|
    (if_neg (not_lt.2 hhorizon)).trans <| (if_neg (not_lt.2 hlead)).trans <| if_neg (not_le.2 hroom)

theorem Dev.arrive_bad (h : (d.granted b arr post).bad = true) : d.arrive mem b arr post =
    (d.numbered (d.granted b arr post).k).refuseLetter (d.granted b arr post) 1 := if_pos h

/-- A body of one letter. -/
theorem Dev.arriveAll_one (h : b.length = 32) : d.arriveAll mem b arr = d.arrive mem b arr := by
  have hone : lettersOf 1 b = [b] := by simp [lettersOf, h]
  simp [Dev.arriveAll, h, hone]

end

/-- The letter is held in key order and counts in ACCEPTED and FILL (R142, R143). -/
def State.LetterHeld (s : State) (l : Letter) (u : State) : Prop :=
  u.dev.desp.table = insertLetter l s.dev.desp.table ∧ u.dev.desp.number = (s.dev.desp.number + 1) % 2 ^ 32 ∧
    u.dev.rd K.ACCEPTED = (s.dev.rd K.ACCEPTED + 1) % 2 ^ 32 ∧ u.dev.rd K.FILL = s.dev.desp.table.length + 1 ∧
    u.dev.axes = s.dev.axes ∧ SlotsKept s u [K.ACCEPTED, K.FILL, K.HIGH_WATER, K.NEXT_DUE]

/-- A letter is refused as a whole and counts in REFUSED (R138, R143). -/
def State.LetterRefused (s u : State) : Prop :=
  u.dev.desp.table = s.dev.desp.table ∧ u.dev.axes = s.dev.axes ∧
    u.dev.rd K.REFUSED_3000 = (s.dev.rd K.REFUSED_3000 + 1) % 2 ^ 32 ∧ SlotsKept s u [K.REFUSED_3000]

section
variable {s : State} {c : Instr} {b : Bytes} {arr : Nat} {post : Bool}
  (hc : exec c s = .next (s.onDev fun d => d.arrive s.mem b arr post))
include hc

/-- A command by which one letter arrives: one that breaks no rule is held. -/
theorem letter_held (h : s.dev.MayHold (s.dev.granted b arr post) arr) :
    Completes c s (s.LetterHeld (s.dev.granted b arr post)) := by
  refine completes_of_eq hc ?_
  have ⟨_, _, _, _, _, _, hroom⟩ := h
  generalize hu : s.onDev _ = u
  have hdev : u.dev = _ := (congrArg State.dev hu).symm.trans (Dev.arrive_held s.mem h)
  unfold State.LetterHeld
  rw [hdev]
  have hsame := (s.dev.numbered (s.dev.granted b arr post).k).setTable_same (insertLetter (s.dev.granted b arr post) s.dev.desp.table)
  refine ⟨rfl, rfl, ?_, ?_, rfl, slotsKept_of_same ?_⟩
  · rw [Dev.rd_count, if_pos rfl, hsame _ (by decide)]
    rfl
  · rw [Dev.rd_count, if_neg (by decide), Dev.setTable_fill, insertLetter_length, Nat.mod_eq_of_lt (by omega)]
  · rw [hdev]
    exact ((((Dev.SlotsSame.refl s.dev []).of_rd fun _ => rfl).mono (by simp)).trans (hsame.mono (by simp))).wr _ (by simp)

/-- A command by which one letter arrives: one that breaks the layout rules is refused. -/
theorem letter_refused (h : (s.dev.granted b arr post).bad = true) : Completes c s s.LetterRefused := by
  refine completes_of_eq hc ?_
  generalize hu : s.onDev _ = u
  have hdev : u.dev = _ := (congrArg State.dev hu).symm.trans (Dev.arrive_bad s.mem h)
  unfold State.LetterRefused
  rw [hdev]
  refine ⟨?_, ?_, ?_, fun k hk hp => ?_⟩
  · rw [Dev.refuseLetter_desp]
    rfl
  · rw [Dev.refuseLetter_axes]
    rfl
  · rw [Dev.refuseLetter_counts]
    rfl
  · rw [hdev, Dev.refuseLetter_rd _ _ _ (by simpa using hk) hp]
    rfl

end

/-! ## The three senders (R139 to R141) -/

section
variable {s : State} {b : Bytes} (hoff : s.pow.devState ≠ .off) (hb : b.length = 32)
include hoff hb

theorem exec_letterEnvelope {port src : Nat} (hport : port < 2) (hsrc : src < 2 ^ 48) (arr : Nat) :
    exec (.letterEnvelope port src arr b) s = .next (s.onDev fun d => d.arrive s.mem b arr false) := by
  have hpresent : port < if s.dev.part.full = true then 3 else 2 := by
    split_ifs
    · omega
    · exact hport
  show execLetterEnvelope port src arr b s = _
  rw [execLetterEnvelope, served_on hoff]
  simp only [State.onDev, if_pos (And.intro hsrc hpresent), Dev.arriveAll_one s.mem hb]

theorem exec_letterSubmission {ofs : Nat} (hofs : ofs < 0x10000) (hslot : ofs % 32 = 0) (hup : s.dev.hostUp = true) :
    exec (.letterSubmission ofs b) s = .next (s.onDev fun d => d.arrive s.mem b s.dev.nt false) := by
  show execLetterSubmission ofs b s = _
  rw [execLetterSubmission, served_on hoff]
  have hwindow : ¬ (¬ s.dev.hostUp = true ∨ 0x10000 ≤ ofs) := by simp [hup, hofs]
  simp only [State.onDev, if_neg hwindow, hslot, ne_eq, not_true_eq_false, if_false, Dev.arriveAll_one s.mem hb]

theorem exec_postmasterLetter (htag : 0xFF00 ≤ ofLe (slice b 10 2)) (hrun : s.dev.post.halted = none) :
    exec (.postmasterLetter b) s = .next (s.onDev fun d => d.arrive s.mem b s.dev.nt true) := by
  show execPostmasterLetter b s = _
  rw [execPostmasterLetter, served_on hoff]
  simp only [State.onDev, if_pos (And.intro htag (And.intro hb (show s.dev.post.halted.isNone = true by rw [hrun]; rfl)))]

end

end Sys2Proof.Machine

namespace Sys2Proof

open Sys2Proof.Machine

/-- Settles O26: each of the three senders hands over one letter, which is held or refused as it is judged. -/
theorem lettersArriveInTheTable : Obligations.LettersArriveInTheTable := by
  unfold Obligations.LettersArriveInTheTable
  intro s b arr post hoff hb
  refine ⟨fun port src hpost hport hsrc => ?_, fun ofs hpost hofs hslot hup harr => ?_, fun hpost htag hrun harr => ?_⟩
  · subst hpost
    have hc := exec_letterEnvelope hoff hb hport hsrc arr
    exact ⟨letter_held hc, letter_refused hc⟩
  · subst hpost harr
    have hc := exec_letterSubmission hoff hb hofs hslot hup
    exact ⟨letter_held hc, letter_refused hc⟩
  · subst hpost harr
    have hc := exec_postmasterLetter hoff hb htag hrun
    exact ⟨letter_held hc, letter_refused hc⟩

end Sys2Proof

namespace Sys2Proof.Machine

/-! ## Inboxes of a list of axes -/

/-- A change of the inbox of one axis. -/
def Dev.mapInbox (f : List Letter → List Letter) (d : Dev) (n : Nat) : Dev := d.setAxis n { d.axis n with inbox := f (d.axis n).inbox }

/-- The inboxes of the axes of a list changed in turn: the axes alone change. -/
theorem Dev.mapInboxes_frame (f : List Letter → List Letter) (ns : List Nat) (d : Dev) :
    ∃ x, ns.foldl (Dev.mapInbox f) d = { d with axes := x } :=
  foldl_frame (fun a b => ∃ x, b = { a with axes := x }) (fun _ => ⟨_, rfl⟩) (by rintro a _ _ ⟨x, rfl⟩ ⟨y, rfl⟩; exact ⟨y, rfl⟩) _
    (fun _ _ => ⟨_, rfl⟩) ns d

section
variable (f : List Letter → List Letter) (ns : List Nat) (d : Dev)

@[simp] theorem Dev.mapInboxes_rd (k : Nat) : (ns.foldl (Dev.mapInbox f) d).rd k = d.rd k := by
  obtain ⟨x, h⟩ := Dev.mapInboxes_frame f ns d
  rw [h]
  rfl

@[simp] theorem Dev.mapInboxes_objs : (ns.foldl (Dev.mapInbox f) d).objs = d.objs := by
  obtain ⟨x, h⟩ := Dev.mapInboxes_frame f ns d
  rw [h]

@[simp] theorem Dev.mapInboxes_nt : (ns.foldl (Dev.mapInbox f) d).nt = d.nt := by
  obtain ⟨x, h⟩ := Dev.mapInboxes_frame f ns d
  rw [h]

@[simp] theorem Dev.mapInboxes_desp : (ns.foldl (Dev.mapInbox f) d).desp = d.desp := by
  obtain ⟨x, h⟩ := Dev.mapInboxes_frame f ns d
  rw [h]

end

/-- Each axis of the list has its inbox changed once, and no other axis changes. -/
theorem Dev.mapInboxes_axis (f : List Letter → List Letter) (ns : List Nat) (hns : ns.Nodup) : ∀ (d : Dev) (m : Nat),
    (ns.foldl (Dev.mapInbox f) d).axis m = if m ∈ ns then { d.axis m with inbox := f (d.axis m).inbox } else d.axis m := by
  induction ns with
  | nil => simp
  | cons n t ih =>
    intro d m
    obtain ⟨hn, ht⟩ := List.nodup_cons.1 hns
    rw [List.foldl_cons, ih ht]
    by_cases h : n = m
    · subst h
      simp [hn, Dev.mapInbox]
    · simp [Dev.mapInbox, Dev.axis_setAxis_ne _ _ h, Ne.symm h]

theorem Letter.list_nodup (l : Letter) : l.list.Nodup := List.nodup_range.filter _

/-- What a letter meets on an axis rests on the motion, the switches and the homing of the axis and on slots beyond the despatch unit's,
not on the inbox. -/
theorem Dev.meets_congr {a b : Dev} {n : Nat} (hax : ∃ x, b.axis n = { a.axis n with inbox := x }) (hnt : b.nt = a.nt)
    (hrd : ∀ k, 0x3001 * 256 ≤ k → b.rd k = a.rd k) (l : Letter) : b.meets n l = a.meets n l := by
  obtain ⟨x, hx⟩ := hax
  have hmot : b.mot n = a.mot n := by rw [Dev.mot, hx, Dev.mot]
  have hsw : b.sw n = a.sw n := by rw [Dev.sw, hx, Dev.sw]
  have hhome : b.home n = a.home n := by rw [Dev.home, hx, Dev.home]
  have hstate := hrd (K.STATE_4000 n) (by lia)
  have hcontrol := hrd (K.CONTROL n) (by lia)
  have hswitch := hrd (K.SW_STATE n) (by lia)
  have hcfg := hrd (K.SW_CFG n) (by lia)
  have htarget := hrd (K.TARGET n) (by lia)
  have hvlim := hrd (K.V_LIM n) (by lia)
  have hpolicy := hrd (K.POLICY_3001 n) (by lia)
  have hpat (p : Nat) := hrd (K.STATE_3100 p) (by lia)
  have hvel (p : Nat) := hrd (K.MAX_VEL p) (by lia)
  have hlive : b.axLive n = a.axLive n := by rw [Dev.axLive, Dev.axLive, Dev.axState, Dev.axState, hstate]
  have hquick : b.inQuickStop n = a.inQuickStop n := by rw [Dev.inQuickStop, Dev.inQuickStop, Dev.bit_congr hcontrol, hmot]
  have hcmd : b.cmdPos n = a.cmdPos n := by rw [Dev.cmdPos, Dev.cmdPos, hmot]
  have hlimit : b.limitOn n = a.limitOn n := by
    funext i t
    rw [Dev.limitOn, Dev.limitOn, Dev.switchActive, Dev.switchActive, Dev.bit_congr hcfg, Dev.bit_congr hcfg, hsw]
  have hlimits (t : Nat) : b.limitRefuses n t l = a.limitRefuses n t l := by
    rw [Dev.limitRefuses, Dev.limitRefuses, hlimit, Dev.targetOf_congr hmot htarget, hcmd, Dev.bit_congr hswitch, Dev.bit_congr hswitch]
  have hstart : b.startRefusal n l = a.startRefusal n l := by
    rw [Dev.startRefusal, Dev.startRefusal, hlive, Dev.bit_congr hcontrol, hmot, hquick, hlimits, hhome, hnt]
  have hprime : b.patRefusal n l.prime = a.patRefusal n l.prime := by
    rw [Dev.patRefusal, Dev.patRefusal, hpat, hvel, hvlim]
  have hconflict : b.conflict n l = a.conflict n l := by
    rw [Dev.conflict, Dev.conflict, Dev.conflicts, Dev.conflicts, hmot, hpolicy]
  rw [Dev.meets, Dev.meets, hstart, hprime, hconflict, hlive]

/-! ## An ALL_OR_NONE letter is decided (R150) -/

/-- A letter marked as decided where it stands in an inbox. -/
def markDecided (k : Nat) (box : List Letter) : List Letter := box.map fun x => if x.k = k then { x with decided := true } else x

/-- Every axis accepts: the letter is decided in the inboxes of its axes. -/
theorem Dev.decideAll_accepted {d : Dev} {l : Letter} (h : d.allRefuse l = false) :
    d.decideAll l = l.list.foldl (Dev.mapInbox (markDecided l.k)) d := by
  rw [Dev.decideAll, if_neg (by simp [h])]
  rfl

/-- An axis refuses: the letter leaves every inbox, and the refusals are reported. -/
theorem Dev.decideAll_refused {d : Dev} {l : Letter} (h : d.allRefuse l = true) : d.decideAll l = (d.unbox l.k).reportAll l := if_pos h

/-- A letter leaves the inboxes of the axes of a list. -/
theorem Dev.unboxAxes_leaves (k : Nat) (d : Dev) (ns : List Nat) :
    ∀ n ∈ ns, ∀ x ∈ ((ns.foldl (fun d n => (d.unboxed n k).wakeCheck n) d).axis n).inbox, x.k ≠ k := by
  induction ns using List.reverseRecOn with
  | nil => simp
  | append_singleton ns m ih =>
    intro n hn x hx
    rw [List.foldl_append, List.foldl_cons, List.foldl_nil, (Dev.wakeCheck_inbox _ m n).1] at hx
    by_cases h : n = m
    · subst h
      rw [Dev.unboxed_inbox] at hx
      simpa using (List.mem_filter.1 hx).2
    · rw [Dev.unboxed_axis _ _ _ h] at hx
      exact ih n (by simpa [h] using hn) x hx

theorem Dev.unbox_eq (d : Dev) (k : Nat) : d.unbox k = d.axisList.foldl (fun d n => (d.unboxed n k).wakeCheck n) d := rfl

theorem Dev.unbox_refusals (d : Dev) (k : Nat) : (d.unbox k).rd K.REFUSED_3000 = d.rd K.REFUSED_3000 := by
  have hturn (e : Dev) (n : Nat) : ((e.unboxed n k).wakeCheck n).rd K.REFUSED_3000 = e.rd K.REFUSED_3000 :=
    (Dev.wakeCheck_rd _ n (by lia)).trans rfl
  rw [Dev.unbox_eq]
  exact foldl_keeps (fun d => d.rd K.REFUSED_3000) _ hturn _ d

/-- A slice that reports a refusal changes no axis, and REFUSED does not count it. -/
theorem Dev.reportRefusal_frame (d : Dev) (n : Nat) (l : Letter) (m : Meets) :
    (d.reportRefusal n l m).axes = d.axes ∧ (d.reportRefusal n l m).rd K.REFUSED_3000 = d.rd K.REFUSED_3000 := by
  have hp : postingSlot K.REFUSED_3000 = false := postingSlot_outside (by decide)
  have hset : (d.setBit (K.EVENTS n) 6 true).rd K.REFUSED_3000 = d.rd K.REFUSED_3000 := Dev.rd_setBit_ne _ _ _ (by lia)
  cases m with
  | refused r =>
    unfold Dev.reportRefusal Dev.refuse Dev.motEvent
    dsimp only
    split_ifs
    · exact ⟨Dev.event_axes _ _ _ _ _ _, (Dev.event_rd _ _ _ _ _ _ _ (Dev.sliceOf_lt _ _) hp).trans hset⟩
    · exact ⟨rfl, hset⟩
  | patRefused r => exact ⟨Dev.event_axes _ _ _ _ _ _, Dev.event_rd _ _ _ _ _ _ _ (Dev.sliceOf_lt _ _) hp⟩
  | acts => exact ⟨rfl, rfl⟩
  | waits => exact ⟨rfl, rfl⟩
  | preempts => exact ⟨rfl, rfl⟩

/-- The refusals of an ALL_OR_NONE letter reported: the letter counts in REFUSED once, and no axis changes. -/
theorem Dev.reportAll_counts (d : Dev) (l : Letter) : (d.reportAll l).axes = d.axes ∧
    (d.reportAll l).rd K.REFUSED_3000 = (d.rd K.REFUSED_3000 + 1) % 2 ^ 32 := by
  have haxes := foldl_keeps Dev.axes (fun d n => d.reportRefusal n l (d.meets n l)) (fun d n => (d.reportRefusal_frame n l _).1) l.list d
  have hcount := foldl_keeps (fun d => d.rd K.REFUSED_3000) (fun d n => d.reportRefusal n l (d.meets n l))
    (fun d n => (d.reportRefusal_frame n l _).2) l.list d
  rw [Dev.reportAll]
  refine ⟨(Dev.refuseLetter_axes _ _ _).trans haxes, (Dev.refuseLetter_counts _ _ _).trans ?_⟩
  rw [hcount]

theorem exec_allOrNoneDecision {s : State} {l : Letter} (hoff : s.pow.devState ≠ .off)
    (h : ((s.dev.axisList.flatMap fun n => (s.dev.axis n).inbox).find? fun x =>
      x.allOrNone && !x.decided && !x.queued && decide (decisionAt x.due ≤ s.dev.nt + 7)) = some l) :
    exec .allOrNoneDecision s = .next (s.onDev fun d => d.decideAll l) := by
  show execAllOrNoneDecision s = _
  rw [execAllOrNoneDecision, served_on hoff]
  simp only [onDev, State.onDev, h]

section
variable {s : State} {l : Letter} (hc : exec .allOrNoneDecision s = .next (s.onDev fun d => d.decideAll l))
include hc

/-- A letter that every axis accepts is decided where it stands. -/
theorem allOrNoneDecision_accepted (h : s.dev.allRefuse l = false) :
    Completes .allOrNoneDecision s fun u => u.dev.objs = s.dev.objs ∧
      ∀ n ∈ l.list, (u.dev.axis n).inbox = markDecided l.k (s.dev.axis n).inbox := by
  refine completes_of_eq hc ?_
  rw [State.onDev_dev, Dev.decideAll_accepted h]
  exact ⟨Dev.mapInboxes_objs _ _ _, fun n hn => by rw [Dev.mapInboxes_axis _ _ l.list_nodup, if_pos hn]⟩

/-- A letter that an axis refuses leaves every inbox and counts in REFUSED. -/
theorem allOrNoneDecision_refused (h : s.dev.allRefuse l = true) :
    Completes .allOrNoneDecision s fun u => u.dev.rd K.REFUSED_3000 = (s.dev.rd K.REFUSED_3000 + 1) % 2 ^ 32 ∧
      ∀ n ∈ s.dev.axisList, ∀ x ∈ (u.dev.axis n).inbox, x.k ≠ l.k := by
  refine completes_of_eq hc ?_
  rw [State.onDev_dev, Dev.decideAll_refused h]
  obtain ⟨haxes, hcount⟩ := (s.dev.unbox l.k).reportAll_counts l
  refine ⟨by rw [hcount, Dev.unbox_refusals], fun n hn x hx => ?_⟩
  rw [Dev.axis_congr haxes, Dev.unbox_eq] at hx
  exact Dev.unboxAxes_leaves l.k s.dev _ n hn x hx

end

/-! ## A letter is released (R146) -/

/-- A letter taken out of the table into the inboxes of its axes. -/
def Dev.released (d : Dev) (l : Letter) (rest : List Letter) : Dev := l.list.foldl (Dev.mapInbox (insertLetter l)) (d.setTable rest)

section
variable (d : Dev) (l : Letter) (rest : List Letter)

theorem Dev.released_axis (n : Nat) : (d.released l rest).axis n =
    if n ∈ l.list then { d.axis n with inbox := insertLetter l (d.axis n).inbox } else d.axis n :=
  Dev.mapInboxes_axis _ _ l.list_nodup _ n

@[simp] theorem Dev.released_table : (d.released l rest).desp.table = rest :=
  congrArg (fun x => x.table) (Dev.mapInboxes_desp _ _ (d.setTable rest))

theorem Dev.released_same : d.SlotsSame (d.released l rest) [K.FILL, K.HIGH_WATER, K.NEXT_DUE] :=
  (d.setTable_same rest).of_rd fun _ => Dev.mapInboxes_rd _ _ _ _

@[simp] theorem Dev.released_nt : (d.released l rest).nt = d.nt := Dev.mapInboxes_nt _ _ _

/-- Its axes judge a letter that has been released as they did before. -/
theorem Dev.released_allRefuse : (d.released l rest).allRefuse l = d.allRefuse l := by
  have hmeets (n : Nat) : (d.released l rest).meets n l = d.meets n l := by
    refine Dev.meets_congr ?_ (d.released_nt l rest) (fun k hk => d.released_same l rest k ?_) l
    · rw [Dev.released_axis]
      split_ifs
      · exact ⟨_, rfl⟩
      · exact ⟨(d.axis n).inbox, rfl⟩
    · simp only [List.mem_cons, List.not_mem_nil, or_false]
      lia
  simp only [Dev.allRefuse, hmeets]

end

section
variable {s : State} {l : Letter} {rest : List Letter} (hoff : s.pow.devState ≠ .off)
  (hfind : s.dev.findRelease [] s.dev.desp.table = some (l, rest))
include hoff hfind

theorem exec_letterRelease : exec .letterRelease s = .next (s.onDev fun d =>
    if l.allOrNone = true ∧ decisionAt l.due < d.nt then (d.released l rest).decideAll l else d.released l rest) := by
  show execLetterRelease s = _
  rw [execLetterRelease, served_on hoff]
  simp only [onDev, State.onDev, hfind]
  conv_rhs => rw [← s.dev.released_nt l rest]
  rfl

/-- A released letter that is not decided yet stands in key order in the inbox of each of its axes. -/
theorem letterRelease_boxed (h : l.allOrNone = false ∨ s.dev.nt ≤ decisionAt l.due) :
    Completes .letterRelease s fun u => u.dev.desp.table = rest ∧
      (∀ n ∈ l.list, (u.dev.axis n).inbox = insertLetter l (s.dev.axis n).inbox) ∧
      (∀ n, n ∉ l.list → u.dev.axis n = s.dev.axis n) ∧ SlotsKept s u [K.FILL, K.HIGH_WATER, K.NEXT_DUE] := by
  refine completes_of_eq (exec_letterRelease hoff hfind) ?_
  have hopen : ¬ (l.allOrNone = true ∧ decisionAt l.due < s.dev.nt) := by
    rintro ⟨hall, hlate⟩
    rcases h with h | h
    · simp [h] at hall
    · omega
  generalize hu : s.onDev _ = u
  have hdev : u.dev = s.dev.released l rest := (congrArg State.dev hu).symm.trans (if_neg hopen)
  refine ⟨?_, fun n hn => ?_, fun n hn => ?_, slotsKept_of_same ?_⟩
  · rw [hdev, Dev.released_table]
  · rw [hdev, Dev.released_axis, if_pos hn]
  · rw [hdev, Dev.released_axis, if_neg hn]
  · rw [hdev]
    exact s.dev.released_same l rest

/-- An ALL_OR_NONE letter whose decision instant has passed, and which every axis accepts, is decided as it is released. -/
theorem letterRelease_decided (hall : l.allOrNone = true) (hlate : decisionAt l.due < s.dev.nt) (hacc : s.dev.allRefuse l = false) :
    Completes .letterRelease s fun u => u.dev.desp.table = rest ∧
      (∀ n ∈ l.list, (u.dev.axis n).inbox = markDecided l.k (insertLetter l (s.dev.axis n).inbox)) ∧
      (∀ n, n ∉ l.list → u.dev.axis n = s.dev.axis n) ∧ SlotsKept s u [K.FILL, K.HIGH_WATER, K.NEXT_DUE] := by
  refine completes_of_eq (exec_letterRelease hoff hfind) ?_
  generalize hu : s.onDev _ = u
  have hdev : u.dev = l.list.foldl (Dev.mapInbox (markDecided l.k)) (s.dev.released l rest) :=
    (congrArg State.dev hu).symm.trans <| (if_pos ⟨hall, hlate⟩).trans <|
      Dev.decideAll_accepted ((s.dev.released_allRefuse l rest).trans hacc)
  refine ⟨?_, fun n hn => ?_, fun n hn => ?_, slotsKept_of_same ?_⟩
  · rw [hdev, Dev.mapInboxes_desp, Dev.released_table]
  · rw [hdev, Dev.mapInboxes_axis _ _ l.list_nodup, if_pos hn, Dev.released_axis, if_pos hn]
  · rw [hdev, Dev.mapInboxes_axis _ _ l.list_nodup, if_neg hn, Dev.released_axis, if_neg hn]
  · rw [hdev]
    exact (s.dev.released_same l rest).of_rd fun _ => Dev.mapInboxes_rd _ _ _ _

end

/-! ## A late letter is dropped (R151) -/

/-- A late letter with LATE_DROP, or under LATE_POLICY 0, is counted and reported alone. -/
theorem Dev.lateLetter_dropped {d : Dev} {l : Letter} (h : l.lateDrop = true ∨ d.rd K.LATE_POLICY = 0) (mem : List Host.Cell) (late : Nat)
    (arrival : Bool) : d.lateLetter mem l late arrival = (d.count K.LATE).despEvent 0x0202 0 l := by
  have hpolicy : (d.count K.LATE).rd K.LATE_POLICY = d.rd K.LATE_POLICY := by rw [Dev.rd_count, if_neg (by decide)]
  exact if_pos (by rwa [hpolicy])

/-- A late letter of the table that is to be dropped counts in LATE and acts on no axis. -/
theorem lateLetter_dropped {s : State} {l : Letter} (hoff : s.pow.devState ≠ .off)
    (hfind : (s.dev.desp.table.find? fun x => x.due ≤ s.dev.nt + 7 && (x.action ≠ 5 || decide (x.due + 8 ≤ s.dev.nt))) = some l)
    (hdrop : l.lateDrop = true ∨ s.dev.rd K.LATE_POLICY = 0) :
    Completes .lateLetter s fun u => u.dev.desp.table = s.dev.desp.table.filter (fun x => x.k ≠ l.k) ∧
      u.dev.rd K.LATE = (s.dev.rd K.LATE + 1) % 2 ^ 32 ∧ u.dev.axes = s.dev.axes ∧
      SlotsKept s u [K.LATE, K.FILL, K.HIGH_WATER, K.NEXT_DUE] := by
  have hsame := s.dev.setTable_same (s.dev.desp.table.filter fun x => x.k ≠ l.k)
  have hc : exec .lateLetter s = .next (s.onDev fun d =>
      ((d.setTable (d.desp.table.filter fun x => x.k ≠ l.k)).count K.LATE).despEvent 0x0202 0 l) := by
    show execLateLetter s = _
    rw [execLateLetter, served_on hoff]
    simp only [State.onDev, hfind]
    rw [Dev.lateLetter_dropped (hdrop.imp_right fun h => (hsame _ (by decide)).trans h)]
  refine completes_of_eq hc ?_
  generalize hu : s.onDev _ = u
  have hdev : u.dev = _ := (congrArg State.dev hu).symm
  simp only [State.onDev_dev] at hdev
  refine ⟨?_, ?_, ?_, fun k hk hp => ?_⟩
  · rw [hdev, Dev.despEvent_desp]
    rfl
  · rw [hdev, Dev.despEvent_rd _ _ _ _ (postingSlot_outside (by decide)), Dev.rd_count, if_pos rfl, hsame _ (by decide)]
  · rw [hdev, Dev.despEvent_axes]
    rfl
  · rw [List.mem_cons, not_or] at hk
    obtain ⟨hlate, hkeep⟩ := hk
    rw [hdev, Dev.despEvent_rd _ _ _ _ hp, Dev.rd_count, if_neg (Ne.symm hlate), hsame k hkeep]

end Sys2Proof.Machine

namespace Sys2Proof.Machine

/-! ## What a go of another axis leaves (R171) -/

/-- A slot that the franker reads at a go of axis n, beyond the reach of another axis's go: PRIME of the axis, or a slot of the quarters and
legs that has not the subindex of a pattern's USE. -/
abbrev GoSlot (n k : Nat) : Prop := k = K.PRIME n ∨ 0x5000 * 256 ≤ k ∧ k % 256 ≠ 0x09

/-- What the franker's work on another axis leaves of axis n: its record, its legs, what its go rests on. -/
structure Dev.Apart (n : Nat) (a b : Dev) : Prop where
  axis : b.axis n = a.axis n
  legs : ∀ l, l / 4 = n → b.leg l = a.leg l
  quarters : b.quarters = a.quarters
  nt : b.nt = a.nt
  ticks : b.ticks = a.ticks
  slots : ∀ k, GoSlot n k → b.rd k = a.rd k

namespace Dev.Apart

theorem refl (n : Nat) (a : Dev) : Apart n a a := ⟨rfl, fun _ _ => rfl, rfl, rfl, rfl, fun _ _ => rfl⟩

section
variable {n : Nat} {a b : Dev}

theorem trans {c : Dev} (h : Apart n a b) (h' : Apart n b c) : Apart n a c :=
  ⟨h'.axis.trans h.axis, fun l hl => (h'.legs l hl).trans (h.legs l hl), h'.quarters.trans h.quarters, h'.nt.trans h.nt,
    h'.ticks.trans h.ticks, fun k hk => (h'.slots k hk).trans (h.slots k hk)⟩

theorem ite {p : Prop} [Decidable p] {x y : Dev} (hx : Apart n a x) (hy : Apart n a y) : Apart n a (if p then x else y) := by
  split_ifs
  · exact hx
  · exact hy

theorem wr (h : Apart n a b) (k v : Nat) (hk : ¬ GoSlot n k := by lia) : Apart n a (b.wr k v) :=
  ⟨h.axis, h.legs, h.quarters, h.nt, h.ticks, fun x hx => (Dev.rd_wr_ne _ _ (by rintro rfl; exact hk hx)).trans (h.slots x hx)⟩

theorem setLeg (h : Apart n a b) {l : Nat} (hl : l / 4 ≠ n) (r : LegRt) : Apart n a (b.setLeg l r) :=
  ⟨h.axis, fun x hx => (b.leg_setLeg_ne r (by rintro rfl; exact hl hx)).trans (h.legs x hx), h.quarters, h.nt, h.ticks, h.slots⟩

theorem setCoil (h : Apart n a b) (c : Nat) (r : CoilRt) : Apart n a (b.setCoil c r) :=
  ⟨h.axis, h.legs, h.quarters, h.nt, h.ticks, h.slots⟩

theorem event (h : Apart n a b) {src : Nat} (hs : src < 64) (type obj nt : Nat) (p : Bytes) :
    Apart n a (b.event src type obj nt p) := by
  have hslots : ∀ k, GoSlot n k → (b.event src type obj nt p).rd k = b.rd k := fun k hk =>
    b.event_rd src type obj nt p k hs (postingSlot_outside (by lia))
  obtain ⟨o, ml, f, he⟩ := b.event_frame src type obj nt p
  rw [he] at hslots ⊢
  exact h.trans ⟨rfl, fun _ _ => rfl, rfl, rfl, rfl, hslots⟩

theorem patEvent (h : Apart n a b) (m p type nt : Nat) (x : Bytes) : Apart n a (b.patEvent m p type nt x) :=
  h.event (b.sliceOf_lt m) _ _ _ _

theorem useUpdate (h : Apart n a b) (p : Nat) (hn : n < 16) : Apart n a (b.useUpdate p) := h.wr _ _

theorem ntToQ (h : Apart n a b) (g : Nat) : b.ntToQ g = a.ntToQ g := by
  rw [Dev.ntToQ, Dev.nowQ, h.nt, h.ticks, Dev.ntToQ, Dev.nowQ]

theorem goAllows (h : Apart n a b) (timed : Bool) (g : Nat) : b.goAllows n timed g = a.goAllows n timed g := by
  have hq : b.nowQ = a.nowQ := by rw [Dev.nowQ, h.ticks, Dev.nowQ]
  rw [Dev.goAllows, h.axis, hq, h.ntToQ, Dev.goAllows]

theorem goHeld (h : Apart n a b) {l : Nat} (hl : l / 4 = n) : b.goHeld l = a.goHeld l := by rw [Dev.goHeld, h.legs l hl, Dev.goHeld]

theorem legShut (h : Apart n a b) (l : Nat) : b.legShut l = a.legShut l := by
  rw [Dev.legShut, Dev.legShut, Dev.isSafe, Dev.isSafe, Dev.bit_congr (h.slots _ (by lia)), Dev.bit_congr (h.slots _ (by lia)),
    Dev.quarter, Dev.quarter, h.quarters]

end

section
variable {n m : Nat} {a b : Dev} (hm : m ≠ n)
include hm

theorem setAxis (h : Apart n a b) (r : AxisRt) : Apart n a (b.setAxis m r) :=
  ⟨(b.axis_setAxis_ne r hm).trans h.axis, h.legs, h.quarters, h.nt, h.ticks, h.slots⟩

theorem setMot (h : Apart n a b) (r : MotionRt) : Apart n a (b.setMot m r) := h.setAxis hm _

theorem endPlay (h : Apart n a b) (hn : n < 16) (cause nt : Nat) : Apart n a (b.endPlay m cause nt) := by
  unfold Dev.endPlay
  dsimp only
  split
  · exact ((h.setMot hm _).patEvent _ _ _ _ _).useUpdate _ hn
  · split
    · exact (h.setMot hm _).useUpdate _ hn
    · exact h.setMot hm _

omit hm in
theorem playMarks (r : PlayRt) (ps : List PatPoint) (upto : Nat) : ∀ (fuel j : Nat) (b : Dev), Apart n a b →
    Apart n a (b.playMarks m r ps upto fuel j).1 := by
  intro fuel
  induction fuel with
  | zero => exact fun j b h => h
  | succ fuel ih =>
    intro j b h
    unfold Dev.playMarks
    dsimp only
    by_cases hj : j < r.count * r.repeats ∧ playInstant r ps j ≤ upto
    · rw [if_pos hj]
      exact ih _ _ (ite (h.patEvent _ _ _ _ _) h)
    · rw [if_neg hj]
      exact h

theorem playReach (h : Apart n a b) (mem : List Host.Cell) (upto : Nat) : Apart n a (b.playReach mem m upto) := by
  unfold Dev.playReach
  split
  · exact (playMarks _ _ _ _ _ _ h).setMot hm _
  · exact h

/-- A play that starts on another axis. -/
theorem startPlay (h : Apart n a b) (hn : n < 16) (hm16 : m < 16) (mem : List Host.Cell) (r : PlayRt) (ts : Nat) :
    Apart n a (b.startPlay mem m r ts) := by
  unfold Dev.startPlay
  have hend := ite (p := (b.mot m).play.isSome = true) ((h.playReach hm mem (65536 * ts)).endPlay hm hn 1 ts) h
  exact ((((hend.setMot hm _).wr (K.STATUS m) _).setAxis hm _).useUpdate _ hn).patEvent _ _ _ _ _

/-- The franker takes the go of another axis. -/
theorem goTake (h : Apart n a b) (hm16 : m < 16) (at_ : Nat) : Apart n a (b.goTake m at_) := by
  have hlegs (ls : List Nat) (hls : ∀ l ∈ ls, l / 4 ≠ n) : ∀ e : Dev, Apart n e (ls.foldl (fun d l => d.goLeg l at_) e) := by
    induction ls with
    | nil => exact fun e => refl n e
    | cons l t ih => exact fun e =>
        ((refl n e).setLeg (hls l List.mem_cons_self) _).trans (ih (fun x hx => hls x (List.mem_cons_of_mem _ hx)) _)
  have hcoils (cs : List Nat) : ∀ e : Dev, Apart n e (cs.foldl (fun d c => d.goCoil c at_) e) :=
    foldl_frame (Apart n) (refl n) (fun _ _ _ => trans) _ (fun d c => (refl n d).setCoil c _) cs
  have hown : ∀ l ∈ axisLegs m, l / 4 ≠ n := by
    intro l hl
    simp only [axisLegs, List.mem_cons, List.not_mem_nil, or_false] at hl
    omega
  exact (((h.trans (hlegs (axisLegs m) hown b)).trans (hcoils _ _)).setAxis hm _).wr (K.PRIME m) _

/-- A go for another axis. -/
theorem goAxis (hn : n < 16) (hm16 : m < 16) (mem : List Host.Cell) (timed : Bool) (g : Nat) (a : Dev) :
    Apart n a (a.goAxis mem m timed g) := by
  unfold Dev.goAxis
  refine ite ?_ (refl n a)
  have htake := ((refl n a).setAxis hm { a.axis m with goDue := none }).goTake hm hm16
    ((a.setAxis m { a.axis m with goDue := none }).ntToQ g)
  dsimp only
  split
  · exact (htake.startPlay hm hn hm16 mem _ _).setMot hm _
  · exact htake

end

/-- The goes of other axes of a flit. -/
theorem goAxes {n : Nat} (hn : n < 16) (mem : List Host.Cell) (timed : Bool) (g : Nat) (ms : List Nat) (hms : ∀ m ∈ ms, m ≠ n ∧ m < 16) :
    ∀ a : Dev, Apart n a (ms.foldl (fun d m => d.goAxis mem m timed g) a) := by
  induction ms with
  | nil => exact fun a => refl n a
  | cons m t ih =>
    intro a
    obtain ⟨hm, hm16⟩ := hms m List.mem_cons_self
    exact (goAxis hm hn hm16 mem timed g a).trans (ih (fun x hx => hms x (List.mem_cons_of_mem _ hx)) _)

end Dev.Apart

/-! ## The franker takes a go of an axis (R171) -/

theorem axisLegs_nodup (n : Nat) : (axisLegs n).Nodup := by simp [axisLegs]

/-- Each leg of a list takes its go set from g: its edges end, its letters are discarded. -/
theorem Dev.goLegs_leg (g : Nat) (ls : List Nat) (hls : ls.Nodup) : ∀ d : Dev,
    (∀ l, l ∉ ls → (ls.foldl (fun d l => d.goLeg l g) d).leg l = d.leg l) ∧
    ∀ l ∈ ls, ((ls.foldl (fun d l => d.goLeg l g) d).leg l).due = dueFrom g (d.leg l).goSet ∧
      ((ls.foldl (fun d l => d.goLeg l g) d).leg l).held = [] ∧ ((ls.foldl (fun d l => d.goLeg l g) d).leg l).goSet = [] := by
  induction ls with
  | nil => simp
  | cons k t ih =>
    intro d
    obtain ⟨hk, ht⟩ := List.nodup_cons.1 hls
    obtain ⟨hout, hin⟩ := ih ht (d.goLeg k g)
    have hother {l : Nat} (h : k ≠ l) : (d.goLeg k g).leg l = d.leg l := Dev.leg_setLeg_ne _ _ h
    refine ⟨fun l hl => ?_, fun l hl => ?_⟩
    · obtain ⟨hlk, hlt⟩ := not_or.1 fun h => hl (List.mem_cons.2 h)
      exact (hout l hlt).trans (hother (Ne.symm hlk))
    · rw [List.foldl_cons]
      rcases List.mem_cons.1 hl with rfl | hl
      · rw [hout l hk, Dev.goLeg, Dev.leg_setLeg_self]
        exact ⟨rfl, rfl, rfl⟩
      · rw [← hother (l := l) (by rintro rfl; exact hk hl)]
        exact hin l hl

section
variable (d : Dev) (n g : Nat)

/-- The legs and the coils of an axis under its go. -/
def Dev.goUnits : Dev := [2 * n, 2 * n + 1].foldl (fun d c => d.goCoil c g) ((axisLegs n).foldl (fun d l => d.goLeg l g) d)

theorem Dev.goUnits_axes : (d.goUnits n g).axes = d.axes :=
  (foldl_keeps Dev.axes (fun d c => d.goCoil c g) (fun _ _ => rfl) _ _).trans
    (foldl_keeps Dev.axes (fun d l => d.goLeg l g) (fun _ _ => rfl) _ _)

theorem Dev.goUnits_legs : (d.goUnits n g).legs = ((axisLegs n).foldl (fun d l => d.goLeg l g) d).legs :=
  foldl_keeps Dev.legs (fun d c => d.goCoil c g) (fun _ _ => rfl) _ _

theorem Dev.goTake_eq : d.goTake n g = ((d.goUnits n g).setAxis n
    { (d.goUnits n g).axis n with goGen := (((d.goUnits n g).axis n).goGen + 1) % 4 }).setBit (K.PRIME n) 9 false := rfl

theorem Dev.goTake_axis : (d.goTake n g).axis n = { d.axis n with goGen := ((d.axis n).goGen + 1) % 4 } := by
  rw [Dev.goTake_eq, Dev.axis_congr (d.goUnits_axes n g)]
  exact Dev.axis_setAxis_self _ n _

/-- The prime of the axis is no longer active. -/
theorem Dev.goTake_primed : (d.goTake n g).bit (K.PRIME n) 9 = false := Dev.bit_setBit_self _ _ _ (by decide)

/-- Every leg of the axis ends its edges and runs its go set. -/
theorem Dev.goTake_legs : ∀ l ∈ axisLegs n, ((d.goTake n g).leg l).due = dueFrom g (d.leg l).goSet ∧
    ((d.goTake n g).leg l).held = [] ∧ ((d.goTake n g).leg l).goSet = [] := by
  intro l hl
  have hleg : (d.goTake n g).leg l = ((axisLegs n).foldl (fun d l => d.goLeg l g) d).leg l :=
    congrArg (fun t : Tab LegRt => Tab.get ({} : LegRt) t l) (d.goUnits_legs n g)
  rw [hleg]
  exact (d.goLegs_leg g (axisLegs n) (axisLegs_nodup n)).2 l hl

end

/-- A go at g was sent for axis n that no play waits for; go sets are held for every leg, and no leg is shut. -/
structure Dev.GoReady (n : Nat) (timed : Bool) (g : Nat) (d : Dev) : Prop where
  sent : d.goAllows n timed g = true
  legs : ∀ l ∈ axisLegs n, d.goHeld l = true ∧ d.legShut l = false
  waits : (d.mot n).goWait = none

/-- The go of axis n is over, its generation has risen, its prime is no longer active; every leg has ended its edges and runs its go set. -/
structure Dev.GoTaken (n g : Nat) (a b : Dev) : Prop where
  axis : b.axis n = { a.axis n with goDue := none, goGen := ((a.axis n).goGen + 1) % 4 }
  primed : b.bit (K.PRIME n) 9 = false
  legs : ∀ l ∈ axisLegs n, (b.leg l).due = dueFrom (a.ntToQ g) (a.leg l).goSet ∧ (b.leg l).held = [] ∧ (b.leg l).goSet = []

theorem axisLegs_axis {n l : Nat} (h : l ∈ axisLegs n) : l / 4 = n := by
  simp only [axisLegs, List.mem_cons, List.not_mem_nil, or_false] at h
  omega

/-- The franker takes a go that is ready. -/
theorem Dev.goAxis_takes {d : Dev} {n : Nat} {timed : Bool} {g : Nat} (h : d.GoReady n timed g) (mem : List Host.Cell) :
    GoTaken n g d (d.goAxis mem n timed g) := by
  have hall : ((axisLegs n).all fun l => d.goHeld l && !d.legShut l) = true := by
    simpa [List.all_eq_true] using h.legs
  have haxis : ((d.setAxis n { d.axis n with goDue := none }).goTake n (d.ntToQ g)).axis n =
      { d.axis n with goDue := none, goGen := ((d.axis n).goGen + 1) % 4 } := by
    rw [Dev.goTake_axis, Dev.axis_setAxis_self]
  have hnone : (((d.setAxis n { d.axis n with goDue := none }).goTake n (d.ntToQ g)).mot n).goWait = none := by
    rw [Dev.mot, haxis]
    exact h.waits
  have htake : d.goAxis mem n timed g = (d.setAxis n { d.axis n with goDue := none }).goTake n (d.ntToQ g) := by
    rw [Dev.goAxis, if_pos ⟨h.sent, hall⟩]
    dsimp only
    split
    next r hr => exact absurd (hr.symm.trans hnone) (by simp)
    next => rfl
  rw [htake]
  exact ⟨haxis, Dev.goTake_primed _ n _, Dev.goTake_legs _ n _⟩

theorem Dev.goAxis_refused {d : Dev} {n : Nat} {timed : Bool} {g : Nat} (h : d.goAllows n timed g = false) (mem : List Host.Cell) :
    d.goAxis mem n timed g = d := if_neg (by simp [h])

/-- Axes that were not sent the go stay as they are. -/
theorem Dev.goAxes_refused {timed : Bool} {g : Nat} (mem : List Host.Cell) (d : Dev) (ns : List Nat)
    (h : ∀ n ∈ ns, d.goAllows n timed g = false) : ns.foldl (fun d n => d.goAxis mem n timed g) d = d := by
  induction ns with
  | nil => rfl
  | cons n t ih =>
    rw [List.foldl_cons, Dev.goAxis_refused (h n List.mem_cons_self)]
    exact ih fun m hm => h m (List.mem_cons_of_mem _ hm)

section
variable {n g : Nat} {a b e : Dev}

/-- Work on another axis leaves a go ready. -/
theorem Dev.GoReady.apart {timed : Bool} (h : a.GoReady n timed g) (hb : Apart n a b) : b.GoReady n timed g :=
  ⟨(hb.goAllows timed g).trans h.sent,
    fun l hl => ⟨(hb.goHeld (axisLegs_axis hl)).trans (h.legs l hl).1, (hb.legShut l).trans (h.legs l hl).2⟩,
    by rw [Dev.mot, hb.axis]; exact h.waits⟩

/-- Work on other axes before and after a go. -/
theorem Dev.GoTaken.apart {c : Dev} (h : GoTaken n g b c) (hb : Apart n a b) (hc : Apart n c e) : GoTaken n g a e := by
  refine ⟨?_, ?_, fun l hl => ?_⟩
  · rw [hc.axis, h.axis, hb.axis]
  · rw [Dev.bit_congr (hc.slots _ (.inl rfl)), h.primed]
  · rw [hc.legs l (axisLegs_axis hl), ← hb.legs l (axisLegs_axis hl), ← hb.ntToQ]
    exact h.legs l hl

end

/-- Among the axes of a flit, one whose go is ready takes it, whatever the goes of the others do. -/
theorem Dev.goAxes_take {d : Dev} {n : Nat} {timed : Bool} {g : Nat} (h : d.GoReady n timed g) (mem : List Host.Cell) {ns : List Nat}
    (hnd : ns.Nodup) (hlt : ∀ m ∈ ns, m < 16) (hn : n ∈ ns) : GoTaken n g d (ns.foldl (fun d n => d.goAxis mem n timed g) d) := by
  obtain ⟨before, after, rfl⟩ := List.append_of_mem hn
  obtain ⟨-, hndn, hdisj⟩ := List.nodup_append.1 hnd
  have hn16 := hlt n hn
  have hbefore : ∀ m ∈ before, m ≠ n ∧ m < 16 := fun m hm => ⟨hdisj m hm n List.mem_cons_self, hlt m (by simp [hm])⟩
  have hafter : ∀ m ∈ after, m ≠ n ∧ m < 16 := fun m hm => ⟨fun e => (List.nodup_cons.1 hndn).1 (e ▸ hm), hlt m (by simp [hm])⟩
  have hfirst := Dev.Apart.goAxes hn16 mem timed g before hbefore d
  rw [List.foldl_append, List.foldl_cons]
  exact (Dev.goAxis_takes (h.apart hfirst) mem).apart hfirst (Dev.Apart.goAxes hn16 mem timed g after hafter _)

/-! ## A go flit (R171, R175) -/

theorem exec_go {s : State} {q lane : Nat} (hu : s.unitsOn = true) (h : s.dev.Hears q lane) (axes g : Nat) (timed err : Bool) :
    exec (.go q lane axes timed g true err) s = .next (s.onDev fun d =>
    ((quarterAxes q).filter fun n => axes.testBit (n % 4)).foldl (fun d n => d.goAxis s.mem n timed g) (d.received q true lane err)) := by
  show execGo q lane axes timed g true err s = _
  rw [execGo, gated_on hu]
  simp only [State.onDev, Dev.rxFlit_valid h (type := 2) rfl]

theorem Dev.received_goAllows (d : Dev) (q : Nat) (toQ : Bool) (lane : Nat) (err : Bool) (n : Nat) (timed : Bool) (g : Nat) :
    (d.received q toQ lane err).goAllows n timed g = d.goAllows n timed g := by
  rw [Dev.goAllows, Dev.goAllows, Dev.received_axis, Dev.received_ntToQ, Dev.received_nowQ]

/-- A valid flit leaves a go ready. -/
theorem Dev.GoReady.received {d : Dev} {n : Nat} {timed : Bool} {g : Nat} (h : d.GoReady n timed g) (q : Nat) (toQ : Bool) (lane : Nat)
    (err : Bool) : (d.received q toQ lane err).GoReady n timed g := by
  refine ⟨(d.received_goAllows q toQ lane err n timed g).trans h.sent, fun l hl => ⟨?_, ?_⟩, ?_⟩
  · rw [Dev.goHeld, Dev.received_leg]
    exact (h.legs l hl).1
  · rw [Dev.received_legShut]
    exact (h.legs l hl).2
  · rw [Dev.mot, Dev.received_axis]
    exact h.waits

theorem quarterAxes_lt {q n : Nat} (hq : q < 4) (h : n ∈ quarterAxes q) : n < 16 := by
  simp only [quarterAxes, List.mem_map, List.mem_range] at h
  omega

theorem quarterAxes_nodup (q : Nat) : (quarterAxes q).Nodup := List.nodup_range.map fun a b h => by simpa using h

section
variable {s : State} {q lane : Nat} (hu : s.unitsOn = true) (h : s.dev.Hears q lane) {axes g : Nat} {timed : Bool} (err : Bool)
include hu h

/-- The axis that was sent the go takes it. -/
theorem go_taken {n : Nat} (hn : n ∈ quarterAxes q) (hbit : axes.testBit (n % 4) = true) (hgo : s.dev.GoReady n timed g) :
    Completes (.go q lane axes timed g true err) s fun u => (u.dev.axis n).goGen = ((s.dev.axis n).goGen + 1) % 4 ∧
      (u.dev.axis n).goDue = none ∧ u.dev.bit (K.PRIME n) 9 = false ∧
      ∀ l ∈ axisLegs n, (u.dev.leg l).due = dueFrom (s.dev.ntToQ g) (s.dev.leg l).goSet ∧ (u.dev.leg l).held = [] ∧
        (u.dev.leg l).goSet = [] := by
  refine completes_of_eq (exec_go hu h axes g timed err) ?_
  have hmem : n ∈ (quarterAxes q).filter fun n => axes.testBit (n % 4) := List.mem_filter.2 ⟨hn, hbit⟩
  have hq : q < 4 := lt_of_lt_of_le (of_decide_eq_true h.quarter) s.dev.part.quarters_le
  obtain ⟨haxis, hprimed, hlegs⟩ := Dev.goAxes_take (hgo.received q true lane err) s.mem ((quarterAxes_nodup q).filter _)
    (fun m hm => quarterAxes_lt hq (List.mem_filter.1 hm).1) hmem
  rw [Dev.received_axis] at haxis
  simp only [Dev.received_ntToQ, Dev.received_leg] at hlegs
  rw [State.onDev_dev]
  exact ⟨by rw [haxis], by rw [haxis], hprimed, hlegs⟩

/-- A go that no axis of the quarter was sent. -/
theorem go_refused (hgo : ∀ n ∈ quarterAxes q, s.dev.goAllows n timed g = false) :
    Completes (.go q lane axes timed g true err) s fun u => u.dev.legs = s.dev.legs ∧ u.dev.axes = s.dev.axes ∧
      SlotsKept s u [K.ERR_RX q] := by
  refine completes_of_eq (exec_go hu h axes g timed err) ?_
  generalize hs : s.onDev _ = u
  have hdev : u.dev = s.dev.received q true lane err := (congrArg State.dev hs).symm.trans <| Dev.goAxes_refused s.mem _ _ fun n hn => by
    rw [Dev.received_goAllows, hgo n (List.mem_filter.1 hn).1]
  refine ⟨?_, ?_, slotsKept_of_same ?_⟩
  · rw [hdev, Dev.received_legs]
  · rw [hdev]
    cases err <;> rfl
  · rw [hdev]
    exact s.dev.received_same q true lane err

end

/-! ## A pattern is validated (R158) -/

/-- Distinct slots written in a list hold their values. -/
theorem Dev.rd_wrs_mem (l : List (Nat × Nat)) (hl : (l.map Prod.fst).Nodup) : ∀ (d : Dev), ∀ e ∈ l, (d.wrs l).rd e.1 = e.2 % 2 ^ 64 := by
  induction l with
  | nil => simp
  | cons x t ih =>
    intro d e he
    obtain ⟨hx, ht⟩ := List.nodup_cons.1 hl
    rw [Dev.wrs_cons]
    rcases List.mem_cons.1 he with rfl | he
    · rw [Dev.rd_wrs_ne _ _ _ (fun f hf h => hx (List.mem_map.2 ⟨f, hf, h⟩)), Dev.rd_wr_self]
    · exact ih ht _ e he

/-- The request of a validation is done. -/
def Dev.validating (d : Dev) (p : Nat) : Dev := d.wr (K.VALIDATE p) 0

/-- The slots in which a validation of pattern p leaves its outcome. -/
def outcomeSlots (p result state duration vel crc : Nat) : List (Nat × Nat) :=
  [(K.VAL_RESULT p, result), (K.STATE_3100 p, state), (K.DURATION p, duration), (K.MAX_VEL p, vel), (K.PCRC p, crc)]

/-- Pattern p validated with an outcome. -/
def Dev.outcome (d : Dev) (p result state duration vel crc : Nat) : Dev :=
  (d.validating p).wrs (outcomeSlots p result state duration vel crc)

section
variable (d : Dev) (p : Nat)

theorem Dev.validating_rd {k : Nat} (h : k ≠ K.VALIDATE p) : (d.validating p).rd k = d.rd k := Dev.rd_wr_ne _ _ h.symm

/-- A request that is done leaves the points of the pool where they were. -/
theorem Dev.validating_poolBytes (mem : List Host.Cell) (i : Nat) : (d.validating p).poolBytes mem i = d.poolBytes mem i := by
  have hphys (b : Nat) : (d.validating p).physAddr b = d.physAddr b := by
    funext ofs
    rw [Dev.physAddr, Dev.physAddr, Dev.servedBy, Dev.servedBy, Dev.validating_rd _ _ (by lia)]
    rfl
  rw [Dev.poolBytes, hphys, Dev.poolBytes]

variable (result state duration vel crc : Nat)

/-- The slots of an outcome read back; the request is done. -/
theorem Dev.outcome_rd : (d.outcome p result state duration vel crc).rd (K.VAL_RESULT p) = result % 2 ^ 64 ∧
    (d.outcome p result state duration vel crc).rd (K.STATE_3100 p) = state % 2 ^ 64 ∧
    (d.outcome p result state duration vel crc).rd (K.MAX_VEL p) = vel % 2 ^ 64 ∧
    (d.outcome p result state duration vel crc).rd (K.VALIDATE p) = 0 := by
  have hslots := Dev.rd_wrs_mem (outcomeSlots p result state duration vel crc) (by simp [outcomeSlots]) (d.validating p)
  have hdone : (d.outcome p result state duration vel crc).rd (K.VALIDATE p) = (d.validating p).rd (K.VALIDATE p) :=
    Dev.rd_wrs_ne _ _ _ (by simp [outcomeSlots])
  exact ⟨hslots (K.VAL_RESULT p, result) (by simp [outcomeSlots]), hslots (K.STATE_3100 p, state) (by simp [outcomeSlots]),
    hslots (K.MAX_VEL p, vel) (by simp [outcomeSlots]), hdone.trans (Dev.rd_wr_self _ _ _)⟩

theorem Dev.outcome_same : d.SlotsSame (d.outcome p result state duration vel crc)
    [K.VALIDATE p, K.VAL_RESULT p, K.STATE_3100 p, K.DURATION p, K.MAX_VEL p, K.PCRC p] :=
  ((((((Dev.SlotsSame.refl d _).wr _ (by simp)).wr _ (by simp)).wr _ (by simp)).wr _ (by simp)).wr _ (by simp)).wr _ (by simp)

end

section
variable {d : Dev} {p : Nat}

theorem Dev.validate_inUse (h : d.rd (K.USE p) ≠ 0) (mem : List Host.Cell) : d.validate mem p = (d.validating p).wr (K.VAL_RESULT p) 7 := by
  have huse : (d.validating p).rd (K.USE p) ≠ 0 := by rwa [Dev.validating_rd _ _ (by lia)]
  exact if_pos huse

theorem Dev.validate_empty (h : d.rd (K.USE p) = 0) (hc : d.rd (K.COUNT_3100 p) = 0) (mem : List Host.Cell) :
    d.validate mem p = d.outcome p 8 2 0 0 0 := by
  have huse : (d.validating p).rd (K.USE p) = 0 := (d.validating_rd p (by lia)).trans h
  have hcount : (d.validating p).rd (K.COUNT_3100 p) = 0 := (d.validating_rd p (by lia)).trans hc
  exact (if_neg (not_not.2 huse)).trans (if_pos hcount)

end

/-- A pattern whose points meet every condition. -/
theorem State.validate_passes {s : State} {p : Nat} (h : s.dev.rd (K.USE p) = 0) (hc : s.dev.rd (K.COUNT_3100 p) ≠ 0)
    (hfit : s.dev.rd (K.FIRST p) + s.dev.rd (K.COUNT_3100 p) ≤ 131072)
    (hvalid : validResult (s.dev.rd (K.FIRST p)) (s.dev.rd (K.COUNT_3100 p)) (rawPoints s p) = 1) :
    ∃ duration crc, s.dev.validate s.mem p = s.dev.outcome p 1 1 duration (maxVel 0 (rawPoints s p)) crc := by
  have huse : (s.dev.validating p).rd (K.USE p) = 0 := (s.dev.validating_rd p (by lia)).trans h
  have hfirst : (s.dev.validating p).rd (K.FIRST p) = s.dev.rd (K.FIRST p) := s.dev.validating_rd p (by lia)
  have hcount : (s.dev.validating p).rd (K.COUNT_3100 p) = s.dev.rd (K.COUNT_3100 p) := s.dev.validating_rd p (by lia)
  have hraw : (((List.range ((s.dev.validating p).rd (K.COUNT_3100 p))).map fun i =>
      (s.dev.validating p).poolBytes s.mem ((s.dev.validating p).rd (K.FIRST p) + i)).map fun b =>
        (ofLe (slice b 0 3), sext 16 (ofLe (slice b 3 2)), ofLe (slice b 5 2), ofLe (slice b 7 1))) = rawPoints s p := by
    rw [hcount, hfirst, List.map_map, rawPoints]
    refine List.map_congr_left fun i _ => ?_
    simp only [Function.comp, Dev.validating_poolBytes]
  have hsome : ¬ (s.dev.validating p).rd (K.COUNT_3100 p) = 0 := by rwa [hcount]
  have hpool : ¬ 131072 < (s.dev.validating p).rd (K.FIRST p) + (s.dev.validating p).rd (K.COUNT_3100 p) := by
    rw [hfirst, hcount]
    omega
  have hpass : validResult ((s.dev.validating p).rd (K.FIRST p)) ((s.dev.validating p).rd (K.COUNT_3100 p)) (rawPoints s p) = 1 := by
    rw [hfirst, hcount]
    exact hvalid
  rw [← hraw] at hpass ⊢
  exact ⟨_, _, (if_neg (not_not.2 huse)).trans <| (if_neg hsome).trans <| (if_neg hpool).trans <| if_pos hpass⟩

section
variable {s : State} {p : Nat} (hp : p < 256) (hv : s.dev.rd (K.VALIDATE p) = 1)
include hp hv

theorem exec_validationComplete : exec (.validationComplete p) s = .next (s.onDev fun d => d.validate s.mem p) := by
  show execValidationComplete p s = _
  simp only [execValidationComplete, State.onDev, hp, hv, and_self, if_true]

/-- A pattern in use is not validated. -/
theorem validation_inUse (h : s.dev.rd (K.USE p) ≠ 0) : Completes (.validationComplete p) s fun u =>
    u.dev.rd (K.VAL_RESULT p) = 7 ∧ u.dev.rd (K.VALIDATE p) = 0 ∧ SlotsKept s u [K.VALIDATE p, K.VAL_RESULT p] := by
  refine completes_of_eq (exec_validationComplete hp hv) ?_
  generalize hs : s.onDev _ = u
  have hdev : u.dev = _ := (congrArg State.dev hs).symm.trans (Dev.validate_inUse h s.mem)
  refine ⟨?_, ?_, slotsKept_of_same ?_⟩
  · rw [hdev]
    exact Dev.rd_wr_self _ _ _
  · rw [hdev, Dev.rd_wr_ne _ _ (by lia)]
    exact Dev.rd_wr_self _ _ _
  · rw [hdev]
    exact ((Dev.SlotsSame.refl s.dev _).wr _ (by simp)).wr _ (by simp)

/-- A pattern without points fails. -/
theorem validation_empty (h : s.dev.rd (K.USE p) = 0) (hc : s.dev.rd (K.COUNT_3100 p) = 0) : Completes (.validationComplete p) s fun u =>
    u.dev.rd (K.VAL_RESULT p) = 8 ∧ u.dev.rd (K.STATE_3100 p) = 2 ∧ u.dev.rd (K.VALIDATE p) = 0 := by
  refine completes_of_eq (exec_validationComplete hp hv) ?_
  rw [State.onDev_dev, Dev.validate_empty h hc]
  obtain ⟨hresult, hstate, -, hdone⟩ := s.dev.outcome_rd p 8 2 0 0 0
  exact ⟨hresult, hstate, hdone⟩

/-- A pattern whose points meet every condition is valid. -/
theorem validation_passed (h : s.dev.rd (K.USE p) = 0) (hc : s.dev.rd (K.COUNT_3100 p) ≠ 0)
    (hfit : s.dev.rd (K.FIRST p) + s.dev.rd (K.COUNT_3100 p) ≤ 131072)
    (hvalid : validResult (s.dev.rd (K.FIRST p)) (s.dev.rd (K.COUNT_3100 p)) (rawPoints s p) = 1) :
    Completes (.validationComplete p) s fun u => u.dev.rd (K.VAL_RESULT p) = 1 ∧ u.dev.rd (K.STATE_3100 p) = 1 ∧
      u.dev.rd (K.VALIDATE p) = 0 ∧ u.dev.rd (K.MAX_VEL p) = maxVel 0 (rawPoints s p) % 2 ^ 64 ∧
      SlotsKept s u [K.VALIDATE p, K.VAL_RESULT p, K.STATE_3100 p, K.DURATION p, K.MAX_VEL p, K.PCRC p] := by
  refine completes_of_eq (exec_validationComplete hp hv) ?_
  obtain ⟨duration, crc, heq⟩ := State.validate_passes h hc hfit hvalid
  generalize hs : s.onDev _ = u
  have hdev : u.dev = _ := (congrArg State.dev hs).symm.trans heq
  obtain ⟨hresult, hstate, hvel, hdone⟩ := s.dev.outcome_rd p 1 1 duration (maxVel 0 (rawPoints s p)) crc
  rw [← hdev] at hresult hstate hvel hdone
  exact ⟨hresult, hstate, hdone, hvel, slotsKept_of_same (hdev ▸ s.dev.outcome_same p 1 1 duration _ crc)⟩

end

end Sys2Proof.Machine

namespace Sys2Proof

open Sys2Proof.Machine

/-- Settles O27: the letters that leave the table, the goes and the validations, clause by clause. -/
theorem goesRunReleasesAndValidations : Obligations.GoesRunReleasesAndValidations := by
  unfold Obligations.GoesRunReleasesAndValidations
  refine ⟨fun s l hoff => ⟨fun rest hfind => ?_, fun hfind => ?_, fun hfind => lateLetter_dropped hoff hfind⟩,
    fun s q lane axes g timed err hu hq hl hi => ?_, fun s p hp hv => ?_⟩
  · exact ⟨letterRelease_boxed hoff hfind, letterRelease_decided hoff hfind⟩
  · have hc := exec_allOrNoneDecision hoff hfind
    exact ⟨allOrNoneDecision_accepted hc, allOrNoneDecision_refused hc⟩
  · have h : s.dev.Hears q lane := ⟨hq, hl, hi⟩
    exact ⟨fun n hn hbit hgo hwait hlegs => go_taken hu h err hn hbit ⟨hgo, hlegs, hwait⟩, go_refused hu h err⟩
  · exact ⟨validation_inUse hp hv, validation_empty hp hv, validation_passed hp hv⟩

end Sys2Proof

namespace Sys2Proof.Machine

/-! ## Identification ends in failure (R200) -/

/-- The slots in which identification of axis n leaves its outcome (Table 6-10). -/
abbrev identSlots (n : Nat) : List Nat := [K.ID_RESULT n, K.ID_NT n, K.ID_TIME n]

/-- An axis whose identification has failed: its legs off, Faulted requested, the outcome stored. -/
def Dev.identStopped (d : Dev) (n cause : Nat) : Dev :=
  let e := d.axisLegsOff n
  (e.setAxis n { e.axis n with ident := {}, faultReq := some false }).wrs
    [(K.ID_RESULT n, cause), (K.ID_NT n, e.nt), (K.ID_TIME n, (d.axis n).ident.lasted e.now)]

/-- The event of a failed identification and the fault of its axis. -/
def Dev.identReported (d : Dev) (n cause : Nat) : Dev :=
  (d.axisEvent n 0x0130 0x4400 d.nt (le 4 (d.rd (K.R_A n)) ++ le 4 (d.rd (K.R_B n)) ++ le 1 cause)).raise (0x183 + 0x10 * n) d.nt

theorem Dev.identFail_eq (d : Dev) (n cause : Nat) : d.identFail n cause =
    if d.axState n ≠ axIdentifying ∨ (d.axis n).faultReq.isSome then d else (d.identStopped n cause).identReported n cause := by
  unfold Dev.identFail Dev.identStopped
  dsimp only
  generalize d.axisLegsOff n = e
  rfl

/-- Identification in progress fails. -/
theorem Dev.identFail_runs {d : Dev} {n : Nat} (hs : d.axState n = axIdentifying) (hf : (d.axis n).faultReq = none) (cause : Nat) :
    d.identFail n cause = (d.identStopped n cause).identReported n cause := by
  rw [Dev.identFail_eq, if_neg (by simp [hs, hf])]

/-- The assigned sources of a present axis can raise (Table 12-6). -/
theorem axisFault_source {p : Part} {n k : Nat} (hk : k < 10) (h : n < 4 * p.quarters) :
    Dict.sourceAssigned (0x180 + k + 0x10 * n) = true ∧ (Dict.Owner.source (0x180 + k + 0x10 * n)).present p = true := by
  have h4 := p.quarters_le
  have ha : Dict.sourceAssigned (0x180 + k + 0x10 * n) = true := by
    rw [Dict.sourceAssigned, if_neg (by omega), if_neg (by omega), if_pos (by omega)]
    exact decide_eq_true (by omega)
  have hs : Dict.sourceQuarter (0x180 + k + 0x10 * n) = some (n / 4) := by
    rw [Dict.sourceQuarter, if_neg (by omega), if_neg (by omega), if_pos (by omega)]
    congr 1
    omega
  refine ⟨ha, ?_⟩
  simp only [Dict.Owner.present, ha, if_true, hs, decide_eq_true_eq]
  omega

section
variable (d : Dev) (n cause : Nat)

theorem Dev.identReported_frame : ∃ o m f, d.identReported n cause = { d with objs := o, mail := m, flt := f } := by
  unfold Dev.identReported
  generalize le 4 (d.rd (K.R_A n)) ++ le 4 (d.rd (K.R_B n)) ++ le 1 cause = p
  obtain ⟨o, m, f, he⟩ := d.axisEvent_frame n 0x0130 0x4400 d.nt p
  obtain ⟨f', hf⟩ := (d.axisEvent n 0x0130 0x4400 d.nt p).raise_frame (0x183 + 0x10 * n) d.nt false
  rw [hf, he]
  exact ⟨_, _, _, rfl⟩

theorem Dev.identReported_axes : (d.identReported n cause).axes = d.axes := by
  obtain ⟨o, m, f, h⟩ := d.identReported_frame n cause
  rw [h]

theorem Dev.identReported_legs : (d.identReported n cause).legs = d.legs := by
  obtain ⟨o, m, f, h⟩ := d.identReported_frame n cause
  rw [h]

theorem Dev.identReported_rd {k : Nat} (hk : postingSlot k = false) : (d.identReported n cause).rd k = d.rd k := by
  rw [Dev.identReported, Dev.raise_rd]
  exact Dev.event_rd _ _ _ _ _ _ _ (d.sliceOf_lt n) hk

/-- The fault of a present axis is on its way. -/
theorem Dev.identReported_raised (hn : d.hasAxis n = true) :
    ∃ r ∈ (d.identReported n cause).flt.raises, r.src = 0x183 + 0x10 * n ∧ r.nt = d.nt := by
  obtain ⟨ha, hp⟩ := axisFault_source (k := 3) (p := d.part) (by decide) (of_decide_eq_true hn)
  refine ⟨_, Dev.raised_of_present _ _ _ _ ha ?_, rfl, rfl⟩
  obtain ⟨o, m, f, he⟩ := d.axisEvent_frame n 0x0130 0x4400 d.nt (le 4 (d.rd (K.R_A n)) ++ le 4 (d.rd (K.R_B n)) ++ le 1 cause)
  rw [he]
  exact hp

theorem Dev.identStopped_frame : ∃ t o, d.identStopped n cause =
    { d.setAxis n { d.axis n with ident := {}, faultReq := some false } with legs := t, objs := o } := by
  obtain ⟨t, ht⟩ := d.axisLegsOff_frame n
  unfold Dev.identStopped
  rw [ht]
  exact ⟨_, _, rfl⟩

theorem Dev.identStopped_same : d.SlotsSame (d.identStopped n cause) (identSlots n) := by
  obtain ⟨t, ht⟩ := d.axisLegsOff_frame n
  have hset (r : AxisRt) : d.SlotsSame (({ d with legs := t } : Dev).setAxis n r) (identSlots n) := fun _ _ => rfl
  unfold Dev.identStopped
  rw [ht]
  exact (((hset _).wr _ (by simp)).wr _ (by simp)).wr _ (by simp)

theorem Dev.identStopped_result (hc : cause < 2 ^ 64) : (d.identStopped n cause).rd (K.ID_RESULT n) = cause := by
  simp only [Dev.identStopped, Dev.wrs_cons, Dev.wrs_nil]
  rw [Dev.rd_wr_ne _ _ (by lia), Dev.rd_wr_ne _ _ (by lia), Dev.rd_wr_self, Nat.mod_eq_of_lt hc]

theorem Dev.identStopped_axis : (d.identStopped n cause).axis n = { d.axis n with ident := {}, faultReq := some false } := by
  obtain ⟨t, o, h⟩ := d.identStopped_frame n cause
  rw [h]
  exact Dev.axis_setAxis_self _ _ _

theorem Dev.identStopped_legs : (d.identStopped n cause).legs = (d.axisLegsOff n).legs := by
  unfold Dev.identStopped
  generalize d.axisLegsOff n = e
  rfl

end

end Sys2Proof.Machine

namespace Sys2Proof.Machine

/-! ## The rows of identification (R198) -/

section
variable {d : Dev} {n : Nat}

/-- An undervoltage of the bus ends identification in whatever row it stands. -/
theorem Dev.idRow_undervoltage (h : d.bit (K.BUS_FLAGS (n / 4)) 0 = true) : d.idRow n = d.identFail n 6 := if_pos h

/-- Row 1 begins at a boundary of coil A at least 2 us after the axis entered Identifying. -/
theorem Dev.idRow_begins (h : d.bit (K.BUS_FLAGS (n / 4)) 0 = false) (h0 : (d.axis n).ident.row = 0) (hb : d.atBoundary (2 * n) = true)
    (he : (d.axis n).ident.entered + 2000 ≤ d.now) : d.idRow n = d.setAxis n { d.axis n with
      ident := { (d.axis n).ident with
        row := 1, began := d.ticks, point := 1, iRun := d.rd (K.I_RUN n), iMax := d.rd (K.I_MAX n), rowAt := d.now } } := by
  simp [Dev.idRow, h, h0, hb, he]

/-- Row 2 lasts until 300 us after the beginning. -/
theorem Dev.idRow_two (h : d.bit (K.BUS_FLAGS (n / 4)) 0 = false) (h2 : (d.axis n).ident.row = 2)
    (ht : d.now ≤ 8 * (d.axis n).ident.began + 20000000) : d.idRow n =
      if 8 * (d.axis n).ident.began + 300000 ≤ d.now + 7 then
        d.setAxis n { d.axis n with ident := { (d.axis n).ident with row := 3, rowAt := d.now } }
      else d := by
  simp [Dev.idRow, h, h2, Nat.not_lt.2 ht]

end

/-- An axis in Identifying, with no failure of it on its way. -/
structure State.Identifies (s : State) (n : Nat) : Prop where
  units : s.unitsOn = true
  axis : s.dev.hasAxis n = true
  state : s.dev.axState n = axIdentifying
  noFault : (s.dev.axis n).faultReq = none

theorem exec_idPhase {s : State} {n : Nat} (h : s.Identifies n) : exec (.idPhase n) s = .next (s.onDev fun d => d.idRow n) := by
  obtain ⟨hu, hn, hs, hf⟩ := h
  show execIdPhase n s = _
  simp only [execIdPhase, gated_on hu, onDev, State.onDev, hn, hs, hf, and_self, if_true]

/-! ## The identified model (Table 6-8, R192) -/

theorem clampI_toNat_lt (x : Int) : (clampI 0 (2 ^ 32 - 1) x).toNat < 2 ^ 32 := by
  unfold clampI
  split_ifs <;> omega

theorem IdentRt.model_r_lt (i : IdentRt) : i.model.1.1 < 2 ^ 32 ∧ i.model.2.1 < 2 ^ 32 := ⟨clampI_toNat_lt _, clampI_toNat_lt _⟩

/-- The tables of inductance have at most 16 points. -/
theorem IdentRt.model_l_length {i : IdentRt} (h : i.ls.length ≤ 32) : i.model.1.2.length ≤ 16 ∧ i.model.2.2.length ≤ 16 := by
  simp only [IdentRt.model, List.length_map, List.length_take, List.length_drop]
  omega

/-- A table written slot by slot leaves the slots outside it. -/
theorem Dev.rd_wrs_table (d : Dev) (l : List Nat) (key : Nat → Nat) {x : Nat} (h : ∀ k < l.length, key k ≠ x) :
    (d.wrs (l.zipIdx.map fun (v, k) => (key k, v))).rd x = d.rd x := by
  refine Dev.rd_wrs_ne _ _ _ fun e he => ?_
  obtain ⟨⟨v, k⟩, hk, rfl⟩ := List.mem_map.1 he
  have := List.snd_lt_of_mem_zipIdx hk
  exact h k (by simpa using this)

/-- The resistances, their live values and the step of the table, as the identified model sets them. -/
def Dev.modelHead (d : Dev) (n : Nat) : List (Nat × Nat) :=
  let i := (d.axis n).ident
  [(K.R_A n, i.model.1.1), (K.R_B n, i.model.2.1), (K.R_LIVE_A n, i.model.1.1), (K.R_LIVE_B n, i.model.2.1),
    (K.ISTEP n, (rround ((i.iMax : Rat) * (d.rd (K.IFS (n / 4)) : Nat) / (16383 * 16))).toNat)]

/-- The slots of the identified model of axis n. -/
def Dev.modelTables (d : Dev) (n : Nat) : Dev :=
  let i := (d.axis n).ident
  ((d.wrs (d.modelHead n)).wrs (i.model.1.2.zipIdx.map fun (x, k) => (K.L_A n k, x))).wrs
    (i.model.2.2.zipIdx.map fun (x, k) => (K.L_B n k, x))

theorem Dev.useModel_eq (d : Dev) (n : Nat) : ∃ x y : CoilRt,
    d.useModel n = (((d.modelTables n).setCoil (2 * n) x).setCoil (2 * n + 1) y).setBit (K.CC_STATUS n) 4 false := ⟨_, _, rfl⟩

/-- Beside its own slots the model in force changes the coils alone. -/
theorem Dev.useModel_frame (d : Dev) (n : Nat) : ∃ o c, d.useModel n = { d with objs := o, coils := c } := by
  obtain ⟨x, y, h⟩ := d.useModel_eq n
  have ht : d.StoreOnly (d.modelTables n) := (((Dev.StoreOnly.refl d).wrs _).wrs _).wrs _
  obtain ⟨o, ho⟩ := ht
  rw [h, ho]
  exact ⟨_, _, rfl⟩

section
variable {d : Dev} {n : Nat} (h : (d.axis n).ident.ls.length ≤ 32)
include h

/-- The tables stand in the objects 0x4402 and 0x4403 of the axis. -/
theorem Dev.modelTables_rd {k : Nat} (hk : k < (0x4403 + 0x40 * n) * 256 ∨ (0x4404 + 0x40 * n) * 256 ≤ k) :
    (d.modelTables n).rd k = (d.wrs (d.modelHead n)).rd k := by
  obtain ⟨ha, hb⟩ := IdentRt.model_l_length h
  rw [Dev.modelTables, Dev.rd_wrs_table _ _ (K.L_B n) (fun j hj => by lia), Dev.rd_wrs_table _ _ (K.L_A n) (fun j hj => by lia)]

theorem Dev.useModel_rd {k : Nat} (hk : k < (0x4402 + 0x40 * n) * 256 ∨ (0x4404 + 0x40 * n) * 256 ≤ k) (hc : k ≠ K.CC_STATUS n) :
    (d.useModel n).rd k = d.rd k := by
  obtain ⟨x, y, he⟩ := d.useModel_eq n
  rw [he, Dev.rd_setBit_ne _ _ _ hc.symm, Dev.setCoil_rd, Dev.setCoil_rd, Dev.modelTables_rd h (by lia), Dev.rd_wrs_ne]
  simp only [Dev.modelHead, List.forall_mem_cons, List.not_mem_nil, IsEmpty.forall_iff, implies_true, and_true]
  and_intros <;> lia

/-- The identified resistances stand in their slots, and the default model is no longer in force. -/
theorem Dev.useModel_shows : (d.useModel n).rd (K.R_A n) = (d.axis n).ident.model.1.1 ∧
    (d.useModel n).rd (K.R_B n) = (d.axis n).ident.model.2.1 ∧ (d.useModel n).bit (K.CC_STATUS n) 4 = false := by
  obtain ⟨x, y, he⟩ := d.useModel_eq n
  obtain ⟨hra, hrb⟩ := (d.axis n).ident.model_r_lt
  have hhead := Dev.rd_wrs_mem (d.modelHead n) (by simp [Dev.modelHead]) d
  have hslot {k : Nat} (hk : k = K.R_A n ∨ k = K.R_B n) : (d.useModel n).rd k = (d.wrs (d.modelHead n)).rd k := by
    rw [he, Dev.rd_setBit_ne _ _ _ (by lia), Dev.setCoil_rd, Dev.setCoil_rd, Dev.modelTables_rd h (by lia)]
  refine ⟨?_, ?_, ?_⟩
  · rw [hslot (.inl rfl), hhead (K.R_A n, _) (by simp [Dev.modelHead]; rfl), Nat.mod_eq_of_lt (by omega)]
  · rw [hslot (.inr rfl), hhead (K.R_B n, _) (by simp [Dev.modelHead]; rfl), Nat.mod_eq_of_lt (by omega)]
  · rw [he]
    exact Dev.bit_setBit_self _ _ _ (by decide)

end

/-! ## Identification is complete (R198, R206) -/

/-- The slots of a completed identification (Table 6-10), with the strength of the standing current (R206). -/
def Dev.identOutcome (d : Dev) (n time : Nat) : List (Nat × Nat) :=
  [(K.ID_RESULT n, 1), (K.ID_NT n, d.nt), (K.ID_TIME n, time), (K.I_STR n, d.rd (K.I_RUN n))]

/-- The outcome of a completed identification, and its event. -/
def Dev.identClosed (d : Dev) (n time : Nat) : Dev :=
  let e := d.wrs (d.identOutcome n time)
  let e := e.setAxis n { e.axis n with ident := {} }
  e.axisEvent n 0x0130 0x4400 e.nt (le 4 (e.rd (K.R_A n)) ++ le 4 (e.rd (K.R_B n)) ++ le 1 1)

/-- 100 us after its last row, where no test follows, identification completes at a boundary of coil A. -/
theorem exec_identificationComplete {s : State} {n : Nat} (h : s.Identifies n) (h6 : (s.dev.axis n).ident.row = 6)
    (ht : s.dev.rd (K.TEST_EN n) = 0) (ha : (s.dev.axis n).ident.rowAt + 100000 ≤ s.dev.now + 7)
    (hb : s.dev.atBoundary (2 * n) = true) : exec (.identificationComplete n) s =
      .next (s.onDev fun d => ((d.useModel n).identClosed n ((d.axis n).ident.lasted (d.useModel n).now)).toHolding n) := by
  obtain ⟨hu, hn, hs, hf⟩ := h
  show execIdentificationComplete n s = _
  simp [execIdentificationComplete, gated_on hu, onDev, State.onDev, hn, hs, hf, h6, ht, ha, hb, Dev.identClosed, Dev.identOutcome]

section
variable (d : Dev) (n time : Nat)

theorem Dev.identClosed_legs : (d.identClosed n time).legs = d.legs := by
  unfold Dev.identClosed
  dsimp only
  generalize he : Dev.setAxis _ n _ = e
  obtain ⟨o, m, f, hf⟩ := e.axisEvent_frame n 0x0130 0x4400 e.nt (le 4 (e.rd (K.R_A n)) ++ le 4 (e.rd (K.R_B n)) ++ le 1 1)
  rw [hf, ← he, Dev.wrs_objs_only, Dev.setAxis_legs]

/-- The slots of an axis hold what the outcome set. -/
theorem Dev.identClosed_rd {k : Nat} (hk : 0x1441 * 256 ≤ k) :
    (d.identClosed n time).rd k = (d.wrs (d.identOutcome n time)).rd k := by
  rw [Dev.identClosed, Dev.axisEvent_rd _ _ _ _ _ _ (.inr hk), Dev.setAxis_rd]

theorem Dev.identClosed_shows : (d.identClosed n time).rd (K.ID_RESULT n) = 1 ∧
    (d.identClosed n time).rd (K.I_STR n) = d.rd (K.I_RUN n) := by
  have hslots := Dev.rd_wrs_mem (d.identOutcome n time) (by simp [Dev.identOutcome]; lia) d
  refine ⟨?_, ?_⟩
  · rw [Dev.identClosed_rd _ _ _ (by lia), hslots (K.ID_RESULT n, 1) (by simp [Dev.identOutcome])]
    rfl
  · rw [Dev.identClosed_rd _ _ _ (by lia), hslots (K.I_STR n, d.rd (K.I_RUN n)) (by simp [Dev.identOutcome]),
      Nat.mod_eq_of_lt (d.rd_lt _)]

/-- A completed identification leaves the model in force as it is. -/
theorem Dev.identClosed_model {k : Nat} (hk : k = K.CC_STATUS n ∨ k = K.R_A n ∨ k = K.R_B n) :
    (d.identClosed n time).rd k = d.rd k := by
  rw [Dev.identClosed_rd _ _ _ (by lia), Dev.rd_wrs_ne]
  simp only [Dev.identOutcome, List.forall_mem_cons, List.not_mem_nil, IsEmpty.forall_iff, implies_true, and_true]
  and_intros <;> lia

theorem Dev.toHolding_rd {k : Nat} (hs : k ≠ K.STATE_4000 n) (hm : k ≠ K.STILL_MS n) : (d.toHolding n).rd k = d.rd k := by
  unfold Dev.toHolding Dev.setAxState
  rw [Dev.rd_wr_ne _ _ hm.symm, Dev.rd_wr_ne _ _ hs.symm]
  rfl

theorem Dev.toHolding_axState : (d.toHolding n).axState n = axHolding := by
  unfold Dev.toHolding Dev.axState Dev.setAxState
  rw [Dev.rd_wr_ne _ _ (by lia), Dev.rd_wr_self]
  rfl

theorem Dev.toHolding_legs : (d.toHolding n).legs = d.legs := rfl

end

/-! ## A test step ends (R206) -/

/-- The ratio of a test step and its event; the next step, which may have begun. -/
def Dev.stepEnded (d : Dev) (n ratio : Nat) (i : IdentRt) (p : Bytes) : Dev :=
  let e := (d.wr (K.STEP_RATIO_m n (i.step - 1)) ratio).axisEvent n 0x0131 0x4400 d.nt p
  e.setAxis n { e.axis n with ident := { i with step := i.step + 1, stepStart := i.nextStart, nextStart := 0, outAt := 0 } }

/-- A test step whose hold is over. -/
structure Dev.StepOver (d : Dev) (n : Nat) : Prop where
  row : (d.axis n).ident.row = 7
  first : 1 ≤ (d.axis n).ident.step
  last : (d.axis n).ident.step ≤ d.rd (K.TEST_STEPS n)
  begun : (d.axis n).ident.stepStart ≠ 0
  hold : (d.axis n).ident.stepStart + d.stepHold n ≤ d.nt + 7

/-- The ratio of the step in progress and its time, and the device with what was drawn for them (R206). -/
def Dev.stepResult (d : Dev) (n : Nat) : Nat × Nat × Dev :=
  let i := (d.axis n).ident
  let c := d.stepCoil n i.step
  let i0 := d.stepAmps c (i.step - 1)
  let i1 := d.stepAmps c i.step
  let small := decide (rabs (i1 - i0) ≤ d.stepBand c i.step)
  match i.took (d.stepHold n) with
  | some t => (if small then 0 else (clampI 0 0xFFFE (rfloor (1024 * t / d.stepMin c i0 i1))).toNat, (rround ((t : Rat) / 4)).toNat, d)
  | none => (if small then 0 else 0xFFFF, (d.draw 32).1, (d.draw 32).2)

theorem Dev.stepResult_frame (d : Dev) (n : Nat) : ∃ x, (d.stepResult n).2.2 = { d with drawn := x } := by
  unfold Dev.stepResult
  dsimp only
  cases (d.axis n).ident.took (d.stepHold n) with
  | none => exact ⟨_, rfl⟩
  | some t => exact ⟨_, rfl⟩

/-- The payload of the event of a step that ended. -/
def Dev.stepPayload (d : Dev) (n : Nat) : Bytes :=
  let i := (d.axis n).ident
  let c := d.stepCoil n i.step
  let tMin := d.stepMin c (d.stepAmps c (i.step - 1)) (d.stepAmps c i.step)
  le 1 i.step ++ le 1 (c % 2) ++ le 2 (d.stepResult n).1 ++ le 4 ((rround tMin).toNat % 2 ^ 32) ++ le 4 ((d.stepResult n).2.1 % 2 ^ 32)

/-- A test step whose hold is over ends. -/
theorem exec_testStepEnd {s : State} {n : Nat} (h : s.Identifies n) (hs : s.dev.StepOver n) : exec (.testStepEnd n) s =
    .next (s.onDev fun d => (d.stepResult n).2.2.stepEnded n (d.stepResult n).1 (d.axis n).ident (d.stepPayload n)) := by
  obtain ⟨hu, hn, hst, hf⟩ := h
  obtain ⟨h7, h1, hl, hb, hh⟩ := hs
  obtain ⟨f, hx, hp⟩ : ∃ f : Dev → Dev, exec (.testStepEnd n) s = gated s (onDev s f) ∧ f s.dev =
      (s.dev.stepResult n).2.2.stepEnded n (s.dev.stepResult n).1 (s.dev.axis n).ident (s.dev.stepPayload n) := by
    refine ⟨_, rfl, (if_pos ⟨hn, hst, hf, h7, h1, hl, hb, hh⟩).trans ?_⟩
    unfold Dev.stepPayload Dev.stepResult
    dsimp only
    cases (s.dev.axis n).ident.took (s.dev.stepHold n) with
    | none => rfl
    | some t => rfl
  rw [hx, gated_on hu, onDev, State.onDev, hp, State.onDev]

section
variable (d : Dev) (n ratio : Nat) (i : IdentRt) (p : Bytes)

theorem Dev.stepEnded_ident : ((d.stepEnded n ratio i p).axis n).ident =
    { i with step := i.step + 1, stepStart := i.nextStart, nextStart := 0, outAt := 0 } :=
  congrArg AxisRt.ident (Dev.axis_setAxis_self _ _ _)

theorem Dev.stepEnded_legs : (d.stepEnded n ratio i p).legs = d.legs := by
  obtain ⟨o, m, f, he⟩ := (d.wr (K.STEP_RATIO_m n (i.step - 1)) ratio).axisEvent_frame n 0x0131 0x4400 d.nt p
  rw [Dev.stepEnded, he]
  rfl

/-- Beside the posting slots the end of a step writes its ratio alone. -/
theorem Dev.stepEnded_rd {k : Nat} (hk : k ≠ K.STEP_RATIO_m n (i.step - 1)) (hp : postingSlot k = false) :
    (d.stepEnded n ratio i p).rd k = d.rd k := by
  rw [Dev.stepEnded, Dev.setAxis_rd]
  exact (Dev.event_rd _ _ _ _ _ _ _ (Dev.sliceOf_lt _ n) hp).trans (Dev.rd_wr_ne _ _ hk.symm)

end

end Sys2Proof.Machine

namespace Sys2Proof

open Sys2Proof.Machine

section
variable {s : State} {n : Nat} (h : s.Identifies n)
include h

/-- An undervoltage of the bus ends identification with cause 6, the legs off. -/
theorem idPhase_undervoltage (hb : s.dev.bit (K.BUS_FLAGS (n / 4)) 0 = true) :
    Completes (.idPhase n) s fun u => u.dev.rd (K.ID_RESULT n) = 6 ∧ (u.dev.axis n).faultReq = some false ∧
      (∀ l ∈ axisLegs n, (u.dev.leg l).pos = .off ∧ (u.dev.leg l).held = []) ∧ Raised u (0x183 + 0x10 * n) s.dev.nt ∧
      SlotsKept s u [K.ID_RESULT n, K.ID_NT n, K.ID_TIME n] := by
  refine completes_of_eq (exec_idPhase h) ?_
  generalize hu : s.onDev _ = u
  have hdev : u.dev = (s.dev.identStopped n 6).identReported n 6 := (congrArg State.dev hu).symm.trans <|
    (Dev.idRow_undervoltage hb).trans (Dev.identFail_runs h.state h.noFault 6)
  obtain ⟨t, o, hstop⟩ := s.dev.identStopped_frame n 6
  have hslot {k : Nat} (hk : postingSlot k = false) := (s.dev.identStopped n 6).identReported_rd n 6 hk
  obtain ⟨r, hr, hsrc, hnt⟩ := (s.dev.identStopped n 6).identReported_raised n 6 (by rw [hstop]; exact h.axis)
  refine ⟨?_, ?_, fun l hl => ?_, ⟨r, ?_, hsrc, ?_⟩, fun k hk hp => ?_⟩
  · rw [hdev, hslot (postingSlot_outside (by lia)), s.dev.identStopped_result n 6 (by decide)]
  · rw [hdev, Dev.axis_congr (Dev.identReported_axes _ n 6), s.dev.identStopped_axis n 6]
  · obtain ⟨hpos, -, -, hheld, -⟩ := (Dev.legsOff_legs (axisLegs n) s.dev l).1 (.inl hl)
    rw [hdev, Dev.leg, Dev.identReported_legs, Dev.identStopped_legs]
    exact ⟨hpos, hheld⟩
  · rw [hdev]
    exact hr
  · rw [hnt, hstop]
    rfl
  · rw [hdev, hslot hp, s.dev.identStopped_same n 6 k hk]

/-- Row 1 begins. -/
theorem idPhase_begins (hb : s.dev.bit (K.BUS_FLAGS (n / 4)) 0 = false) (h0 : (s.dev.axis n).ident.row = 0)
    (ha : s.dev.atBoundary (2 * n) = true) (he : (s.dev.axis n).ident.entered + 2000 ≤ s.dev.now) :
    Completes (.idPhase n) s fun u => (u.dev.axis n).ident.row = 1 ∧ (u.dev.axis n).ident.began = s.dev.ticks ∧
      (u.dev.axis n).ident.iRun = s.dev.rd (K.I_RUN n) ∧ u.dev.objs = s.dev.objs ∧ u.dev.legs = s.dev.legs := by
  refine completes_of_eq (exec_idPhase h) ?_
  rw [State.onDev, Dev.idRow_begins hb h0 ha he]
  simp

/-- Row 3 follows row 2 at its instant, and nothing happens before. -/
theorem idPhase_two (hb : s.dev.bit (K.BUS_FLAGS (n / 4)) 0 = false) (h2 : (s.dev.axis n).ident.row = 2)
    (ht : s.dev.now ≤ 8 * (s.dev.axis n).ident.began + 20000000) :
    (8 * (s.dev.axis n).ident.began + 300000 ≤ s.dev.now + 7 →
      Completes (.idPhase n) s fun u => (u.dev.axis n).ident.row = 3 ∧ u.dev.objs = s.dev.objs) ∧
    (s.dev.now + 7 < 8 * (s.dev.axis n).ident.began + 300000 → exec (.idPhase n) s = .next s) := by
  refine ⟨fun hd => completes_of_eq (exec_idPhase h) ?_, fun hd => ?_⟩
  · rw [State.onDev, Dev.idRow_two hb h2 ht, if_pos hd]
    simp
  · rw [exec_idPhase h, State.onDev, Dev.idRow_two hb h2 ht, if_neg (Nat.not_le.2 hd)]

/-- At its end the identified model is in force and the axis is Holding. -/
theorem identificationComplete_holds (h6 : (s.dev.axis n).ident.row = 6) (hl : (s.dev.axis n).ident.ls.length ≤ 32)
    (ht : s.dev.rd (K.TEST_EN n) = 0) (ha : (s.dev.axis n).ident.rowAt + 100000 ≤ s.dev.now + 7)
    (hb : s.dev.atBoundary (2 * n) = true) :
    Completes (.identificationComplete n) s fun u => u.dev.axState n = axHolding ∧ u.dev.rd (K.ID_RESULT n) = 1 ∧
      u.dev.rd (K.I_STR n) = s.dev.rd (K.I_RUN n) ∧ u.dev.bit (K.CC_STATUS n) 4 = false ∧
      u.dev.rd (K.R_A n) = (s.dev.axis n).ident.model.1.1 ∧ u.dev.rd (K.R_B n) = (s.dev.axis n).ident.model.2.1 ∧
      u.dev.legs = s.dev.legs := by
  refine completes_of_eq (exec_identificationComplete h h6 ht ha hb) ?_
  rw [State.onDev_dev]
  generalize (s.dev.axis n).ident.lasted _ = time
  obtain ⟨hres, hstr⟩ := (s.dev.useModel n).identClosed_shows n time
  obtain ⟨hra, hrb, hcc⟩ := Dev.useModel_shows hl
  have hclosed {k : Nat} := (s.dev.useModel n).identClosed_model n time (k := k)
  have hhold {k : Nat} := ((s.dev.useModel n).identClosed n time).toHolding_rd n (k := k)
  refine ⟨Dev.toHolding_axState _ n, ?_, ?_, ?_, ?_, ?_, ?_⟩
  · rw [hhold (by lia) (by lia), hres]
  · rw [hhold (by lia) (by lia), hstr, Dev.useModel_rd hl (by lia) (by lia)]
  · rw [Dev.bit_congr (hhold (by lia) (by lia)), Dev.bit_congr (hclosed (.inl rfl)), hcc]
  · rw [hhold (by lia) (by lia), hclosed (.inr (.inl rfl)), hra]
  · rw [hhold (by lia) (by lia), hclosed (.inr (.inr rfl)), hrb]
  · obtain ⟨o, c, hm⟩ := s.dev.useModel_frame n
    rw [Dev.toHolding_legs, Dev.identClosed_legs, hm]

/-- A test step that ends brings the next one. -/
theorem testStepEnd_next (ho : s.dev.StepOver n) :
    Completes (.testStepEnd n) s fun u => (u.dev.axis n).ident.step = (s.dev.axis n).ident.step + 1 ∧
      (u.dev.axis n).ident.stepStart = (s.dev.axis n).ident.nextStart ∧ u.dev.legs = s.dev.legs ∧
      SlotsKept s u [K.STEP_RATIO_m n ((s.dev.axis n).ident.step - 1)] := by
  obtain ⟨drawn, hd⟩ := s.dev.stepResult_frame n
  refine completes_of_eq (exec_testStepEnd h ho) ?_
  generalize hu : s.onDev _ = u
  obtain ⟨ratio, p, hdev⟩ : ∃ ratio p, u.dev = ({ s.dev with drawn := drawn } : Dev).stepEnded n ratio (s.dev.axis n).ident p :=
    ⟨_, _, by rw [← hu, State.onDev_dev, hd]⟩
  refine ⟨?_, ?_, ?_, fun k hk hp => ?_⟩
  · rw [hdev, Dev.stepEnded_ident]
  · rw [hdev, Dev.stepEnded_ident]
  · rw [hdev, Dev.stepEnded_legs]
  · rw [hdev, Dev.stepEnded_rd _ _ _ _ _ (by simpa using hk) hp]
    rfl

end

/-- Settles O32: each row is one equation of the identification's record, and its two ends are one equation each. -/
theorem identificationRunsItsRows : Obligations.IdentificationRunsItsRows := by
  unfold Obligations.IdentificationRunsItsRows
  intro s n hu hn hs hf
  have h : s.Identifies n := ⟨hu, hn, hs, hf⟩
  exact ⟨idPhase_undervoltage h, idPhase_begins h, idPhase_two h, identificationComplete_holds h,
    fun h7 h1 hl _ hb hh => testStepEnd_next h ⟨h7, h1, hl, hb, hh⟩⟩

end Sys2Proof

namespace Sys2Proof.Machine

/-! ## Flags and events of a quarter's bus (R196, Table 6-15) -/

theorem Dev.busEvent_frame (d : Dev) (q type v : Nat) : ∃ o m f, d.busEvent q type v = { d with objs := o, mail := m, flt := f } :=
  Dev.event_frame _ _ _ _ _ _

theorem Dev.busEvent_rd (d : Dev) {q : Nat} (hq : q < 4) (type v : Nat) {k : Nat} (hk : postingSlot k = false) :
    (d.busEvent q type v).rd k = d.rd k := Dev.event_rd _ _ _ _ _ _ _ (by omega) hk

theorem Dev.raiseOn_frame (d : Dev) (src nt : Nat) (i : Bool) : ∃ o f, d.raiseOn src nt i = { d with objs := o, flt := f } := by
  unfold Dev.raiseOn
  split_ifs
  · exact ⟨_, _, rfl⟩
  · obtain ⟨f, hf⟩ := (d.setBit (K.SRC_STATUS src) 0 true).raise_frame src nt i
    exact ⟨_, f, hf⟩

/-- A condition that has begun is active. -/
theorem Dev.raiseOn_active (d : Dev) (src nt : Nat) (i : Bool) : (d.raiseOn src nt i).bit (K.SRC_STATUS src) 0 = true := by
  unfold Dev.raiseOn
  split_ifs with h
  · exact h
  · rw [Dev.bit_congr (Dev.raise_rd _ _ _ _ _), Dev.bit_setBit_self _ _ _ (by decide)]

/-- The undervoltage of a quarter's bus begins. -/
def Dev.uvBegun (d : Dev) (q v : Nat) : Dev :=
  ((d.setBit (K.BUS_FLAGS q) 0 true).busEvent q 0x0140 v).raiseOn (0x140 + 0x10 * q) d.nt

/-- The undervoltage of a quarter's bus ends. -/
def Dev.uvEnded (d : Dev) (q v : Nat) : Dev :=
  ((d.setBit (K.BUS_FLAGS q) 0 false).busEvent q 0x0141 v).raiseOff (0x140 + 0x10 * q)

section
variable (d : Dev) (q v : Nat)

theorem Dev.uvBegun_frame : ∃ o m f, d.uvBegun q v = { d with objs := o, mail := m, flt := f } := by
  obtain ⟨o, m, f, he⟩ := (d.setBit (K.BUS_FLAGS q) 0 true).busEvent_frame q 0x0140 v
  obtain ⟨o', f', hr⟩ := ((d.setBit (K.BUS_FLAGS q) 0 true).busEvent q 0x0140 v).raiseOn_frame (0x140 + 0x10 * q) d.nt false
  rw [Dev.uvBegun, hr, he]
  exact ⟨_, _, _, rfl⟩

theorem Dev.uvEnded_frame : ∃ o m f, d.uvEnded q v = { d with objs := o, mail := m, flt := f } := by
  obtain ⟨o, m, f, he⟩ := (d.setBit (K.BUS_FLAGS q) 0 false).busEvent_frame q 0x0141 v
  rw [Dev.uvEnded, he]
  exact ⟨_, _, _, rfl⟩

variable {d q v} (hq : q < 4)
include hq

theorem Dev.uvBegun_rd {k : Nat} (hk : k ∉ [K.BUS_FLAGS q, K.SRC_STATUS (0x140 + 0x10 * q)]) (hp : postingSlot k = false) :
    (d.uvBegun q v).rd k = d.rd k := by
  simp only [List.mem_cons, List.not_mem_nil, or_false, not_or] at hk
  obtain ⟨hflag, hsrc⟩ := hk
  rw [Dev.uvBegun, Dev.raiseOn_same _ _ _ _ k (by simpa using hsrc), Dev.busEvent_rd _ hq _ _ hp, Dev.rd_setBit_ne _ _ _ (Ne.symm hflag)]

theorem Dev.uvBegun_flag : (d.uvBegun q v).bit (K.BUS_FLAGS q) 0 = true := by
  have hne : K.BUS_FLAGS q ∉ [K.SRC_STATUS (0x140 + 0x10 * q)] := by simp only [List.mem_singleton]; lia
  rw [Dev.uvBegun, Dev.bit_congr (Dev.raiseOn_same _ _ _ _ _ hne), Dev.bit_congr (Dev.busEvent_rd _ hq _ _ (postingSlot_outside (by lia))),
    Dev.bit_setBit_self _ _ _ (by decide)]

theorem Dev.uvEnded_rd {k : Nat} (hk : k ∉ [K.BUS_FLAGS q, K.SRC_STATUS (0x140 + 0x10 * q)]) (hp : postingSlot k = false) :
    (d.uvEnded q v).rd k = d.rd k := by
  simp only [List.mem_cons, List.not_mem_nil, or_false, not_or] at hk
  obtain ⟨hflag, hsrc⟩ := hk
  rw [Dev.uvEnded, Dev.raiseOff, Dev.rd_setBit_ne _ _ _ (Ne.symm hsrc), Dev.busEvent_rd _ hq _ _ hp, Dev.rd_setBit_ne _ _ _ (Ne.symm hflag)]

theorem Dev.uvEnded_flags : (d.uvEnded q v).bit (K.BUS_FLAGS q) 0 = false ∧
    (d.uvEnded q v).bit (K.SRC_STATUS (0x140 + 0x10 * q)) 0 = false := by
  refine ⟨?_, Dev.bit_setBit_self _ _ _ (by decide)⟩
  rw [Dev.uvEnded, Dev.raiseOff, Dev.bit_congr (Dev.rd_setBit_ne _ _ _ (by lia)),
    Dev.bit_congr (Dev.busEvent_rd _ hq _ _ (postingSlot_outside (by lia))), Dev.bit_setBit_self _ _ _ (by decide)]

end

/-! ## What the end of identification and the clamp leave (R197, R200) -/

/-- A leg with no edges to come, no letters and no go set. -/
def LegRt.Idle (r : LegRt) : Prop := r.due = [] ∧ r.held = [] ∧ r.goSet = []

/-- What the end of identification and the clamping of legs keep: the slots beside those of identification, the bus voltage and the clamp
of every quarter, legs that are idle, requests for Faulted. -/
structure Dev.BusKeeps (a b : Dev) : Prop where
  slots : ∀ k, (∀ n, k ∉ identSlots n) → postingSlot k = false → b.rd k = a.rd k
  vbus : ∀ q, (b.quarter q).vbus = (a.quarter q).vbus
  clamp : ∀ q, (b.quarter q).clamp = (a.quarter q).clamp
  idle : ∀ l, (a.leg l).Idle → (b.leg l).Idle
  asked : ∀ n, (a.axis n).faultReq.isSome = true → (b.axis n).faultReq.isSome = true

namespace Dev.BusKeeps

variable {a b : Dev}

theorem refl (a : Dev) : BusKeeps a a := ⟨fun _ _ _ => rfl, fun _ => rfl, fun _ => rfl, fun _ => id, fun _ => id⟩

theorem trans {c : Dev} (h : BusKeeps a b) (h' : BusKeeps b c) : BusKeeps a c :=
  ⟨fun k hi hp => (h'.slots k hi hp).trans (h.slots k hi hp), fun q => (h'.vbus q).trans (h.vbus q),
    fun q => (h'.clamp q).trans (h.clamp q), fun l hl => h'.idle l (h.idle l hl), fun n hn => h'.asked n (h.asked n hn)⟩

/-- The slots of identification stand in the objects 0x4402 of the axes. -/
theorem slot (h : BusKeeps a b) {k : Nat} (hk : k < 0x1430 * 256 ∨ 0x1441 * 256 ≤ k) (hi : k / 256 % 0x40 ≠ 2) : b.rd k = a.rd k :=
  h.slots k (fun n => by simp only [identSlots, List.mem_cons, List.not_mem_nil]; lia) (postingSlot_outside hk)

theorem ite {p : Prop} [Decidable p] {x y : Dev} (hx : BusKeeps a x) (hy : BusKeeps a y) : BusKeeps a (if p then x else y) := by
  split_ifs
  · exact hx
  · exact hy

theorem setLeg (h : BusKeeps a b) (l : Nat) (r : LegRt) (hi : (b.leg l).Idle → r.Idle) : BusKeeps a (b.setLeg l r) := by
  refine h.trans ⟨fun _ _ _ => rfl, fun _ => rfl, fun _ => rfl, fun m hm => ?_, fun _ => id⟩
  by_cases hlm : l = m
  · subst hlm
    rw [Dev.leg_setLeg_self]
    exact hi hm
  · rwa [Dev.leg_setLeg_ne _ _ hlm]

theorem setQuarter (h : BusKeeps a b) (q : Nat) (r : QuarterRt) (hv : r.vbus = (b.quarter q).vbus) (hc : r.clamp = (b.quarter q).clamp) :
    BusKeeps a (b.setQuarter q r) := by
  refine h.trans ⟨fun _ _ _ => rfl, fun p => ?_, fun p => ?_, fun _ => id, fun _ => id⟩ <;> by_cases hqp : q = p
  · subst hqp
    rwa [Dev.quarter_setQuarter_self]
  · rw [Dev.quarter_setQuarter_ne _ _ hqp]
  · subst hqp
    rwa [Dev.quarter_setQuarter_self]
  · rw [Dev.quarter_setQuarter_ne _ _ hqp]

theorem setCoil (h : BusKeeps a b) (c : Nat) (r : CoilRt) : BusKeeps a (b.setCoil c r) :=
  h.trans ⟨fun _ _ _ => rfl, fun _ => rfl, fun _ => rfl, fun _ => id, fun _ => id⟩

/-- Identification failed, where it ran. -/
theorem identFail (h : BusKeeps a b) (n cause : Nat) : BusKeeps a (b.identFail n cause) := by
  rw [Dev.identFail_eq]
  refine .ite h (h.trans ?_)
  obtain ⟨o, m, f, hr⟩ := (b.identStopped n cause).identReported_frame n cause
  obtain ⟨t, o', hs⟩ := b.identStopped_frame n cause
  have hquarter (q : Nat) : ((b.identStopped n cause).identReported n cause).quarter q = b.quarter q := by
    rw [hr, hs]
    rfl
  refine ⟨fun k hi hp => ?_, fun q => by rw [hquarter], fun q => by rw [hquarter], fun l hl => ?_, fun m hm => ?_⟩
  · rw [Dev.identReported_rd _ _ _ hp, Dev.identStopped_same _ _ _ k (hi n)]
  · rw [Dev.leg, Dev.identReported_legs, Dev.identStopped_legs]
    obtain ⟨hin, hout⟩ := Dev.legsOff_legs (axisLegs n) b l
    by_cases hmem : l ∈ axisLegs n
    · obtain ⟨-, -, hdue, hheld, hset⟩ := hin (.inl hmem)
      exact ⟨hdue, hheld, hset⟩
    · rw [← hout hmem] at hl
      exact hl
  · rw [Dev.axis_congr (Dev.identReported_axes _ n cause)]
    by_cases hnm : n = m
    · subst hnm
      rw [Dev.identStopped_axis]
      rfl
    · rw [hs]
      exact (congrArg (·.faultReq.isSome) (b.axis_setAxis_ne _ hnm)).trans hm

theorem identsFail (h : BusKeeps a b) (l : List Nat) (cause : Nat) : BusKeeps a (l.foldl (fun d n => d.identFail n cause) b) :=
  h.trans (foldl_frame BusKeeps refl (fun _ _ _ => trans) _ (fun d n => (refl d).identFail n cause) l b)

theorem await (h : BusKeeps a b) (l : Nat) (p : LegPos) (t0 t : Nat) : BusKeeps a (b.await l p t0 t) := h.setLeg l _ id

theorem legTo (h : BusKeeps a b) (l : Nat) (p : LegPos) (t : Nat) : BusKeeps a (b.legTo l p t) := by
  unfold Dev.legTo
  dsimp only
  refine setLeg (.ite h (h.setQuarter _ _ ?vbus ?clamp)) l _ ?idle
  case vbus => split_ifs <;> rfl
  case clamp => split_ifs <;> rfl
  case idle => split_ifs <;> exact id

/-- An edge set at a leg brings no letters. -/
theorem edgeSet (h : BusKeeps a b) (l : Nat) (p : LegPos) (t : Nat) (gateLow : Bool) : BusKeeps a (b.edgeSet l p t gateLow) := by
  unfold Dev.edgeSet
  exact .ite (.ite (h.setLeg l _ id) (h.await l _ _ _))
    (.ite h (.ite ((h.legTo l _ _).await l _ _ _) (.ite (h.legTo l _ _) (h.await l _ _ _))))

end Dev.BusKeeps

end Sys2Proof.Machine

namespace Sys2Proof.Machine

/-! ## The clamp (R197) -/

/-- A leg of a clamped coil before its clamp edge: nothing is to come for it, the pattern of a running period ends here. -/
def Dev.clampTaken (d : Dev) (l : Nat) : Dev :=
  let c := d.coil (l / 2)
  let r := d.leg l
  let before := r.pattern.filter fun e => 32 * c.start + e.offset < d.nowQ
  let pattern := if c.running ∧ c.begun then before ++ [{ state := 2, offset := d.nowQ - 32 * c.start }] else []
  (d.setLeg l { r with due := [], refresh := none, pattern := pattern, goRun := [] }).dropLetters l

theorem Dev.clampLeg_eq (d : Dev) (l : Nat) : d.clampLeg l =
    if d.isSafe (l / 16) || d.bit (K.LEG_FLAGS l) 2 then d.clampTaken l
    else (d.clampTaken l).edgeSet l .low d.nowQ ((d.leg l).gate ≠ .high || (d.leg l).gateEnd ≤ d.nowQ) := rfl

theorem Dev.clampTaken_idle (d : Dev) (l : Nat) : ((d.clampTaken l).leg l).Idle := by
  simp [Dev.clampTaken, Dev.dropLetters, LegRt.Idle]

namespace Dev.BusKeeps

variable {a b : Dev}

theorem clampTaken (h : BusKeeps a b) (l : Nat) : BusKeeps a (b.clampTaken l) := by
  unfold Dev.clampTaken Dev.dropLetters
  refine (h.setLeg l _ fun hl => ?_).setLeg l _ fun hl => ?_
  · exact ⟨rfl, hl.2⟩
  · exact ⟨hl.1, rfl, rfl⟩

theorem clampLeg (h : BusKeeps a b) (l : Nat) : BusKeeps a (b.clampLeg l) := by
  rw [Dev.clampLeg_eq]
  exact .ite (h.clampTaken l) ((h.clampTaken l).edgeSet l _ _ _)

theorem clampSched (h : BusKeeps a b) (c : Nat) : BusKeeps a (b.clampSched c) := by
  unfold Dev.clampSched
  exact .ite (h.setCoil c _) h

end Dev.BusKeeps

/-- A clamped leg has nothing to come. -/
theorem Dev.clampLeg_idle (d : Dev) (l : Nat) : ((d.clampLeg l).leg l).Idle := by
  have hidle := d.clampTaken_idle l
  rw [Dev.clampLeg_eq]
  split_ifs
  · exact hidle
  · exact ((BusKeeps.refl _).edgeSet l _ _ _).idle l hidle

/-- One coil clamped to slow decay. -/
def Dev.clampCoil (d : Dev) (c : Nat) : Dev := ((d.clampLeg (2 * c)).clampLeg (2 * c + 1)).clampSched c

theorem Dev.clampCoil_keeps (d : Dev) (c : Nat) : d.BusKeeps (d.clampCoil c) :=
  (((BusKeeps.refl d).clampLeg _).clampLeg _).clampSched c

theorem Dev.clampCoil_idle (d : Dev) (c : Nat) : ∀ l ∈ coilLegs c, ((d.clampCoil c).leg l).Idle := by
  have hsched (e : Dev) : e.BusKeeps (e.clampSched c) := (BusKeeps.refl e).clampSched c
  intro l hl
  simp only [coilLegs, List.mem_cons, List.not_mem_nil, or_false] at hl
  refine (hsched _).idle l ?_
  obtain rfl | rfl := hl
  · exact ((BusKeeps.refl _).clampLeg _).idle _ (d.clampLeg_idle _)
  · exact Dev.clampLeg_idle _ _

/-- Coils clamped one after the other: their legs all have nothing to come. -/
theorem Dev.clampAll (cs : List Nat) : ∀ d : Dev, d.BusKeeps (cs.foldl Dev.clampCoil d) ∧
    ∀ c ∈ cs, ∀ l ∈ coilLegs c, ((cs.foldl Dev.clampCoil d).leg l).Idle := by
  induction cs with
  | nil => exact fun d => ⟨.refl d, by simp⟩
  | cons c t ih =>
    intro d
    obtain ⟨hkeeps, hidle⟩ := ih (d.clampCoil c)
    exact ⟨(d.clampCoil_keeps c).trans hkeeps,
      List.forall_mem_cons.2 ⟨fun l hl => hkeeps.idle l (d.clampCoil_idle c l hl), hidle⟩⟩

/-- Where no coil of a quarter is clamped yet, all eight are. -/
theorem Dev.clampCoils_all {d : Dev} {q : Nat} (h : (d.quarter q).clamp = 0) : d.clampCoils q =
    ((List.range 8).map (8 * q + ·)).foldl Dev.clampCoil (d.setQuarter q { d.quarter q with clamp := 255 }) := by
  rw [Dev.clampCoils, List.foldl_map, h, List.filter_eq_self.2 (by simp)]
  rfl

/-- A leg of a quarter belongs to one of its eight coils. -/
theorem quarterLegs_coil {q l : Nat} (h : l ∈ quarterLegs q) : ∃ c ∈ (List.range 8).map (8 * q + ·), l ∈ coilLegs c := by
  simp only [quarterLegs, List.mem_map, List.mem_range] at h
  obtain ⟨j, hj, rfl⟩ := h
  refine ⟨8 * q + j / 2, List.mem_map.2 ⟨j / 2, List.mem_range.2 (by omega), rfl⟩, ?_⟩
  simp only [coilLegs, List.mem_cons, List.not_mem_nil, or_false]
  omega

/-! ## Flags and event of the clamp (Table 6-15) -/

section
variable (d : Dev) (q : Nat) (on : Bool)

theorem Dev.showClamp_frame : ∃ o, d.showClamp q on = { d with objs := o } := by
  refine foldl_frame (fun a b => ∃ o, b = { a with objs := o }) (fun _ => ⟨_, rfl⟩) ?_ _ (fun _ _ => ⟨_, rfl⟩) (quarterAxes q)
    (d.setBit (K.BUS_FLAGS q) 1 on)
  rintro a _ _ ⟨o, rfl⟩ ⟨o', rfl⟩
  exact ⟨_, rfl⟩

theorem Dev.showClamp_flag : (d.showClamp q on).bit (K.BUS_FLAGS q) 1 = on := by
  have hkeeps := foldl_keeps (fun e : Dev => e.rd (K.BUS_FLAGS q)) (fun e n => e.setBit (K.CC_STATUS n) 6 on)
    (fun e n => Dev.rd_setBit_ne _ _ _ (by lia)) (quarterAxes q) (d.setBit (K.BUS_FLAGS q) 1 on)
  exact (Dev.bit_congr hkeeps 1).trans (Dev.bit_setBit_self _ _ _ (by decide))

end

/-- The clamp shown, counted, raised and reported. -/
def Dev.clampShown (d : Dev) (q v : Nat) : Dev :=
  let e := ((d.showClamp q true).count (K.CLAMPS q)).raiseOn (0x141 + 0x10 * q) d.nt
  (e.emit (.report q .clamp e.nt)).busEvent q 0x0142 v

theorem Dev.clampOn_eq (d : Dev) (q v : Nat) : d.clampOn q v =
    let e := (quarterAxes q).foldl (fun d n => d.identFail n 8) (d.clampCoils q)
    if d.bit (K.BUS_FLAGS q) 1 then e else e.clampShown q v := by
  unfold Dev.clampOn
  dsimp only
  generalize (quarterAxes q).foldl (fun d n => d.identFail n 8) (d.clampCoils q) = e
  rfl

theorem Dev.clampShown_frame (d : Dev) (q v : Nat) : ∃ o m f x, d.clampShown q v = { d with objs := o, mail := m, flt := f, out := x } := by
  obtain ⟨o, hs⟩ := d.showClamp_frame q true
  obtain ⟨o', f, hr⟩ := ((d.showClamp q true).count (K.CLAMPS q)).raiseOn_frame (0x141 + 0x10 * q) d.nt false
  unfold Dev.clampShown
  dsimp only
  generalize he : Dev.emit _ _ = e
  obtain ⟨o2, m, f', hb⟩ := e.busEvent_frame q 0x0142 v
  rw [hb, ← he, hr, hs]
  exact ⟨_, _, _, _, rfl⟩

theorem Dev.clampShown_flag (d : Dev) {q : Nat} (hq : q < 4) (v : Nat) : (d.clampShown q v).bit (K.BUS_FLAGS q) 1 = true := by
  have hne : K.BUS_FLAGS q ∉ [K.SRC_STATUS (0x141 + 0x10 * q)] := by simp only [List.mem_singleton]; lia
  rw [Dev.clampShown, Dev.bit_congr (Dev.busEvent_rd _ hq _ _ (postingSlot_outside (by lia))), Dev.bit_congr (Dev.emit_rd _ _ _),
    Dev.bit_congr (Dev.raiseOn_same _ _ _ _ _ hne), Dev.count_eq,
    Dev.bit_congr (Dev.rd_wr_ne _ _ (by lia)), Dev.showClamp_flag]

/-- The clamp takes all eight coils of a quarter none of whose coils it held: its flag stands, no leg has anything to come. -/
theorem Dev.clampOn_takes {d : Dev} {q : Nat} (hq : q < 4) (h : (d.quarter q).clamp = 0) (v : Nat) :
    ((d.clampOn q v).quarter q).vbus = (d.quarter q).vbus ∧ (d.clampOn q v).bit (K.BUS_FLAGS q) 1 = true ∧
      ((d.clampOn q v).quarter q).clamp = 255 ∧ ∀ l ∈ quarterLegs q, ((d.clampOn q v).leg l).Idle := by
  obtain ⟨hcoils, hlegs⟩ := Dev.clampAll ((List.range 8).map (8 * q + ·)) (d.setQuarter q { d.quarter q with clamp := 255 })
  rw [← Dev.clampCoils_all h] at hcoils hlegs
  have hidents := (BusKeeps.refl (d.clampCoils q)).identsFail (quarterAxes q) 8
  have hkeeps := hcoils.trans hidents
  have hidle : ∀ l ∈ quarterLegs q, (((quarterAxes q).foldl (fun d n => d.identFail n 8) (d.clampCoils q)).leg l).Idle := fun l hl => by
    obtain ⟨c, hc, hlc⟩ := quarterLegs_coil hl
    exact hidents.idle l (hlegs c hc l hlc)
  rw [Dev.clampOn_eq]
  dsimp only
  generalize (quarterAxes q).foldl (fun d n => d.identFail n 8) (d.clampCoils q) = e at hkeeps hidle
  have hvbus : (e.quarter q).vbus = (d.quarter q).vbus := by rw [hkeeps.vbus, Dev.quarter_setQuarter_self]
  have hclamp : (e.quarter q).clamp = 255 := by rw [hkeeps.clamp, Dev.quarter_setQuarter_self]
  split_ifs with hheld
  · refine ⟨hvbus, ?_, hclamp, hidle⟩
    rw [Dev.bit_congr (hkeeps.slot (by lia) (by lia))]
    exact hheld
  · obtain ⟨o, m, f, x, hs⟩ := e.clampShown_frame q v
    refine ⟨?_, e.clampShown_flag hq v, ?_, fun l hl => ?_⟩
    · rw [hs]
      exact hvbus
    · rw [hs]
      exact hclamp
    · rw [hs]
      exact hidle l hl

/-! ## A sample of the bus voltage (R196) -/

/-- A request for Faulted stands for an axis whose identification has failed. -/
theorem Dev.identFail_asked {d : Dev} {n : Nat} (h : d.axState n = axIdentifying) (cause : Nat) :
    ((d.identFail n cause).axis n).faultReq.isSome = true := by
  by_cases hf : (d.axis n).faultReq.isSome = true
  · exact ((BusKeeps.refl d).identFail n cause).asked n hf
  · rw [Dev.identFail_runs h (by simpa using hf), Dev.axis_congr (Dev.identReported_axes _ n cause), Dev.identStopped_axis]
    rfl

/-- Among axes whose identification fails one after the other, each that was Identifying is asked to be Faulted. -/
theorem Dev.identsFail_asked {n : Nat} (cause : Nat) (l : List Nat) : ∀ d : Dev, n ∈ l → d.axState n = axIdentifying →
    ((l.foldl (fun d n => d.identFail n cause) d).axis n).faultReq.isSome = true := by
  induction l with
  | nil => simp
  | cons m t ih =>
    intro d hn hs
    have hstate : (d.identFail m cause).axState n = d.axState n := ((BusKeeps.refl d).identFail m cause).slot (by lia) (by lia)
    rcases List.mem_cons.1 hn with rfl | hn
    · exact ((BusKeeps.refl _).identsFail t cause).asked n (Dev.identFail_asked hs cause)
    · exact ih _ hn (hstate.trans hs)

/-- The bus voltage of quarter q shown, with the time since which it has stayed below the release of a clamp at ov. -/
def Dev.busShown (d : Dev) (q v ov : Nat) : Dev :=
  let r := d.quarter q
  (d.setQuarter q { r with vbus := v, belowOv := if v + 100 < ov then some (r.belowOv.getD d.now) else none }).setBit
    (K.BUS_FLAGS q) 2 (8000 ≤ v)

/-- The undervoltage of a quarter's bus judged. -/
def Dev.uvJudged (d : Dev) (q v : Nat) : Dev :=
  let uv := d.bit (K.BUS_FLAGS q) 0
  let low := d.effQ q (K.VBUS_UV q)
  if v < low ∧ ¬ uv then d.uvBegun q v else if uv ∧ low + 50 < v then d.uvEnded q v else d

/-- Identification ends while the undervoltage stands. -/
def Dev.uvIdents (d : Dev) (q : Nat) : Dev :=
  if d.bit (K.BUS_FLAGS q) 0 then (quarterAxes q).foldl (fun d n => d.identFail n 6) d else d

theorem exec_vbusSample {s : State} {q : Nat} (hu : s.unitsOn = true) (hq : s.dev.hasQuarter q = true) (hf : s.dev.fab.ready = true)
    (v : Nat) : exec (.vbusSample q v) s = .next (s.onDev fun d =>
      let ov := d.effQ q (K.VBUS_OV q)
      let e := ((d.busShown q v ov).uvJudged q v).uvIdents q
      if ov < v then e.clampOn q v else e) := by
  obtain ⟨f, hx, hp⟩ : ∃ f : Dev → Dev, exec (.vbusSample q v) s = gated s (onDev s f) ∧ f s.dev =
      let ov := s.dev.effQ q (K.VBUS_OV q)
      let e := ((s.dev.busShown q v ov).uvJudged q v).uvIdents q
      if ov < v then e.clampOn q v else e := ⟨_, rfl, (if_neg (by simp [hq, hf])).trans rfl⟩
  rw [hx, gated_on hu, onDev, State.onDev, hp, State.onDev]

section
variable (d : Dev) (q v ov : Nat)

theorem Dev.busShown_rd {k : Nat} (h : k ≠ K.BUS_FLAGS q) : (d.busShown q v ov).rd k = d.rd k := Dev.rd_setBit_ne _ _ _ h.symm

/-- The undervoltage and the clamp stand as they were when the voltage is shown. -/
theorem Dev.busShown_flag {i : Nat} (hi : i ≠ 2) : (d.busShown q v ov).bit (K.BUS_FLAGS q) i = d.bit (K.BUS_FLAGS q) i := by
  rw [Dev.busShown, Dev.bit_setBit _ _ _ _ (by decide), if_neg hi.symm]
  rfl

theorem Dev.busShown_quarter : (d.busShown q v ov).quarter q =
    { d.quarter q with vbus := v, belowOv := if v + 100 < ov then some ((d.quarter q).belowOv.getD d.now) else none } :=
  Dev.quarter_setQuarter_self _ _ _

theorem Dev.busShown_effQ {k : Nat} (h : k ≠ K.BUS_FLAGS q) : (d.busShown q v ov).effQ q k = d.effQ q k := by
  rw [Dev.effQ, Dev.effQ, d.busShown_rd q v ov h, d.busShown_quarter q v ov]

theorem Dev.uvJudged_frame : ∃ o m f, d.uvJudged q v = { d with objs := o, mail := m, flt := f } := by
  unfold Dev.uvJudged
  dsimp only
  split_ifs
  · exact d.uvBegun_frame q v
  · exact d.uvEnded_frame q v
  · exact ⟨_, _, _, rfl⟩

theorem Dev.uvIdents_keeps : d.BusKeeps (d.uvIdents q) := .ite ((BusKeeps.refl d).identsFail _ 6) (.refl d)

end

end Sys2Proof.Machine

namespace Sys2Proof.Machine

section
variable {d : Dev} {q v : Nat}

/-- Below VBUS_UV the undervoltage begins, above VBUS_UV + 0.5 V it ends. -/
theorem Dev.uvJudged_begins (h : v < d.effQ q (K.VBUS_UV q)) (hf : d.bit (K.BUS_FLAGS q) 0 = false) : d.uvJudged q v = d.uvBegun q v :=
  if_pos ⟨h, by simp [hf]⟩

theorem Dev.uvJudged_ends (h : d.effQ q (K.VBUS_UV q) + 50 < v) (hf : d.bit (K.BUS_FLAGS q) 0 = true) : d.uvJudged q v = d.uvEnded q v :=
  (if_neg fun hb => hb.2 hf).trans (if_pos ⟨hf, h⟩)

end

/-! ## Samples (R185) -/

theorem exec_sampleInstant {s : State} {q ch c : Nat} (code : Int) (hu : s.unitsOn = true) (hq : s.dev.hasQuarter q = true)
    (hs : s.dev.sampledCoil q ch = some c) (hr : (s.dev.coil c).running = true) (hb : (s.dev.coil c).begun = true)
    (hp : s.dev.ticks - (s.dev.coil c).start ∈ s.dev.samplePosBy (s.dev.setting q) c) :
    exec (.sampleInstant q ch code) s = .next (s.onDev fun d => d.setQuarter q { d.quarter q with
      converting := Tab.put (d.quarter q).converting ch (clampI (-8192) 8191 code, 4 * d.nt, d.now + 100) }) := by
  show execSampleInstant q ch code s = _
  simp only [execSampleInstant, gated_on hu, onDev, State.onDev, hs, hq, hr, hb, List.contains_iff_mem.2 hp, and_self, if_true]

theorem exec_conversionComplete {s : State} {q ch ts e : Nat} {code : Int} (hu : s.unitsOn = true) (hq : s.dev.hasQuarter q = true)
    (hc : Tab.find (s.dev.quarter q).converting ch = some (code, ts, e)) (he : e ≤ s.dev.now + 7) :
    exec (.conversionComplete q ch) s = .next (s.onDev fun d =>
      (d.setQuarter q { d.quarter q with converting := Tab.del (d.quarter q).converting ch }).emit (.sample q ch code ts)) := by
  show execConversionComplete q ch s = _
  simp only [execConversionComplete, gated_on hu, onDev, State.onDev, hc, hq, he, and_self, if_true]

/-! ## The clamp releases a coil (R197) -/

/-- A clamped coil at a period boundary, or one that has none, 100 us after the bus has fallen below the release voltage. -/
structure Dev.ClampOver (d : Dev) (c : Nat) : Prop where
  coil : d.hasCoil c = true
  held : (d.quarter (c / 8)).clamp.testBit (c % 8) = true
  below : ∃ t, (d.quarter (c / 8)).belowOv = some t ∧ t + 100000 ≤ d.now + 7
  boundary : (d.coil c).running = false ∨ (d.coil c).nextAt = d.ticks ∨ (d.coil c).start = d.ticks

/-- The record of a quarter with one of its coils released. -/
def QuarterRt.released (r : QuarterRt) (j : Nat) : QuarterRt := { r with clamp := withBit r.clamp j false }

/-- A coil released; its legs go off where its currents are not regulated (log 42). -/
def Dev.coilReleased (d : Dev) (c : Nat) : Dev :=
  let e := d.setQuarter (c / 8) ((d.quarter (c / 8)).released (c % 8))
  if e.regulates (c / 2) then e else (e.legOff (2 * c)).legOff (2 * c + 1)

/-- The end of a quarter's clamp shown, once it holds no coil. -/
def Dev.clampEnded (d : Dev) (q v : Nat) : Dev := ((d.showClamp q false).raiseOff (0x141 + 0x10 * q)).busEvent q 0x0143 v

theorem exec_ovClampRelease {s : State} {c : Nat} (hu : s.unitsOn = true) (h : s.dev.ClampOver c) :
    exec (.ovClampRelease c) s = .next (s.onDev fun d =>
      if ((d.quarter (c / 8)).released (c % 8)).clamp = 0 then (d.coilReleased c).clampEnded (c / 8) (d.quarter (c / 8)).vbus
      else d.coilReleased c) := by
  obtain ⟨hc, hheld, ⟨t, hb, ht⟩, hbound⟩ := h
  have hrun : ¬ (s.dev.coil c).running ∨ (s.dev.coil c).nextAt = s.dev.ticks ∨ (s.dev.coil c).start = s.dev.ticks := by
    simpa using hbound
  obtain ⟨f, hx, hp⟩ : ∃ f : Dev → Dev, exec (.ovClampRelease c) s = gated s (onDev s f) ∧ f s.dev =
      if ((s.dev.quarter (c / 8)).released (c % 8)).clamp = 0 then (s.dev.coilReleased c).clampEnded (c / 8) (s.dev.quarter (c / 8)).vbus
      else s.dev.coilReleased c := by
    refine ⟨_, rfl, ?_⟩
    dsimp only
    split
    next t' ht' =>
      obtain rfl : t = t' := Option.some.inj (hb.symm.trans ht')
      exact if_pos ⟨hc, hheld, ht, hrun⟩
    next hnone => exact absurd (hb.symm.trans hnone) (by simp)
  rw [hx, gated_on hu, onDev, State.onDev, hp, State.onDev]

/-- The last bit of a clamp cleared. -/
theorem withBit_two_pow (j : Nat) : withBit (2 ^ j) j false = 0 := by
  refine Nat.eq_of_testBit_eq fun i => ?_
  rw [withBit, testBit_withField, Nat.zero_testBit]
  split_ifs with h
  · simp
  · rw [Nat.testBit_two_pow]
    exact decide_eq_false (by omega)

section
variable (d : Dev) (c : Nat)

theorem Dev.coilReleased_quarter : (d.coilReleased c).quarter (c / 8) = (d.quarter (c / 8)).released (c % 8) := by
  obtain ⟨t, h1⟩ := (d.setQuarter (c / 8) ((d.quarter (c / 8)).released (c % 8))).legOff_frame (2 * c)
  obtain ⟨t', h2⟩ := ((d.setQuarter (c / 8) ((d.quarter (c / 8)).released (c % 8))).legOff (2 * c)).legOff_frame (2 * c + 1)
  unfold Dev.coilReleased
  dsimp only
  split_ifs
  · exact Dev.quarter_setQuarter_self _ _ _
  · rw [h2, h1]
    exact Dev.quarter_setQuarter_self _ _ _

theorem Dev.coilReleased_regulated (h : d.regulates (c / 2) = true) : (d.coilReleased c).legs = d.legs := by
  have hr : (d.setQuarter (c / 8) ((d.quarter (c / 8)).released (c % 8))).regulates (c / 2) = true := h
  rw [Dev.coilReleased, if_pos hr, Dev.setQuarter_legs]

theorem Dev.coilReleased_unregulated (h : d.regulates (c / 2) = false) : ∀ l ∈ coilLegs c, ((d.coilReleased c).leg l).pos = .off := by
  have hr : ¬ (d.setQuarter (c / 8) ((d.quarter (c / 8)).released (c % 8))).regulates (c / 2) = true := Bool.eq_false_iff.1 h
  intro l hl
  simp only [coilLegs, List.mem_cons, List.not_mem_nil, or_false] at hl
  rw [Dev.coilReleased, if_neg hr]
  obtain rfl | rfl := hl
  · rw [Dev.legOff_other _ (by omega)]
    exact (Dev.legOff_off _ _).1
  · exact (Dev.legOff_off _ _).1

end

theorem Dev.clampEnded_frame (d : Dev) (q v : Nat) : ∃ o m f, d.clampEnded q v = { d with objs := o, mail := m, flt := f } := by
  obtain ⟨o, hs⟩ := d.showClamp_frame q false
  obtain ⟨o', m, f, hb⟩ := ((d.showClamp q false).raiseOff (0x141 + 0x10 * q)).busEvent_frame q 0x0143 v
  rw [Dev.clampEnded, hb, hs]
  exact ⟨_, _, _, rfl⟩

theorem Dev.clampEnded_flags (d : Dev) {q : Nat} (hq : q < 4) (v : Nat) : (d.clampEnded q v).bit (K.BUS_FLAGS q) 1 = false ∧
    (d.clampEnded q v).bit (K.SRC_STATUS (0x141 + 0x10 * q)) 0 = false := by
  refine ⟨?_, ?_⟩
  · rw [Dev.clampEnded, Dev.bit_congr (Dev.busEvent_rd _ hq _ _ (postingSlot_outside (by lia))), Dev.raiseOff,
      Dev.bit_congr (Dev.rd_setBit_ne _ _ _ (by lia)), Dev.showClamp_flag]
  · rw [Dev.clampEnded, Dev.bit_congr (Dev.busEvent_rd _ hq _ _ (postingSlot_outside (by lia))), Dev.raiseOff,
      Dev.bit_setBit_self _ _ _ (by decide)]

end Sys2Proof.Machine

namespace Sys2Proof

open Sys2Proof.Machine

/-- At a sampling instant of its coil a channel takes the code. -/
theorem sampleInstant_taken {s : State} {q ch c : Nat} (code : Int) (hu : s.unitsOn = true) (hq : s.dev.hasQuarter q = true)
    (hs : s.dev.sampledCoil q ch = some c) (hr : (s.dev.coil c).running = true) (hb : (s.dev.coil c).begun = true)
    (hp : s.dev.ticks - (s.dev.coil c).start ∈ s.dev.samplePosBy (s.dev.setting q) c) :
    Completes (.sampleInstant q ch code) s fun u =>
      Tab.find (u.dev.quarter q).converting ch = some (clampI (-8192) 8191 code, 4 * s.dev.nt, s.dev.now + 100) ∧
      u.dev.objs = s.dev.objs ∧ u.dev.legs = s.dev.legs ∧ u.dev.coils = s.dev.coils :=
  completes_of_eq (exec_sampleInstant code hu hq hs hr hb hp) (by simp)

/-- A conversion that completes leaves over the seam, tagged with its instant. -/
theorem conversionComplete_leaves {s : State} {q ch ts e : Nat} {code : Int} (hu : s.unitsOn = true) (hq : s.dev.hasQuarter q = true)
    (hc : Tab.find (s.dev.quarter q).converting ch = some (code, ts, e)) (he : e ≤ s.dev.now + 7) :
    Completes (.conversionComplete q ch) s fun u => u.dev.out = s.dev.out ++ [.sample q ch code ts] ∧
      Tab.find (u.dev.quarter q).converting ch = none ∧ u.dev.objs = s.dev.objs ∧ u.dev.legs = s.dev.legs := by
  refine completes_of_eq (exec_conversionComplete hu hq hc he) ⟨rfl, ?_, rfl, rfl⟩
  have hquarter := s.dev.quarter_setQuarter_self q { s.dev.quarter q with converting := Tab.del (s.dev.quarter q).converting ch }
  refine (congrArg (Tab.find ·.converting ch) hquarter).trans ?_
  simp [Tab.find_del]

section
variable {s : State} {q v : Nat} (hu : s.unitsOn = true) (hq : s.dev.hasQuarter q = true) (hf : s.dev.fab.ready = true)
include hu hq hf

/-- Below VBUS_UV the undervoltage begins and identification ends. -/
theorem vbusSample_undervoltage (hlow : v < s.dev.effQ q (K.VBUS_UV q)) (hov : v ≤ s.dev.effQ q (K.VBUS_OV q))
    (hflag : s.dev.bit (K.BUS_FLAGS q) 0 = false) :
    Completes (.vbusSample q v) s fun u => u.dev.bit (K.BUS_FLAGS q) 0 = true ∧ (u.dev.quarter q).vbus = v ∧
      u.dev.bit (K.SRC_STATUS (0x140 + 0x10 * q)) 0 = true ∧
      ∀ n ∈ quarterAxes q, s.dev.axState n = axIdentifying → (u.dev.axis n).faultReq.isSome = true := by
  have hq4 : q < 4 := lt_of_lt_of_le (of_decide_eq_true hq) s.dev.part.quarters_le
  refine completes_of_eq (exec_vbusSample hu hq hf v) ?_
  generalize hs : s.onDev _ = u
  generalize hov' : s.dev.effQ q (K.VBUS_OV q) = ov at hov hs
  generalize he : (s.dev.busShown q v ov).uvBegun q v = e
  have hbegun : e.bit (K.BUS_FLAGS q) 0 = true := he ▸ Dev.uvBegun_flag hq4
  have hdev : u.dev = (quarterAxes q).foldl (fun d n => d.identFail n 6) e := by
    rw [← hs, State.onDev_dev]
    dsimp only
    rw [hov', if_neg (by omega), Dev.uvJudged_begins (by rwa [Dev.busShown_effQ _ _ _ _ (by lia)])
      (by rwa [Dev.busShown_flag _ _ _ _ (by decide)]), he, Dev.uvIdents, if_pos hbegun]
  have hkeeps := (Dev.BusKeeps.refl e).identsFail (quarterAxes q) 6
  rw [hdev]
  refine ⟨?_, ?_, ?_, fun n hn hst => ?_⟩
  · rw [Dev.bit_congr (hkeeps.slot (by lia) (by lia))]
    exact hbegun
  · obtain ⟨o, m, f, hframe⟩ := (s.dev.busShown q v ov).uvBegun_frame q v
    rw [hkeeps.vbus, ← he, hframe]
    exact congrArg QuarterRt.vbus (s.dev.busShown_quarter q v ov)
  · rw [Dev.bit_congr (hkeeps.slot (by lia) (by lia)), ← he]
    exact Dev.raiseOn_active _ _ _ _
  · refine Dev.identsFail_asked 6 _ e hn ?_
    rw [← he, Dev.axState, Dev.uvBegun_rd hq4 (by simp only [List.mem_cons, List.not_mem_nil]; lia) (postingSlot_outside (by lia)),
      Dev.busShown_rd _ _ _ _ (by lia)]
    exact hst

/-- Above VBUS_UV + 0.5 V the undervoltage ends. -/
theorem vbusSample_recovers (hhigh : s.dev.effQ q (K.VBUS_UV q) + 50 < v) (hov : v ≤ s.dev.effQ q (K.VBUS_OV q))
    (hflag : s.dev.bit (K.BUS_FLAGS q) 0 = true) :
    Completes (.vbusSample q v) s fun u => u.dev.bit (K.BUS_FLAGS q) 0 = false ∧ (u.dev.quarter q).vbus = v ∧
      u.dev.bit (K.SRC_STATUS (0x140 + 0x10 * q)) 0 = false ∧ u.dev.legs = s.dev.legs ∧
      SlotsKept s u [K.BUS_FLAGS q, K.SRC_STATUS (0x140 + 0x10 * q)] := by
  have hq4 : q < 4 := lt_of_lt_of_le (of_decide_eq_true hq) s.dev.part.quarters_le
  refine completes_of_eq (exec_vbusSample hu hq hf v) ?_
  generalize hs : s.onDev _ = u
  generalize hov' : s.dev.effQ q (K.VBUS_OV q) = ov at hov hs
  have hended := Dev.uvEnded_flags (d := s.dev.busShown q v ov) (v := v) hq4
  have hdev : u.dev = (s.dev.busShown q v ov).uvEnded q v := by
    rw [← hs, State.onDev_dev]
    dsimp only
    rw [hov', if_neg (by omega), Dev.uvJudged_ends (by rwa [Dev.busShown_effQ _ _ _ _ (by lia)])
      (by rwa [Dev.busShown_flag _ _ _ _ (by decide)]), Dev.uvIdents, if_neg (by simp [hended.1])]
  obtain ⟨o, m, f, hframe⟩ := (s.dev.busShown q v ov).uvEnded_frame q v
  rw [hdev]
  refine ⟨hended.1, ?_, hended.2, ?_, fun k hk hp => ?_⟩
  · rw [hframe]
    exact congrArg QuarterRt.vbus (s.dev.busShown_quarter q v ov)
  · rw [hframe]
    rfl
  · have hne : k ≠ K.BUS_FLAGS q := fun h => hk (by simp [h])
    rw [hdev, Dev.uvEnded_rd hq4 hk hp, Dev.busShown_rd _ _ _ _ hne]

/-- Above VBUS_OV the clamp takes all eight coils and their letters. -/
theorem vbusSample_clamps (hov : s.dev.effQ q (K.VBUS_OV q) < v) (hclamp : (s.dev.quarter q).clamp = 0) :
    Completes (.vbusSample q v) s fun u => (u.dev.quarter q).vbus = v ∧ u.dev.bit (K.BUS_FLAGS q) 1 = true ∧
      (u.dev.quarter q).clamp = 255 ∧
      ∀ l ∈ quarterLegs q, (u.dev.leg l).due = [] ∧ (u.dev.leg l).held = [] ∧ (u.dev.leg l).goSet = [] := by
  have hq4 : q < 4 := lt_of_lt_of_le (of_decide_eq_true hq) s.dev.part.quarters_le
  refine completes_of_eq (exec_vbusSample hu hq hf v) ?_
  rw [State.onDev_dev]
  dsimp only
  rw [if_pos hov]
  generalize s.dev.effQ q (K.VBUS_OV q) = ov
  obtain ⟨o, m, f, hframe⟩ := (s.dev.busShown q v ov).uvJudged_frame q v
  have hquarter : ((s.dev.busShown q v ov).uvJudged q v).quarter q = (s.dev.busShown q v ov).quarter q := by
    rw [hframe]
    rfl
  have hkeeps := ((s.dev.busShown q v ov).uvJudged q v).uvIdents_keeps q
  have hnone : ((((s.dev.busShown q v ov).uvJudged q v).uvIdents q).quarter q).clamp = 0 := by
    rw [hkeeps.clamp, hquarter, s.dev.busShown_quarter]
    exact hclamp
  obtain ⟨hvbus, hrest⟩ := Dev.clampOn_takes hq4 hnone v
  refine ⟨?_, hrest⟩
  rw [hvbus, hkeeps.vbus, hquarter, s.dev.busShown_quarter]

end

/-- A clamped coil is released, and with the last coil of its quarter the clamp ends. -/
theorem ovClampRelease_releases {s : State} {c : Nat} (hu : s.unitsOn = true) (h : s.dev.ClampOver c) :
    Completes (.ovClampRelease c) s fun u => (u.dev.quarter (c / 8)).clamp.testBit (c % 8) = false ∧
      (s.dev.regulates (c / 2) = true → u.dev.legs = s.dev.legs) ∧
      (s.dev.regulates (c / 2) = false → ∀ l ∈ coilLegs c, (u.dev.leg l).pos = .off) ∧
      ((s.dev.quarter (c / 8)).clamp = 2 ^ (c % 8) → u.dev.bit (K.BUS_FLAGS (c / 8)) 1 = false ∧
        u.dev.bit (K.SRC_STATUS (0x141 + 0x10 * (c / 8))) 0 = false) := by
  have hc : c < 8 * s.dev.part.quarters := of_decide_eq_true h.coil
  have hq4 : c / 8 < 4 := by
    have := s.dev.part.quarters_le
    omega
  refine completes_of_eq (exec_ovClampRelease hu h) ?_
  generalize hs : s.onDev _ = u
  have hdev : u.dev = if ((s.dev.quarter (c / 8)).released (c % 8)).clamp = 0 then
      (s.dev.coilReleased c).clampEnded (c / 8) (s.dev.quarter (c / 8)).vbus else s.dev.coilReleased c := (congrArg State.dev hs).symm
  have hframe : u.dev.quarters = (s.dev.coilReleased c).quarters ∧ u.dev.legs = (s.dev.coilReleased c).legs := by
    obtain ⟨o, m, f, hend⟩ := (s.dev.coilReleased c).clampEnded_frame (c / 8) (s.dev.quarter (c / 8)).vbus
    rw [hdev, hend]
    split_ifs <;> exact ⟨rfl, rfl⟩
  obtain ⟨hquarters, hlegs⟩ := hframe
  refine ⟨?_, fun hr => ?_, fun hr l hl => ?_, fun hlast => ?_⟩
  · rw [Dev.quarter, hquarters]
    exact (congrArg (·.clamp.testBit (c % 8)) (s.dev.coilReleased_quarter c)).trans (testBit_withBit_self _ _ _)
  · rw [hlegs, s.dev.coilReleased_regulated c hr]
  · rw [Dev.leg, hlegs]
    exact s.dev.coilReleased_unregulated c hr l hl
  · have hempty : ((s.dev.quarter (c / 8)).released (c % 8)).clamp = 0 := by
      rw [QuarterRt.released, hlast, withBit_two_pow]
    rw [hdev, if_pos hempty]
    exact Dev.clampEnded_flags _ hq4 _

/-- Settles O30: samples by their equations, a bus sample by what its judgement, the ends of identification and the clamp keep, a release
by what it leaves of the coil's quarter. -/
theorem samplesAndTheBusAreMeasured : Obligations.SamplesAndTheBusAreMeasured := by
  unfold Obligations.SamplesAndTheBusAreMeasured
  refine ⟨fun s q ch c code hu hq hs hr hb hp => sampleInstant_taken code hu hq hs hr hb hp,
    fun s q ch ts e code hu hq hc he => conversionComplete_leaves hu hq hc he,
    fun s q v hu hq hf => ⟨vbusSample_undervoltage hu hq hf, vbusSample_recovers hu hq hf, vbusSample_clamps hu hq hf⟩,
    fun s c t hu hc hb ht hheld hbound => ovClampRelease_releases hu ⟨hc, hheld, ⟨t, hb, ht⟩, hbound⟩⟩

end Sys2Proof

namespace Sys2Proof.Machine

/-! ## Load events (R226) -/

section
variable (d : Dev) (n i : Nat) (p : Bytes)

theorem Dev.loadEvent_axes : (d.loadEvent n i p).axes = d.axes := by
  obtain ⟨o, m, f, h⟩ := (d.setBit (K.LOAD_EVENTS n) i true).axisEvent_frame n (0x150 + i) 0x4410 d.nt p
  unfold Dev.loadEvent
  dsimp only
  split_ifs
  · exact (congrArg Dev.axes h).trans rfl
  · rfl

/-- The record of a load event changes posting slots alone. -/
theorem Dev.loadEvent_rd_setBit {k : Nat} (hk : postingSlot k = false) :
    (d.loadEvent n i p).rd k = (d.setBit (K.LOAD_EVENTS n) i true).rd k := by
  unfold Dev.loadEvent
  dsimp only
  split_ifs
  · exact Dev.event_rd _ _ _ _ _ _ _ (Dev.sliceOf_lt _ n) hk
  · rfl

theorem Dev.loadEvent_rd {k : Nat} (hk : postingSlot k = false) (hl : k ≠ K.LOAD_EVENTS n) : (d.loadEvent n i p).rd k = d.rd k :=
  (d.loadEvent_rd_setBit n i p hk).trans (Dev.rd_setBit_ne _ _ _ hl.symm)

theorem Dev.loadEvent_shown (hi : i < 64) : (d.loadEvent n i p).bit (K.LOAD_EVENTS n) i = true :=
  (Dev.bit_congr (d.loadEvent_rd_setBit n i p (postingSlot_outside (by lia))) i).trans (d.bit_setBit_self _ true hi)

end

/-! ## Ramps (R223) -/

/-- Axis n with its ramp from the present amplitude to I_REST begun and no wake in progress. -/
def Dev.rampBegun (d : Dev) (n : Nat) : Dev :=
  d.setAxis n { d.axis n with
    eng := { (d.axis n).eng with ramp := some (d.rd (K.I_AMP n), d.eff n (K.I_REST n), d.now), wake := none } }

theorem Dev.rampBegun_eng (d : Dev) (n : Nat) : ((d.rampBegun n).axis n).eng =
    { (d.axis n).eng with ramp := some (d.rd (K.I_AMP n), d.eff n (K.I_REST n), d.now), wake := none } :=
  congrArg AxisRt.eng (d.axis_setAxis_self n _)

/-! ## Rest (R222) -/

/-- A Holding axis whose rest is due: the timer has reached T_REST at the cadence just run, nothing moves, and no letter that starts motion
waits. -/
structure Dev.RestDue (d : Dev) (n : Nat) : Prop where
  axis : d.hasAxis n = true
  state : d.axState n = axHolding
  unfollowing : (d.mot n).follow.engaged = false
  enabled : d.eff n (K.T_REST n) ≠ 0
  timer : 1000 * d.eff n (K.T_REST n) ≤ (d.mot n).restUs
  cadence : (d.mot n).cadence = some (d.nt - d.nt % 1000)
  justRun : d.nt % 1000 < 8
  idle : (d.mot n).move = .idle
  unplaying : (d.mot n).playing = false
  noLetter : (d.axis n).inbox.any startsMotion = false

/-- Axis n in Resting, its ramp begun. -/
def Dev.restBegun (d : Dev) (n : Nat) : Dev := ((d.rampBegun n).setAxState n axResting).wr (K.REST_FLAGS n) 1

theorem exec_restEnter {s : State} {n : Nat} (hu : s.unitsOn = true) (h : s.dev.RestDue n) :
    ∃ p, exec (.restEnter n) s = .next (s.onDev fun d => (d.restBegun n).loadEvent n 4 p) := by
  obtain ⟨hn, hs, hf, h0, ht, hc, hj, hi, hp, hl⟩ := h
  refine ⟨le 2 (s.dev.eff n (K.I_REST n)) ++ le 2 ((s.dev.restBegun n).eff n (K.T_REST_RAMP n)) ++
    le 8 ((s.dev.restBegun n).rd (K.CMD_POS n)), ?_⟩
  show execRestEnter n s = _
  rw [execRestEnter, gated_on hu, onDev, State.onDev, if_pos (by simp [hn, hs, hf, h0, ht, hc, hj, hi, hp, hl])]
  rfl

section
variable (d : Dev) (n : Nat)

theorem Dev.restBegun_rd {k : Nat} (hs : k ≠ K.STATE_4000 n) (hf : k ≠ K.REST_FLAGS n) : (d.restBegun n).rd k = d.rd k :=
  (Dev.rd_wr_ne _ _ hf.symm).trans (Dev.rd_wr_ne _ _ hs.symm)

theorem Dev.restBegun_flags : (d.restBegun n).rd (K.REST_FLAGS n) = 1 := Dev.rd_wr_self _ _ _

theorem Dev.restBegun_axState : (d.restBegun n).axState n = axResting :=
  (Dev.rd_wr_ne _ _ (by lia)).trans (Dev.rd_wr_self _ _ _)

end

/-! ## The wake (R224) -/

section
variable (d : Dev) (n tag due : Nat)

theorem Dev.wakeAxis_eng : ((d.wakeAxis n tag due).axis n).eng = { (d.axis n).eng with wake := some d.now } := by
  rw [Dev.wakeAxis, Dev.axis_congr (Dev.loadEvent_axes _ n 5 _), Dev.axis_congr (Dev.wr_axes _ _ _), Dev.axis_setAxis_self]

/-- Beside the posting slots a wake writes REST_FLAGS and LOAD_EVENTS alone. -/
theorem Dev.wakeAxis_rd {k : Nat} (hk : postingSlot k = false) (hf : k ≠ K.REST_FLAGS n) (hl : k ≠ K.LOAD_EVENTS n) :
    (d.wakeAxis n tag due).rd k = d.rd k :=
  (Dev.loadEvent_rd _ _ _ _ hk hl).trans (Dev.rd_wr_ne _ _ hf.symm)

theorem Dev.wakeAxis_flags : (d.wakeAxis n tag due).rd (K.REST_FLAGS n) = 4 :=
  (Dev.loadEvent_rd _ _ _ _ (postingSlot_outside (by lia)) (by lia)).trans (Dev.rd_wr_self _ _ _)

end

/-- The wake of an axis is due: its first motion letter is due within REST_WAKE, or there is none and a follow source comes. -/
def Dev.WakeDue (d : Dev) (n : Nat) : Prop :=
  (∃ l, (d.axis n).inbox.find? startsMotion = some l ∧ l.due ≤ d.nt + 7 + 1000 * d.eff n (K.REST_WAKE n)) ∨
    ((d.axis n).inbox.find? startsMotion = none ∧ d.followComes n = true)

/-- A present axis in Resting. -/
structure State.Rests (s : State) (n : Nat) : Prop where
  units : s.unitsOn = true
  axis : s.dev.hasAxis n = true
  state : s.dev.axState n = axResting

section
variable {s : State} {n : Nat} (h : s.Rests n)
include h

theorem exec_axisWake_due (hw : (s.dev.axis n).eng.wake = none) (hd : s.dev.WakeDue n) :
    ∃ tag due, exec (.axisWake n) s = .next (s.onDev fun d => d.wakeAxis n tag due) := by
  obtain ⟨hu, hn, hs⟩ := h
  rcases hd with ⟨l, hl, hdue⟩ | ⟨hl, hfollow⟩
  · refine ⟨l.tag, l.due % 2 ^ 48, ?_⟩
    show execAxisWake n s = _
    simp [execAxisWake, gated_on hu, onDev, State.onDev, hn, hs, hl, hw, hdue]
  · refine ⟨0xFFFF, 0, ?_⟩
    show execAxisWake n s = _
    simp [execAxisWake, gated_on hu, onDev, State.onDev, hn, hs, hl, hw, hfollow]

theorem exec_axisWake_awake (hw : (s.dev.axis n).eng.wake.isSome = true) (hl : (s.dev.axis n).inbox.any startsMotion = false) :
    exec (.axisWake n) s = .next (s.onDev fun d => d.wakeCheck n) := by
  obtain ⟨hu, hn, hs⟩ := h
  have hnone : (s.dev.axis n).inbox.find? startsMotion = none := by simpa using hl
  show execAxisWake n s = _
  simp [execAxisWake, gated_on hu, onDev, State.onDev, hn, hs, hnone, hw]

end

/-- The wake of axis n over, its new ramp begun. -/
def Dev.wakeEnded (d : Dev) (n : Nat) : Dev := ((d.rampBegun n).setBit (K.REST_FLAGS n) 2 false).setBit (K.REST_FLAGS n) 0 true

/-- A wake for which nothing waits any more ends. -/
theorem Dev.wakeCheck_ends {d : Dev} {n : Nat} (hs : d.axState n = axResting) (hw : (d.axis n).eng.wake.isSome = true)
    (hm : (d.mot n).move = .idle) (hl : (d.axis n).inbox.any startsMotion = false) (hf : d.followComes n = false) :
    d.wakeCheck n = d.wakeEnded n := by
  have hmove : (d.axis n).mot.move = .idle := hm
  have hwake : (d.axis n).eng.wake.isNone = false := by simpa using hw
  exact if_neg (by simp only [hs, hwake, hmove, hl, hf]; simp)

section
variable (d : Dev) (n : Nat)

theorem Dev.wakeEnded_rd {k : Nat} (hk : k ≠ K.REST_FLAGS n) : (d.wakeEnded n).rd k = d.rd k :=
  (Dev.rd_setBit_ne _ _ _ hk.symm).trans (Dev.rd_setBit_ne _ _ _ hk.symm)

theorem Dev.wakeEnded_ramping : (d.wakeEnded n).bit (K.REST_FLAGS n) 0 = true := Dev.bit_setBit_self _ _ _ (by decide)

theorem Dev.wakeEnded_waking : (d.wakeEnded n).bit (K.REST_FLAGS n) 2 = false :=
  (Dev.bit_setBit _ _ true 2 (by decide)).trans (Dev.bit_setBit_self _ _ _ (by decide))

end

end Sys2Proof.Machine

namespace Sys2Proof

open Sys2Proof.Machine

/-- An axis whose rest is due enters Resting, its ramp begun (R222, R223). -/
theorem restEnter_rests {s : State} {n : Nat} (hu : s.unitsOn = true) (h : s.dev.RestDue n) :
    Completes (.restEnter n) s fun u => u.dev.axState n = axResting ∧ u.dev.rd (K.REST_FLAGS n) = 1 ∧
      (u.dev.axis n).eng.ramp = some (s.dev.rd (K.I_AMP n), s.dev.eff n (K.I_REST n), s.dev.now) ∧ (u.dev.axis n).eng.wake = none ∧
      u.dev.bit (K.LOAD_EVENTS n) 4 = true ∧ SlotsKept s u [K.STATE_4000 n, K.REST_FLAGS n, K.LOAD_EVENTS n] := by
  obtain ⟨p, hx⟩ := exec_restEnter hu h
  have heng : (((s.dev.restBegun n).loadEvent n 4 p).axis n).eng = ((s.dev.rampBegun n).axis n).eng :=
    congrArg AxisRt.eng (Dev.axis_congr (Dev.loadEvent_axes _ n 4 p) n)
  refine completes_of_eq hx ⟨?_, ?_, ?_, ?_, Dev.loadEvent_shown _ n 4 p (by decide), fun k hk hp => ?_⟩
  · exact (Dev.loadEvent_rd _ _ _ _ (postingSlot_outside (by lia)) (by lia)).trans (s.dev.restBegun_axState n)
  · exact (Dev.loadEvent_rd _ _ _ _ (postingSlot_outside (by lia)) (by lia)).trans (s.dev.restBegun_flags n)
  · rw [State.onDev_dev, heng, Dev.rampBegun_eng]
  · rw [State.onDev_dev, heng, Dev.rampBegun_eng]
  · simp only [List.mem_cons, List.not_mem_nil, or_false, not_or] at hk
    obtain ⟨hstate, hflags, hevents⟩ := hk
    exact (Dev.loadEvent_rd _ _ _ _ hp hevents).trans (s.dev.restBegun_rd n hstate hflags)

section
variable {s : State} {n : Nat} (h : s.Rests n)
include h

/-- The wake by a letter and that by a follow source leave the same, whatever the event carries (R224). -/
theorem axisWake_wakes (hw : (s.dev.axis n).eng.wake = none) (hd : s.dev.WakeDue n) :
    Completes (.axisWake n) s fun u => (u.dev.axis n).eng.wake = some s.dev.now ∧ u.dev.bit (K.REST_FLAGS n) 2 = true ∧
      u.dev.axState n = axResting ∧ SlotsKept s u [K.REST_FLAGS n, K.LOAD_EVENTS n] := by
  obtain ⟨tag, due, hx⟩ := exec_axisWake_due h hw hd
  refine completes_of_eq hx ⟨?_, ?_, ?_, fun k hk hp => ?_⟩
  · rw [State.onDev_dev, Dev.wakeAxis_eng]
  · rw [State.onDev_dev, Dev.bit, Dev.wakeAxis_flags]
    decide
  · exact (s.dev.wakeAxis_rd n tag due (postingSlot_outside (by lia)) (by lia) (by lia)).trans h.state
  · simp only [List.mem_cons, List.not_mem_nil, or_false, not_or] at hk
    obtain ⟨hflags, hevents⟩ := hk
    exact s.dev.wakeAxis_rd n tag due hp hflags hevents

/-- The wake that the letter has left behind gives way to a new ramp (R223, R224). -/
theorem axisWake_ends (hw : (s.dev.axis n).eng.wake.isSome = true) (hl : (s.dev.axis n).inbox.any startsMotion = false)
    (hf : s.dev.followComes n = false) (hm : (s.dev.mot n).move = .idle) :
    Completes (.axisWake n) s fun u => (u.dev.axis n).eng.wake = none ∧
      (u.dev.axis n).eng.ramp = some (s.dev.rd (K.I_AMP n), s.dev.eff n (K.I_REST n), s.dev.now) ∧
      u.dev.bit (K.REST_FLAGS n) 0 = true ∧ u.dev.bit (K.REST_FLAGS n) 2 = false ∧ u.dev.axState n = axResting ∧
      SlotsKept s u [K.REST_FLAGS n] := by
  refine completes_of_eq (exec_axisWake_awake h hw hl) ?_
  have heng : ((s.dev.wakeEnded n).axis n).eng = ((s.dev.rampBegun n).axis n).eng := rfl
  rw [State.onDev_dev, Dev.wakeCheck_ends h.state hw hm hl hf, heng, Dev.rampBegun_eng]
  refine ⟨rfl, rfl, s.dev.wakeEnded_ramping n, s.dev.wakeEnded_waking n, (s.dev.wakeEnded_rd n (by lia)).trans h.state, fun k hk hp => ?_⟩
  rw [State.onDev_dev, Dev.wakeCheck_ends h.state hw hm hl hf]
  exact s.dev.wakeEnded_rd n (by simpa using hk)

end

/-- Settles O33: the ramp of a rest and that of an ended wake are one equation, and beside it each command writes its flags and its load
event. -/
theorem axesRestAndWake : Obligations.AxesRestAndWake := by
  unfold Obligations.AxesRestAndWake
  intro s n hu hn
  refine ⟨fun hs hf h0 ht hc hj hi hp hl => restEnter_rests hu ⟨hn, hs, hf, h0, ht, hc, hj, hi, hp, hl⟩,
    fun hs hw hd => axisWake_wakes ⟨hu, hn, hs⟩ hw hd, fun hs hw hl hf hm => axisWake_ends ⟨hu, hn, hs⟩ hw hl hf hm⟩

end Sys2Proof

namespace Sys2Proof.Machine

/-! ## Sources of the legs and the quarters (Table 12-6) -/

/-- The assigned sources of a present leg can raise. -/
theorem legFault_source {p : Part} {l src : Nat} (h : l < 16 * p.quarters) (hs : src < 0x140) (hl : src % 0x40 = l) :
    Dict.sourceAssigned src = true ∧ (Dict.Owner.source src).present p = true := by
  have ha : Dict.sourceAssigned src = true := by rw [Dict.sourceAssigned, if_pos hs]
  have hq : Dict.sourceQuarter src = some (l / 16) := by rw [Dict.sourceQuarter, if_pos hs, hl]
  refine ⟨ha, ?_⟩
  simp only [Dict.Owner.present, ha, if_true, hq, decide_eq_true_eq]
  omega

/-- The assigned sources of a present quarter can raise. -/
theorem quarterFault_source {p : Part} {q k : Nat} (hk : k < 8) (h : q < p.quarters) :
    Dict.sourceAssigned (0x140 + k + 0x10 * q) = true ∧ (Dict.Owner.source (0x140 + k + 0x10 * q)).present p = true := by
  have h4 := p.quarters_le
  have ha : Dict.sourceAssigned (0x140 + k + 0x10 * q) = true := by
    rw [Dict.sourceAssigned, if_neg (by omega), if_pos (by omega)]
    exact decide_eq_true (by omega)
  have hs : Dict.sourceQuarter (0x140 + k + 0x10 * q) = some q := by
    rw [Dict.sourceQuarter, if_neg (by omega), if_pos (by omega)]
    congr 1
    omega
  refine ⟨ha, ?_⟩
  simp only [Dict.Owner.present, ha, if_true, hs, decide_eq_true_eq]
  exact h

/-! ## Events of a quarter -/

theorem Dev.quarter_lt {d : Dev} {q : Nat} (h : d.hasQuarter q = true) : q < 4 := lt_of_lt_of_le (of_decide_eq_true h) d.part.quarters_le

theorem Dev.leg_lt {d : Dev} {l : Nat} (h : d.hasLeg l = true) : l / 16 < 4 := by
  have h4 := d.part.quarters_le
  have hl : l < 16 * d.part.quarters := of_decide_eq_true h
  omega

theorem Dev.quarterEvent_frame (d : Dev) (q type obj : Nat) (p : Bytes) :
    ∃ o m f, d.quarterEvent q type obj p = { d with objs := o, mail := m, flt := f } := d.event_frame _ _ _ _ _

theorem Dev.quarterEvent_rd (d : Dev) {q : Nat} (hq : q < 4) (type obj : Nat) (p : Bytes) {k : Nat} (hk : postingSlot k = false) :
    (d.quarterEvent q type obj p).rd k = d.rd k := Dev.event_rd _ _ _ _ _ _ _ (by omega) hk

theorem Dev.quarterEvent_raises (d : Dev) (q type obj : Nat) (p : Bytes) :
    d.flt.raises ⊆ (d.quarterEvent q type obj p).flt.raises := d.event_raises _ _ _ _ _

/-! ## A failed identification, and what it leaves (R200) -/

section
variable (d : Dev) (n cause : Nat)

/-- The slots of its outcome alone change, beside those of posting. -/
theorem Dev.identFail_rd {k : Nat} (hk : k ∉ identSlots n) (hp : postingSlot k = false) : (d.identFail n cause).rd k = d.rd k := by
  rw [Dev.identFail_eq]
  split_ifs
  · rfl
  · rw [Dev.identReported_rd _ _ _ hp, Dev.identStopped_same _ _ _ k hk]

theorem Dev.identFail_raises : d.flt.raises ⊆ (d.identFail n cause).flt.raises := by
  rw [Dev.identFail_eq]
  split_ifs
  · exact List.Subset.refl _
  · obtain ⟨t, o, hs⟩ := d.identStopped_frame n cause
    have hstop : (d.identStopped n cause).flt = d.flt := by rw [hs]; rfl
    rw [← hstop]
    exact List.Subset.trans (Dev.event_raises _ _ _ _ _ _) (Dev.raise_raises _ _ _ _)

/-- The legs of other axes stay. -/
theorem Dev.identFail_other {l : Nat} (hl : l / 4 ≠ n) : (d.identFail n cause).leg l = d.leg l := by
  rw [Dev.identFail_eq]
  split_ifs
  · rfl
  · rw [Dev.leg, Dev.identReported_legs, Dev.identStopped_legs]
    exact (d.legsOff_legs (axisLegs n) l).2 fun h => hl (axisLegs_axis h)

/-- A leg of the axis that is off, with nothing to come, is so afterwards. -/
theorem Dev.identFail_off {l : Nat} (hl : l ∈ axisLegs n) (h : (d.leg l).pos = .off ∧ (d.leg l).turnOn = none ∧ (d.leg l).due = []) :
    ((d.identFail n cause).leg l).pos = .off ∧ ((d.identFail n cause).leg l).turnOn = none ∧ ((d.identFail n cause).leg l).due = [] := by
  rw [Dev.identFail_eq]
  split_ifs
  · exact h
  · rw [Dev.leg, Dev.identReported_legs, Dev.identStopped_legs]
    obtain ⟨hpos, hon, hdue, -, -⟩ := (d.legsOff_legs (axisLegs n) l).1 (.inl hl)
    exact ⟨hpos, hon, hdue⟩

end

theorem axisLegs_mem (l : Nat) : l ∈ axisLegs (l / 4) := by
  simp only [axisLegs, List.mem_cons, List.not_mem_nil, or_false]
  omega

end Sys2Proof.Machine

namespace Sys2Proof

open Sys2Proof.Machine

/-- A raise of a source that is there is on its way in every later state that keeps the raises. -/
theorem raised_of_raise {d : Dev} {u : State} {src nt : Nat}
    (h : Dict.sourceAssigned src = true ∧ (Dict.Owner.source src).present d.part = true)
    (hu : (d.raise src nt).flt.raises ⊆ u.dev.flt.raises) : Raised u src nt :=
  ⟨_, hu (d.raised_of_present src nt false h.1 h.2), rfl, rfl⟩

end Sys2Proof

namespace Sys2Proof.Machine

/-! ## The end of a turn-on that waits too long (R228) -/

/-- A leg whose turn-on is abandoned: off, its interlock flag set, the interlock counted (Tables 8-11 and 8-12). -/
def Dev.turnOnAbandoned (d : Dev) (l : Nat) : Dev := ((d.legOff l).setBit (K.LEG_FLAGS l) 4 true).count (K.INTERLOCKS l)

theorem exec_interlockTimeout {s : State} {l t : Nat} {p : LegPos} (hu : s.unitsOn = true) (hl : s.dev.hasLeg l = true)
    (ht : (s.dev.leg l).turnOn = some (p, t)) (hg : (s.dev.leg l).giveUp ≤ s.dev.nowQ + 31) : exec (.interlockTimeout l) s =
      .next (s.onDev fun d => (((d.turnOnAbandoned l).raise (0x100 + l) (d.turnOnAbandoned l).nt).identFail (l / 4) 8).requestFault
        (l / 4) false) := by
  show execInterlockTimeout l s = _
  simp only [execInterlockTimeout, gated_on hu, onDev, State.onDev, hl, ht, hg, Option.isSome_some, and_self, if_true]
  rfl

section
variable (d : Dev) (l : Nat)

theorem Dev.turnOnAbandoned_frame : ∃ o t, d.turnOnAbandoned l = { d with objs := o, legs := t } := by
  obtain ⟨t, ht⟩ := d.legOff_frame l
  rw [Dev.turnOnAbandoned, ht]
  exact ⟨_, _, rfl⟩

theorem Dev.turnOnAbandoned_leg : (d.turnOnAbandoned l).leg l = (d.legOff l).leg l := by
  rw [Dev.turnOnAbandoned]
  generalize d.legOff l = e
  rfl

theorem Dev.turnOnAbandoned_off : ((d.turnOnAbandoned l).leg l).pos = .off ∧ ((d.turnOnAbandoned l).leg l).turnOn = none ∧
    ((d.turnOnAbandoned l).leg l).due = [] := by
  rw [Dev.turnOnAbandoned_leg]
  exact d.legOff_off l

theorem Dev.legOff_rd (k : Nat) : (d.legOff l).rd k = d.rd k := by
  obtain ⟨t, ht⟩ := d.legOff_frame l
  rw [ht]
  rfl

theorem Dev.turnOnAbandoned_same : d.SlotsSame (d.turnOnAbandoned l) [K.LEG_FLAGS l, K.INTERLOCKS l] :=
  (((Dev.SlotsSame.refl d _).of_rd (d.legOff_rd l)).wr _ (by simp)).wr _ (by simp)

theorem Dev.turnOnAbandoned_flag : (d.turnOnAbandoned l).bit (K.LEG_FLAGS l) 4 = true := by
  rw [Dev.turnOnAbandoned, Dev.bit_congr ((Dev.rd_count _ _ _ _).trans (if_neg (by lia)))]
  exact Dev.bit_setBit_self _ _ _ (by decide)

theorem Dev.turnOnAbandoned_count : (d.turnOnAbandoned l).rd (K.INTERLOCKS l) = (d.rd (K.INTERLOCKS l) + 1) % 2 ^ 32 := by
  rw [Dev.turnOnAbandoned, Dev.rd_count, if_pos rfl, Dev.rd_setBit_ne _ _ _ (by lia), Dev.legOff_rd]

/-- A request for Faulted touches no leg, no slot and no raise. -/
theorem Dev.requestFault_leg (n : Nat) (b : Bool) : (d.requestFault n b).leg l = d.leg l := by
  obtain ⟨t, ht⟩ := d.requestFault_frame n b
  rw [ht]
  rfl

theorem Dev.requestFault_rd (n : Nat) (b : Bool) (k : Nat) : (d.requestFault n b).rd k = d.rd k := by
  obtain ⟨t, ht⟩ := d.requestFault_frame n b
  rw [ht]
  rfl

theorem Dev.requestFault_flt (n : Nat) (b : Bool) : (d.requestFault n b).flt = d.flt := by
  obtain ⟨t, ht⟩ := d.requestFault_frame n b
  rw [ht]

theorem Dev.raise_leg (src nt : Nat) (i : Bool) : (d.raise src nt i).leg l = d.leg l := by
  obtain ⟨f, hf⟩ := d.raise_frame src nt i
  rw [hf]
  rfl

end

/-! ## A bootstrap refresh begins (R241) -/

/-- A refresh of leg l that begins at t: the high side off, the low side to follow DEAD_TIME later, the counter restarted. -/
def Dev.refreshBegun (d : Dev) (l t : Nat) : Dev :=
  let e := (d.legTo l .off t).await l .low t (t + (d.legTo l .off t).deadTime l)
  e.setLeg l { e.leg l with refresh := some (t, none), onTime := 0 }

/-- The instant at which the high side of a leg has been on for T_BSMAX. -/
def Dev.refreshAt (d : Dev) (l : Nat) : Nat := (d.leg l).since + (4000 * d.legSetting l (K.T_BSMAX l) - (d.leg l).onTime)

/-- A leg turned off leaves the quarters and so the settings. -/
theorem Dev.legTo_off_deadTime (d : Dev) (l t : Nat) : (d.legTo l .off t).deadTime l = d.deadTime l := rfl

theorem Dev.refreshBegun_leg (d : Dev) (l t : Nat) : ((d.refreshBegun l t).leg l).pos = .off ∧ ((d.refreshBegun l t).leg l).since = t ∧
    ((d.refreshBegun l t).leg l).onTime = 0 ∧ ((d.refreshBegun l t).leg l).turnOn = some (.low, t + d.deadTime l) ∧
    ((d.refreshBegun l t).leg l).refresh = some (t, none) := by
  obtain ⟨hpos, hsince, hon, -, -⟩ := (d.legTo_stands l .off t).await .low t (t + d.deadTime l)
  rw [Dev.refreshBegun, Dev.leg_setLeg_self, Dev.legTo_off_deadTime]
  exact ⟨hpos, hsince, rfl, hon, rfl⟩

theorem Dev.refreshBegun_frame (d : Dev) (l t : Nat) : ∃ ls, d.refreshBegun l t = { d with legs := ls } := ⟨_, rfl⟩

theorem exec_bootstrapRefresh {s : State} {l : Nat} (hu : s.unitsOn = true) (hl : s.dev.hasLeg l = true)
    (hp : (s.dev.leg l).pos = .high) (hr : (s.dev.leg l).refresh = none)
    (ht : 4000 * s.dev.legSetting l (K.T_BSMAX l) ≤ (s.dev.leg l).onTime + (s.dev.nowQ - (s.dev.leg l).since) + 31) :
    exec (.bootstrapRefresh l) s = .next (s.onDev fun d => ((d.refreshBegun l (d.refreshAt l)).count (K.REFRESHES l)).emit
      (.refresh l (d.nt - (d.nowQ - d.refreshAt l) / 4))) := by
  have hhigh : s.dev.highTime l = (s.dev.leg l).onTime + (s.dev.nowQ - (s.dev.leg l).since) := if_pos hp
  show execBootstrapRefresh l s = _
  rw [execBootstrapRefresh, gated_on hu, onDev, State.onDev, hhigh, if_pos ⟨hl, hp, hr, ht⟩]
  rfl

end Sys2Proof.Machine

namespace Sys2Proof

open Sys2Proof.Machine

theorem interlockTimeout_abandons {s : State} {l t : Nat} {p : LegPos} (hu : s.unitsOn = true) (hl : s.dev.hasLeg l = true)
    (ht : (s.dev.leg l).turnOn = some (p, t)) (hg : (s.dev.leg l).giveUp ≤ s.dev.nowQ + 31) :
    Completes (.interlockTimeout l) s fun u => (u.dev.leg l).pos = .off ∧ (u.dev.leg l).turnOn = none ∧ (u.dev.leg l).due = [] ∧
      u.dev.bit (K.LEG_FLAGS l) 4 = true ∧ u.dev.rd (K.INTERLOCKS l) = (s.dev.rd (K.INTERLOCKS l) + 1) % 2 ^ 32 ∧
      Raised u (0x100 + l) s.dev.nt ∧
      SlotsKept s u [K.LEG_FLAGS l, K.INTERLOCKS l, K.ID_RESULT (l / 4), K.ID_NT (l / 4), K.ID_TIME (l / 4)] := by
  have hlt : l < 16 * s.dev.part.quarters := of_decide_eq_true hl
  have h4 := s.dev.part.quarters_le
  obtain ⟨o, ls, he⟩ := s.dev.turnOnAbandoned_frame l
  have hnt : (s.dev.turnOnAbandoned l).nt = s.dev.nt := by rw [he]
  have hpart : (s.dev.turnOnAbandoned l).part = s.dev.part := by rw [he]
  have hoff := s.dev.turnOnAbandoned_off l
  have hflag := s.dev.turnOnAbandoned_flag l
  have hcount := s.dev.turnOnAbandoned_count l
  have hsame := s.dev.turnOnAbandoned_same l
  refine completes_of_eq (exec_interlockTimeout hu hl ht hg) ?_
  rw [State.onDev]
  generalize s.dev.turnOnAbandoned l = d at *
  rw [hnt]
  have hrd {k : Nat} (hk : k ∉ identSlots (l / 4)) (hp : postingSlot k = false) :
      (((d.raise (0x100 + l) s.dev.nt).identFail (l / 4) 8).requestFault (l / 4) false).rd k = d.rd k := by
    rw [Dev.requestFault_rd, Dev.identFail_rd _ _ _ hk hp, Dev.raise_rd]
  have hleg : ((d.raise (0x100 + l) s.dev.nt).leg l) = d.leg l := Dev.raise_leg _ _ _ _ _
  rw [← hleg] at hoff
  obtain ⟨hpos, hon, hdue⟩ := Dev.identFail_off _ _ 8 (axisLegs_mem l) hoff
  simp only [Dev.requestFault_leg]
  refine ⟨hpos, hon, hdue, ?_, ?_, ?_, fun k hk hp => ?_⟩
  · rw [Dev.bit_congr (hrd (by simp only [identSlots, List.mem_cons, List.not_mem_nil]; lia) (postingSlot_outside (by lia))), hflag]
  · rw [hrd (by simp only [identSlots, List.mem_cons, List.not_mem_nil]; lia) (postingSlot_outside (by lia)), hcount]
  · refine raised_of_raise (d := d) (hpart ▸ legFault_source hlt (by omega) (by omega)) ?_
    rw [Dev.requestFault_flt]
    exact Dev.identFail_raises _ _ _
  · simp only [List.mem_cons, List.not_mem_nil, or_false, not_or] at hk
    obtain ⟨hf, hc, hres, hnt', htime⟩ := hk
    exact (hrd (by simp [hres, hnt', htime]) hp).trans (hsame k (by simp [hf, hc]))

theorem bootstrapRefresh_begins {s : State} {l : Nat} (hu : s.unitsOn = true) (hl : s.dev.hasLeg l = true)
    (hp : (s.dev.leg l).pos = .high) (hr : (s.dev.leg l).refresh = none)
    (ht : 4000 * s.dev.legSetting l (K.T_BSMAX l) ≤ (s.dev.leg l).onTime + (s.dev.nowQ - (s.dev.leg l).since) + 31) :
    Completes (.bootstrapRefresh l) s fun u => (u.dev.leg l).pos = .off ∧ (u.dev.leg l).since = s.dev.refreshAt l ∧
      (u.dev.leg l).onTime = 0 ∧ (u.dev.leg l).turnOn = some (.low, s.dev.refreshAt l + s.dev.deadTime l) ∧
      (u.dev.leg l).refresh = some (s.dev.refreshAt l, none) ∧
      u.dev.rd (K.REFRESHES l) = (s.dev.rd (K.REFRESHES l) + 1) % 2 ^ 32 ∧ SlotsKept s u [K.REFRESHES l] ∧
      u.dev.out = s.dev.out ++ [.refresh l (s.dev.nt - (s.dev.nowQ - s.dev.refreshAt l) / 4)] := by
  refine completes_of_eq (exec_bootstrapRefresh hu hl hp hr ht) ?_
  obtain ⟨hpos, hsince, htime, hon, href⟩ := s.dev.refreshBegun_leg l (s.dev.refreshAt l)
  obtain ⟨ls, hframe⟩ := s.dev.refreshBegun_frame l (s.dev.refreshAt l)
  have hrd (k : Nat) : (s.dev.refreshBegun l (s.dev.refreshAt l)).rd k = s.dev.rd k := by rw [hframe]; rfl
  have hout : (s.dev.refreshBegun l (s.dev.refreshAt l)).out = s.dev.out := by rw [hframe]
  rw [State.onDev]
  generalize s.dev.refreshBegun l (s.dev.refreshAt l) = e at *
  refine ⟨hpos, hsince, htime, hon, href, ?_, slotsKept_of_same (((Dev.SlotsSame.refl s.dev _).of_rd hrd).wr _ (by simp)), ?_⟩
  · exact (e.rd_count _ _ _).trans (by rw [if_pos rfl, hrd])
  · exact congrArg (· ++ _) hout

/-- Settles O10: an abandoned turn-on turns the leg off before identification can fail, and a refresh is a turn-off with a turn-on to come. -/
theorem turnOnsAreAbandonedAndRefreshesBegin : Obligations.TurnOnsAreAbandonedAndRefreshesBegin := by
  refine ⟨⟨fun s l t p => interlockTimeout_abandons, fun s l t hs ht => ?_⟩, fun s l => bootstrapRefresh_begins⟩
  show execSoftOffHold l s = _
  rw [execSoftOffHold, onDev, State.onDev, hs]
  dsimp only
  rw [if_pos ht]
  rfl

end Sys2Proof

namespace Sys2Proof.Machine

/-! ## Tailoring (R230 to R235) -/

/-- The code after a switching event whose time is e units of 250 ps off T_SW (R232). -/
def tailoredCode (code : Nat) (converging : Bool) (e : Int) : Nat :=
  let step := if converging then 4 else 1
  if 2 < e then min (code + step) 31 else if e < -2 then code - step else code

theorem tailorStep_code (code : Nat) (conv : Bool) (far : Nat) (e : Int) (tsw : Nat) :
    (tailorStep code conv far e tsw).1 = tailoredCode code conv e := by
  have hcode : (tailorStep code conv far e tsw).1 =
      if 2 < e then min (code + if e.natAbs ≤ 2 then 0 else if conv then 4 else 1) 31
      else if e < -2 then code - (if e.natAbs ≤ 2 then 0 else if conv then 4 else 1) else code := by
    unfold tailorStep
    dsimp only
    split_ifs <;> rfl
  rw [hcode, tailoredCode]
  by_cases hup : 2 < e
  · rw [if_pos hup, if_pos hup, if_neg (by omega)]
  · by_cases hdown : e < -2
    · rw [if_neg hup, if_neg hup, if_pos hdown, if_pos hdown, if_neg (by omega)]
    · rw [if_neg hup, if_neg hup, if_neg hdown, if_neg hdown]

theorem tailoredCode_lt {code : Nat} (h : code < 32) (conv : Bool) (e : Int) : tailoredCode code conv e < 32 := by
  unfold tailoredCode
  dsimp only
  split_ifs <;> omega

theorem controllingCode_lt (up iPos : Bool) : controllingCode up iPos < 4 := by cases up <;> cases iPos <;> decide

/-- A switching event measured: its time, the code that drove it, its direction (R231). -/
def Dev.measured (d : Dev) (l c tm code : Nat) (up : Bool) : Dev :=
  d.setLeg l { d.leg l with meas := Tab.put (d.leg l).meas c (tm, code, up) }

/-- The controlling code of output c of a leg (Table 8-11). -/
def Dev.codeOf (d : Dev) (l c : Nat) : Nat := field (d.rd (K.CODES l)) (8 * c + 4) (8 * c)

/-- What tailoring a leg keeps: the slots beside its codes and flags, its codes, the times measured. -/
structure Dev.TailorKeeps (l : Nat) (a b : Dev) : Prop where
  slots : ∀ k, k ∉ [K.CODES l, K.TAIL_FLAGS l] → postingSlot k = false → b.rd k = a.rd k
  codes : b.rd (K.CODES l) = a.rd (K.CODES l)
  meas : (b.leg l).meas = (a.leg l).meas

namespace Dev.TailorKeeps

variable {l : Nat} {a b : Dev}

theorem refl (a : Dev) : TailorKeeps l a a := ⟨fun _ _ _ => rfl, rfl, rfl⟩

theorem trans {c : Dev} (h : TailorKeeps l a b) (h' : TailorKeeps l b c) : TailorKeeps l a c :=
  ⟨fun k hk hp => (h'.slots k hk hp).trans (h.slots k hk hp), h'.codes.trans h.codes, h'.meas.trans h.meas⟩

theorem ite {p : Prop} [Decidable p] {x y : Dev} (hx : TailorKeeps l a x) (hy : TailorKeeps l a y) :
    TailorKeeps l a (if p then x else y) := by
  split_ifs
  · exact hx
  · exact hy

theorem setFlag (h : TailorKeeps l a b) (i : Nat) (v : Bool) : TailorKeeps l a (b.setBit (K.TAIL_FLAGS l) i v) :=
  h.trans ⟨fun k hk _ => Dev.rd_setBit_ne _ _ _ fun he => hk (by simp [he]), Dev.rd_setBit_ne _ _ _ (by lia), rfl⟩

theorem noteSettled (h : TailorKeeps l a b) (out code : Nat) : TailorKeeps l a (b.noteSettled out code) := by
  unfold Dev.noteSettled
  exact .ite h (h.trans ⟨fun _ _ _ => rfl, rfl, rfl⟩)

theorem raise (h : TailorKeeps l a b) (src nt : Nat) (i : Bool) : TailorKeeps l a (b.raise src nt i) :=
  h.trans ⟨fun _ _ _ => b.raise_rd _ _ _ _, b.raise_rd _ _ _ _, by rw [Dev.raise_leg]⟩

theorem quarterEvent (h : TailorKeeps l a b) {q : Nat} (hq : q < 4) (type obj : Nat) (p : Bytes) :
    TailorKeeps l a (b.quarterEvent q type obj p) := by
  refine h.trans ⟨fun k _ hp => b.quarterEvent_rd hq _ _ _ hp, b.quarterEvent_rd hq _ _ _ (postingSlot_outside (by lia)), ?_⟩
  obtain ⟨o, m, f, he⟩ := b.quarterEvent_frame q type obj p
  rw [he]
  rfl

end Dev.TailorKeeps

/-- The runs of far events and of events out of reach of a code, and the code itself, after a switching event. -/
def Dev.tailored (d : Dev) (l c far run code : Nat) : Dev :=
  (d.setLeg l { d.leg l with farRun := Tab.put (d.leg l).farRun c far, limitRun := Tab.put (d.leg l).limitRun c run }).setField (K.CODES l)
    (8 * c + 4) (8 * c) code

theorem Dev.switching_fixed {d : Dev} {l : Nat} (h : d.legSetting l (K.TAILOR l) = 1) (up iPos : Bool) (tm : Nat) :
    d.switching l up iPos tm = d.measured l (controllingCode up iPos) tm (d.codeOf l (controllingCode up iPos)) up := if_pos h

/-- The flags of an adjusted code: converging, and out of reach until the event comes close; its first convergence is noted; the 64th event out
of reach raises leg fault kind 3 (R234). -/
def Dev.tailorNoted (d : Dev) (l c code tm : Nat) (conv close alarm : Bool) : Dev :=
  let d := d.setBit (K.TAIL_FLAGS l) c conv
  let d := if close then d.setBit (K.TAIL_FLAGS l) (4 + c) false else d
  let d := if conv then d else d.noteSettled (4 * l + c) code
  if alarm then
    let d := (d.setBit (K.TAIL_FLAGS l) (4 + c) true).raise (0x0C0 + l) d.nt
    d.quarterEvent (l / 16) 0x0167 0x5002 (le 1 (l % 16) ++ le 1 c ++ le 2 tm ++ le 8 d.nt)
  else d

theorem Dev.tailorNoted_keeps (d : Dev) {l : Nat} (hl : l / 16 < 4) (c code tm : Nat) (conv close alarm : Bool) :
    TailorKeeps l d (d.tailorNoted l c code tm conv close alarm) := by
  have hconv := (TailorKeeps.refl (l := l) d).setFlag c conv
  have hclose : TailorKeeps l d _ := .ite (p := close = true) (hconv.setFlag (4 + c) false) hconv
  have hsettled : TailorKeeps l d _ := .ite (p := conv = true) hclose (hclose.noteSettled (4 * l + c) code)
  exact .ite (((hsettled.setFlag _ _).raise _ _ _).quarterEvent hl _ _ _) hsettled

/-- Where the codes are tailored, an event adjusts its controlling code (R232). -/
theorem Dev.switching_tailors {d : Dev} {l : Nat} (h : d.legSetting l (K.TAILOR l) ≠ 1) (up iPos : Bool) (tm : Nat) :
    let c := controllingCode up iPos
    let e : Int := (tm : Int) - d.legSetting l (K.T_SW l)
    ∃ far run conv close alarm, d.switching l up iPos tm =
      ((d.measured l c tm (d.codeOf l c) up).tailored l c far run (tailoredCode (d.codeOf l c) (d.bit (K.TAIL_FLAGS l) c) e)).tailorNoted
        l c (tailoredCode (d.codeOf l c) (d.bit (K.TAIL_FLAGS l) c) e) tm conv close alarm := by
  intro c e
  let m := d.measured l c tm (d.codeOf l c) up
  let step := tailorStep (d.codeOf l c) (d.bit (K.TAIL_FLAGS l) c) (Tab.get 0 (m.leg l).farRun c) e (d.legSetting l (K.T_SW l))
  let was := Tab.get 0 (m.leg l).limitRun c
  let run := if outOfReach (d.codeOf l c) e then min (was + 1) 64 else 0
  refine ⟨step.2.2, run, step.2.1, e.natAbs ≤ 2, decide (run = 64 ∧ was = 63), ?_⟩
  rw [← tailorStep_code _ _ (Tab.get 0 (m.leg l).farRun c) e (d.legSetting l (K.T_SW l)), Dev.tailorNoted]
  simp only [decide_eq_true_eq]
  exact if_neg h

theorem Dev.tailored_code (d : Dev) {l c code : Nat} (hc : c < 4) (h : code < 32) (far run : Nat) :
    (d.tailored l c far run code).codeOf l c = code := by
  rw [Dev.codeOf, Dev.tailored, Dev.rd_setField_self _ _ _ _ (by omega), field_withField _ _ _ _ (by omega),
    show 8 * c + 4 + 1 - 8 * c = 5 by omega, Nat.mod_eq_of_lt (show code < 2 ^ 5 from h)]

theorem Dev.tailored_rd (d : Dev) {l k : Nat} (hk : K.CODES l ≠ k) (c far run code : Nat) : (d.tailored l c far run code).rd k = d.rd k :=
  Dev.rd_setField_ne _ _ _ _ hk

theorem Dev.tailored_meas (d : Dev) (l c far run code : Nat) : ((d.tailored l c far run code).leg l).meas = (d.leg l).meas := by
  show ((d.setLeg l _).leg l).meas = _
  rw [Dev.leg_setLeg_self]

theorem Dev.measured_meas (d : Dev) (l c tm code : Nat) (up : Bool) :
    Tab.find ((d.measured l c tm code up).leg l).meas c = some (tm, code, up) := by simp [Dev.measured]

theorem exec_switchingEvent {s : State} {l tm : Nat} (hu : s.unitsOn = true) (hl : s.dev.hasLeg l = true)
    (ht : tm ≤ s.dev.deadTime l + 2000) (up iPos : Bool) :
    exec (.switchingEvent l up iPos tm) s = .next (s.onDev fun d => d.switching l up iPos tm) := by
  show execSwitchingEvent l up iPos tm s = _
  rw [execSwitchingEvent, gated_on hu, onDev, State.onDev, if_pos ⟨hl, ht⟩]
  rfl

/-- A transition slower than the dead time plus 500 ns is no switching event (R230). -/
theorem exec_switchingEvent_slow {s : State} {l tm : Nat} (ht : s.dev.deadTime l + 2000 < tm) (up iPos : Bool) :
    exec (.switchingEvent l up iPos tm) s = .next s := by
  show execSwitchingEvent l up iPos tm s = _
  rw [execSwitchingEvent, onDev, State.onDev, if_neg (by omega)]
  exact ite_self _

end Sys2Proof.Machine

namespace Sys2Proof

open Sys2Proof.Machine

theorem switchingEvent_tailors {s : State} {l tm : Nat} (up iPos : Bool) (hu : s.unitsOn = true) (hl : s.dev.hasLeg l = true)
    (ht : tm ≤ s.dev.deadTime l + 2000) (hn : s.dev.legSetting l (K.TAILOR l) ≠ 1) :
    let c := controllingCode up iPos
    Completes (.switchingEvent l up iPos tm) s fun u =>
      u.dev.codeOf l c = tailoredCode (s.dev.codeOf l c) (s.dev.bit (K.TAIL_FLAGS l) c) ((tm : Int) - s.dev.legSetting l (K.T_SW l)) ∧
      Tab.find (u.dev.leg l).meas c = some (tm, s.dev.codeOf l c, up) ∧ SlotsKept s u [K.CODES l, K.TAIL_FLAGS l] := by
  intro c
  have hc : c < 4 := controllingCode_lt up iPos
  have hcode := tailoredCode_lt (field_lt (s.dev.rd (K.CODES l)) (8 * c + 4) (8 * c) |>.trans_le
    (by rw [show 8 * c + 4 + 1 - 8 * c = 5 by omega]; decide)) (s.dev.bit (K.TAIL_FLAGS l) c) ((tm : Int) - s.dev.legSetting l (K.T_SW l))
  obtain ⟨far, run, conv, close, alarm, he⟩ := Dev.switching_tailors hn up iPos tm
  refine completes_of_eq (exec_switchingEvent hu hl ht up iPos) ?_
  rw [State.onDev, he]
  obtain ⟨hslots, hcodes, hmeas⟩ := Dev.tailorNoted_keeps _ (Dev.leg_lt hl) _ _ tm conv close alarm
  refine ⟨?_, ?_, fun k hk hp => (hslots k hk hp).trans (Dev.tailored_rd _ (fun h => hk (by simp [h])) _ _ _ _)⟩
  · rw [Dev.codeOf, hcodes]
    exact Dev.tailored_code _ hc hcode far run
  · rw [hmeas, Dev.tailored_meas]
    exact Dev.measured_meas _ _ _ _ _ _

/-- Settles O11: the code of an event is `tailoredCode` of the one before, and what follows it touches neither codes nor measured times. -/
theorem tailoringMovesTheControllingCode : Obligations.TailoringMovesTheControllingCode := by
  intro s l tm up iPos hu hl c code e big
  refine ⟨fun ht hn => switchingEvent_tailors up iPos hu hl ht hn, fun ht hn => ?_, fun ht => exec_switchingEvent_slow ht up iPos⟩
  rw [exec_switchingEvent hu hl ht, State.onDev, Dev.switching_fixed hn]
  rfl

end Sys2Proof

namespace Sys2Proof.Machine

/-! ## Bad flits (R253) -/

section
variable {d : Dev} {q lane : Nat} (h : d.Hears q lane) (toQ err : Bool)
include h

theorem Dev.rxCheck_bad (type : Nat) : d.rxCheck q toQ lane type false err = (false, d.rxBad q toQ lane) := by
  simp [Dev.rxCheck, Dev.injCheck_off h.noInjection, h.quarter, h.lane]

/-- A flit whose CRC mismatches is discarded. -/
theorem Dev.rxFlit_bad (type : Nat) : d.rxFlit q toQ lane type false err = (false, d.rxBad q toQ lane) := by
  rw [Dev.rxFlit, Dev.rxCheck_bad h]

/-- A flit of a reserved type is discarded: ERR is taken from it, BAD_TYPE counts. -/
theorem Dev.rxCheck_reserved {type : Nat} (ht : flitReserved type = true) :
    d.rxCheck q toQ lane type true err = (false, (d.errShown q err).count (K.BAD_TYPE q)) := by
  simp [Dev.rxCheck, Dev.injCheck_off h.noInjection, h.quarter, h.lane, ht, Dev.errShown]

end

/-- The commands that a seam brings, each as a flit with a bad CRC. -/
def badFlits (q lane : Nat) (m : LegMeasure) (err : Bool) : List Instr :=
  [.setting q lane 0 0 false err, .modeChange q lane (.laneSelect 0 true) false err, .go q lane 15 true 0 false err,
    .adcSample q lane 0 0 0 false err, .legMeasurements q lane m false err, .protectionReport q lane .clamp 0 false err,
    .refreshReport q lane 0 0 false err, .settingAcknowledge q lane 0 false err, .quarterStatus q lane 0 0 false err]

/-- A command that does to the units what a bad flit does. -/
theorem onDev_discards {s : State} {q lane : Nat} {f : Dev → Dev} (toQ : Bool) (hf : f s.dev = s.dev.rxBad q toQ lane) :
    ∃ toQ, onDev s f = .next (s.onDev fun d => d.rxBad q toQ lane) := by
  refine ⟨toQ, ?_⟩
  rw [onDev, State.onDev, State.onDev, hf]

/-- Each of them is discarded at the end that it reaches: the first three at the quarter, the others at the controller. -/
theorem exec_badFlit {s : State} {q lane : Nat} (h : s.dev.Hears q lane) (hu : s.unitsOn = true) {m : LegMeasure} {err : Bool} {c : Instr}
    (hc : c ∈ badFlits q lane m err) : ∃ toQ, exec c s = .next (s.onDev fun d => d.rxBad q toQ lane) := by
  simp only [badFlits, List.mem_cons, List.not_mem_nil, or_false] at hc
  rcases hc with rfl | rfl | rfl | rfl | rfl | rfl | rfl | rfl | rfl
  · exact onDev_discards true (by simp only [Dev.rxFlit_bad h])
  · exact onDev_discards true (by simp only [Dev.rxFlit_bad h])
  · rw [show exec (.go q lane 15 true 0 false err) s = execGo q lane 15 true 0 false err s from rfl, execGo, gated_on hu]
    exact onDev_discards true (by simp only [Dev.rxFlit_bad h])
  · exact onDev_discards false (by simp only [Dev.rxFlit_bad h])
  · exact onDev_discards false (by simp only [Dev.rxFlit_bad h])
  · exact onDev_discards false (by simp only [Dev.rxFlit_bad h])
  · exact onDev_discards false (by simp only [Dev.rxFlit_bad h])
  · exact onDev_discards false (by simp only [Dev.rxFlit_bad h])
  · exact onDev_discards false (by simp only [Dev.rxFlit_bad h])

theorem exec_edgeLetter_bad {s : State} {q lane : Nat} {f : Flit} (h : s.dev.Hears q lane) (hc : flitCrcOk f = false) :
    exec (.edgeLetter q lane f) s = .next (s.onDev fun d => d.rxBad q true lane) := by
  show execEdgeLetter q lane f s = _
  simp only [execEdgeLetter, onDev, State.onDev, hc, Dev.rxFlit_bad h]

theorem exec_heartbeat_reserved {s : State} {q lane : Nat} {f : Flit} (h : s.dev.Hears q lane) (hc : flitCrcOk f = true)
    (ht : flitReserved (flitField f 63 60) = true) (toQ : Bool) : exec (.heartbeat q toQ lane f) s =
      .next (s.onDev fun d => (d.errShown q (flitField f 59 59 = 1)).count (K.BAD_TYPE q)) := by
  show execHeartbeat q toQ lane f s = _
  simp only [execHeartbeat, onDev, State.onDev, hc, Dev.rxCheck_reserved h toQ _ ht]

end Sys2Proof.Machine

namespace Sys2Proof

open Sys2Proof.Machine

/-- A command answered by the count of a bad flit alone. -/
theorem completes_rxBad {s : State} {c : Instr} {q lane : Nat} {toQ : Bool} (hx : exec c s = .next (s.onDev fun d => d.rxBad q toQ lane)) :
    Completes c s fun u => u.dev.rd (K.CRC_ERR q) = (s.dev.rd (K.CRC_ERR q) + 1) % 2 ^ 32 ∧ SlotsKept s u [K.CRC_ERR q] ∧
      u.dev.legs = s.dev.legs ∧ u.dev.coils = s.dev.coils ∧ u.dev.out = s.dev.out := by
  obtain ⟨hlegs, hcount, hsame⟩ := s.dev.rxBad_counts q toQ lane
  exact completes_of_eq hx ⟨hcount, slotsKept_of_same hsame, hlegs, rfl, rfl⟩

theorem heartbeat_reserved {s : State} {q lane : Nat} {f : Flit} (h : s.dev.Hears q lane) (hc : flitCrcOk f = true)
    (ht : flitReserved (flitField f 63 60) = true) (toQ : Bool) :
    Completes (.heartbeat q toQ lane f) s fun u => u.dev.rd (K.BAD_TYPE q) = (s.dev.rd (K.BAD_TYPE q) + 1) % 2 ^ 32 ∧
      SlotsKept s u [K.BAD_TYPE q, K.ERR_RX q] ∧ u.dev.quarters = s.dev.quarters ∧ u.dev.legs = s.dev.legs := by
  have hshown := s.dev.errShown_same q (flitField f 59 59 = 1)
  refine completes_of_eq (exec_heartbeat_reserved h hc ht toQ) ⟨?_, slotsKept_of_same ((hshown.mono (by simp)).wr _ (by simp)), ?_,
    Dev.errShown_legs _ _ _⟩
  · rw [State.onDev, Dev.rd_count, if_pos rfl, Dev.errShown_rd _ _ _ (by lia)]
  · rw [State.onDev, Dev.errShown_objs]
    rfl

/-- Settles O19: every bad flit ends in the same count, and a reserved type in the other. -/
theorem badFlitsAreDiscardedAndCounted : Obligations.BadFlitsAreDiscardedAndCounted := by
  intro s q lane hq hl hi
  have h : s.dev.Hears q lane := ⟨hq, hl, hi⟩
  refine ⟨fun err m c hu hc => ?_, fun f hc => ?_, fun f toQ hc ht => heartbeat_reserved h hc ht toQ⟩
  · obtain ⟨toQ, hx⟩ := exec_badFlit h hu (m := m) (err := err) hc
    exact completes_rxBad hx
  · obtain ⟨t, ht, hcount, hsame, hlegs, -⟩ := completes_rxBad (exec_edgeLetter_bad h hc)
    exact ⟨t, ht, hcount, hsame, hlegs⟩

end Sys2Proof

namespace Sys2Proof.Machine

/-! ## What stopping a quarter's units leaves (R240, R247) -/

/-- What a protective stop of legs and axes of quarter q keeps: the records of the quarters, the raises on their way, the legs of other
quarters, legs that are off and empty, latches that are set, the slots of the quarters' own objects. -/
structure Dev.Stops (q : Nat) (a b : Dev) : Prop where
  part : b.part = a.part
  nt : b.nt = a.nt
  quarters : b.quarters = a.quarters
  raises : a.flt.raises ⊆ b.flt.raises
  other : ∀ l, l / 16 ≠ q → b.leg l = a.leg l
  empty : ∀ l, (a.leg l).Empty → (b.leg l).Empty
  latched : ∀ l, a.bit (K.LEG_FLAGS l) 2 = true → b.bit (K.LEG_FLAGS l) 2 = true
  slots : ∀ k, 0x5000 * 256 ≤ k → k < 0x5400 * 256 → b.rd k = a.rd k

namespace Dev.Stops

variable {q : Nat} {a b : Dev}

theorem refl (a : Dev) : Stops q a a :=
  ⟨rfl, rfl, rfl, List.Subset.refl _, fun _ _ => rfl, fun _ => id, fun _ => id, fun _ _ _ => rfl⟩

theorem trans {c : Dev} (h : Stops q a b) (h' : Stops q b c) : Stops q a c :=
  ⟨h'.part.trans h.part, h'.nt.trans h.nt, h'.quarters.trans h.quarters, List.Subset.trans h.raises h'.raises,
    fun l hl => (h'.other l hl).trans (h.other l hl), fun l hl => h'.empty l (h.empty l hl), fun l hl => h'.latched l (h.latched l hl),
    fun k h1 h2 => (h'.slots k h1 h2).trans (h.slots k h1 h2)⟩

theorem ite {p : Prop} [Decidable p] {x y : Dev} (hx : Stops q a x) (hy : Stops q a y) : Stops q a (if p then x else y) := by
  split_ifs
  · exact hx
  · exact hy

/-- A step that touches no leg and no quarter. -/
theorem of_rd {c : Dev} (h : Stops q a b) (hp : c.part = b.part) (hn : c.nt = b.nt) (hq : c.quarters = b.quarters) (hl : c.legs = b.legs)
    (hf : b.flt.raises ⊆ c.flt.raises) (hc : ∀ k, 0x5000 * 256 ≤ k → c.rd k = b.rd k) : Stops q a c := by
  refine h.trans ⟨hp, hn, hq, hf, fun l _ => ?_, fun l he => ?_, fun l hb => ?_, fun k hk _ => hc k hk⟩
  · rw [Dev.leg, hl, Dev.leg]
  · rwa [Dev.leg, hl]
  · rwa [Dev.bit_congr (hc _ (by lia))]

theorem raise (h : Stops q a b) (src nt : Nat) (i : Bool) : Stops q a (b.raise src nt i) := by
  have hr := b.raise_raises src nt i
  have hrd := b.raise_rd src nt i
  obtain ⟨f, hf⟩ := b.raise_frame src nt i
  rw [hf] at hr hrd ⊢
  exact h.of_rd rfl rfl rfl rfl hr fun k _ => hrd k

theorem quarterEvent (h : Stops q a b) {p : Nat} (hp : p < 4) (type obj : Nat) (x : Bytes) : Stops q a (b.quarterEvent p type obj x) := by
  have hr := b.quarterEvent_raises p type obj x
  have hrd (k : Nat) (hk : 0x5000 * 256 ≤ k) : (b.quarterEvent p type obj x).rd k = b.rd k :=
    b.quarterEvent_rd hp _ _ _ (postingSlot_outside (by lia))
  obtain ⟨o, m, f, he⟩ := b.quarterEvent_frame p type obj x
  rw [he] at hr hrd ⊢
  exact h.of_rd rfl rfl rfl rfl hr hrd

theorem emit (h : Stops q a b) (o : Out) : Stops q a (b.emit o) := h.of_rd rfl rfl rfl rfl (List.Subset.refl _) fun _ _ => rfl

theorem requestFault (h : Stops q a b) (n : Nat) (r : Bool) : Stops q a (b.requestFault n r) := by
  obtain ⟨t, ht⟩ := b.requestFault_frame n r
  rw [ht]
  exact h.of_rd rfl rfl rfl rfl (List.Subset.refl _) fun _ _ => rfl

/-- Identification of an axis of the quarter fails. -/
theorem identFail (h : Stops q a b) {n : Nat} (hn : n / 4 = q) (hq : q < 4) (cause : Nat) : Stops q a (b.identFail n cause) := by
  obtain ⟨t, x, o, m, f, hf⟩ := b.identFail_frame n cause
  have hrd (k : Nat) (hk : 0x5000 * 256 ≤ k) : (b.identFail n cause).rd k = b.rd k :=
    b.identFail_rd n cause (by simp only [identSlots, List.mem_cons, List.not_mem_nil]; lia) (postingSlot_outside (by lia))
  refine h.trans ⟨by rw [hf], by rw [hf], by rw [hf], b.identFail_raises n cause, fun l hl => b.identFail_other n cause (by lia),
    (Stills.identFail b n cause).empty, fun l hl => ?_, fun k hk _ => hrd k hk⟩
  rwa [Dev.bit_congr (hrd _ (by lia))]

/-- A leg of the quarter changed that is empty where it was. -/
theorem setLeg (h : Stops q a b) {l : Nat} (hl : l / 16 = q) {r : LegRt} (hr : (b.leg l).Empty → r.Empty) : Stops q a (b.setLeg l r) := by
  refine h.trans ⟨rfl, rfl, rfl, List.Subset.refl _, fun m hm => ?_, fun m hm => ?_, fun _ => id, fun _ _ _ => rfl⟩
  · exact Dev.leg_setLeg_ne _ _ (by rintro rfl; exact hm hl)
  · by_cases hlm : l = m
    · subst hlm
      exact (Dev.leg_setLeg_self b l r).symm ▸ hr hm
    · exact (Dev.leg_setLeg_ne b r hlm).symm ▸ hm

theorem legOff (h : Stops q a b) {l : Nat} (hl : l / 16 = q) : Stops q a (b.legOff l) := by
  unfold Dev.legOff
  dsimp only
  by_cases hoff : (b.leg l).pos = .off ∧ (b.leg l).turnOn = none ∧ (b.leg l).due = []
  · rw [if_pos hoff]
    exact h
  · rw [if_neg hoff]
    exact h.setLeg hl fun ⟨hpos, hon, hdue, _⟩ => absurd ⟨hpos, hon, hdue⟩ hoff

/-- Letters discarded. -/
theorem dropLetters (h : Stops q a b) {l : Nat} (hl : l / 16 = q) : Stops q a (b.dropLetters l) :=
  h.setLeg hl fun ⟨hpos, hon, hdue, _⟩ => ⟨hpos, hon, hdue, rfl, rfl⟩

/-- A flag of a leg set. -/
theorem setFlag (h : Stops q a b) (l : Nat) {i : Nat} (hi : i < 64 := by decide) : Stops q a (b.setBit (K.LEG_FLAGS l) i true) := by
  refine h.trans ⟨rfl, rfl, rfl, List.Subset.refl _, fun _ _ => rfl, fun _ => id, fun m hm => ?_, fun k _ hk => ?_⟩
  · by_cases hlm : l = m
    · subst hlm
      rw [Dev.bit_setBit _ _ _ _ hi]
      split_ifs
      · rfl
      · exact hm
    · rwa [Dev.bit_congr (Dev.rd_setBit_ne _ _ _ (by lia))]
  · exact Dev.rd_setBit_ne _ _ _ (by lia)

theorem legSafe (h : Stops q a b) {l : Nat} (hl : l / 16 = q) : Stops q a (b.legSafe l) := ((h.legOff hl).dropLetters hl).setFlag l

theorem legLatch (h : Stops q a b) {l : Nat} (hl : l / 16 = q) : Stops q a (b.legLatch l) := by
  refine setFlag (setLeg ((h.legOff hl).dropLetters hl) hl ?_) l
  exact id

/-- What every turn over the legs or axes of a list keeps, the whole walk keeps. -/
theorem fold {f : Dev → Nat → Dev} {l : List Nat} (h : Stops q a b) (hf : ∀ x ∈ l, ∀ d, Stops q d (f d x)) : Stops q a (l.foldl f b) := by
  induction l generalizing b with
  | nil => exact h
  | cons x t ih => exact ih (h.trans (hf x (by simp) b)) fun y hy => hf y (by simp [hy])

end Dev.Stops

theorem quarterLegs_quarter {q l : Nat} : l ∈ quarterLegs q ↔ l / 16 = q := by
  simp only [quarterLegs, List.mem_map, List.mem_range]
  exact ⟨fun ⟨j, hj, h⟩ => by omega, fun h => ⟨l % 16, by omega, by omega⟩⟩

theorem quarterAxes_quarter {q n : Nat} : n ∈ quarterAxes q ↔ n / 4 = q := by
  simp only [quarterAxes, List.mem_map, List.mem_range]
  exact ⟨fun ⟨j, hj, h⟩ => by omega, fun h => ⟨n % 4, by omega, by omega⟩⟩

/-! ## The entry into the quarter safe state (R240) -/

/-- The quarter's record as a cause joins its safe state (Table 8-2). -/
def QuarterRt.withCause (r : QuarterRt) (cause : Nat) : QuarterRt :=
  { r with causes := if cause = 3 then r.causes else withBit r.causes cause true
           lastCause := if r.causes.testBit cause then r.lastCause else cause
           leftCause := if cause = 3 ∧ r.causes = 0 then 3 else r.leftCause }

/-- The safe state shown in Q_FLAGS, with its cause, before the units stop. -/
def Dev.safeShown (d : Dev) (q cause : Nat) : Dev :=
  if d.isSafe q = true then d.safeCauseOn q cause else (d.safeCauseOn q cause).setBit (K.Q_FLAGS q) 1 true

section
variable (d : Dev) {q : Nat} (cause : Nat)

/-- Entering the safe state is showing it and stopping the units of the quarter. -/
theorem Dev.safeEnter_stops (hq : q < 4) : Stops q (d.safeShown q cause) (d.safeEnter q cause) := by
  rw [Dev.safeEnter_eq, Dev.safeShown]
  split_ifs
  · exact .refl _
  · have hlegs := (Stops.refl ((d.safeCauseOn q cause).setBit (K.Q_FLAGS q) 1 true)).fold (f := Dev.legSafe) (l := quarterLegs q)
      fun l hl e => (Stops.refl e).legSafe (quarterLegs_quarter.1 hl)
    exact (hlegs.fold (l := quarterAxes q) fun n hn e =>
      ((Stops.refl e).identFail (quarterAxes_quarter.1 hn) hq 10).requestFault n false).quarterEvent hq _ _ _

theorem Dev.safeCauseOn_eq : d.safeCauseOn q cause =
    (d.setQuarter q ((d.quarter q).withCause cause)).setField (K.Q_FLAGS q) 6 4 ((d.quarter q).withCause cause).shownCause := by
  rw [Dev.safeCauseOn, Dev.showCause, Dev.quarter_setQuarter_self]
  rfl

theorem Dev.safeShown_frame : ∃ o, d.safeShown q cause = { d.setQuarter q ((d.quarter q).withCause cause) with objs := o } := by
  rw [Dev.safeShown, Dev.safeCauseOn_eq]
  split_ifs <;> exact ⟨_, rfl⟩

theorem Dev.safeShown_quarter : (d.safeShown q cause).quarter q = (d.quarter q).withCause cause := by
  obtain ⟨o, ho⟩ := d.safeShown_frame (q := q) cause
  rw [ho]
  exact Dev.quarter_setQuarter_self _ _ _

/-- Q_FLAGS alone changes in the store. -/
theorem Dev.safeShown_rd {k : Nat} (hk : K.Q_FLAGS q ≠ k) : (d.safeShown q cause).rd k = d.rd k := by
  rw [Dev.safeShown, Dev.safeCauseOn_eq]
  split_ifs
  · exact Dev.rd_setField_ne _ _ _ _ hk
  · exact (Dev.rd_setBit_ne _ _ _ hk).trans (Dev.rd_setField_ne _ _ _ _ hk)

/-- A field above a bit that was set. -/
theorem Dev.field_setBit_below (k i : Nat) (b : Bool) {hi lo : Nat} (h : i < lo) (h64 : i < 64) :
    field ((d.setBit k i b).rd k) hi lo = field (d.rd k) hi lo := by
  refine Nat.eq_of_testBit_eq fun j => ?_
  have hbit := d.bit_setBit k b (j + lo) h64
  rw [if_neg (by omega)] at hbit
  rw [testBit_field, testBit_field]
  exact congrArg _ hbit

/-- Q_FLAGS shows the cause of the quarter's record. -/
theorem Dev.safeShown_cause : field ((d.safeShown q cause).rd (K.Q_FLAGS q)) 6 4 = ((d.quarter q).withCause cause).shownCause % 8 := by
  have hshown (e : Dev) (x : Nat) : field ((e.setField (K.Q_FLAGS q) 6 4 x).rd (K.Q_FLAGS q)) 6 4 = x % 8 := by
    rw [Dev.rd_setField_self _ _ _ _ (by decide), field_withField _ _ _ _ (by decide)]
    rfl
  rw [Dev.safeShown, Dev.safeCauseOn_eq]
  split_ifs
  · exact hshown _ _
  · rw [Dev.field_setBit_below _ _ _ _ (by decide) (by decide), hshown]

/-- The flags below SAFE stay. -/
theorem Dev.safeShown_bit_zero : (d.safeShown q cause).bit (K.Q_FLAGS q) 0 = d.bit (K.Q_FLAGS q) 0 := by
  rw [Dev.safeShown, Dev.safeCauseOn_eq]
  split_ifs
  · rw [Dev.bit_setField _ _ _ _ _ (by decide)]
    rfl
  · rw [Dev.bit_setBit _ _ _ _ (by decide), Dev.bit_setField _ _ _ _ _ (by decide)]
    rfl

theorem Dev.safeShown_leg (l : Nat) : (d.safeShown q cause).leg l = d.leg l := by
  obtain ⟨o, ho⟩ := d.safeShown_frame (q := q) cause
  rw [ho]
  rfl

/-- The record of the quarter after the entry: the cause alone has joined. -/
theorem Dev.safeEnter_record (hq : q < 4) : (d.safeEnter q cause).quarter q = (d.quarter q).withCause cause := by
  rw [Dev.quarter, (d.safeEnter_stops cause hq).quarters]
  exact d.safeShown_quarter cause

/-- The own objects of the quarters read as before, but for Q_FLAGS. -/
theorem Dev.safeEnter_rd (hq : q < 4) {k : Nat} (h1 : 0x5000 * 256 ≤ k) (h2 : k < 0x5400 * 256) (hk : K.Q_FLAGS q ≠ k) :
    (d.safeEnter q cause).rd k = d.rd k := ((d.safeEnter_stops cause hq).slots k h1 h2).trans (d.safeShown_rd cause hk)

end

/-- A cause other than 3 is present once it has joined. -/
theorem QuarterRt.withCause_present (r : QuarterRt) {cause : Nat} (hc : cause ≠ 3) : (r.withCause cause).causes.testBit cause = true := by
  rw [QuarterRt.withCause, if_neg hc]
  exact testBit_withBit_self _ _ _

/-- A cause that was not present is the one shown (log 16). -/
theorem QuarterRt.withCause_shown {r : QuarterRt} {cause : Nat} (hc : cause ≠ 3) (h : r.causes.testBit cause = false) :
    (r.withCause cause).shownCause = cause := by
  have hlast : (r.withCause cause).lastCause = cause := if_neg (by simp [h])
  rw [QuarterRt.shownCause, hlast, r.withCause_present hc, if_pos rfl]

/-! ## A cause of the quarter safe state ends (R240) -/

section
variable (d : Dev) (q cause : Nat)

theorem Dev.safeCauseOff_frame : ∃ o left, d.safeCauseOff q cause =
    { d.setQuarter q { d.quarter q with causes := withBit (d.quarter q).causes cause false, leftCause := left } with objs := o } :=
  ⟨_, _, rfl⟩

theorem Dev.safeCauseOff_quarter : ∃ left, (d.safeCauseOff q cause).quarter q =
    { d.quarter q with causes := withBit (d.quarter q).causes cause false, leftCause := left } := by
  obtain ⟨o, left, h⟩ := d.safeCauseOff_frame q cause
  rw [h]
  exact ⟨left, Dev.quarter_setQuarter_self _ _ _⟩

theorem Dev.safeCauseOff_rd {k : Nat} (hk : K.Q_FLAGS q ≠ k) : (d.safeCauseOff q cause).rd k = d.rd k :=
  Dev.rd_setField_ne _ _ _ _ hk

/-- The flags below the cause stay, the safe state with them. -/
theorem Dev.safeCauseOff_bit {i : Nat} (hi : i < 4) : (d.safeCauseOff q cause).bit (K.Q_FLAGS q) i = d.bit (K.Q_FLAGS q) i := by
  rw [Dev.safeCauseOff, Dev.showCause, Dev.bit_setField _ _ _ _ _ (by decide), if_neg (by omega)]
  rfl

end

end Sys2Proof.Machine

namespace Sys2Proof.Machine

/-! ## A condition of a quarter begins or ends, with its event (R208, R327) -/

section
variable (d : Dev) (src nt q type obj : Nat) (p : Bytes)

/-- A condition source raised, and the event of its quarter. -/
def Dev.conditionBegun : Dev := (d.raiseOn src nt).quarterEvent q type obj p

/-- A condition source ended, and the event of its quarter. -/
def Dev.conditionEnded : Dev := (d.raiseOff src).quarterEvent q type obj p

theorem Dev.conditionBegun_frame : ∃ o m f, d.conditionBegun src nt q type obj p = { d with objs := o, mail := m, flt := f } := by
  obtain ⟨o, f, hr⟩ := d.raiseOn_frame src nt false
  obtain ⟨o', m, f', he⟩ := (d.raiseOn src nt).quarterEvent_frame q type obj p
  rw [Dev.conditionBegun, he, hr]
  exact ⟨_, _, _, rfl⟩

theorem Dev.conditionEnded_frame : ∃ o m f, d.conditionEnded src q type obj p = { d with objs := o, mail := m, flt := f } :=
  (d.raiseOff src).quarterEvent_frame q type obj p

theorem Dev.conditionBegun_leg (l : Nat) : (d.conditionBegun src nt q type obj p).leg l = d.leg l := by
  obtain ⟨o, m, f, h⟩ := d.conditionBegun_frame src nt q type obj p
  rw [h]
  rfl

theorem Dev.conditionBegun_quarter (r : Nat) : (d.conditionBegun src nt q type obj p).quarter r = d.quarter r := by
  obtain ⟨o, m, f, h⟩ := d.conditionBegun_frame src nt q type obj p
  rw [h]
  rfl

theorem Dev.conditionEnded_legs : (d.conditionEnded src q type obj p).legs = d.legs := by
  obtain ⟨o, m, f, h⟩ := d.conditionEnded_frame src q type obj p
  rw [h]

theorem Dev.conditionEnded_quarter (r : Nat) : (d.conditionEnded src q type obj p).quarter r = d.quarter r := by
  obtain ⟨o, m, f, h⟩ := d.conditionEnded_frame src q type obj p
  rw [h]
  rfl

variable {q} (hq : q < 4)
include hq

theorem Dev.conditionBegun_rd {k : Nat} (hk : K.SRC_STATUS src ≠ k) (hp : postingSlot k = false) :
    (d.conditionBegun src nt q type obj p).rd k = d.rd k := by
  rw [Dev.conditionBegun, Dev.quarterEvent_rd _ hq _ _ _ hp]
  exact d.raiseOn_same src nt false k (by simpa using hk.symm)

theorem Dev.conditionBegun_active : (d.conditionBegun src nt q type obj p).bit (K.SRC_STATUS src) 0 = true := by
  rw [Dev.conditionBegun, Dev.bit_congr (Dev.quarterEvent_rd _ hq _ _ _ (postingSlot_outside (by lia)))]
  exact d.raiseOn_active src nt false

theorem Dev.conditionEnded_rd {k : Nat} (hk : K.SRC_STATUS src ≠ k) (hp : postingSlot k = false) :
    (d.conditionEnded src q type obj p).rd k = d.rd k := by
  rw [Dev.conditionEnded, Dev.quarterEvent_rd _ hq _ _ _ hp]
  exact Dev.rd_setBit_ne _ _ _ hk

theorem Dev.conditionEnded_inactive : (d.conditionEnded src q type obj p).bit (K.SRC_STATUS src) 0 = false := by
  rw [Dev.conditionEnded, Dev.bit_congr (Dev.quarterEvent_rd _ hq _ _ _ (postingSlot_outside (by lia)))]
  exact Dev.bit_setBit_self _ _ _ (by decide)

end

/-! ## The gate supply of a quarter (R238) -/

/-- VGL of a quarter as its monitor shows it, and the flag of its undervoltage. -/
def Dev.vglSeen (d : Dev) (q v : Nat) (low : Bool) : Dev := (d.wr (K.VGL q) v).setBit (K.Q_FLAGS q) 0 low

section
variable (d : Dev) (q v : Nat) (low : Bool)

theorem Dev.vglSeen_rd {k : Nat} (hv : K.VGL q ≠ k) (hf : K.Q_FLAGS q ≠ k) : (d.vglSeen q v low).rd k = d.rd k :=
  (Dev.rd_setBit_ne _ _ _ hf).trans (Dev.rd_wr_ne _ _ hv)

theorem Dev.vglSeen_vgl (hv : v < 2 ^ 16) : (d.vglSeen q v low).rd (K.VGL q) = v := by
  rw [Dev.vglSeen, Dev.rd_setBit_ne _ _ _ (by lia), Dev.rd_wr_self, Nat.mod_eq_of_lt (by omega)]

theorem Dev.vglSeen_flag : (d.vglSeen q v low).bit (K.Q_FLAGS q) 0 = low := Dev.bit_setBit_self _ _ _ (by decide)

theorem Dev.vglSeen_isSafe : (d.vglSeen q v low).isSafe q = d.isSafe q := by
  rw [Dev.isSafe, Dev.vglSeen, Dev.bit_setBit _ _ _ _ (by decide), if_neg (by decide)]
  exact Dev.bit_congr (Dev.rd_wr_ne _ _ (by lia)) 1

end

theorem exec_vglUndervoltage {s : State} {q v : Nat} (hq : s.dev.hasQuarter q = true) (hv : v < 850)
    (hf : s.dev.bit (K.Q_FLAGS q) 0 = false) : ∃ nt p, exec (.vglUndervoltage q v) s =
      .next (s.onDev fun d => ((d.vglSeen q v true).safeEnter q 2).conditionBegun (0x142 + 0x10 * q) nt q 0x0163 0x5002 p) := by
  have hx : exec (.vglUndervoltage q v) s = execVglUndervoltage q v s := rfl
  rw [hx, execVglUndervoltage, onDev, State.onDev, if_pos ⟨hq, hv, by simp [hf]⟩]
  exact ⟨_, _, rfl⟩

theorem exec_vglRestored {s : State} {q v held : Nat} (hq : s.dev.hasQuarter q = true) (hv : 900 < v) (hh : 1000000 ≤ held)
    (hf : s.dev.bit (K.Q_FLAGS q) 0 = true) : ∃ p, exec (.vglRestored q v held) s =
      .next (s.onDev fun d => ((d.vglSeen q v false).safeCauseOff q 2).conditionEnded (0x142 + 0x10 * q) q 0x0164 0x5002 p) := by
  have hx : exec (.vglRestored q v held) s = execVglRestored q v held s := rfl
  rw [hx, execVglRestored, onDev, State.onDev, if_pos ⟨hq, hv, hh, hf⟩]
  exact ⟨_, rfl⟩

theorem exec_vglRestored_soon (s : State) (q v : Nat) {held : Nat} (hh : held < 1000000) : exec (.vglRestored q v held) s = .next s := by
  show execVglRestored q v held s = _
  rw [execVglRestored, onDev, State.onDev, if_neg (by omega)]

/-! ## The bootstrap supply of a leg (R239) -/

/-- The monitor of a leg shows its bootstrap voltage. -/
def Dev.bstSeen (d : Dev) (l v : Nat) : Dev := d.setLeg l { d.leg l with bst := v }

/-- The high side of a leg off, or no longer to come; the edges of the period stay. -/
def Dev.highOff (d : Dev) (l : Nat) : Dev :=
  let r := d.leg l
  if r.pos = .high ∨ (r.turnOn.map (·.1)) = some .high then
    let due := r.due
    let d := d.legOff l
    d.setLeg l { d.leg l with due := due }
  else d

/-- The flags of a bootstrap undervoltage: UV and LS_ONLY. -/
def Dev.bstFlags (d : Dev) (l : Nat) (b : Bool) : Dev := (d.setBit (K.LEG_FLAGS l) 0 b).setBit (K.LEG_FLAGS l) 1 b

/-- A bootstrap undervoltage of a leg, before it is raised. -/
def Dev.bstLow (d : Dev) (l v : Nat) : Dev := (((d.bstSeen l v).highOff l).bstFlags l true).count (K.BST_UV_CNT l)

section
variable (d : Dev) (l : Nat)

theorem Dev.bstFlags_bits (b : Bool) : (d.bstFlags l b).bit (K.LEG_FLAGS l) 0 = b ∧ (d.bstFlags l b).bit (K.LEG_FLAGS l) 1 = b := by
  refine ⟨?_, Dev.bit_setBit_self _ _ _ (by decide)⟩
  rw [Dev.bstFlags, Dev.bit_setBit _ _ _ _ (by decide), if_neg (by decide), Dev.bit_setBit_self _ _ _ (by decide)]

theorem Dev.bstFlags_same (b : Bool) : d.SlotsSame (d.bstFlags l b) [K.LEG_FLAGS l] :=
  ((Dev.SlotsSame.refl d _).wr _ (by simp)).wr _ (by simp)

theorem Dev.highOff_frame : ∃ t, d.highOff l = { d with legs := t } := by
  obtain ⟨t, ht⟩ := d.legOff_frame l
  unfold Dev.highOff
  dsimp only
  rw [ht]
  split_ifs <;> exact ⟨_, rfl⟩

theorem Dev.highOff_pos : ((d.highOff l).leg l).pos ≠ .high := by
  obtain ⟨hoff, -, -⟩ := d.legOff_off l
  unfold Dev.highOff
  dsimp only
  split_ifs with h
  · rw [Dev.leg_setLeg_self]
    simp [hoff]
  · exact fun hp => h (.inl hp)

theorem Dev.bstFlags_count_frame : ∃ o, (d.bstFlags l true).count (K.BST_UV_CNT l) = { d with objs := o } := by
  rw [Dev.count]
  exact ⟨_, rfl⟩

theorem Dev.bstLow_frame (v : Nat) : ∃ o t, d.bstLow l v = { d with objs := o, legs := t } := by
  obtain ⟨t, ht⟩ := (d.bstSeen l v).highOff_frame l
  obtain ⟨o, ho⟩ := ((d.bstSeen l v).highOff l).bstFlags_count_frame l
  exact ⟨o, t, by rw [Dev.bstLow, ho, ht]; rfl⟩

theorem Dev.bstLow_pos (v : Nat) : ((d.bstLow l v).leg l).pos ≠ .high := by
  have hpos := (d.bstSeen l v).highOff_pos l
  obtain ⟨o, ho⟩ := ((d.bstSeen l v).highOff l).bstFlags_count_frame l
  rw [Dev.bstLow, ho]
  exact hpos

theorem Dev.highOff_rd (k : Nat) : (d.highOff l).rd k = d.rd k := by
  obtain ⟨t, ht⟩ := d.highOff_frame l
  rw [ht]
  rfl

theorem Dev.bstLow_flags (v : Nat) : (d.bstLow l v).bit (K.LEG_FLAGS l) 0 = true ∧ (d.bstLow l v).bit (K.LEG_FLAGS l) 1 = true := by
  have hcount : (d.bstLow l v).rd (K.LEG_FLAGS l) = (((d.bstSeen l v).highOff l).bstFlags l true).rd (K.LEG_FLAGS l) :=
    (Dev.rd_count _ _ _ _).trans (if_neg (by lia))
  rw [Dev.bit_congr hcount, Dev.bit_congr hcount]
  exact Dev.bstFlags_bits _ _ _

theorem Dev.bstLow_count (v : Nat) : (d.bstLow l v).rd (K.BST_UV_CNT l) = (d.rd (K.BST_UV_CNT l) + 1) % 2 ^ 32 := by
  rw [Dev.bstLow, Dev.rd_count, if_pos rfl, Dev.bstFlags_same _ _ _ _ (by simp only [List.mem_singleton]; lia), Dev.highOff_rd]
  rfl

theorem Dev.bstLow_same (v : Nat) : d.SlotsSame (d.bstLow l v) [K.LEG_FLAGS l, K.BST_UV_CNT l] := by
  have hseen : d.SlotsSame ((d.bstSeen l v).highOff l) [K.LEG_FLAGS l, K.BST_UV_CNT l] := fun k _ => Dev.highOff_rd _ _ k
  exact (hseen.trans ((Dev.bstFlags_same _ l true).mono (by simp))).wr _ (by simp)

end

theorem exec_bootstrapUvlo {s : State} {l v : Nat} (hu : s.unitsOn = true) (hl : s.dev.hasLeg l = true) (hv : v < 780)
    (ha : s.dev.axState (l / 4) ≠ axDisabled) (hf : s.dev.bit (K.LEG_FLAGS l) 1 = false) : ∃ o p, exec (.bootstrapUvlo l v) s =
      .next (s.onDev fun d => (((d.bstLow l v).raise (0x080 + l) (d.bstLow l v).nt).emit o).quarterEvent (l / 16) 0x0161 0x5002 p) := by
  have hx : exec (.bootstrapUvlo l v) s = execBootstrapUvlo l v s := rfl
  rw [hx, execBootstrapUvlo, gated_on hu, onDev, State.onDev]
  simp only [hl, if_true]
  rw [if_pos ⟨hl, hv, ha, show ¬ s.dev.bit (K.LEG_FLAGS l) 1 = true by simp [hf]⟩]
  exact ⟨_, _, rfl⟩

theorem exec_lsOnlyCleared {s : State} {l v held : Nat} (hu : s.unitsOn = true) (hl : s.dev.hasLeg l = true)
    (hf : s.dev.bit (K.LEG_FLAGS l) 1 = true) (hb : (s.dev.coil (l / 2)).begun = true) (ht : (s.dev.coil (l / 2)).start = s.dev.ticks)
    (hv : 840 < v) (hh : 2 ≤ held) : ∃ p, exec (.lsOnlyCleared l v held) s =
      .next (s.onDev fun d => ((d.bstSeen l v).bstFlags l false).quarterEvent (l / 16) 0x0162 0x5002 p) := by
  have hx : exec (.lsOnlyCleared l v held) s = execLsOnlyCleared l v held s := rfl
  rw [hx, execLsOnlyCleared, gated_on hu, onDev, State.onDev, if_pos ⟨hl, hf, hb, ht, hv, hh⟩]
  exact ⟨_, rfl⟩

theorem exec_lsOnlyCleared_soon (s : State) (l v : Nat) {held : Nat} (hh : held < 2) : exec (.lsOnlyCleared l v held) s = .next s := by
  show execLsOnlyCleared l v held s = _
  rw [execLsOnlyCleared, onDev, State.onDev, if_neg (by omega)]
  exact ite_self _

end Sys2Proof.Machine

namespace Sys2Proof

open Sys2Proof.Machine

/-- Below 8.5 V the quarter is in its safe state with cause 2 (R238). -/
theorem vglUndervoltage_safe {s : State} {q v : Nat} (hq : s.dev.hasQuarter q = true) (hv : v < 850)
    (hf : s.dev.bit (K.Q_FLAGS q) 0 = false) (hc : (s.dev.quarter q).causes.testBit 2 = false) :
    Completes (.vglUndervoltage q v) s fun u => u.dev.bit (K.Q_FLAGS q) 0 = true ∧ u.dev.isSafe q = true ∧
      (u.dev.quarter q).causes.testBit 2 = true ∧ field (u.dev.rd (K.Q_FLAGS q)) 6 4 = 2 ∧ u.dev.rd (K.VGL q) = v ∧
      u.dev.bit (K.SRC_STATUS (0x142 + 0x10 * q)) 0 = true ∧ (s.dev.isSafe q = false → QuarterOff u q) := by
  have hq4 := Dev.quarter_lt hq
  obtain ⟨nt, p, hx⟩ := exec_vglUndervoltage hq hv hf
  refine completes_of_eq hx ?_
  rw [State.onDev]
  have hflag := s.dev.vglSeen_flag q v true
  have hvgl := s.dev.vglSeen_vgl q v true (by omega)
  have hsafe := s.dev.vglSeen_isSafe q v true
  have hquarter : (s.dev.vglSeen q v true).quarter q = s.dev.quarter q := rfl
  generalize s.dev.vglSeen q v true = d at *
  have hstop := (d.safeEnter_stops 2 hq4)
  have hq5 : ((d.safeEnter q 2).conditionBegun (0x142 + 0x10 * q) nt q 0x0163 0x5002 p).rd (K.Q_FLAGS q) =
      (d.safeShown q 2).rd (K.Q_FLAGS q) :=
    (Dev.conditionBegun_rd _ _ _ _ _ _ hq4 (by lia) (postingSlot_outside (by lia))).trans (hstop.slots _ (by lia) (by lia))
  refine ⟨?_, ?_, ?_, ?_, ?_, Dev.conditionBegun_active _ _ _ _ _ _ hq4, fun hoff l hl => ?_⟩
  · rw [Dev.bit_congr hq5, Dev.safeShown_bit_zero, hflag]
  · rw [Dev.isSafe, Dev.bit_congr (Dev.conditionBegun_rd _ _ _ _ _ _ hq4 (by lia) (postingSlot_outside (by lia)))]
    exact d.safeEnter_isSafe hq4 2
  · rw [Dev.conditionBegun_quarter, d.safeEnter_record 2 hq4]
    exact (d.quarter q).withCause_present (by decide)
  · rw [hq5, Dev.safeShown_cause, hquarter, QuarterRt.withCause_shown (by decide) hc]
  · rw [Dev.conditionBegun_rd _ _ _ _ _ _ hq4 (by lia) (postingSlot_outside (by lia)), d.safeEnter_rd 2 hq4 (by lia) (by lia) (by lia), hvgl]
  · rw [Dev.conditionBegun_leg]
    exact Dev.safeEnter_empty (hsafe.trans hoff) 2 l hl

/-- After 1 ms above 9.0 V the cause clears and the safe state holds (R238). -/
theorem vglRestored_clears {s : State} {q v held : Nat} (hq : s.dev.hasQuarter q = true) (hv : 900 < v) (hv16 : v < 2 ^ 16)
    (hf : s.dev.bit (K.Q_FLAGS q) 0 = true) (hh : 1000000 ≤ held) :
    Completes (.vglRestored q v held) s fun u => u.dev.bit (K.Q_FLAGS q) 0 = false ∧ u.dev.isSafe q = s.dev.isSafe q ∧
      (u.dev.quarter q).causes.testBit 2 = false ∧ u.dev.rd (K.VGL q) = v ∧ u.dev.bit (K.SRC_STATUS (0x142 + 0x10 * q)) 0 = false ∧
      u.dev.legs = s.dev.legs ∧ SlotsKept s u [K.VGL q, K.Q_FLAGS q, K.SRC_STATUS (0x142 + 0x10 * q)] := by
  have hq4 := Dev.quarter_lt hq
  obtain ⟨p, hx⟩ := exec_vglRestored hq hv hh hf
  refine completes_of_eq hx ?_
  rw [State.onDev]
  have hflag := s.dev.vglSeen_flag q v false
  have hvgl := s.dev.vglSeen_vgl q v false hv16
  have hsafe := s.dev.vglSeen_isSafe q v false
  have hlegs : (s.dev.vglSeen q v false).legs = s.dev.legs := rfl
  have hkept {k : Nat} := s.dev.vglSeen_rd q v false (k := k)
  generalize s.dev.vglSeen q v false = d at *
  obtain ⟨left, hquarter⟩ := d.safeCauseOff_quarter q 2
  obtain ⟨o, left', hframe⟩ := d.safeCauseOff_frame q 2
  have hflags : ((d.safeCauseOff q 2).conditionEnded (0x142 + 0x10 * q) q 0x0164 0x5002 p).rd (K.Q_FLAGS q) =
      (d.safeCauseOff q 2).rd (K.Q_FLAGS q) := Dev.conditionEnded_rd _ _ _ _ _ hq4 (by lia) (postingSlot_outside (by lia))
  refine ⟨?_, ?_, ?_, ?_, Dev.conditionEnded_inactive _ _ _ _ _ hq4, ?_, fun k hk hp => ?_⟩
  · rw [Dev.bit_congr hflags, Dev.safeCauseOff_bit _ _ _ (by decide), hflag]
  · rw [← hsafe, Dev.isSafe, Dev.bit_congr hflags, Dev.safeCauseOff_bit _ _ _ (by decide), Dev.isSafe]
  · rw [Dev.conditionEnded_quarter, hquarter]
    exact testBit_withBit_self _ _ _
  · rw [Dev.conditionEnded_rd _ _ _ _ _ hq4 (by lia) (postingSlot_outside (by lia)), Dev.safeCauseOff_rd _ _ _ (by lia), hvgl]
  · rw [Dev.conditionEnded_legs, hframe]
    exact hlegs
  · simp only [List.mem_cons, List.not_mem_nil, or_false, not_or] at hk
    obtain ⟨hkv, hkf, hks⟩ := hk
    dsimp only
    rw [Dev.conditionEnded_rd _ _ _ _ _ hq4 (Ne.symm hks) hp, Dev.safeCauseOff_rd _ _ _ (Ne.symm hkf), hkept (Ne.symm hkv) (Ne.symm hkf)]

/-- Below 7.8 V outside Disabled the high side turns off and the leg works with its low side alone (R239). -/
theorem bootstrapUvlo_lsOnly {s : State} {l v : Nat} (hu : s.unitsOn = true) (hl : s.dev.hasLeg l = true) (hv : v < 780)
    (ha : s.dev.axState (l / 4) ≠ axDisabled) (hf : s.dev.bit (K.LEG_FLAGS l) 1 = false) :
    Completes (.bootstrapUvlo l v) s fun u => (u.dev.leg l).pos ≠ .high ∧ u.dev.bit (K.LEG_FLAGS l) 0 = true ∧
      u.dev.bit (K.LEG_FLAGS l) 1 = true ∧ u.dev.rd (K.BST_UV_CNT l) = (s.dev.rd (K.BST_UV_CNT l) + 1) % 2 ^ 32 ∧
      Raised u (0x080 + l) s.dev.nt ∧ SlotsKept s u [K.LEG_FLAGS l, K.BST_UV_CNT l] := by
  have hlt : l < 16 * s.dev.part.quarters := of_decide_eq_true hl
  have h4 := s.dev.part.quarters_le
  obtain ⟨o, p, hx⟩ := exec_bootstrapUvlo hu hl hv ha hf
  refine completes_of_eq hx ?_
  rw [State.onDev]
  have hpos := s.dev.bstLow_pos l v
  obtain ⟨hlow, honly⟩ := s.dev.bstLow_flags l v
  have hcount := s.dev.bstLow_count l v
  have hsame := s.dev.bstLow_same l v
  obtain ⟨o', t, he⟩ := s.dev.bstLow_frame l v
  have hnt : (s.dev.bstLow l v).nt = s.dev.nt := by rw [he]
  have hpart : (s.dev.bstLow l v).part = s.dev.part := by rw [he]
  generalize s.dev.bstLow l v = d at *
  rw [hnt]
  have hrd {k : Nat} (hk : postingSlot k = false) :
      (((d.raise (0x080 + l) s.dev.nt).emit o).quarterEvent (l / 16) 0x0161 0x5002 p).rd k = d.rd k :=
    (Dev.quarterEvent_rd _ (Dev.leg_lt hl) _ _ _ hk).trans (Dev.raise_rd _ _ _ _ _)
  obtain ⟨x, m, f, hframe⟩ := ((d.raise (0x080 + l) s.dev.nt).emit o).quarterEvent_frame (l / 16) 0x0161 0x5002 p
  refine ⟨?_, ?_, ?_, ?_, ?_, fun k hk hp => (hrd hp).trans (hsame k hk)⟩
  · rw [hframe]
    exact (congrArg LegRt.pos (Dev.raise_leg d _ _ _ _)).trans_ne hpos
  · rw [Dev.bit_congr (hrd (postingSlot_outside (by lia))), hlow]
  · rw [Dev.bit_congr (hrd (postingSlot_outside (by lia))), honly]
  · rw [hrd (postingSlot_outside (by lia)), hcount]
  · have hraises := ((d.raise (0x080 + l) s.dev.nt).emit o).quarterEvent_raises (l / 16) 0x0161 0x5002 p
    exact raised_of_raise (hpart ▸ legFault_source hlt (by omega) (by omega)) hraises

/-- After two whole periods above 8.4 V both flags clear at a period boundary (R239). -/
theorem lsOnlyCleared_clears {s : State} {l v held : Nat} (hu : s.unitsOn = true) (hl : s.dev.hasLeg l = true)
    (hf : s.dev.bit (K.LEG_FLAGS l) 1 = true) (hb : (s.dev.coil (l / 2)).begun = true) (ht : (s.dev.coil (l / 2)).start = s.dev.ticks)
    (hv : 840 < v) (hh : 2 ≤ held) :
    Completes (.lsOnlyCleared l v held) s fun u => u.dev.bit (K.LEG_FLAGS l) 0 = false ∧ u.dev.bit (K.LEG_FLAGS l) 1 = false ∧
      u.dev.leg l = { s.dev.leg l with bst := v } ∧ (∀ m, m ≠ l → u.dev.leg m = s.dev.leg m) ∧ SlotsKept s u [K.LEG_FLAGS l] := by
  have hbound := Dev.leg_lt hl
  have hlt : l < 64 := by omega
  obtain ⟨p, hx⟩ := exec_lsOnlyCleared hu hl hf hb ht hv hh
  refine completes_of_eq hx ?_
  rw [State.onDev]
  obtain ⟨hlow, honly⟩ := (s.dev.bstSeen l v).bstFlags_bits l false
  have hrd {k : Nat} (hk : postingSlot k = false) :
      (((s.dev.bstSeen l v).bstFlags l false).quarterEvent (l / 16) 0x0162 0x5002 p).rd k =
        ((s.dev.bstSeen l v).bstFlags l false).rd k := Dev.quarterEvent_rd _ hbound _ _ _ hk
  obtain ⟨o, m, f, hframe⟩ := ((s.dev.bstSeen l v).bstFlags l false).quarterEvent_frame (l / 16) 0x0162 0x5002 p
  refine ⟨?_, ?_, ?_, fun m hm => ?_, fun k hk hp => (hrd hp).trans (Dev.bstFlags_same _ l false k hk)⟩
  · rw [Dev.bit_congr (hrd (postingSlot_outside (by lia))), hlow]
  · rw [Dev.bit_congr (hrd (postingSlot_outside (by lia))), honly]
  · rw [hframe]
    exact Dev.leg_setLeg_self s.dev l _
  · rw [hframe]
    exact Dev.leg_setLeg_ne s.dev _ hm.symm

/-- Settles O12: the supply of a quarter joins or ends cause 2, that of a leg sets or clears its two flags. -/
theorem supplyMonitorsAct : Obligations.SupplyMonitorsAct := by
  refine ⟨fun s q v hq => ⟨vglUndervoltage_safe hq, fun held hv h16 hf => ⟨vglRestored_clears hq hv h16 hf, exec_vglRestored_soon s q v⟩⟩,
    fun s l v hu hl => ⟨bootstrapUvlo_lsOnly hu hl, fun held hf hb ht => ⟨lsOnlyCleared_clears hu hl hf hb ht,
      exec_lsOnlyCleared_soon s l v⟩⟩⟩

end Sys2Proof

namespace Sys2Proof.Machine

/-! ## Lanes lost (R255) -/

/-- A lane out of service and marked lost (Table 8-15). -/
def Dev.laneOut (d : Dev) (q lane : Nat) : Dev := (d.setBit (K.LANES q) lane false).setBit (K.LANES q) (4 + lane) true

theorem Dev.laneOut_bits (d : Dev) (q : Nat) {lane : Nat} (h : lane < 3) :
    (d.laneOut q lane).bit (K.LANES q) lane = false ∧ (d.laneOut q lane).bit (K.LANES q) (4 + lane) = true := by
  refine ⟨?_, Dev.bit_setBit_self _ _ _ (by omega)⟩
  rw [Dev.laneOut, Dev.bit_setBit _ _ _ _ (by omega), if_neg (by omega), Dev.bit_setBit_self _ _ _ (by omega)]

theorem Dev.laneOut_same (d : Dev) (q lane : Nat) : d.SlotsSame (d.laneOut q lane) [K.LANES q] :=
  ((Dev.SlotsSame.refl d _).wr _ (by simp)).wr _ (by simp)

/-- A patch decided: it waits among the requests, or an event says that no spare remains. -/
theorem Dev.decidePatch_cases (d : Dev) (kind inst sub cause : Nat) : ∃ a, d.decidePatch kind inst sub cause =
    { d with fray := { d.fray with asks := a } } ∨ d.decidePatch kind inst sub cause = d.noSpareEvent kind (recordInst kind inst) := by
  unfold Dev.decidePatch
  dsimp only
  split_ifs
  · exact ⟨d.fray.asks, .inl rfl⟩
  · exact ⟨_, .inl rfl⟩
  · exact ⟨[], .inr rfl⟩

section
variable (d : Dev) (kind inst sub cause : Nat)

theorem Dev.decidePatch_legs : (d.decidePatch kind inst sub cause).legs = d.legs := by
  obtain ⟨a, h | h⟩ := d.decidePatch_cases kind inst sub cause <;> rw [h]
  obtain ⟨o, m, f, he⟩ := d.frayEvent_frame 0x01C4 (le 1 kind ++ le 1 0 ++ le 2 (recordInst kind inst) ++ le 8 d.nt)
  rw [Dev.noSpareEvent, he]

theorem Dev.decidePatch_raises : d.flt.raises ⊆ (d.decidePatch kind inst sub cause).flt.raises := by
  obtain ⟨a, h | h⟩ := d.decidePatch_cases kind inst sub cause <;> rw [h]
  · exact List.Subset.refl _
  · exact d.event_raises _ _ _ _ _

theorem Dev.decidePatch_rd {k : Nat} (hk : postingSlot k = false) : (d.decidePatch kind inst sub cause).rd k = d.rd k := by
  obtain ⟨a, h | h⟩ := d.decidePatch_cases kind inst sub cause <;> rw [h]
  · rfl
  · exact d.event_rd _ _ _ _ _ _ (by decide) hk

end

/-- The fault and the event of a lost lane, and the patch that it may call for. -/
def Dev.laneReported (d : Dev) (q lane nt : Nat) (p : Bytes) : Dev :=
  let e := (d.raise (0x146 + 0x10 * q) nt).quarterEvent q 0x0168 0x5002 p
  if lane < 2 then e.decidePatch 3 q lane 3 else e

section
variable (d : Dev) {q : Nat} (lane nt : Nat) (p : Bytes)

theorem Dev.laneReported_legs : (d.laneReported q lane nt p).legs = d.legs := by
  obtain ⟨o, m, f, he⟩ := (d.raise (0x146 + 0x10 * q) nt).quarterEvent_frame q 0x0168 0x5002 p
  obtain ⟨f', hr⟩ := d.raise_frame (0x146 + 0x10 * q) nt false
  have hlegs : ((d.raise (0x146 + 0x10 * q) nt).quarterEvent q 0x0168 0x5002 p).legs = d.legs := by rw [he, hr]
  unfold Dev.laneReported
  dsimp only
  split_ifs
  · rw [Dev.decidePatch_legs, hlegs]
  · exact hlegs

theorem Dev.laneReported_raises : (d.raise (0x146 + 0x10 * q) nt).flt.raises ⊆ (d.laneReported q lane nt p).flt.raises := by
  have hevent := (d.raise (0x146 + 0x10 * q) nt).quarterEvent_raises q 0x0168 0x5002 p
  unfold Dev.laneReported
  dsimp only
  split_ifs
  · exact List.Subset.trans hevent (Dev.decidePatch_raises _ _ _ _ _)
  · exact hevent

theorem Dev.laneReported_rd (hq : q < 4) {k : Nat} (hk : postingSlot k = false) : (d.laneReported q lane nt p).rd k = d.rd k := by
  have hevent : ((d.raise (0x146 + 0x10 * q) nt).quarterEvent q 0x0168 0x5002 p).rd k = d.rd k := by
    rw [Dev.quarterEvent_rd _ hq _ _ _ hk, Dev.raise_rd]
  unfold Dev.laneReported
  dsimp only
  split_ifs
  · rw [Dev.decidePatch_rd _ _ _ _ _ hk, hevent]
  · exact hevent

end

/-- A lane whose flits have stopped at one end, or that shows too many errors (R255). -/
def Dev.laneFails (d : Dev) (q lane : Nat) : Prop :=
  ((d.quarter q).lane true lane).lastValid + 2000 ≤ d.now + 7 ∨ ((d.quarter q).lane false lane).lastValid + 2000 ≤ d.now + 7 ∨
    16 < d.laneCrcRate q lane

theorem exec_laneLost {s : State} {q lane : Nat} (hq : s.dev.hasQuarter q = true) (hl : lane < 3) (ht : (s.dev.quarter q).trained = true)
    (hb : s.dev.bit (K.LANES q) lane = true) (hf : s.dev.laneFails q lane) : ∃ p, exec (.laneLost q lane) s =
      .next (s.onDev fun d => (d.laneOut q lane).laneReported q lane d.nt p) := by
  have hcond : ([true, false].any fun toQ => decide (((s.dev.quarter q).lane toQ lane).lastValid + 2000 ≤ s.dev.now + 7)) = true ∨
      decide (16 < s.dev.laneCrcRate q lane) = true := by
    simp only [List.any_cons, List.any_nil, Bool.or_false, Bool.or_eq_true, decide_eq_true_eq]
    exact or_assoc.2 hf
  have hx : exec (.laneLost q lane) s = execLaneLost q lane s := rfl
  rw [hx, execLaneLost, onDev, State.onDev]
  dsimp only
  rw [if_pos ⟨hq, ht, hl, hb, hcond⟩]
  exact ⟨_, rfl⟩

/-! ## Silent seams (R256, R257) -/

/-- The quarter hears nothing: its safe state with cause 1, the timeout counted, valid flits no longer flowing. -/
def Dev.seamSilent (d : Dev) (q : Nat) : Dev :=
  let e := (d.safeEnter q 1).count (K.TIMEOUTS q)
  e.setQuarter q { e.quarter q with flowSince := none }

theorem exec_seamTimeout {s : State} {q : Nat} (hq : s.dev.hasQuarter q = true) (ht : (s.dev.quarter q).trained = true)
    (hs : s.dev.seamQuiet q true 2000 = true) (hc : (s.dev.quarter q).causes.testBit 1 = false) : exec (.seamTimeout q) s =
      .next (s.onDev fun d => (d.seamSilent q).raiseOn (0x145 + 0x10 * q) (d.seamSilent q).nt) := by
  have hx : exec (.seamTimeout q) s = execSeamTimeout q s := rfl
  rw [hx, execSeamTimeout, onDev, State.onDev, if_pos ⟨hq, ht, hs, by simp [hc]⟩]
  rfl

section
variable (d : Dev) {q : Nat} (hq : q < 4)

theorem Dev.seamSilent_leg (l : Nat) : (d.seamSilent q).leg l = (d.safeEnter q 1).leg l := rfl

theorem Dev.seamSilent_causes : ((d.seamSilent q).quarter q).causes = ((d.safeEnter q 1).quarter q).causes := by
  unfold Dev.seamSilent
  dsimp only
  rw [Dev.quarter_setQuarter_self]
  rfl

theorem Dev.seamSilent_rd (k : Nat) : (d.seamSilent q).rd k =
    if K.TIMEOUTS q = k then ((d.safeEnter q 1).rd (K.TIMEOUTS q) + 1) % 2 ^ 32 else (d.safeEnter q 1).rd k :=
  (d.safeEnter q 1).rd_count (K.TIMEOUTS q) 1 k

include hq

theorem Dev.seamSilent_isSafe : (d.seamSilent q).isSafe q = true := by
  rw [Dev.isSafe, Dev.bit_congr ((d.seamSilent_rd _).trans (if_neg (by lia)))]
  exact d.safeEnter_isSafe hq 1

theorem Dev.seamSilent_count : (d.seamSilent q).rd (K.TIMEOUTS q) = (d.rd (K.TIMEOUTS q) + 1) % 2 ^ 32 := by
  rw [d.seamSilent_rd, if_pos rfl, d.safeEnter_rd 1 hq (by lia) (by lia) (by lia)]

end

theorem exec_controllerSeamSilence {s : State} {q : Nat} (hq : s.dev.hasQuarter q = true) (ht : (s.dev.quarter q).trained = true)
    (hs : s.dev.seamQuiet q false 2000 = true) (hc : (s.dev.quarter q).silent = false) : exec (.controllerSeamSilence q) s =
      .next (s.onDev fun d => (d.setQuarter q { d.quarter q with silent := true }).raiseOn (0x145 + 0x10 * q) d.nt) := by
  have hx : exec (.controllerSeamSilence q) s = execControllerSeamSilence q s := rfl
  rw [hx, execControllerSeamSilence, onDev, State.onDev, if_pos ⟨hq, ht, hs, by simp [hc]⟩]
  rfl

theorem Dev.raiseOff_quarter (d : Dev) (src q : Nat) : (d.raiseOff src).quarter q = d.quarter q := rfl

/-- The quarter takes NT from the next valid heartbeat (R39). -/
def Dev.ntAsked (d : Dev) (q : Nat) : Dev := d.setQuarter q { d.quarter q with takeNt := true }

theorem exec_seamRecovered {s : State} {q t : Nat} (hq : s.dev.hasQuarter q = true) (hf : (s.dev.quarter q).flowSince = some t)
    (hc : (s.dev.quarter q).causes.testBit 1 = true) (ht : t + 10000 ≤ s.dev.now + 7) (hs : s.dev.seamQuiet q true 2000 = false) :
    exec (.seamRecovered q) s = .next (s.onDev fun d => ((d.ntAsked q).safeCauseOff q 1).raiseOff (0x145 + 0x10 * q)) := by
  have hx : exec (.seamRecovered q) s = execSeamRecovered q s := rfl
  rw [hx, execSeamRecovered, onDev, State.onDev]
  dsimp only
  split
  next t' ht' =>
    obtain rfl : t = t' := Option.some.inj (hf.symm.trans ht')
    rw [if_pos ⟨hq, hc, ht, by simp [hs]⟩]
    rfl
  next hnone => simp [hf] at hnone

end Sys2Proof.Machine

namespace Sys2Proof

open Sys2Proof.Machine

theorem laneLost_lost {s : State} {q lane : Nat} (hq : s.dev.hasQuarter q = true) (hl : lane < 3) (ht : (s.dev.quarter q).trained = true)
    (hb : s.dev.bit (K.LANES q) lane = true) (hf : s.dev.laneFails q lane) :
    Completes (.laneLost q lane) s fun u => u.dev.bit (K.LANES q) lane = false ∧ u.dev.bit (K.LANES q) (4 + lane) = true ∧
      Raised u (0x146 + 0x10 * q) s.dev.nt ∧ u.dev.legs = s.dev.legs ∧ SlotsKept s u [K.LANES q] := by
  have hq4 := Dev.quarter_lt hq
  obtain ⟨p, hx⟩ := exec_laneLost hq hl ht hb hf
  refine completes_of_eq hx ?_
  rw [State.onDev]
  obtain ⟨hout, hlost⟩ := s.dev.laneOut_bits q hl
  have hrd {k : Nat} (hk : postingSlot k = false) := (s.dev.laneOut q lane).laneReported_rd lane s.dev.nt p hq4 hk
  refine ⟨?_, ?_, ?_, (s.dev.laneOut q lane).laneReported_legs lane s.dev.nt p, fun k hk hp => ?_⟩
  · rw [Dev.bit_congr (hrd (postingSlot_outside (by lia))), hout]
  · rw [Dev.bit_congr (hrd (postingSlot_outside (by lia))), hlost]
  · have hraises := (s.dev.laneOut q lane).laneReported_raises (q := q) lane s.dev.nt p
    exact raised_of_raise (d := s.dev.laneOut q lane) (quarterFault_source (k := 6) (by decide) (of_decide_eq_true hq)) hraises
  · exact (hrd hp).trans (s.dev.laneOut_same q lane k hk)

theorem seamTimeout_safe {s : State} {q : Nat} (hq : s.dev.hasQuarter q = true) (ht : (s.dev.quarter q).trained = true)
    (hs : s.dev.seamQuiet q true 2000 = true) (hc : (s.dev.quarter q).causes.testBit 1 = false) :
    Completes (.seamTimeout q) s fun u => u.dev.isSafe q = true ∧ (u.dev.quarter q).causes.testBit 1 = true ∧
      (s.dev.isSafe q = false → QuarterOff u q) ∧ u.dev.rd (K.TIMEOUTS q) = (s.dev.rd (K.TIMEOUTS q) + 1) % 2 ^ 32 ∧
      u.dev.bit (K.SRC_STATUS (0x145 + 0x10 * q)) 0 = true := by
  have hq4 := Dev.quarter_lt hq
  refine completes_of_eq (exec_seamTimeout hq ht hs hc) ?_
  rw [State.onDev]
  have hsafe := s.dev.seamSilent_isSafe hq4
  have hcauses := s.dev.seamSilent_causes (q := q)
  have hcount := s.dev.seamSilent_count hq4
  have hleg (l : Nat) := s.dev.seamSilent_leg (q := q) l
  generalize s.dev.seamSilent q = d at *
  have hsame := d.raiseOn_same (0x145 + 0x10 * q) d.nt false
  obtain ⟨o, f, hframe⟩ := d.raiseOn_frame (0x145 + 0x10 * q) d.nt false
  refine ⟨?_, ?_, fun hoff l hl => ?_, ?_, d.raiseOn_active _ _ _⟩
  · rw [Dev.isSafe, Dev.bit_congr (hsame _ (by simp only [List.mem_singleton]; lia))]
    exact hsafe
  · rw [hframe]
    refine (congrArg (Nat.testBit · 1) hcauses).trans ?_
    rw [s.dev.safeEnter_record 1 hq4]
    exact (s.dev.quarter q).withCause_present (by decide)
  · have hempty := Dev.safeEnter_empty hoff 1 l hl
    rw [← hleg] at hempty
    rw [hframe]
    exact hempty
  · rw [hsame _ (by simp only [List.mem_singleton]; lia), hcount]

theorem controllerSeamSilence_stops {s : State} {q : Nat} (hq : s.dev.hasQuarter q = true) (ht : (s.dev.quarter q).trained = true)
    (hs : s.dev.seamQuiet q false 2000 = true) (hc : (s.dev.quarter q).silent = false) :
    Completes (.controllerSeamSilence q) s fun u => (u.dev.quarter q).silent = true ∧
      u.dev.bit (K.SRC_STATUS (0x145 + 0x10 * q)) 0 = true ∧ u.dev.legs = s.dev.legs ∧
      SlotsKept s u [K.SRC_STATUS (0x145 + 0x10 * q)] := by
  refine completes_of_eq (exec_controllerSeamSilence hq ht hs hc) ?_
  have hsame := (s.dev.setQuarter q { s.dev.quarter q with silent := true }).raiseOn_same (0x145 + 0x10 * q) s.dev.nt false
  have hactive := (s.dev.setQuarter q { s.dev.quarter q with silent := true }).raiseOn_active (0x145 + 0x10 * q) s.dev.nt false
  obtain ⟨o, f, hframe⟩ := (s.dev.setQuarter q { s.dev.quarter q with silent := true }).raiseOn_frame (0x145 + 0x10 * q) s.dev.nt false
  refine ⟨?_, hactive, ?_, slotsKept_of_same hsame⟩
  · rw [State.onDev, hframe]
    exact congrArg QuarterRt.silent (Dev.quarter_setQuarter_self s.dev q _)
  · rw [State.onDev, hframe]
    rfl

theorem seamRecovered_clears {s : State} {q t : Nat} (hq : s.dev.hasQuarter q = true) (hf : (s.dev.quarter q).flowSince = some t)
    (hc : (s.dev.quarter q).causes.testBit 1 = true) (ht : t + 10000 ≤ s.dev.now + 7) (hs : s.dev.seamQuiet q true 2000 = false) :
    Completes (.seamRecovered q) s fun u => (u.dev.quarter q).causes.testBit 1 = false ∧ (u.dev.quarter q).takeNt = true ∧
      u.dev.isSafe q = s.dev.isSafe q ∧ u.dev.bit (K.SRC_STATUS (0x145 + 0x10 * q)) 0 = false ∧ u.dev.legs = s.dev.legs := by
  have hq4 := Dev.quarter_lt hq
  refine completes_of_eq (exec_seamRecovered hq hf hc ht hs) ?_
  obtain ⟨left, hquarter⟩ := (s.dev.ntAsked q).safeCauseOff_quarter q 1
  have htake : ((s.dev.ntAsked q).quarter q).takeNt = true := by rw [Dev.ntAsked, Dev.quarter_setQuarter_self]
  rw [State.onDev]
  refine ⟨?_, ?_, ?_, Dev.bit_setBit_self _ _ _ (by decide), rfl⟩
  · rw [Dev.raiseOff_quarter, hquarter]
    exact testBit_withBit_self _ _ _
  · rw [Dev.raiseOff_quarter, hquarter]
    exact htake
  · rw [Dev.isSafe, Dev.raiseOff, Dev.bit_congr (Dev.rd_setBit_ne _ _ _ (by lia)), Dev.safeCauseOff_bit _ _ _ (by decide)]
    rfl

/-- Settles O20, one lemma per row: the lane, the quarter's end, the controller's end, the recovery. -/
theorem lanesAndSeamsTimeOut : Obligations.LanesAndSeamsTimeOut := by
  intro s q hq
  exact ⟨fun lane hl ht hb hf => laneLost_lost hq hl ht hb hf, seamTimeout_safe hq, controllerSeamSilence_stops hq,
    fun t hf hc ht hs => seamRecovered_clears hq hf hc ht hs⟩

end Sys2Proof

namespace Sys2Proof.Machine

/-! ## The monitors that a trip latches (R250) -/

/-- The mask of the numbers below n that have a property: its bits say which they are. -/
theorem sumMask_testBit (p : Nat → Bool) (n : Nat) :
    (List.range n).foldl (fun m j => if p j then m + 2 ^ j else m) 0 < 2 ^ n ∧
      ∀ i, ((List.range n).foldl (fun m j => if p j then m + 2 ^ j else m) 0).testBit i = (decide (i < n) && p i) := by
  induction n with
  | zero => simp
  | succ n ih =>
    rw [List.range_succ, List.foldl_append]
    generalize (List.range n).foldl (fun m j => if p j then m + 2 ^ j else m) 0 = m at *
    obtain ⟨hlt, hbits⟩ := ih
    have hadd (i : Nat) : (m + 2 ^ n).testBit i = if i < n then m.testBit i else (1 : Nat).testBit (i - n) := by
      rw [Nat.add_comm, show 2 ^ n + m = 2 ^ n * 1 + m by omega, Nat.testBit_two_pow_mul_add _ hlt]
    simp only [List.foldl_cons, List.foldl_nil]
    by_cases hp : p n = true
    · rw [if_pos hp]
      refine ⟨by rw [Nat.pow_succ]; omega, fun i => ?_⟩
      rw [hadd, hbits]
      obtain hi | rfl | hi := Nat.lt_trichotomy i n
      · simp [hi, show i < n + 1 by omega]
      · simp [hp]
      · rw [if_neg (by omega), Nat.testBit_lt_two_pow (Nat.one_lt_two_pow (by omega))]
        simp [show ¬ i < n + 1 by omega]
    · rw [if_neg hp]
      refine ⟨by rw [Nat.pow_succ]; omega, fun i => ?_⟩
      rw [hbits]
      obtain hi | rfl | hi := Nat.lt_trichotomy i n
      · simp [hi, show i < n + 1 by omega]
      · simp [hp]
      · simp [show ¬ i < n by omega, show ¬ i < n + 1 by omega]

theorem Dev.onMask_testBit (d : Dev) (q : Nat) (p : LegPos) {j : Nat} (hj : j < 16) :
    (d.onMask q p).testBit j = d.gateOn (16 * q + j) p := by
  rw [Dev.onMask, (sumMask_testBit (fun j => d.gateOn (16 * q + j) p) 16).2 j]
  simp [hj]

/-- The incident that a trip opens or joins (R250). -/
def Dev.tripIncident (d : Dev) (q rawHs rawLs : Nat) (boc : Bool) (devHs devLs : Nat) : IncidentRt :=
  let hs := Nat.land (maskOr rawHs devHs) (d.onMask q .high)
  let ls := Nat.land (maskOr rawLs devLs) (d.onMask q .low)
  let i : IncidentRt := (d.quarter q).incident.getD { openNt := d.nt, openAt := d.nowQ }
  { i with hs := maskOr i.hs hs, ls := maskOr i.ls ls, boc := i.boc || boc, trips := i.trips + 1,
           trippedHs := maskOr i.trippedHs devHs, trippedLs := maskOr i.trippedLs devLs }

section
variable (d : Dev) (q rawHs rawLs : Nat) (boc : Bool) (devHs devLs : Nat)

theorem Dev.tripLatch_eq : d.tripLatch q rawHs rawLs boc devHs devLs =
    d.setQuarter q { d.quarter q with incident := some (d.tripIncident q rawHs rawLs boc devHs devLs) } := rfl

theorem Dev.tripLatch_incident : ((d.tripLatch q rawHs rawLs boc devHs devLs).quarter q).incident =
    some (d.tripIncident q rawHs rawLs boc devHs devLs) := by
  rw [Dev.tripLatch_eq, Dev.quarter_setQuarter_self]

theorem Dev.tripLatch_leg (l : Nat) : (d.tripLatch q rawHs rawLs boc devHs devLs).leg l = d.leg l := rfl

theorem Dev.tripIncident_trips : (d.tripIncident q rawHs rawLs boc devHs devLs).trips =
    ((d.quarter q).incident.map (·.trips)).getD 0 + 1 := by
  unfold Dev.tripIncident
  cases (d.quarter q).incident <;> rfl

end

theorem testBit_maskOr (a b i : Nat) : (maskOr a b).testBit i = (a.testBit i || b.testBit i) := Nat.testBit_or a b i

/-- The device that trips is on and so stands in the incident. -/
theorem Dev.tripIncident_device (d : Dev) {l : Nat} {hs : Bool} (rawHs rawLs : Nat) (boc : Bool)
    (hg : d.gateOn l (if hs then LegPos.high else LegPos.low) = true) :
    let i := d.tripIncident (l / 16) rawHs rawLs boc (if hs then 2 ^ (l % 16) else 0) (if hs then 0 else 2 ^ (l % 16))
    (if hs then i.hs else i.ls).testBit (l % 16) = true := by
  have hon (p : LegPos) : (d.onMask (l / 16) p).testBit (l % 16) = d.gateOn l p := by
    rw [Dev.onMask_testBit _ _ _ (by omega), Nat.div_add_mod]
  have hown (raw : Nat) {p : LegPos} (hp : d.gateOn l p = true) :
      (Nat.land (maskOr raw (2 ^ (l % 16))) (d.onMask (l / 16) p)).testBit (l % 16) = true := by
    rw [show Nat.land (maskOr raw (2 ^ (l % 16))) (d.onMask (l / 16) p) = maskOr raw (2 ^ (l % 16)) &&& d.onMask (l / 16) p from rfl,
      Nat.testBit_and, testBit_maskOr, Nat.testBit_two_pow_self, hon, hp]
    simp
  cases hs
  · simp only [Dev.tripIncident, Bool.false_eq_true, if_false, testBit_maskOr]
    rw [hown rawLs (p := .low) hg, Bool.or_true]
  · simp only [Dev.tripIncident, if_true, testBit_maskOr]
    rw [hown rawHs (p := .high) hg, Bool.or_true]

/-! ## Legs latched off (R247, R249) -/

/-- A leg off and empty, its counter restarted, its latch set. -/
structure Dev.LegLatched (d : Dev) (l : Nat) : Prop where
  empty : (d.leg l).Empty
  onTime : (d.leg l).onTime = 0
  latch : d.bit (K.LEG_FLAGS l) 2 = true

theorem Dev.LegLatched.congr {a b : Dev} {l : Nat} (h : a.LegLatched l) (hl : b.leg l = a.leg l)
    (hf : b.rd (K.LEG_FLAGS l) = a.rd (K.LEG_FLAGS l)) : b.LegLatched l :=
  ⟨hl.symm ▸ h.empty, hl.symm ▸ h.onTime, (Dev.bit_congr hf 2).trans h.latch⟩

theorem Dev.legLatch_latched (d : Dev) (l : Nat) : (d.legLatch l).LegLatched l := by
  have hempty := d.dropLetters_legOff_empty l
  have hleg : (d.legLatch l).leg l = { ((d.legOff l).dropLetters l).leg l with onTime := 0 } := Dev.leg_setLeg_self _ _ _
  exact ⟨hleg.symm ▸ hempty, by rw [hleg], Dev.bit_setBit_self _ _ _ (by decide)⟩

theorem Dev.legLatch_other (d : Dev) {l m : Nat} (h : l ≠ m) : (d.legLatch l).leg m = d.leg m ∧
    (d.legLatch l).rd (K.LEG_FLAGS m) = d.rd (K.LEG_FLAGS m) := by
  refine ⟨(Dev.leg_setLeg_ne _ _ h).trans (d.dropLetters_legOff_other h), (Dev.rd_setBit_ne _ _ _ (by lia)).trans ?_⟩
  exact d.legOff_rd l _

/-- Legs latched one after the other: those of the list are latched, the others as before. -/
theorem Dev.legsLatched (ls : List Nat) : ∀ (d : Dev) (m : Nat),
    ((m ∈ ls ∨ d.LegLatched m) → (ls.foldl Dev.legLatch d).LegLatched m) ∧ (m ∉ ls → (ls.foldl Dev.legLatch d).leg m = d.leg m) := by
  induction ls with
  | nil => exact fun d m => ⟨fun h => h.resolve_left (by simp), fun _ => rfl⟩
  | cons a t ih =>
    intro d m
    obtain ⟨hin, hout⟩ := ih (d.legLatch a) m
    refine ⟨fun h => hin ?_, fun h => ?_⟩
    · by_cases ham : a = m
      · subst ham
        exact .inr (d.legLatch_latched a)
      · obtain ⟨hleg, hflags⟩ := d.legLatch_other ham
        exact h.imp (fun hm => (List.mem_cons.1 hm).resolve_left (Ne.symm ham)) fun hl => hl.congr hleg hflags
    · obtain ⟨hma, hmt⟩ := not_or.1 fun h' => h (List.mem_cons.2 h')
      exact (hout hmt).trans (d.legLatch_other (Ne.symm hma)).1

/-! ## A VDS monitor trips (R247) -/

/-- The legs of the axis latched, its identification failed. -/
def Dev.axisTripped (d : Dev) (l : Nat) : Dev := (axisLegs (l / 4)).foldl Dev.legLatch (d.identFail (l / 4) 8)

/-- The trip of one side of a leg counted (Table 8-12). -/
def Dev.tripCounted (d : Dev) (l : Nat) (hs : Bool) : Dev :=
  let t := d.rd (K.TRIPS l)
  d.wr (K.TRIPS l) (if hs then withField t 15 0 (min (field t 15 0 + 1) 0xFFFF) else withField t 31 16 (min (field t 31 16 + 1) 0xFFFF))

/-- A trip raised and reported, Faulted requested for its axis. -/
def Dev.tripRaised (d : Dev) (l : Nat) (hs : Bool) : Dev :=
  ((d.raise ((if hs then 0 else 0x040) + l) d.nt).emit (.report (l / 16) (.trip (l % 16) hs) d.nt)).requestFault (l / 4) false

/-- A trip counted, raised and reported. -/
def Dev.tripReported (d : Dev) (l : Nat) (hs : Bool) : Dev := (d.tripCounted l hs).tripRaised l hs

section
variable (d : Dev) (l : Nat) (hs : Bool)

theorem Dev.axisTripped_stops {l : Nat} (hl : l / 16 < 4) : Stops (l / 16) d (d.axisTripped l) :=
  ((Stops.refl d).identFail (n := l / 4) (by omega) hl 8).fold fun m hm e =>
    (Stops.refl e).legLatch (by have hm := axisLegs_axis hm; omega)

theorem Dev.tripCounted_part : (d.tripCounted l hs).part = d.part := rfl

theorem Dev.tripRaised_frame : ∃ f o a, d.tripRaised l hs = { d with flt := f, out := o, axes := a } := by
  obtain ⟨f, hf⟩ := d.raise_frame ((if hs then 0 else 0x040) + l) d.nt false
  obtain ⟨a, ha⟩ := Dev.requestFault_frame (Dev.emit { d with flt := f } (.report (l / 16) (.trip (l % 16) hs) d.nt)) (l / 4) false
  rw [Dev.tripRaised, hf, ha]
  exact ⟨_, _, _, rfl⟩

theorem Dev.tripReported_frame : ∃ f o a, d.tripReported l hs = { d.tripCounted l hs with flt := f, out := o, axes := a } :=
  Dev.tripRaised_frame _ l hs

theorem Dev.tripReported_leg (m : Nat) : (d.tripReported l hs).leg m = d.leg m := by
  obtain ⟨f, o, a, h⟩ := d.tripReported_frame l hs
  rw [h]
  rfl

theorem Dev.tripReported_quarter (q : Nat) : (d.tripReported l hs).quarter q = d.quarter q := by
  obtain ⟨f, o, a, h⟩ := d.tripReported_frame l hs
  rw [h]
  rfl

theorem Dev.tripReported_rd {k : Nat} (hk : K.TRIPS l ≠ k) : (d.tripReported l hs).rd k = d.rd k := by
  obtain ⟨f, o, a, h⟩ := d.tripReported_frame l hs
  rw [h]
  exact Dev.rd_wr_ne _ _ hk

theorem Dev.tripReported_raises : ((d.tripCounted l hs).raise ((if hs then 0 else 0x040) + l) d.nt).flt.raises ⊆
    (d.tripReported l hs).flt.raises := by
  rw [Dev.tripReported, Dev.tripRaised, Dev.requestFault_flt]
  exact List.Subset.refl _

/-- After a trip every leg of the axis is latched off. -/
theorem Dev.tripped_latched {m : Nat} (hm : m ∈ axisLegs (l / 4)) : ((d.axisTripped l).tripReported l hs).LegLatched m :=
  (((Dev.legsLatched (axisLegs (l / 4)) (d.identFail (l / 4) 8) m).1 (.inl hm)).congr (Dev.tripReported_leg _ _ _ _)
    (Dev.tripReported_rd _ _ _ (by lia)))

/-- The legs of other axes stay. -/
theorem Dev.tripped_other {m : Nat} (hm : m / 4 ≠ l / 4) : ((d.axisTripped l).tripReported l hs).leg m = d.leg m := by
  rw [Dev.tripReported_leg, Dev.axisTripped, (Dev.legsLatched (axisLegs (l / 4)) _ m).2 fun h => hm (axisLegs_axis h),
    Dev.identFail_other _ _ _ hm]

end

theorem exec_vdsTrip {s : State} {l : Nat} (rawHs rawLs : Nat) {hs : Bool} (boc : Bool) (hu : s.unitsOn = true)
    (hl : s.dev.hasLeg l = true) (hg : s.dev.gateOn l (if hs then LegPos.high else LegPos.low) = true)
    (hb : (if hs then (s.dev.leg l).blankH else (s.dev.leg l).blankL) ≤ s.dev.nowQ + 31) (ht : s.dev.hasTripped l hs = false) :
    exec (.vdsTrip l hs rawHs rawLs boc) s = .next (s.onDev fun d => ((d.tripLatch (l / 16) rawHs rawLs boc
      (if hs then 2 ^ (l % 16) else 0) (if hs then 0 else 2 ^ (l % 16))).axisTripped l).tripReported l hs) := by
  have hx : exec (.vdsTrip l hs rawHs rawLs boc) s = execVdsTrip l hs rawHs rawLs boc s := rfl
  rw [hx, execVdsTrip, gated_on hu, onDev, State.onDev, if_pos ⟨hl, hg, hb, by simp [ht]⟩]
  rfl

/-! ## A bus-current trip (R247) -/

/-- A quarter tripped: identification of its axes failed, its legs latched, its safe state entered with cause 3. -/
def Dev.quarterTripped (d : Dev) (q : Nat) : Dev :=
  ((quarterLegs q).foldl Dev.legLatch ((quarterAxes q).foldl (fun d n => d.identFail n 8) d)).safeEnter q 3

theorem exec_busCurrentTrip {s : State} {q : Nat} (rawHs rawLs : Nat) (hu : s.unitsOn = true) (hq : s.dev.hasQuarter q = true)
    (hb : (s.dev.quarter q).bocEnd ≤ s.dev.nowQ + 31) : exec (.busCurrentTrip q rawHs rawLs) s =
      .next (s.onDev fun d => ((d.tripLatch q rawHs rawLs true 0 0).quarterTripped q).raise (0x143 + 0x10 * q)
        ((d.tripLatch q rawHs rawLs true 0 0).quarterTripped q).nt) := by
  have hx : exec (.busCurrentTrip q rawHs rawLs) s = execBusCurrentTrip q rawHs rawLs s := rfl
  rw [hx, execBusCurrentTrip, gated_on hu, onDev, State.onDev, if_pos ⟨hq, hb⟩]
  rfl

section
variable (d : Dev) {q : Nat} (hq : q < 4)
include hq

/-- The quarter with its legs latched, before its safe state is entered. -/
theorem Dev.quarterLatched_stops :
    Stops q d ((quarterLegs q).foldl Dev.legLatch ((quarterAxes q).foldl (fun d n => d.identFail n 8) d)) :=
  ((Stops.refl d).fold fun _ hn e => (Stops.refl e).identFail (quarterAxes_quarter.1 hn) hq 8).fold fun _ hl e =>
    (Stops.refl e).legLatch (quarterLegs_quarter.1 hl)

theorem Dev.quarterTripped_leg {l : Nat} (hl : l ∈ quarterLegs q) :
    ((d.quarterTripped q).leg l).Empty ∧ (d.quarterTripped q).bit (K.LEG_FLAGS l) 2 = true := by
  obtain ⟨hempty, -, hlatch⟩ := (Dev.legsLatched (quarterLegs q) ((quarterAxes q).foldl (fun d n => d.identFail n 8) d) l).1 (.inl hl)
  unfold Dev.quarterTripped
  generalize (quarterLegs q).foldl Dev.legLatch _ = e at *
  have hstop := e.safeEnter_stops 3 hq
  refine ⟨hstop.empty l ?_, hstop.latched l ?_⟩
  · rwa [Dev.safeShown_leg]
  · rwa [Dev.bit_congr (e.safeShown_rd 3 (by lia))]

theorem Dev.quarterTripped_other {l : Nat} (hl : l / 16 ≠ q) : (d.quarterTripped q).leg l = d.leg l := by
  rw [Dev.quarterTripped, (Dev.safeEnter_stops _ 3 hq).other l hl, Dev.safeShown_leg, (d.quarterLatched_stops hq).other l hl]

theorem Dev.quarterTripped_record : (d.quarterTripped q).quarter q = (d.quarter q).withCause 3 := by
  rw [Dev.quarterTripped, Dev.safeEnter_record _ 3 hq, Dev.quarter, (d.quarterLatched_stops hq).quarters, Dev.quarter]

theorem Dev.quarterTripped_frame : (d.quarterTripped q).nt = d.nt ∧ (d.quarterTripped q).part = d.part := by
  have hlatch := d.quarterLatched_stops hq
  unfold Dev.quarterTripped
  generalize (quarterLegs q).foldl Dev.legLatch _ = e at *
  have hstop := e.safeEnter_stops 3 hq
  obtain ⟨o, hshown⟩ := e.safeShown_frame (q := q) 3
  refine ⟨hstop.nt.trans ((congrArg Dev.nt hshown).trans hlatch.nt), hstop.part.trans ((congrArg Dev.part hshown).trans hlatch.part)⟩

end

end Sys2Proof.Machine

namespace Sys2Proof

open Sys2Proof.Machine

theorem vdsTrip_latches {s : State} {l rawHs rawLs : Nat} {hs boc : Bool} (hu : s.unitsOn = true) (hl : s.dev.hasLeg l = true)
    (hp : (s.dev.leg l).pos = (if hs then LegPos.high else LegPos.low))
    (hb : (if hs then (s.dev.leg l).blankH else (s.dev.leg l).blankL) ≤ s.dev.nowQ + 31) (ht : s.dev.hasTripped l hs = false) :
    Completes (.vdsTrip l hs rawHs rawLs boc) s fun u =>
      (∀ m ∈ axisLegs (l / 4), (u.dev.leg m).pos = .off ∧ (u.dev.leg m).due = [] ∧ (u.dev.leg m).held = [] ∧ (u.dev.leg m).goSet = [] ∧
        (u.dev.leg m).onTime = 0 ∧ u.dev.bit (K.LEG_FLAGS m) 2 = true) ∧
      (∀ m, m / 4 ≠ l / 4 → u.dev.leg m = s.dev.leg m) ∧
      Raised u ((if hs then 0 else 0x040) + l) s.dev.nt ∧
      ∃ i, (u.dev.quarter (l / 16)).incident = some i ∧
        i.trips = (((s.dev.quarter (l / 16)).incident.map (·.trips)).getD 0) + 1 ∧
        (if hs then i.hs else i.ls).testBit (l % 16) = true := by
  have hlt : l < 16 * s.dev.part.quarters := of_decide_eq_true hl
  have h4 := s.dev.part.quarters_le
  have hg : s.dev.gateOn l (if hs then LegPos.high else LegPos.low) = true := by simp [Dev.gateOn, hp]
  refine completes_of_eq (exec_vdsTrip rawHs rawLs boc hu hl hg hb ht) ?_
  rw [State.onDev]
  have hincident := s.dev.tripLatch_incident (l / 16) rawHs rawLs boc (if hs then 2 ^ (l % 16) else 0) (if hs then 0 else 2 ^ (l % 16))
  have hleg := s.dev.tripLatch_leg (l / 16) rawHs rawLs boc (if hs then 2 ^ (l % 16) else 0) (if hs then 0 else 2 ^ (l % 16))
  have hnt : (s.dev.tripLatch (l / 16) rawHs rawLs boc (if hs then 2 ^ (l % 16) else 0) (if hs then 0 else 2 ^ (l % 16))).nt = s.dev.nt := rfl
  have hpart : (s.dev.tripLatch (l / 16) rawHs rawLs boc (if hs then 2 ^ (l % 16) else 0) (if hs then 0 else 2 ^ (l % 16))).part =
    s.dev.part := rfl
  generalize s.dev.tripLatch (l / 16) rawHs rawLs boc _ _ = d at *
  have hstop := d.axisTripped_stops (l := l) (by omega)
  refine ⟨fun m hm => ?_, fun m hm => (d.tripped_other l hs hm).trans (hleg m), ?_,
    s.dev.tripIncident (l / 16) rawHs rawLs boc (if hs then 2 ^ (l % 16) else 0) (if hs then 0 else 2 ^ (l % 16)), ?_,
    s.dev.tripIncident_trips _ _ _ _ _ _, s.dev.tripIncident_device rawHs rawLs boc hg⟩
  · obtain ⟨⟨hpos, -, hdue, hheld, hset⟩, htime, hlatch⟩ := d.tripped_latched l hs hm
    exact ⟨hpos, hdue, hheld, hset, htime, hlatch⟩
  · have hraises := (d.axisTripped l).tripReported_raises l hs
    rw [hstop.nt, hnt] at hraises
    refine raised_of_raise (d := (d.axisTripped l).tripCounted l hs) ?_ hraises
    rw [Dev.tripCounted_part, hstop.part, hpart]
    exact legFault_source hlt (by split_ifs <;> omega) (by split_ifs <;> omega)
  · rw [Dev.tripReported_quarter, Dev.quarter, hstop.quarters]
    exact hincident

theorem busCurrentTrip_safe {s : State} {q rawHs rawLs : Nat} (hu : s.unitsOn = true) (hq : s.dev.hasQuarter q = true)
    (hb : (s.dev.quarter q).bocEnd ≤ s.dev.nowQ + 31) :
    Completes (.busCurrentTrip q rawHs rawLs) s fun u => u.dev.isSafe q = true ∧ QuarterOff u q ∧
      (∀ l ∈ quarterLegs q, u.dev.bit (K.LEG_FLAGS l) 2 = true) ∧ Raised u (0x143 + 0x10 * q) s.dev.nt ∧
      (∃ i, (u.dev.quarter q).incident = some i ∧ i.boc = true) ∧ ∀ l, l / 16 ≠ q → u.dev.leg l = s.dev.leg l := by
  have hq4 := Dev.quarter_lt hq
  refine completes_of_eq (exec_busCurrentTrip rawHs rawLs hu hq hb) ?_
  rw [State.onDev]
  have hincident := s.dev.tripLatch_incident q rawHs rawLs true 0 0
  have hleg := s.dev.tripLatch_leg q rawHs rawLs true 0 0
  have hnt : (s.dev.tripLatch q rawHs rawLs true 0 0).nt = s.dev.nt := rfl
  have hpart : (s.dev.tripLatch q rawHs rawLs true 0 0).part = s.dev.part := rfl
  generalize s.dev.tripLatch q rawHs rawLs true 0 0 = d at *
  obtain ⟨hnt', hpart'⟩ := d.quarterTripped_frame hq4
  have hsafe : (d.quarterTripped q).isSafe q = true := Dev.safeEnter_isSafe _ hq4 3
  have hrecord := d.quarterTripped_record hq4
  have hlegs (l : Nat) (hl : l ∈ quarterLegs q) := d.quarterTripped_leg hq4 hl
  have hother (l : Nat) (hl : l / 16 ≠ q) := d.quarterTripped_other hq4 hl
  generalize d.quarterTripped q = e at *
  have hraised (u : State) (hu : (e.raise (0x143 + 0x10 * q) s.dev.nt).flt.raises ⊆ u.dev.flt.raises) :
      Raised u (0x143 + 0x10 * q) s.dev.nt :=
    raised_of_raise (hpart'.trans hpart ▸ quarterFault_source (k := 3) (by decide) (of_decide_eq_true hq)) hu
  rw [hnt', hnt]
  refine ⟨?_, fun l hl => ?_, fun l hl => ?_, hraised _ (List.Subset.refl _), ⟨s.dev.tripIncident q rawHs rawLs true 0 0, ?_, ?_⟩, fun l hl => ?_⟩
  · rw [Dev.isSafe, Dev.bit_congr (Dev.raise_rd _ _ _ _ _)]
    exact hsafe
  · rw [Dev.raise_leg]
    exact (hlegs l hl).1
  · rw [Dev.bit_congr (Dev.raise_rd _ _ _ _ _)]
    exact (hlegs l hl).2
  · obtain ⟨f, hf⟩ := e.raise_frame (0x143 + 0x10 * q) s.dev.nt false
    rw [hf]
    exact (congrArg QuarterRt.incident hrecord).trans hincident
  · exact Bool.or_true _
  · rw [Dev.raise_leg, hother l hl, hleg]

/-- Settles O13: a trip latches the legs after identification has failed, and nothing that follows touches them. -/
theorem tripsTurnLegsOff : Obligations.TripsTurnLegsOff :=
  ⟨fun _ _ _ _ _ _ hu hl hp hb ht => vdsTrip_latches hu hl hp hb ht, fun _ _ _ _ hu hq hb => busCurrentTrip_safe hu hq hb⟩

end Sys2Proof

namespace Sys2Proof.Machine

/-! ## A short incident closes (R250, R251) -/

theorem shortClass_lt (hs ls : Nat) (boc : Bool) : (shortClass hs ls boc).1 < 2 ^ 64 := by
  unfold shortClass
  dsimp only
  split_ifs <;> simp

/-- The record of an incident (Table 8-12). -/
def incidentSlots (q : Nat) (i : IncidentRt) : List (Nat × Nat) :=
  let c := shortClass i.hs i.ls i.boc
  [(K.INC_NT_5003 q, i.openNt), (K.INC_CLASS q, c.1), (K.INC_HS q, i.hs), (K.INC_LS q, i.ls),
    (K.INC_FLAGS q, i.boc.toNat + 2 * c.2.toNat + 256 * min i.trips 255)]

/-- The open incident stored; none is open. -/
def Dev.incidentStored (d : Dev) (q : Nat) (i : IncidentRt) : Dev :=
  (d.setQuarter q { d.quarter q with incident := none }).wrs (incidentSlots q i)

/-- The incident counted as well (log 55). -/
def Dev.incidentCounted (d : Dev) (q : Nat) (i : IncidentRt) : Dev := (d.incidentStored q i).count (K.INCIDENTS_5002 q)

/-- What follows a stored incident: identification fails where a leg of its axis stands in it (R252), a report and an event leave. -/
def Dev.incidentTold (d : Dev) (q : Nat) (i : IncidentRt) (p : Bytes) : Dev :=
  let e := (quarterAxes q).foldl (fun d n =>
    if (axisLegs n).any fun l => (maskOr i.hs i.ls).testBit (l % 16) then d.identFail n 8 else d) d
  (e.emit (.report q .incidentClose e.nt)).quarterEvent q 0x0160 0x5002 p

theorem exec_incidentClose {s : State} {q : Nat} {i : IncidentRt} (hu : s.unitsOn = true) (hq : s.dev.hasQuarter q = true)
    (hi : (s.dev.quarter q).incident = some i) (ht : i.openAt + 1000 ≤ s.dev.nowQ + 31) : ∃ p, exec (.incidentClose q) s =
      .next (s.onDev fun d => ((d.incidentCounted q i).raise (0x144 + 0x10 * q) (d.incidentStored q i).nt).incidentTold q i p) := by
  have hx : exec (.incidentClose q) s = execIncidentClose q s := rfl
  rw [hx, execIncidentClose, gated_on hu, onDev, State.onDev]
  dsimp only
  split
  next i' hi' =>
    obtain rfl : i = i' := Option.some.inj (hi.symm.trans hi')
    rw [if_pos ⟨hq, ht⟩]
    simp only [Dev.incidentCounted, Dev.incidentStored, incidentSlots]
    obtain ⟨cls, sub⟩ := shortClass i.hs i.ls i.boc
    exact ⟨_, rfl⟩
  next hnone => simp [hi] at hnone

section
variable (d : Dev) (q : Nat) (i : IncidentRt)

theorem Dev.incidentStored_frame : ∃ o, d.incidentStored q i =
    { d.setQuarter q { d.quarter q with incident := none } with objs := o } := ⟨_, Dev.wrs_objs_only _ _⟩

theorem Dev.incidentCounted_frame : ∃ o, d.incidentCounted q i =
    { d.setQuarter q { d.quarter q with incident := none } with objs := o } := by
  obtain ⟨o, h⟩ := d.incidentStored_frame q i
  rw [Dev.incidentCounted, h]
  exact ⟨_, rfl⟩

/-- Every slot of the record holds its value. -/
theorem Dev.incidentCounted_record {e : Nat × Nat} (he : e ∈ incidentSlots q i) : (d.incidentCounted q i).rd e.1 = e.2 % 2 ^ 64 := by
  have hnodup : ((incidentSlots q i).map Prod.fst).Nodup := by
    simp only [incidentSlots, List.map_cons, List.map_nil, List.nodup_cons, List.mem_cons, List.not_mem_nil, or_false, not_or,
      List.nodup_nil, not_false_eq_true, and_true]
    and_intros <;> lia
  have hkey : ∀ e ∈ incidentSlots q i, K.INCIDENTS_5002 q ≠ e.1 := by
    simp only [incidentSlots, List.forall_mem_cons, List.not_mem_nil, IsEmpty.forall_iff, implies_true, and_true]
    and_intros <;> lia
  rw [Dev.incidentCounted, Dev.incidentStored, Dev.rd_count, if_neg (hkey e he)]
  exact Dev.rd_wrs_mem _ hnodup _ e he

theorem Dev.incidentCounted_count : (d.incidentCounted q i).rd (K.INCIDENTS_5002 q) = (d.rd (K.INCIDENTS_5002 q) + 1) % 2 ^ 32 := by
  have hkey : ∀ e ∈ incidentSlots q i, e.1 ≠ K.INCIDENTS_5002 q := by
    simp only [incidentSlots, List.forall_mem_cons, List.not_mem_nil, IsEmpty.forall_iff, implies_true, and_true]
    and_intros <;> lia
  rw [Dev.incidentCounted, Dev.incidentStored, Dev.rd_count, if_pos rfl, Dev.rd_wrs_ne _ _ _ hkey, Dev.setQuarter_rd]

theorem Dev.incidentTold_stops {q : Nat} (hq : q < 4) (p : Bytes) : Stops q d (d.incidentTold q i p) :=
  (((Stops.refl d).fold fun _ hn e => .ite ((Stops.refl e).identFail (quarterAxes_quarter.1 hn) hq 8) (.refl e)).emit _).quarterEvent
    hq _ _ _

end

/-! ## A safe quarter is released (R240) -/

/-- The flags SAFE and LATCH of a leg clear. -/
def Dev.legReleased (d : Dev) (l : Nat) : Dev := (d.setBit (K.LEG_FLAGS l) 3 false).setBit (K.LEG_FLAGS l) 2 false

/-- The safe state of a quarter is no longer shown. -/
def Dev.safeEnded (d : Dev) (q : Nat) : Dev := (d.setBit (K.Q_FLAGS q) 1 false).setField (K.Q_FLAGS q) 6 4 0

/-- A leg without the flags SAFE and LATCH. -/
def Dev.LegFree (d : Dev) (l : Nat) : Prop := d.bit (K.LEG_FLAGS l) 2 = false ∧ d.bit (K.LEG_FLAGS l) 3 = false

theorem Dev.legReleased_free (d : Dev) (l : Nat) : (d.legReleased l).LegFree l := by
  refine ⟨Dev.bit_setBit_self _ _ _ (by decide), ?_⟩
  rw [Dev.legReleased, Dev.bit_setBit _ _ _ _ (by decide), if_neg (by decide), Dev.bit_setBit_self _ _ _ (by decide)]

theorem Dev.legReleased_rd (d : Dev) {l k : Nat} (h : K.LEG_FLAGS l ≠ k) : (d.legReleased l).rd k = d.rd k :=
  (Dev.rd_setBit_ne _ _ _ h).trans (Dev.rd_setBit_ne _ _ _ h)

/-- Legs released one after the other: those of the list are free, every other slot is as before. -/
theorem Dev.legsReleased (ls : List Nat) : ∀ d : Dev,
    (∀ l, (l ∈ ls ∨ d.LegFree l) → (ls.foldl Dev.legReleased d).LegFree l) ∧
    (∀ k, k ∉ ls.map K.LEG_FLAGS → (ls.foldl Dev.legReleased d).rd k = d.rd k) := by
  induction ls with
  | nil => exact fun d => ⟨fun l h => h.resolve_left (by simp), fun k _ => rfl⟩
  | cons a t ih =>
    intro d
    obtain ⟨hfree, hsame⟩ := ih (d.legReleased a)
    refine ⟨fun l h => hfree l ?_, fun k hk => ?_⟩
    · by_cases hal : a = l
      · subst hal
        exact .inr (d.legReleased_free a)
      · have hrd : (d.legReleased a).rd (K.LEG_FLAGS l) = d.rd (K.LEG_FLAGS l) := d.legReleased_rd (by lia)
        refine h.imp (fun hm => (List.mem_cons.1 hm).resolve_left (Ne.symm hal)) fun hl => ?_
        exact ⟨(Dev.bit_congr hrd 2).trans hl.1, (Dev.bit_congr hrd 3).trans hl.2⟩
    · simp only [List.map_cons, List.mem_cons, not_or] at hk
      exact (hsame k hk.2).trans (d.legReleased_rd (Ne.symm hk.1))

theorem Dev.legsReleased_legs (ls : List Nat) (d : Dev) : (ls.foldl Dev.legReleased d).legs = d.legs :=
  foldl_keeps Dev.legs Dev.legReleased (fun _ _ => rfl) ls d

/-- The release as a whole: the safe state ended, the legs released, an event. -/
def Dev.safeReleased (d : Dev) (q : Nat) (p : Bytes) : Dev :=
  ((quarterLegs q).foldl Dev.legReleased (d.safeEnded q)).quarterEvent q 0x0166 0x5002 p

theorem exec_safeRelease {s : State} {q : Nat} (hq : s.dev.hasQuarter q = true) (hs : s.dev.isSafe q = true)
    (hc : (s.dev.quarter q).causes = 0) (ha : s.dev.allDisabled (quarterAxes q) = true) : ∃ p, exec (.safeRelease q) s =
      .next (s.onDev fun d => d.safeReleased q p) := by
  have hx : exec (.safeRelease q) s = execSafeRelease q s := rfl
  rw [hx, execSafeRelease, onDev, State.onDev, if_pos ⟨hq, hs, hc, ha⟩]
  exact ⟨_, rfl⟩

theorem exec_safeRelease_held {s : State} {q : Nat} (hc : (s.dev.quarter q).causes ≠ 0) : exec (.safeRelease q) s = .next s := by
  have hx : exec (.safeRelease q) s = execSafeRelease q s := rfl
  rw [hx, execSafeRelease, onDev, State.onDev, if_neg fun h => hc h.2.2.1]

theorem Dev.safeEnded_flags (d : Dev) (q : Nat) : (d.safeEnded q).isSafe q = false ∧
    field ((d.safeEnded q).rd (K.Q_FLAGS q)) 6 4 = 0 := by
  refine ⟨?_, ?_⟩
  · rw [Dev.isSafe, Dev.safeEnded, Dev.bit_setField _ _ _ _ _ (by decide), if_neg (by decide), Dev.bit_setBit_self _ _ _ (by decide)]
  · rw [Dev.safeEnded, Dev.rd_setField_self _ _ _ _ (by decide), field_withField _ _ _ _ (by decide), Nat.zero_mod]

theorem Dev.safeEnded_rd (d : Dev) {q k : Nat} (h : K.Q_FLAGS q ≠ k) : (d.safeEnded q).rd k = d.rd k :=
  (Dev.rd_setField_ne _ _ _ _ h).trans (Dev.rd_setBit_ne _ _ _ h)

section
variable (d : Dev) {q : Nat} (p : Bytes)

theorem Dev.safeReleased_legs : (d.safeReleased q p).legs = d.legs := by
  have hended : (d.safeEnded q).legs = d.legs := rfl
  rw [Dev.safeReleased, ← hended, ← Dev.legsReleased_legs (quarterLegs q) (d.safeEnded q)]
  generalize (quarterLegs q).foldl Dev.legReleased (d.safeEnded q) = e
  obtain ⟨o, m, f, hf⟩ := e.quarterEvent_frame q 0x0166 0x5002 p
  rw [hf]

variable (hq : q < 4)
include hq

theorem Dev.safeReleased_rd {k : Nat} (hk : postingSlot k = false) : (d.safeReleased q p).rd k =
    ((quarterLegs q).foldl Dev.legReleased (d.safeEnded q)).rd k := Dev.quarterEvent_rd _ hq _ _ _ hk

theorem Dev.safeReleased_flags : (d.safeReleased q p).rd (K.Q_FLAGS q) = (d.safeEnded q).rd (K.Q_FLAGS q) := by
  rw [Dev.safeReleased_rd _ _ hq (postingSlot_outside (by lia)), (Dev.legsReleased _ _).2]
  simp only [List.mem_map, not_exists, not_and]
  intro l _
  lia

theorem Dev.safeReleased_free {l : Nat} (hl : l ∈ quarterLegs q) : (d.safeReleased q p).LegFree l := by
  have hrd : (d.safeReleased q p).rd (K.LEG_FLAGS l) = ((quarterLegs q).foldl Dev.legReleased (d.safeEnded q)).rd (K.LEG_FLAGS l) :=
    d.safeReleased_rd p hq (postingSlot_outside (by lia))
  rw [Dev.LegFree, Dev.bit_congr hrd, Dev.bit_congr hrd]
  exact (Dev.legsReleased _ _).1 l (.inl hl)

/-- Every other slot is as before. -/
theorem Dev.safeReleased_same {k : Nat} (hk : k ∉ K.Q_FLAGS q :: (quarterLegs q).map K.LEG_FLAGS) (hp : postingSlot k = false) :
    (d.safeReleased q p).rd k = d.rd k := by
  obtain ⟨hkf, hkl⟩ := not_or.1 fun h => hk (List.mem_cons.2 h)
  rw [Dev.safeReleased_rd _ _ hq hp, (Dev.legsReleased _ _).2 k hkl, Dev.safeEnded_rd _ (Ne.symm hkf)]

end

end Sys2Proof.Machine

namespace Sys2Proof

open Sys2Proof.Machine

theorem incidentClose_stored {s : State} {q : Nat} {i : IncidentRt} (hu : s.unitsOn = true) (hq : s.dev.hasQuarter q = true)
    (hi : (s.dev.quarter q).incident = some i) (ht : i.openAt + 1000 ≤ s.dev.nowQ + 31) (hnt : i.openNt < 2 ^ 64) (hhs : i.hs < 2 ^ 16)
    (hls : i.ls < 2 ^ 16) :
    Completes (.incidentClose q) s fun u => (u.dev.quarter q).incident = none ∧ u.dev.rd (K.INC_NT_5003 q) = i.openNt ∧
      u.dev.rd (K.INC_CLASS q) = (shortClass i.hs i.ls i.boc).1 ∧ u.dev.rd (K.INC_HS q) = i.hs ∧ u.dev.rd (K.INC_LS q) = i.ls ∧
      u.dev.rd (K.INCIDENTS_5002 q) = (s.dev.rd (K.INCIDENTS_5002 q) + 1) % 2 ^ 32 ∧ Raised u (0x144 + 0x10 * q) s.dev.nt := by
  have hq4 := Dev.quarter_lt hq
  obtain ⟨p, hx⟩ := exec_incidentClose hu hq hi ht
  refine completes_of_eq hx ?_
  rw [State.onDev]
  obtain ⟨o, hframe⟩ := s.dev.incidentCounted_frame q i
  have hnow : (s.dev.incidentStored q i).nt = s.dev.nt := by
    obtain ⟨o', hstored⟩ := s.dev.incidentStored_frame q i
    rw [hstored]
    rfl
  have hnone : ((s.dev.incidentCounted q i).quarter q).incident = none := by
    rw [hframe]
    exact congrArg QuarterRt.incident (Dev.quarter_setQuarter_self s.dev q _)
  have hpart : (s.dev.incidentCounted q i).part = s.dev.part := by
    rw [hframe]
    rfl
  have hrecord {e : Nat × Nat} (he : e ∈ incidentSlots q i) := s.dev.incidentCounted_record q i he
  have hcount := s.dev.incidentCounted_count q i
  generalize s.dev.incidentCounted q i = d at *
  rw [hnow]
  have hraise := (Dev.Stops.refl (q := q) d).raise (0x144 + 0x10 * q) s.dev.nt false
  have htold := (d.raise (0x144 + 0x10 * q) s.dev.nt).incidentTold_stops i hq4 p
  have hstop := hraise.trans htold
  have hslot {k v : Nat} (h1 : 0x5000 * 256 ≤ k) (h2 : k < 0x5400 * 256) (hm : (k, v) ∈ incidentSlots q i) (hv : v < 2 ^ 64) :
      ((d.raise (0x144 + 0x10 * q) s.dev.nt).incidentTold q i p).rd k = v :=
    ((hstop.slots k h1 h2).trans (hrecord hm)).trans (Nat.mod_eq_of_lt hv)
  refine ⟨?_, ?_, ?_, ?_, ?_, ?_, ?_⟩
  · rw [Dev.quarter, hstop.quarters]
    exact hnone
  · exact hslot (by lia) (by lia) (by simp [incidentSlots]) hnt
  · exact hslot (by lia) (by lia) (by simp [incidentSlots]) (shortClass_lt _ _ _)
  · exact hslot (by lia) (by lia) (by simp [incidentSlots]) (by omega)
  · exact hslot (by lia) (by lia) (by simp [incidentSlots]) (by omega)
  · rw [hstop.slots _ (by lia) (by lia), hcount]
  · exact raised_of_raise (d := d) (hpart ▸ quarterFault_source (k := 4) (by decide) (of_decide_eq_true hq)) htold.raises

theorem safeRelease_ends {s : State} {q : Nat} (hq : s.dev.hasQuarter q = true) (hs : s.dev.isSafe q = true)
    (hc : (s.dev.quarter q).causes = 0) (ha : s.dev.allDisabled (quarterAxes q) = true) :
    Completes (.safeRelease q) s fun u => u.dev.isSafe q = false ∧ field (u.dev.rd (K.Q_FLAGS q)) 6 4 = 0 ∧
      (∀ l ∈ quarterLegs q, u.dev.bit (K.LEG_FLAGS l) 2 = false ∧ u.dev.bit (K.LEG_FLAGS l) 3 = false) ∧ u.dev.legs = s.dev.legs ∧
      SlotsKept s u (K.Q_FLAGS q :: (quarterLegs q).map K.LEG_FLAGS) := by
  have hq4 := Dev.quarter_lt hq
  obtain ⟨p, hx⟩ := exec_safeRelease hq hs hc ha
  obtain ⟨hsafe, hcause⟩ := s.dev.safeEnded_flags q
  have hflags := s.dev.safeReleased_flags p hq4
  exact completes_of_eq hx ⟨(Dev.bit_congr hflags 1).trans hsafe, (congrArg (field · 6 4) hflags).trans hcause,
    fun l hl => s.dev.safeReleased_free p hq4 hl, s.dev.safeReleased_legs p, fun k hk hp => s.dev.safeReleased_same p hq4 hk hp⟩

/-- Settles O14: the record stands before anything follows it, and a release clears flags alone. -/
theorem incidentCloseAndSafeRelease : Obligations.IncidentCloseAndSafeRelease :=
  ⟨fun _ _ _ hu hq hi ht hnt hhs hls => incidentClose_stored hu hq hi ht hnt hhs hls,
    fun _ _ hq hs hc ha => safeRelease_ends hq hs hc ha, fun _ _ _ hc => exec_safeRelease_held hc⟩

end Sys2Proof

namespace Sys2Proof.Machine

/-! ## What follows the start of a coil's period leaves (R86, R236, R406) -/

/-- What the patches, settings, measurements and primes at a period's start keep: the coils, each leg's edges to come and letters held,
the requests for Faulted, every raise on its way. -/
structure Dev.PeriodKeeps (a b : Dev) : Prop where
  part : b.part = a.part
  coils : b.coils = a.coils
  raises : a.flt.raises ⊆ b.flt.raises
  due : ∀ l, (b.leg l).due = (a.leg l).due
  held : ∀ l, (b.leg l).held = (a.leg l).held
  faultReq : ∀ n, (b.axis n).faultReq = (a.axis n).faultReq

namespace Dev.PeriodKeeps

variable {a b : Dev}

theorem refl (a : Dev) : PeriodKeeps a a := ⟨rfl, rfl, List.Subset.refl _, fun _ => rfl, fun _ => rfl, fun _ => rfl⟩

theorem trans {c : Dev} (h : PeriodKeeps a b) (h' : PeriodKeeps b c) : PeriodKeeps a c :=
  ⟨h'.part.trans h.part, h'.coils.trans h.coils, List.Subset.trans h.raises h'.raises, fun l => (h'.due l).trans (h.due l),
    fun l => (h'.held l).trans (h.held l), fun n => (h'.faultReq n).trans (h.faultReq n)⟩

theorem ite {p : Prop} [Decidable p] {x y : Dev} (hx : PeriodKeeps a x) (hy : PeriodKeeps a y) : PeriodKeeps a (if p then x else y) := by
  split_ifs
  · exact hx
  · exact hy

/-- A step that touches no coil, no leg and no axis. -/
theorem of_same {c : Dev} (h : PeriodKeeps a b) (hp : c.part = b.part) (hc : c.coils = b.coils) (hl : c.legs = b.legs)
    (hx : c.axes = b.axes) (hf : b.flt.raises ⊆ c.flt.raises) : PeriodKeeps a c :=
  h.trans ⟨hp, hc, hf, fun l => by rw [Dev.leg, hl, Dev.leg], fun l => by rw [Dev.leg, hl, Dev.leg],
    fun n => by rw [Dev.axis, hx, Dev.axis]⟩

theorem wr (h : PeriodKeeps a b) (k v : Nat) : PeriodKeeps a (b.wr k v) := h.of_same rfl rfl rfl rfl (List.Subset.refl _)

theorem setBit (h : PeriodKeeps a b) (k i : Nat) (v : Bool) : PeriodKeeps a (b.setBit k i v) := h.wr k _

theorem wrs (h : PeriodKeeps a b) (l : List (Nat × Nat)) : PeriodKeeps a (b.wrs l) := by
  rw [Dev.wrs_objs_only]
  exact h.of_same rfl rfl rfl rfl (List.Subset.refl _)

theorem setQuarter (h : PeriodKeeps a b) (q : Nat) (r : QuarterRt) : PeriodKeeps a (b.setQuarter q r) :=
  h.of_same rfl rfl rfl rfl (List.Subset.refl _)

theorem setFray (h : PeriodKeeps a b) (f : FrayRt) : PeriodKeeps a { b with fray := f } := h.of_same rfl rfl rfl rfl (List.Subset.refl _)

theorem emit (h : PeriodKeeps a b) (o : Out) : PeriodKeeps a (b.emit o) := h.of_same rfl rfl rfl rfl (List.Subset.refl _)

theorem raise (h : PeriodKeeps a b) (src nt : Nat) (i : Bool) : PeriodKeeps a (b.raise src nt i) := by
  have hr := b.raise_raises src nt i
  obtain ⟨f, hf⟩ := b.raise_frame src nt i
  rw [hf] at hr ⊢
  exact h.of_same rfl rfl rfl rfl hr

theorem event (h : PeriodKeeps a b) (src type obj nt : Nat) (p : Bytes) : PeriodKeeps a (b.event src type obj nt p) := by
  have hr := b.event_raises src type obj nt p
  obtain ⟨o, m, f, he⟩ := b.event_frame src type obj nt p
  rw [he] at hr ⊢
  exact h.of_same rfl rfl rfl rfl hr

/-- A leg changed whose edges to come and held letters stay. -/
theorem setLeg (h : PeriodKeeps a b) (l : Nat) (r : LegRt) (hd : r.due = (b.leg l).due := by rfl)
    (hh : r.held = (b.leg l).held := by rfl) : PeriodKeeps a (b.setLeg l r) := by
  refine h.trans ⟨rfl, rfl, List.Subset.refl _, fun m => ?_, fun m => ?_, fun _ => rfl⟩
  all_goals
    by_cases hlm : l = m
    · subst hlm
      rwa [Dev.leg_setLeg_self]
    · rw [Dev.leg_setLeg_ne b r hlm]

/-- An axis changed whose request for Faulted stays. -/
theorem setAxis (h : PeriodKeeps a b) (n : Nat) (r : AxisRt) (hr : r.faultReq = (b.axis n).faultReq := by rfl) :
    PeriodKeeps a (b.setAxis n r) := by
  refine h.trans ⟨rfl, rfl, List.Subset.refl _, fun _ => rfl, fun _ => rfl, fun m => ?_⟩
  by_cases hnm : n = m
  · subst hnm
    rwa [Dev.axis_setAxis_self]
  · rw [Dev.axis_setAxis_ne b r hnm]

theorem fold {α : Type} (h : PeriodKeeps a b) {f : Dev → α → Dev} (hf : ∀ d x, PeriodKeeps d (f d x)) (l : List α) :
    PeriodKeeps a (l.foldl f b) := h.trans (foldl_frame PeriodKeeps .refl (fun _ _ _ => .trans) f hf l b)

theorem patchRecord (h : PeriodKeeps a b) (nt kind cause inst x y : Nat) :
    PeriodKeeps a (b.patchRecord nt kind cause inst x y).2 := by
  unfold Dev.patchRecord
  dsimp only
  split_ifs
  · exact h.setFray _
  · dsimp only
    exact (h.setBit _ _ _).raise _ _ _

theorem requestEnd (h : PeriodKeeps a b) (cause result : Nat) : PeriodKeeps a (b.requestEnd cause result) := by
  obtain ⟨o, ho⟩ := b.requestEnd_frame cause result
  rw [ho]
  exact h.of_same rfl rfl rfl rfl (List.Subset.refl _)

/-- A patch abandoned (R406). -/
theorem patchAbandon (h : PeriodKeeps a b) (cause : Nat) : PeriodKeeps a (b.patchAbandon cause) := by
  unfold Dev.patchAbandon
  split
  · exact h
  next p _ =>
    refine .ite h ?_
    dsimp only
    have hfreed := (h.setFray { b.fray with slice := none }).setBit (K.SLICE_MAP p.axis) 6 false
    have hcount (v : Nat) := PeriodKeeps.ite (p := cause = 1) (hfreed.wr (K.MISMATCH p.spare) v) hfreed
    exact ((((PeriodKeeps.ite (((hcount _).wr _ _).patchRecord _ _ _ _ _ _) ((hcount _).wr _ _)).wr _ _).wrs _).raise _ _ _
      |>.event _ _ _ _ _).requestEnd _ _

/-- A patch's period counted, or the patch abandoned. -/
theorem patchPeriod (h : PeriodKeeps a b) (c : Nat) : PeriodKeeps a (b.patchPeriod c) := by
  unfold Dev.patchPeriod
  split
  · exact h
  next p _ =>
    refine .ite h ?_
    have hshown (f : FrayRt) (v : Nat) := (h.setFray f).wr K.MATCHED v
    exact .ite ((hshown _ _).patchAbandon _) (hshown _ _)

theorem tailorReset (h : PeriodKeeps a b) (l : Nat) : PeriodKeeps a (b.tailorReset l) := (h.setLeg l _).wrs _

theorem fixedCodes (h : PeriodKeeps a b) (l : Nat) : PeriodKeeps a (b.fixedCodes l) := .ite (h.wr _ _) h

/-- A setting taken (R86). -/
theorem applySetting (h : PeriodKeeps a b) (q key value : Nat) : PeriodKeeps a (b.applySetting q key value) := by
  have hset := h.setQuarter q { b.quarter q with settings := Tab.put (b.quarter q).settings key value }
  exact .ite hset (.ite (hset.tailorReset _) (.ite (hset.fixedCodes _) hset))

theorem settingsAt (h : PeriodKeeps a b) (c : Nat) : PeriodKeeps a (b.settingsAt c) :=
  (h.setQuarter _ _).fold (f := fun d (e : Nat × Nat) => d.applySetting (c / 8) e.1 e.2) (fun d e => (refl d).applySetting _ e.1 e.2) _

theorem latchQuarter (h : PeriodKeeps a b) (q : Nat) : PeriodKeeps a (b.latchQuarter q) := h.setQuarter q _

theorem latchEff (h : PeriodKeeps a b) (n : Nat) : PeriodKeeps a (b.latchEff n) := h.setAxis n _

/-- The measurements of the legs leave (R236). -/
theorem sendMeasures (h : PeriodKeeps a b) (c : Nat) : PeriodKeeps a (b.sendMeasures c) :=
  h.fold (fun d _ => (((refl d).emit _).fold (fun e _ => (refl e).emit _) _).setLeg _ _) _

/-- A prime judged at the start of a period (R169). -/
theorem primeUpdate (h : PeriodKeeps a b) (n : Nat) : PeriodKeeps a (b.primeUpdate n) :=
  .ite (h.setBit _ _ _) (.ite h ((h.setBit _ _ _).fold (fun d _ => (refl d).setLeg _ _) _))

end Dev.PeriodKeeps

/-! ## The end of the period before (R60) -/

/-- What the end of a held run leaves as it was: what the next period of coil c is judged by. -/
structure Dev.RunEnds (c : Nat) (a b : Dev) : Prop where
  part : b.part = a.part
  legs : b.legs = a.legs
  quarters : b.quarters = a.quarters
  rd : ∀ k, b.rd k = a.rd k
  stops : ∀ n, (b.mot n).stops = (a.mot n).stops
  begun : (b.coil c).begun = (a.coil c).begun
  next : (b.coil c).next = (a.coil c).next
  nextAt : (b.coil c).nextAt = (a.coil c).nextAt
  complete : (b.coil c).complete = (a.coil c).complete
  goFrom : (b.coil c).goFrom = (a.coil c).goFrom

/-- The running period of coil c is the second held one in a row. -/
def Dev.secondHeld (d : Dev) (c : Nat) : Prop := (d.coil c).heldNow = true ∧ 2 ≤ (d.coil c).lateRun

theorem Dev.requestFault_stops (d : Dev) (n : Nat) (b : Bool) (m : Nat) : ((d.requestFault n b).mot m).stops = (d.mot m).stops := by
  unfold Dev.requestFault
  split_ifs
  · rfl
  · by_cases hnm : n = m
    · subst hnm
      simp [Dev.mot]
    · rw [Dev.mot, Dev.axis_setAxis_ne _ _ hnm, Dev.mot]

section
variable {d : Dev} {c : Nat}

theorem Dev.heldRunEnd_idle (h : ¬ d.secondHeld c) : d.heldRunEnd c = d := if_neg h

theorem Dev.heldRunEnd_second (h : d.secondHeld c) : d.heldRunEnd c =
    ((d.setCoil c { d.coil c with lateRun := 0, heldNow := false }).raise (0x181 + 0x10 * (c / 2)) d.nt).requestFault (c / 2) false :=
  if_pos h

theorem Dev.heldRunEnd_ends : RunEnds c d (d.heldRunEnd c) := by
  by_cases h : d.secondHeld c
  · rw [Dev.heldRunEnd_second h]
    generalize hx : d.setCoil c { d.coil c with lateRun := 0, heldNow := false } = x
    have hset : RunEnds c d x := by
      subst hx
      constructor <;> simp [Dev.mot, Dev.axis]
    have hrd := fun k => (Dev.requestFault_rd (x.raise (0x181 + 0x10 * (c / 2)) d.nt) (c / 2) false k).trans (Dev.raise_rd x _ _ _ k)
    have hstops := Dev.requestFault_stops (x.raise (0x181 + 0x10 * (c / 2)) d.nt) (c / 2) false
    obtain ⟨t, ht⟩ := (x.raise (0x181 + 0x10 * (c / 2)) d.nt).requestFault_frame (c / 2) false
    obtain ⟨f, hf⟩ := x.raise_frame (0x181 + 0x10 * (c / 2)) d.nt false
    rw [ht] at hrd hstops ⊢
    rw [hf] at hrd hstops ⊢
    exact ⟨hset.part, hset.legs, hset.quarters, fun k => (hrd k).trans (hset.rd k), fun n => (hstops n).trans (hset.stops n),
      hset.begun, hset.next, hset.nextAt, hset.complete, hset.goFrom⟩
  · rw [Dev.heldRunEnd_idle h]
    exact ⟨rfl, rfl, rfl, fun _ => rfl, fun _ => rfl, rfl, rfl, rfl, rfl, rfl⟩

end

namespace Dev.RunEnds

variable {c : Nat} {a b : Dev} (h : RunEnds c a b)
include h

theorem leg (l : Nat) : b.leg l = a.leg l := by rw [Dev.leg, h.legs, Dev.leg]

theorem setHeld (l tag : Nat) : b.setHeld l tag = a.setHeld l tag := by rw [Dev.setHeld, h.leg, Dev.setHeld]

theorem legShut (l : Nat) : b.legShut l = a.legShut l := by
  rw [Dev.legShut, Dev.legShut, Dev.isSafe, Dev.isSafe, Dev.bit_congr (h.rd _), Dev.bit_congr (h.rd _), Dev.quarter, Dev.quarter,
    h.quarters]

theorem commits : b.commits c = a.commits c := by
  have hstate : b.axState (c / 2) = a.axState (c / 2) := h.rd _
  simp only [Dev.commits, Dev.regulates, Dev.axLive, hstate, h.stops, h.begun, h.legShut]

end Dev.RunEnds

/-! ## The start of the period (R58, R171, R181) -/

/-- The period of coil c that starts is a computed one: both legs hold its set. -/
def Dev.periodComputed (d : Dev) (c : Nat) : Bool :=
  let tag := (d.coil c).next % 16
  (d.coil c).complete.getD ((coilLegs c).all fun l => d.setHeld l tag) && (coilLegs c).all fun l => d.setHeld l tag && !d.legShut l

/-- It runs under a go set. -/
def Dev.periodInGo (d : Dev) (c : Nat) : Bool :=
  match (d.coil c).goFrom with
  | some g => !d.periodComputed c && decide (32 * (d.coil c).nextAt < g + 64 * d.rd (K.PERIOD (c / 8)))
  | none => false

/-- It is held. -/
def Dev.periodHeld (d : Dev) (c : Nat) : Bool := d.commits c && !d.periodComputed c && !d.periodInGo c

/-- A leg of the coil starts it, at a point e of the step that begins at d. -/
def Dev.periodLeg (d : Dev) (c : Nat) (e : Dev) (l : Nat) : Dev :=
  let at_ := 32 * (d.coil c).nextAt
  if d.periodInGo c then
    e.setLeg l { e.leg l with pattern := goEdges (e.leg l).goRun ((d.coil c).goFrom.getD 0) at_ (32 * d.rd (K.PERIOD (c / 8))) }
  else e.legPeriod l at_ ((d.coil c).next % 16) (d.periodComputed c) (d.periodHeld c)

/-- Both legs of the coil. -/
def Dev.periodLegs (d : Dev) (c : Nat) : Dev := (coilLegs c).foldl (d.periodLeg c) d

/-- The coil's record in the period that starts. -/
structure Dev.PeriodBegun (d : Dev) (c : Nat) (r : CoilRt) : Prop where
  next : r.next = (d.coil c).next + 1
  nextAt : r.nextAt = (d.coil c).nextAt + d.rd (K.PERIOD (c / 8))
  begun : r.begun = true
  start : r.start = (d.coil c).nextAt
  complete : r.complete = none
  heldNow : r.heldNow = d.periodHeld c
  lateRun : r.lateRun = if d.periodHeld c then (d.coil c).lateRun + 1 else 0

/-- The core-voltage loop hears of a held period that is new to it. -/
def Dev.lateShown (d : Dev) (late : Prop) [Decidable late] : Dev := if late then { d with vcore := { d.vcore with held := true } } else d

/-- The service of the slice before a takeover ends with the second coil's period. -/
def Dev.sliceLeft (d : Dev) (c : Nat) : Dev := if c % 2 = 0 then d else d.setAxis (c / 2) { d.axis (c / 2) with oldSlice := none }

/-- What follows once the coil's record stands: patches, settings, the values in effect, the measurements. -/
def Dev.periodShown (d : Dev) (c : Nat) : Dev :=
  let d := (((d.patchPeriod c).settingsAt c).latchQuarter (c / 8)).sliceLeft c
  (if c % 2 = 0 then d.latchEff (c / 2) else d).sendMeasures c

namespace Dev.PeriodKeeps

variable {a b : Dev}

theorem lateShown (h : PeriodKeeps a b) (late : Prop) [Decidable late] : PeriodKeeps a (b.lateShown late) :=
  .ite (h.of_same rfl rfl rfl rfl (List.Subset.refl _)) h

theorem sliceLeft (h : PeriodKeeps a b) (c : Nat) : PeriodKeeps a (b.sliceLeft c) := .ite h (h.setAxis _ _)

theorem periodShown (h : PeriodKeeps a b) (c : Nat) : PeriodKeeps a (b.periodShown c) := by
  have hlanded := (((h.patchPeriod c).settingsAt c).latchQuarter (c / 8)).sliceLeft c
  exact (PeriodKeeps.ite (hlanded.latchEff _) hlanded).sendMeasures c

end Dev.PeriodKeeps

theorem Dev.beginPeriod_eq (d : Dev) (c : Nat) : ∃ (r : CoilRt) (late : Prop) (_ : Decidable late), d.PeriodBegun c r ∧
    d.beginPeriod c = (((d.periodLegs c).setCoil c r).lateShown late).periodShown c :=
  ⟨_, _, _, ⟨rfl, rfl, rfl, rfl, rfl, rfl, rfl⟩, rfl⟩

/-! ## The legs at the start (R58) -/

theorem Dev.legPeriod_frame (d : Dev) (l at_ tag : Nat) (computed held : Bool) :
    ∃ r, d.legPeriod l at_ tag computed held = d.setLeg l r := by
  unfold Dev.legPeriod
  cases computed <;> cases held <;> exact ⟨_, rfl⟩

theorem Dev.legPeriod_other (d : Dev) {l m : Nat} (h : l ≠ m) (at_ tag : Nat) (computed held : Bool) :
    (d.legPeriod l at_ tag computed held).leg m = d.leg m := by
  obtain ⟨r, hr⟩ := d.legPeriod_frame l at_ tag computed held
  rw [hr, Dev.leg_setLeg_ne _ _ h]

/-- A computed period of a leg. -/
theorem Dev.legPeriod_computed (d : Dev) (l at_ tag : Nat) (held : Bool) : (d.legPeriod l at_ tag true held).leg l =
    { d.leg l with due := dueFrom at_ ((d.leg l).held.filter fun e => e.ptag = tag),
                   pattern := (d.leg l).held.filter fun e => e.ptag = tag, held := (d.leg l).held.filter fun e => e.ptag ≠ tag } :=
  d.leg_setLeg_self l _

/-- A held one. -/
theorem Dev.legPeriod_held (d : Dev) (l at_ tag : Nat) : (d.legPeriod l at_ tag false true).leg l =
    { d.leg l with due := dueFrom at_ (d.leg l).pattern, held := (d.leg l).held.filter fun e => e.ptag ≠ tag } :=
  d.leg_setLeg_self l _

section
variable (d : Dev) (c : Nat)

theorem Dev.periodLeg_frame (e : Dev) (l : Nat) : ∃ t, d.periodLeg c e l = { e with legs := t } := by
  unfold Dev.periodLeg
  dsimp only
  split_ifs
  · exact ⟨_, rfl⟩
  · obtain ⟨r, hr⟩ := e.legPeriod_frame l (32 * (d.coil c).nextAt) ((d.coil c).next % 16) (d.periodComputed c) (d.periodHeld c)
    exact ⟨_, hr⟩

theorem Dev.periodLegs_frame : ∃ t, d.periodLegs c = { d with legs := t } := by
  obtain ⟨t, ht⟩ := d.periodLeg_frame c d (2 * c)
  obtain ⟨t', ht'⟩ := d.periodLeg_frame c (d.periodLeg c d (2 * c)) (2 * c + 1)
  exact ⟨t', ht'.trans (by rw [ht])⟩

variable {d c}

/-- Outside a go span each leg of the coil starts its period by itself. -/
theorem Dev.periodLegs_leg (hgo : d.periodInGo c = false) {l : Nat} (hl : l ∈ coilLegs c) : (d.periodLegs c).leg l =
    (d.legPeriod l (32 * (d.coil c).nextAt) ((d.coil c).next % 16) (d.periodComputed c) (d.periodHeld c)).leg l := by
  simp only [Dev.periodLegs, Dev.periodLeg, hgo, Bool.false_eq_true, if_false, coilLegs, List.foldl_cons, List.foldl_nil]
  generalize 32 * (d.coil c).nextAt = at_, (d.coil c).next % 16 = tag, d.periodComputed c = computed, d.periodHeld c = held
  have hl : l = 2 * c ∨ l = 2 * c + 1 := by simpa [coilLegs] using hl
  have hne : 2 * c + 1 ≠ 2 * c := by omega
  rcases hl with rfl | rfl
  · rw [Dev.legPeriod_other _ hne]
  · generalize hx : d.legPeriod (2 * c) at_ tag computed held = x
    have hleg : x.leg (2 * c + 1) = d.leg (2 * c + 1) := hx ▸ d.legPeriod_other hne.symm at_ tag computed held
    cases computed <;> cases held <;> simp [Dev.legPeriod, hleg]

/-- With a complete set at both legs the period is computed. -/
theorem Dev.periodComputed_of_complete (hc : (d.coil c).complete ≠ some false)
    (h : ∀ l ∈ coilLegs c, d.setHeld l ((d.coil c).next % 16) = true ∧ d.legShut l = false) : d.periodComputed c = true := by
  have hall : ((coilLegs c).all fun l => d.setHeld l ((d.coil c).next % 16)) = true := List.all_eq_true.2 fun l hl => (h l hl).1
  have hopen : ((coilLegs c).all fun l => d.setHeld l ((d.coil c).next % 16) && !d.legShut l) = true :=
    List.all_eq_true.2 fun l hl => by simp [h l hl]
  rw [Dev.periodComputed, hall, hopen, Bool.and_true]
  match hv : (d.coil c).complete with
  | none => rfl
  | some true => rfl
  | some false => exact absurd hv hc

theorem Dev.periodInGo_of_computed (h : d.periodComputed c = true) : d.periodInGo c = false := by
  unfold Dev.periodInGo
  split
  · simp [h]
  · rfl

theorem Dev.periodHeld_of_computed (h : d.periodComputed c = true) : d.periodHeld c = false := by simp [Dev.periodHeld, h]

/-- Without one it is not. -/
theorem Dev.periodComputed_of_incomplete
    (h : (d.coil c).complete = some false ∨ ∃ l ∈ coilLegs c, d.setHeld l ((d.coil c).next % 16) = false) : d.periodComputed c = false := by
  rw [Dev.periodComputed]
  rcases h with h | ⟨l, hl, hset⟩
  · rw [h]
    rfl
  · have hnot : ((coilLegs c).all fun l => d.setHeld l ((d.coil c).next % 16) && !d.legShut l) = false :=
      List.all_eq_false.2 ⟨l, hl, by simp [hset]⟩
    rw [hnot, Bool.and_false]

theorem Dev.periodInGo_of_none (h : (d.coil c).goFrom = none) : d.periodInGo c = false := by rw [Dev.periodInGo, h]

theorem Dev.periodHeld_of_incomplete (hc : d.commits c = true) (h : d.periodComputed c = false) (hgo : (d.coil c).goFrom = none) :
    d.periodHeld c = true := by
  rw [Dev.periodHeld, hc, h, Dev.periodInGo_of_none hgo]
  rfl

end

/-! ## A period's start as a whole -/

/-- The end of the period before, the start of the next one, the primes (PERIOD_START). -/
def Dev.periodStarted (d : Dev) (c : Nat) : Dev := ((d.heldRunEnd c).beginPeriod c).primeUpdate (c / 2)

theorem exec_periodStart {s : State} {c : Nat} (hu : s.unitsOn = true) (hc : s.dev.hasCoil c = true)
    (hr : (s.dev.coil c).running = true) (ht : (s.dev.coil c).nextAt ≤ s.dev.ticks) :
    exec (.periodStart c) s = .next (s.onDev fun d => d.periodStarted c) := by
  have hx : exec (.periodStart c) s = execPeriodStart c s := rfl
  rw [hx, execPeriodStart, gated_on hu, onDev, State.onDev, if_pos ⟨hc, hr, ht⟩]
  rfl

section
variable (d : Dev) (c : Nat)

theorem Dev.periodStarted_keeps : ∃ r, (d.heldRunEnd c).PeriodBegun c r ∧
    PeriodKeeps (((d.heldRunEnd c).periodLegs c).setCoil c r) (d.periodStarted c) := by
  obtain ⟨r, late, _, hr, heq⟩ := (d.heldRunEnd c).beginPeriod_eq c
  refine ⟨r, hr, ?_⟩
  rw [Dev.periodStarted, heq]
  exact (((PeriodKeeps.refl _).lateShown late).periodShown c).primeUpdate _

/-- The coil's record afterwards. -/
theorem Dev.periodStarted_begun : (d.heldRunEnd c).PeriodBegun c ((d.periodStarted c).coil c) := by
  obtain ⟨r, hr, hk⟩ := d.periodStarted_keeps c
  have hcoil : (d.periodStarted c).coil c = r := by rw [Dev.coil, hk.coils, ← Dev.coil, Dev.coil_setCoil_self]
  rwa [hcoil]

theorem Dev.periodStarted_due (l : Nat) : ((d.periodStarted c).leg l).due = (((d.heldRunEnd c).periodLegs c).leg l).due := by
  obtain ⟨r, -, hk⟩ := d.periodStarted_keeps c
  exact hk.due l

theorem Dev.periodStarted_held (l : Nat) : ((d.periodStarted c).leg l).held = (((d.heldRunEnd c).periodLegs c).leg l).held := by
  obtain ⟨r, -, hk⟩ := d.periodStarted_keeps c
  exact hk.held l

/-- Raises and requests for Faulted from the end of the period before stand. -/
theorem Dev.periodStarted_raises : (d.heldRunEnd c).flt.raises ⊆ (d.periodStarted c).flt.raises := by
  obtain ⟨r, -, hk⟩ := d.periodStarted_keeps c
  obtain ⟨t, ht⟩ := (d.heldRunEnd c).periodLegs_frame c
  rw [ht] at hk
  exact hk.raises

theorem Dev.periodStarted_faultReq (n : Nat) : ((d.periodStarted c).axis n).faultReq = ((d.heldRunEnd c).axis n).faultReq := by
  obtain ⟨r, -, hk⟩ := d.periodStarted_keeps c
  obtain ⟨t, ht⟩ := (d.heldRunEnd c).periodLegs_frame c
  rw [ht] at hk
  exact hk.faultReq n

variable {d c}

/-- A period with a complete set runs it. -/
theorem Dev.periodStarted_computed (hc : (d.coil c).complete ≠ some false)
    (h : ∀ l ∈ coilLegs c, d.setHeld l ((d.coil c).next % 16) = true ∧ d.legShut l = false) :
    ((d.periodStarted c).coil c).heldNow = false ∧ ((d.periodStarted c).coil c).lateRun = 0 ∧ ∀ l ∈ coilLegs c,
      ((d.periodStarted c).leg l).due =
        dueFrom (32 * (d.coil c).nextAt) ((d.leg l).held.filter fun e => e.ptag = (d.coil c).next % 16) ∧
      ((d.periodStarted c).leg l).held = (d.leg l).held.filter fun e => e.ptag ≠ (d.coil c).next % 16 := by
  have hend := Dev.heldRunEnd_ends (d := d) (c := c)
  have hbegun := d.periodStarted_begun c
  have hcomputed : (d.heldRunEnd c).periodComputed c = true :=
    Dev.periodComputed_of_complete (by rwa [hend.complete]) fun l hl => by rw [hend.setHeld, hend.legShut, hend.next]; exact h l hl
  have hheld := Dev.periodHeld_of_computed hcomputed
  refine ⟨hbegun.heldNow.trans hheld, by rw [hbegun.lateRun, hheld]; rfl, fun l hl => ?_⟩
  rw [Dev.periodStarted_due, Dev.periodStarted_held, Dev.periodLegs_leg (Dev.periodInGo_of_computed hcomputed) hl, hcomputed,
    Dev.legPeriod_computed, hend.leg, hend.next, hend.nextAt]
  exact ⟨rfl, rfl⟩

/-- A period without one is held. -/
theorem Dev.periodStarted_late (hc : d.commits c = true)
    (h : (d.coil c).complete = some false ∨ ∃ l ∈ coilLegs c, d.setHeld l ((d.coil c).next % 16) = false)
    (hgo : (d.coil c).goFrom = none) :
    ((d.periodStarted c).coil c).heldNow = true ∧
      (¬ d.secondHeld c → ((d.periodStarted c).coil c).lateRun = (d.coil c).lateRun + 1) ∧
      ∀ l ∈ coilLegs c, ((d.periodStarted c).leg l).due = dueFrom (32 * (d.coil c).nextAt) (d.leg l).pattern := by
  have hend := Dev.heldRunEnd_ends (d := d) (c := c)
  have hbegun := d.periodStarted_begun c
  have hgo : ((d.heldRunEnd c).coil c).goFrom = none := hend.goFrom.trans hgo
  have hcomputed : (d.heldRunEnd c).periodComputed c = false :=
    Dev.periodComputed_of_incomplete (by simpa only [hend.complete, hend.next, hend.setHeld] using h)
  have hheld : (d.heldRunEnd c).periodHeld c = true := Dev.periodHeld_of_incomplete (hend.commits.trans hc) hcomputed hgo
  refine ⟨hbegun.heldNow.trans hheld, fun hs => ?_, fun l hl => ?_⟩
  · rw [hbegun.lateRun, hheld, Dev.heldRunEnd_idle hs]
    rfl
  · rw [Dev.periodStarted_due, Dev.periodLegs_leg (Dev.periodInGo_of_none hgo) hl, hcomputed, hheld, Dev.legPeriod_held, hend.leg,
      hend.nextAt]

end

/-! ## The commit check (R254) -/

/-- An incomplete set found by the check: counted, raised, reported. -/
def Dev.setMissed (d : Dev) (c : Nat) : Dev :=
  (((d.setCoil c { d.coil c with complete := some false }).count (K.INCOMPLETE (c / 8))).raise (0x147 + 0x10 * (c / 8)) d.nt).emit
    (.report (c / 8) (.incompleteSet c) d.nt)

section
variable {s : State} {c : Nat} (hu : s.unitsOn = true) (hc : s.dev.hasCoil c = true) (hm : s.dev.commits c = true)
  (hv : (s.dev.coil c).complete = none) (ht : 32 * (s.dev.coil c).nextAt ≤ s.dev.nowQ + 31 + 80)
include hu hc hm hv ht

theorem exec_commitCheck_complete (h : ∀ l ∈ coilLegs c, s.dev.setHeld l ((s.dev.coil c).next % 16) = true) :
    exec (.commitCheck c) s = .next (s.onDev fun d => d.setCoil c { d.coil c with complete := some true }) := by
  have hx : exec (.commitCheck c) s = execCommitCheck c s := rfl
  have hall : ((coilLegs c).all fun l => s.dev.setHeld l ((s.dev.coil c).next % 16)) = true := List.all_eq_true.2 h
  rw [hx, execCommitCheck, gated_on hu, onDev, State.onDev, if_pos ⟨hc, hm, hv, ht⟩]
  dsimp only
  rw [hall, if_pos (.inl rfl)]
  rfl

theorem exec_commitCheck_missed (h : ∃ l ∈ coilLegs c, s.dev.setHeld l ((s.dev.coil c).next % 16) = false)
    (hg : (s.dev.coil c).goFrom = none) : exec (.commitCheck c) s = .next (s.onDev fun d => d.setMissed c) := by
  have hx : exec (.commitCheck c) s = execCommitCheck c s := rfl
  obtain ⟨l, hl, hset⟩ := h
  have hnot : ((coilLegs c).all fun l => s.dev.setHeld l ((s.dev.coil c).next % 16)) = false :=
    List.all_eq_false.2 ⟨l, hl, by simp [hset]⟩
  rw [hx, execCommitCheck, gated_on hu, onDev, State.onDev, if_pos ⟨hc, hm, hv, ht⟩]
  dsimp only
  rw [hnot, if_neg (by simp [hg])]
  rfl

end

section
variable (d : Dev) (c : Nat)

theorem Dev.setMissed_frame : ∃ o f u, d.setMissed c =
    { d.setCoil c { d.coil c with complete := some false } with objs := o, flt := f, out := u } := by
  unfold Dev.setMissed
  obtain ⟨f, hf⟩ := ((d.setCoil c { d.coil c with complete := some false }).count (K.INCOMPLETE (c / 8))).raise_frame
    (0x147 + 0x10 * (c / 8)) d.nt false
  rw [hf]
  exact ⟨_, _, _, rfl⟩

theorem Dev.setMissed_rd (k : Nat) : (d.setMissed c).rd k = (d.count (K.INCOMPLETE (c / 8))).rd k :=
  Dev.raise_rd ((d.setCoil c { d.coil c with complete := some false }).count (K.INCOMPLETE (c / 8))) _ _ _ k

end

end Sys2Proof.Machine

namespace Sys2Proof

open Sys2Proof.Machine

/-- A missed set is counted and raised, the legs go on. -/
theorem completes_setMissed {s : State} {c : Nat} (hc : s.dev.hasCoil c = true)
    (hx : exec (.commitCheck c) s = .next (s.onDev fun d => d.setMissed c)) :
    Completes (.commitCheck c) s fun u => (u.dev.coil c).complete = some false ∧
      u.dev.rd (K.INCOMPLETE (c / 8)) = (s.dev.rd (K.INCOMPLETE (c / 8)) + 1) % 2 ^ 32 ∧
      Raised u (0x147 + 0x10 * (c / 8)) s.dev.nt ∧ u.dev.legs = s.dev.legs ∧ SlotsKept s u [K.INCOMPLETE (c / 8)] := by
  have hq : c / 8 < s.dev.part.quarters := by
    have hlt : c < 8 * s.dev.part.quarters := of_decide_eq_true hc
    omega
  obtain ⟨o, f, w, hf⟩ := s.dev.setMissed_frame c
  refine completes_of_eq hx ⟨?_, ?_, raised_of_raise
    (d := (s.dev.setCoil c { s.dev.coil c with complete := some false }).count (K.INCOMPLETE (c / 8)))
    (quarterFault_source (k := 7) (by decide) hq) (List.Subset.refl _), ?_, slotsKept_of_same fun k hk => ?_⟩
  · show ((s.dev.setMissed c).coil c).complete = _
    rw [hf]
    exact congrArg CoilRt.complete (s.dev.coil_setCoil_self c _)
  · show (s.dev.setMissed c).rd _ = _
    rw [Dev.setMissed_rd, Dev.rd_count, if_pos rfl]
  · show (s.dev.setMissed c).legs = _
    rw [hf]
    rfl
  · show (s.dev.setMissed c).rd k = _
    rw [Dev.setMissed_rd, Dev.rd_count, if_neg (by simpa [eq_comm] using hk)]

/-- The second held period in a row ends in the axis fault and the request for Faulted (R60). -/
theorem periodStarted_fault {s : State} {c : Nat} (hc : s.dev.hasCoil c = true) (hs : s.dev.secondHeld c)
    (h0 : s.dev.axState (c / 2) ≠ axDisabled) (h5 : s.dev.axState (c / 2) ≠ axFaulted) :
    Raised (s.onDev fun d => d.periodStarted c) (0x181 + 0x10 * (c / 2)) s.dev.nt ∧
      ((s.dev.periodStarted c).axis (c / 2)).faultReq.isSome = true := by
  have hn : c / 2 < 4 * s.dev.part.quarters := by
    have hlt : c < 8 * s.dev.part.quarters := of_decide_eq_true hc
    omega
  have hraises := s.dev.periodStarted_raises c
  have hreq := s.dev.periodStarted_faultReq c (c / 2)
  rw [Dev.heldRunEnd_second hs] at hraises hreq
  rw [Dev.requestFault_flt] at hraises
  generalize hx : s.dev.setCoil c { s.dev.coil c with lateRun := 0, heldNow := false } = x at hraises hreq
  have hpart : x.part = s.dev.part := by rw [← hx]; rfl
  have hstate : (x.raise (0x181 + 0x10 * (c / 2)) s.dev.nt).axState (c / 2) = s.dev.axState (c / 2) := by
    rw [Dev.axState, Dev.raise_rd, ← hx]
    rfl
  refine ⟨raised_of_raise (d := x) (axisFault_source (k := 1) (by decide) (hpart ▸ hn)) hraises, ?_⟩
  rw [hreq]
  exact Dev.requestFault_stands _ _ _ (hstate ▸ h0) (hstate ▸ h5)

/-- Settles O21: the check's two outcomes, then a period's start after the end of the one before it. -/
theorem commitChecksAndPeriodStarts : Obligations.CommitChecksAndPeriodStarts := by
  unfold Obligations.CommitChecksAndPeriodStarts
  refine ⟨fun s c hu hc hm hv ht => ⟨fun h => ?_, fun h hg => ?_⟩, fun s c hu hc hr ht => ?_⟩
  · exact completes_of_eq (exec_commitCheck_complete hu hc hm hv ht h) rfl
  · exact completes_setMissed hc (exec_commitCheck_missed hu hc hm hv ht h hg)
  · have hend := Dev.heldRunEnd_ends (d := s.dev) (c := c)
    have hbegun := s.dev.periodStarted_begun c
    refine completes_of_eq (exec_periodStart hu hc hr ht)
      ⟨?_, ?_, hbegun.begun, hbegun.start.trans hend.nextAt, hbegun.complete, Dev.periodStarted_computed, Dev.periodStarted_late,
        periodStarted_fault hc⟩
    · exact hbegun.next.trans (by rw [hend.next])
    · exact hbegun.nextAt.trans (by rw [hend.nextAt, hend.rd])

end Sys2Proof
